-- ==== Sys2Proof/Word.lean ====
section
/-! DEFINITION. The word types of the RKL-8512 and the sparse map that holds keyed state.
Bit 0 is the least significant bit of every word (R3, R4). -/
namespace Sys2Proof

/-- One byte of any memory. -/
abbrev Byte := BitVec 8
/-- A 64-bit word: a general register, a register-map word, an address while it is computed. -/
abbrev Word := BitVec 64
/-- The bits of an FP32 value (R106). -/
abbrev F32 := BitVec 32
/-- A finite map from Nat to values: pairs in strictly rising key order. -/
abbrev Map (α : Type) := List (Nat × α)

namespace Map

/-- The value that the map lists for key `k`. -/
def get? {α : Type} (m : Map α) (k : Nat) : Option α := (m.find? fun e => e.1 == k).map (·.2)

/-- The value at key `k`, or `d` where the map lists none. -/
def getD {α : Type} (m : Map α) (k : Nat) (d : α) : α := (m.get? k).getD d

/-- `m` with the value at key `k` set to `v`: it stands between the smaller and the greater keys. -/
def put {α : Type} (m : Map α) (k : Nat) (v : α) : Map α :=
  m.filter (fun e => decide (e.1 < k)) ++ (k, v) :: m.filter fun e => decide (k < e.1)

/-- `m` without key `k`. -/
def del {α : Type} (m : Map α) (k : Nat) : Map α := m.filter fun e => e.1 != k

/-- The keys rise strictly. -/
def rising {α : Type} (m : Map α) : Bool := decide (m.Pairwise fun a b => a.1 < b.1)

end Map

/-- Sparse byte memory: a `Map` of the bytes that differ from zero, which is what an unlisted address reads as. -/
abbrev Mem := Map Byte

end Sys2Proof
end

