-- ==== Sys2Proof/Syntax.lean ====
section
/-! DEFINITION. The commands of the block: one constructor per row of spec/opcode_table.json, with the operands that the
outside world or the device's own choice supplies at that step. The table gives no bits, so operands are plain data. -/
namespace Sys2Proof

/-- A thread: fragment number, gang member, thread index (R297, R298, R300). -/
structure Tid where
  frag : Nat
  mem : Nat
  idx : Nat
  deriving DecidableEq, Repr

/-- The masters of register writes, by precedence (R574). A queen write carries the node ID of its sender. -/
inductive Master where
  | bmc
  | queen (node : Nat)
  | pf
  | vf (t : Nat)
  deriving DecidableEq, Repr

/-- One register write: the BAR (0, 2 or 4) of the writer's function, offset, size in bytes and data (R445). -/
structure RegWrite where
  master : Master
  bar : Nat
  offset : Nat
  size : Nat
  value : BitVec 64
  deriving DecidableEq, Repr

/-- One register read: the reader, BAR, offset and size in bytes (R445). -/
structure RegRead where
  master : Master
  bar : Nat
  offset : Nat
  size : Nat
  deriving DecidableEq, Repr

/-- The register writes of one cycle (R575), the reads that meet them, and the W1C bits, by offset and number, that the device sets
again in that cycle (R662). -/
structure WriteCycle where
  writes : List RegWrite
  reads : List RegRead := []
  again : List (Nat × Nat) := []
  deriving DecidableEq, Repr

/-- The items of PCI Express configuration space that R667 lists. -/
inductive CfgItem where
  | vendorId | deviceId | revisionId | classCode | subsystemVendorId | subsystemId
  deriving DecidableEq, Repr

/-- A placement unit, by the rows of R197. -/
inductive UnitId where
  | fineList (handle list : Nat)
  /-- one well segment of a fine list, which moves between stacks alone (R148) -/
  | listSegment (handle list seg : Nat)
  | centroids (handle tensor : Nat)
  /-- one piece of an ID map, of at most 16 MiB -/
  | idMap (handle piece : Nat)
  | dense (handle tensor : Nat)
  | expert (handle layer expert : Nat)
  | kvBlock (handle layer block : Nat)
  | summaries (handle tensor : Nat)
  | grammarMasks (handle : Nat)
  | alloc (tenant base : Nat)
  deriving DecidableEq, Repr

/-- The tiers that can be a home (R194), with the stack of a stack-memory home. -/
inductive Home where
  | stack (n : Nat)
  | hub
  | flash
  deriving DecidableEq, Repr

/-- Why the copy of a move fails: its destination cannot be written, or its source returns an uncorrectable fault, of an allocation in
this line (R207). -/
inductive MoveFault where
  | destination
  | source (line : Nat)
  deriving DecidableEq, Repr

/-- The end of the copy of move `move`, and how it failed, if it did (R202, R207). -/
structure CopyEnd where
  move : Nat
  fault : Option MoveFault
  deriving DecidableEq, Repr

/-- Where a request of the management or attestation interfaces arrives (R585). -/
inductive ReqSource where
  | mctp
  | doe (fn : Nat)
  deriving DecidableEq, Repr

/-- Outcome of a patrol read of a flash page (R431, R433). -/
inductive PatrolResult where
  | clean | corrected | aboveThreshold
  | uncorrectable (page : Nat)
  deriving DecidableEq, Repr

/-- Engines of the lockstep numbering (R630). -/
inductive Engine where
  | cluster | sch | hq | hbmc | flc | fab | gate | mc
  deriving DecidableEq, Repr

/-- A received Ethernet frame, as far as R492 and R498 distinguish frames. -/
inductive FrameKind where
  | neighbourSolicit (target : Nat)
  | gptp
  | scarab
  | other
  deriving DecidableEq, Repr

/-- A Scarab packet (R497); `crcOk` is the outcome of its CRC-32C, UDP checksum and frame check (R498). -/
structure Packet where
  type : Nat
  cls : Nat
  src : Nat
  dst : Nat
  psn : Nat
  msg : Nat
  moff : Nat
  last : Bool
  crcOk : Bool
  ceMark : Bool
  payload : List Byte
  deriving DecidableEq, Repr

/-- One entry of a pod table (R504). -/
structure NodeEntry where
  node : Nat
  addrs : List (BitVec 128)
  deriving DecidableEq, Repr

/-- One entry of the shard map: a bucket of a pod collection and the node that holds it (R510). -/
structure ShardEntry where
  coll : Nat
  bucket : Nat
  node : Nat
  deriving DecidableEq, Repr

/-- A partial result (R96): header fields and (global ID, distance bits) entries in pair order. -/
structure PartialResult where
  qid : Nat
  src : Nat
  epoch : Nat
  scanned : Nat
  listsProbed : Nat
  status : Nat
  piece : Nat
  rrFallback : Bool
  widened : Bool
  filtered : Bool
  entries : List (Nat × F32)
  deriving DecidableEq, Repr

/-- The query that a search scans for (R40, R41, R512): `e` is the number of entries that the result buffer holds (R97). -/
structure QueryBody where
  qid : Nat
  src : Nat
  epoch : Nat
  tenant : Nat
  coll : Nat
  cls : Nat
  k : Nat
  e : Nat
  nlist : Nat
  ncoarse : Nat
  lists : List Nat
  elems : List F32
  terms : List Nat
  anyTerm : Bool
  widen : Bool
  rrMode : Nat
  rrN : Nat
  model : Nat
  text : List Byte
  deriving DecidableEq, Repr

/-- A QUERY with the code block in which the fragment that serves it and its reissue met a tag mismatch, if one did (R138, R512). -/
structure ServedQuery where
  body : QueryBody
  skew : Option Nat := none
  deriving DecidableEq, Repr

/-- One change that an UPDATE part carries: an inserted entry or a deleted local ID (R513). -/
inductive UpdateItem where
  | insert (list localId attr : Nat) (codes : List Nat) (record : List Byte)
  | delete (localId : Nat)
  deriving DecidableEq, Repr

/-- What the parameter page of the dies reports (R404, R405): bytes of a native-mode block, blocks of a die, bits of a cell
and rated program/erase cycles. -/
structure FlashGeom where
  blockBytes : Nat
  blocksPerDie : Nat
  cellBits : Nat
  rated : Nat
  deriving DecidableEq, Repr

/-- Fuses (R580, R584, R592, R594, R598). -/
structure Fuses where
  lcs : Nat
  epoch : Nat
  svnf : Nat
  svnv : Nat
  revoked : BitVec 4
  keyHash : List (List Byte)
  ownerHash : List Byte
  secret : List Byte
  serial : Nat
  deriving DecidableEq, Repr

/-- An image the device runs or stores: slot, SVN, digest and body (R579). -/
structure ImageId where
  slot : Nat
  svn : Nat
  digest : List Byte
  body : List Byte
  deriving DecidableEq, Repr

/-- What start-up finds on the part: the values that the manual marks "—" or leaves to the part (R397, R405, R598, R614, R650,
R669). Each START_UP uses what its step finds. `fuses`, `varelm`, `geom`, `factoryBad` and `logicalMap` are read at the first start-up
only; later ones find what the state keeps. -/
structure StartInfo where
  fuses : Fuses
  varelm : ImageId
  /-- check of R580 that fails for the primary and secondary boot copy; 6 means accepted, 0 that it could not be read -/
  primary : Nat
  secondary : Nat
  fw : ImageId
  /-- word that the read-back of the wipe finds nonzero -/
  wipeBad : Option Nat
  /-- blocks with a factory mark -/
  factoryBad : List Nat
  /-- per channel: bit 4·CE + LUN of dies found, of dies that fit R404 and R405, and the trained rate -/
  channels : List (Nat × Nat × Nat)
  geom : FlashGeom
  /-- physical clusters that fail the self-test of step 6 -/
  badClusters : List Nat
  /-- the logical map chosen at first start-up: physical number of each logical cluster -/
  logicalMap : List Nat
  nonce : List Byte
  deriving DecidableEq, Repr

/-- The waits that R547 times. -/
inductive Class0Wait where
  | fragment (f : Nat)
  | packet (list index : Nat)
  deriving DecidableEq, Repr

/-- The fault that loses a fragment's run (R309): a failed arithmetic check or an uncorrectable cistern word on the cluster
of one gang member (R606, R389), or a fault elsewhere, such as a link that failed its retries (R609). Beside them, a sequence-tag
mismatch that a scan unit or a well met in a block of `handle` (R136, R137). The causes that name a command `c` lose the run of a
fragment of its Varelm program, on physical cluster `phys`; of those fragments the machine keeps no descriptor. -/
inductive LostRun where
  | residue (mem unit : Nat)
  | cistern (mem off : Nat)
  | other
  | skew (handle block : Nat)
  | programSkew (c handle block : Nat)
  | programResidue (c phys unit : Nat)
  | programCistern (c phys off : Nat)
  | programOther (c : Nat)
  deriving DecidableEq, Repr

/-- What a well reports in an interval (R184, R185): a residue that does not match, or an access outside the bounds of its command area,
by the well of the input or by the well of a COPY's output. -/
inductive WellReport where
  | residue (dest : Bool)
  | bounds (dest : Bool)
  deriving DecidableEq, Repr

/-- One constructor per row of the table. `c` is the number of a command that HQ has fetched, `f` of a fragment. -/
inductive Instr where
  -- host queues
  | hqSqdb (fn q : Nat) (value : BitVec 32)
  | hqCqdb (fn q : Nat) (value : BitVec 32)
  | hqSqcfgEn (fn q : Nat) (value : Word)
  | hqCqcfgEn (fn q : Nat) (value : Word)
  | submissionFetch (fn q : Nat)
  | admission (c : Nat)
  -- host commands
  | launch (c : Nat)
  | copyIn (c : Nat)
  | copyOut (c : Nat)
  | loadImage (c : Nat)
  | queryProgress (c : Nat)
  | abort (c : Nat)
  | partCreate (c : Nat)
  | partGrow (c : Nat)
  | partDrop (c : Nat)
  | park (c : Nat)
  | resume (c : Nat)
  | vfDetach (c : Nat)
  | vfDetachGrace (vf : Nat)
  | vfAttach (c : Nat)
  -- Varelm programs
  | vrCreate (c : Nat)
  | vrDrop (c : Nat)
  | vrSearch (c : Nat)
  | vrInsert (c : Nat)
  | vrDelete (c : Nat)
  | vrCompact (c : Nat)
  | vrRerank (c : Nat)
  | vrSort (c : Nat)
  | vrPlace (c : Nat)
  | vrResidency (c : Nat)
  | vrEmbed (c : Nat)
  | vrGenerate (c : Nat)
  | vrMemCreate (c : Nat)
  | vrMemDrop (c : Nat)
  | vrModelInfo (c : Nat)
  | vrAlloc (c : Nat)
  | vrFree (c : Nat)
  | allocationReturn (tenant base : Nat)
  | vrPartHealth (c : Nat)
  | vrPodCreate (c : Nat)
  | vrFabConfig (c : Nat)
  -- completion and host events
  | commandComplete (c : Nat)
  | completionEntry (c : Nat)
  | interruptTimer (fn q : Nat)
  | hostAccessFault (c : Nat)
  | functionLevelReset (fn : Nat)
  | configRequest (fn : Nat) (item : CfgItem)
  -- fragments
  | fragmentDispatch (f : Nat) (clusters : List Nat)
  | clusterWake (l : Nat)
  | fragmentCommit (f : Nat)
  | fragmentReissue (f : Nat) (cause : LostRun)
  -- scalar instructions
  | add (t : Tid) | sub (t : Tid) | mul (t : Tid) | mulh (t : Tid) | mulhu (t : Tid)
  | div (t : Tid) | divu (t : Tid) | rem (t : Tid) | remu (t : Tid)
  | and (t : Tid) | or (t : Tid) | xor (t : Tid) | shl (t : Tid) | shr (t : Tid) | sra (t : Tid)
  | slt (t : Tid) | sltu (t : Tid) | min (t : Tid) | max (t : Tid) | minu (t : Tid) | maxu (t : Tid)
  | clz (t : Tid) | popc (t : Tid) | sel (t : Tid) | li (t : Tid) | lhi (t : Tid) | srd (t : Tid) | swr (t : Tid)
  | beq (t : Tid) | bne (t : Tid) | blt (t : Tid) | bge (t : Tid) | bltu (t : Tid) | bgeu (t : Tid)
  | jal (t : Tid) | jalr (t : Tid) | trap (t : Tid)
  -- memory
  | ld (t : Tid) | st (t : Tid) | vld (t : Tid) | vst (t : Tid) | amoAdd (t : Tid) | amoSwap (t : Tid)
  | cflush (t : Tid) | cinv (t : Tid) | fenceAcq (t : Tid) | fenceRel (t : Tid)
  -- vector and mask
  | vadd (t : Tid) | vsub (t : Tid) | vmul (t : Tid) | vfma (t : Tid) | vmin (t : Tid) | vmax (t : Tid)
  | vand (t : Tid) | vor (t : Tid) | vxor (t : Tid) | vshl (t : Tid) | vshr (t : Tid) | vsra (t : Tid)
  | vcmp (t : Tid) | vsel (t : Tid) | vcvt (t : Tid) | vbcast (t : Tid) | vext (t : Tid) | vins (t : Tid)
  | vperm (t : Tid) | vred (t : Tid) | vexp (t : Tid) | vrcp (t : Tid) | vrsqrt (t : Tid)
  | mand (t : Tid) | mor (t : Tid) | mxor (t : Tid) | mnot (t : Tid) | mpop (t : Tid) | mfirst (t : Tid)
  | mset (t : Tid) | mget (t : Tid)
  -- tensor, scan, comb, pumps, queues
  | tmma (t : Tid)
  | tmmaExecution (l : Nat)
  | tld (t : Tid) | tst (t : Tid) | tzero (t : Tid) | tmov (t : Tid) | lscan (t : Tid)
  | combOpen (t : Tid) | combTopkN (t : Tid) | combTopkW (t : Tid)
  | combBlockMerge (l ctx : Nat)
  | combClose (t : Tid) | combMerge (t : Tid)
  | pumpSet (t : Tid) | pumpGo (t : Tid)
  | pumpFetch (f m n : Nat)
  | qPop (t : Tid) | qPush (t : Tid)
  -- fragment building, wells, quantisation
  | fragPost (t : Tid) | fragLogSt (t : Tid) | fragLogAdd (t : Tid) | fragStatus (t : Tid) | fragProg (t : Tid)
  | fragEnd (t : Tid)
  | wcall (t : Tid) | seal (t : Tid) | unseal (t : Tid)
  | quant (t : Tid) | dequant (t : Tid) | statAmax (t : Tid) | statClip (t : Tid)
  -- stacks
  | wellInterval (op units : Nat) (fault : Option WellReport)
  | refresh (stack channel bank : Nat)
  | patrolScrub (u : Option UnitId) (line bad : Nat) (raced : Bool)
  | channelSpare (stack channel : Nat)
  | channelRetire (stack channel : Nat)
  -- placement
  | backgroundMove (u : UnitId) (dest : Home)
  | demandMove (c : Nat) (u : UnitId) (stack : Nat) (deadline : Option Nat)
  | moveSwitch (e : CopyEnd)
  | moveSourceRelease (m : Nat)
  | deadlineExpiry (m : Nat)
  | heatHalfLife
  | autoCompaction (handle list : Nat)
  | rangeRelease (r : Nat)
  | reClustering (handle : Nat)
  | relocationNotice (n : Nat)
  | noticeQueueMove (handle list : Nat) (dest : Home)
  -- flash
  | fold (tenant pid dest : Nat)
  | garbageCollection (tenant pid dest : Nat)
  | wearLevelling (block dest : Nat)
  | flashPatrol (block : Nat) (r : PatrolResult)
  | blockClose (block : Nat) (failed : Option Nat)
  | programFailure (block dest : Nat) (sourceOk parityOk : Bool)
  | blockErase (block : Nat) (failed : Bool)
  | openBlockRecovery
  | poolFail (n : Nat)
  -- registers
  | registerWrite (c : WriteCycle)
  | plcCtrlHubtier (w : RegWrite)
  | tenCtrlErase (w : RegWrite) (salt : List Byte)
  | evtPtrRd (w : RegWrite)
  | gateCtrlGo (w : RegWrite) (networkTime : Nat)
  | lcsRollFw (w : RegWrite)
  | lcsRollVarelm (w : RegWrite)
  | sysRstCold (w : RegWrite)
  | sysRstWarm (w : RegWrite)
  | pwrCtrlDormant (w : RegWrite)
  | pwrCtrlWake (w : RegWrite)
  | mctpRegisterRead (offset size : Nat)
  | mctpRegisterWrite (offset size : Nat) (value : Word)
  | attestationReport (src : ReqSource) (nonce : List Byte)
  | certificateChain (src : ReqSource)
  | lifeCycleChange (src : ReqSource) (target : Nat) (token : Option (List Byte))
  | recoveryImage (piece : List Byte)
  -- resets, power, faults
  | powerOn
  | resetInput
  | pcieReset
  | powerLoss
  | startUp (info : StartInfo)
  | secureCisternWipe (cause : Nat)
  | wipeComplete (bad : Option Nat)
  | tamper (bit : Nat)
  | lockstepMismatch (e : Engine) (inst : Nat) (mcState : Bool)
  | clusterSelfTest (phys : Nat) (pass : Bool)
  | flitCrcError (link : Nat)
  | linkRetrain (link lanes : Nat) (carried : List Nat)
  | clockFault (clock domain : Nat)
  | supplyFault (rail mv domain : Nat)
  | watchdog (e : Engine) (inst : Nat)
  | temperatureSample (temps : List Int)
  | throttleAdjust
  | powerWindow (watts : Nat)
  | clusterPowerGate (l : Nat)
  | idleEntry
  | idleExit
  | timeWindow
  | class0Window (cycles : Nat) (fits : Bool)
  | class0WaitBound (w : Class0Wait)
  | queueSample
  | observationPeriodEnd
  -- gates and fabric
  | gateEntryExpiry (l : Nat)
  | gateCycleStart (l : Nat)
  | packetTransmit (l : Nat)
  | frameReceive (port : Nat) (kind : FrameKind) (p : Packet)
  | syncMessage (valid : Bool) (offset : Int)
  | syncTimeout
  | data (msg src : Nat)
  | sack (peer cls : Nat) (held : List Nat) (ce : Bool)
  | sackTimer (peer cls : Nat)
  | retransmitTimeout (peer cls psn : Nat)
  | windowRecovery (peer : Nat)
  | query (q : ServedQuery)
  | partialMsg (p : PartialResult)
  | update (uid src epoch tenant coll : Nat) (items : List UpdateItem)
  | map (src epoch : Nat) (nodes : List NodeEntry) (shards : List ShardEntry) (deputy : Nat)
  | heartbeat (src : Nat)
  | heartbeatSend
  | heartbeatTimeout
  | join (src : Nat)
  | joinRepeat
  | workerTimeout (node : Nat)
  | nodeLost (node : Nat) (assign : List ShardEntry)
  | bucketRebuilt (coll bucket node : Nat)
  | reshard (coll bucket node : Nat)
  | bucketRelease (coll bucket : Nat)
  | dormantEntryComplete
  | bucketCopyComplete (coll bucket : Nat)
  | mapAcknowledgement (node epoch : Nat)
  | updateReport (uid node status : Nat)
  | staleEpochReturn (qid node nodeEpoch : Nat)
  | idBlockAcknowledgement (coll block : Nat)
  | portLinkChange (port half : Nat) (up : Bool)
  | testModeEntry (entered : Bool)
  | ideKmKeySet (stream : Nat) (key : List Byte)
  | atsInvalidation (fn base len : Nat) (present : Bool)
  | dieTemperatureReading (temps : List (Nat × Int))
  deriving DecidableEq, Repr

end Sys2Proof
end

