-- ==== Sys2Proof/WellFormed.lean ====
section
/-! DEFINITION. Which commands are well formed: operands within the numbers of things that the manual gives the part. A command that
is not well formed names something that the part does not have; `exec` is total on it all the same. -/
namespace Sys2Proof

/-- Functions: the PF and 255 VFs (R443). -/
def fnOk (fn : Nat) : Bool := decide (fn < 256)
/-- Queues of a function (R446). -/
def queueOk (q : Nat) : Bool := decide (q < 64)
/-- Port halves (R557) and logical clusters (R15). -/
def halfOk (l : Nat) : Bool := decide (l < 16)
def clusterOk (l : Nat) : Bool := decide (l < 512)
/-- Memory stacks, channels of a stack, banks of a channel (R141 to R144, R617). -/
def stackOk (n : Nat) : Bool := decide (n < 12)
def channelOk (n : Nat) : Bool := decide (n < 32)
/-- Service classes (R496, R530). -/
def classOk (c : Nat) : Bool := decide (c < 4)

/-- A thread of a gang of at most 16 members with at most 64 threads (R297, R298). -/
def Tid.ok (t : Tid) : Bool := decide (t.mem < 16 ∧ t.idx < 64)

/-- A home of R194. -/
def Home.ok : Home → Bool
  | .stack n => stackOk n
  | _ => true

def Master.ok : Master → Bool
  | .vf t => decide (1 ≤ t ∧ t < 256)
  | .queen n => decide (n < 2 ^ 20)
  | _ => true

/-- An access of R445 to a BAR of R444. -/
def RegWrite.ok (w : RegWrite) : Bool :=
  w.master.ok && [0, 2, 4].contains w.bar && (w.size == 4 || w.size == 8) && w.offset % w.size == 0 && decide (w.offset < 2 ^ 26) &&
    (w.size == 8 || decide (w.value.toNat < 2 ^ 32))

def RegRead.ok (r : RegRead) : Bool :=
  r.master.ok && [0, 2, 4].contains r.bar && (r.size == 4 || r.size == 8) && r.offset % r.size == 0 && decide (r.offset < 2 ^ 26)

/-- A sender of an attestation request (R585). -/
def ReqSource.ok : ReqSource → Bool
  | .mctp => true
  | .doe fn => fnOk fn

/-- A Scarab packet: 20-bit node IDs, four classes, 32-bit sequence numbers, at most 4,096 bytes of payload (R497). -/
def Packet.ok (p : Packet) : Bool :=
  classOk p.cls && decide (p.src < 2 ^ 20 ∧ p.dst < 2 ^ 20 ∧ p.psn < 2 ^ 32 ∧ p.payload.length ≤ 4096)

/-- Operands within the part. -/
def Instr.wellFormed : Instr → Bool
  | .hqSqdb fn q _ => fnOk fn && queueOk q
  | .hqCqdb fn q _ => fnOk fn && queueOk q
  | .hqSqcfgEn fn q _ => fnOk fn && queueOk q
  | .hqCqcfgEn fn q _ => fnOk fn && queueOk q
  | .submissionFetch fn q => fnOk fn && queueOk q
  | .admission _ => true
  | .launch _ => true
  | .copyIn _ => true
  | .copyOut _ => true
  | .loadImage _ => true
  | .queryProgress _ => true
  | .abort _ => true
  | .partCreate _ => true
  | .partGrow _ => true
  | .partDrop _ => true
  | .park _ => true
  | .resume _ => true
  | .vfDetach _ => true
  | .vfDetachGrace vf => decide (1 ≤ vf) && fnOk vf
  | .vfAttach _ => true
  | .vrCreate _ => true
  | .vrDrop _ => true
  | .vrSearch _ => true
  | .vrInsert _ => true
  | .vrDelete _ => true
  | .vrCompact _ => true
  | .vrRerank _ => true
  | .vrSort _ => true
  | .vrPlace _ => true
  | .vrResidency _ => true
  | .vrEmbed _ => true
  | .vrGenerate _ => true
  | .vrMemCreate _ => true
  | .vrMemDrop _ => true
  | .vrModelInfo _ => true
  | .vrAlloc _ => true
  | .vrFree _ => true
  | .allocationReturn t _ => fnOk t
  | .vrPartHealth _ => true
  | .vrPodCreate _ => true
  | .vrFabConfig _ => true
  | .commandComplete _ => true
  | .completionEntry _ => true
  | .interruptTimer fn q => fnOk fn && queueOk q
  | .hostAccessFault _ => true
  | .functionLevelReset fn => fnOk fn
  | .configRequest fn _ => fnOk fn
  | .fragmentDispatch _ ls => ls.all clusterOk && decide (ls.length ≤ 16)
  | .clusterWake l => clusterOk l
  | .fragmentCommit _ => true
  | .fragmentReissue _ _ => true
  | .add t => t.ok
  | .sub t => t.ok
  | .mul t => t.ok
  | .mulh t => t.ok
  | .mulhu t => t.ok
  | .div t => t.ok
  | .divu t => t.ok
  | .rem t => t.ok
  | .remu t => t.ok
  | .and t => t.ok
  | .or t => t.ok
  | .xor t => t.ok
  | .shl t => t.ok
  | .shr t => t.ok
  | .sra t => t.ok
  | .slt t => t.ok
  | .sltu t => t.ok
  | .min t => t.ok
  | .max t => t.ok
  | .minu t => t.ok
  | .maxu t => t.ok
  | .clz t => t.ok
  | .popc t => t.ok
  | .sel t => t.ok
  | .li t => t.ok
  | .lhi t => t.ok
  | .srd t => t.ok
  | .swr t => t.ok
  | .beq t => t.ok
  | .bne t => t.ok
  | .blt t => t.ok
  | .bge t => t.ok
  | .bltu t => t.ok
  | .bgeu t => t.ok
  | .jal t => t.ok
  | .jalr t => t.ok
  | .trap t => t.ok
  | .ld t => t.ok
  | .st t => t.ok
  | .vld t => t.ok
  | .vst t => t.ok
  | .amoAdd t => t.ok
  | .amoSwap t => t.ok
  | .cflush t => t.ok
  | .cinv t => t.ok
  | .fenceAcq t => t.ok
  | .fenceRel t => t.ok
  | .vadd t => t.ok
  | .vsub t => t.ok
  | .vmul t => t.ok
  | .vfma t => t.ok
  | .vmin t => t.ok
  | .vmax t => t.ok
  | .vand t => t.ok
  | .vor t => t.ok
  | .vxor t => t.ok
  | .vshl t => t.ok
  | .vshr t => t.ok
  | .vsra t => t.ok
  | .vcmp t => t.ok
  | .vsel t => t.ok
  | .vcvt t => t.ok
  | .vbcast t => t.ok
  | .vext t => t.ok
  | .vins t => t.ok
  | .vperm t => t.ok
  | .vred t => t.ok
  | .vexp t => t.ok
  | .vrcp t => t.ok
  | .vrsqrt t => t.ok
  | .mand t => t.ok
  | .mor t => t.ok
  | .mxor t => t.ok
  | .mnot t => t.ok
  | .mpop t => t.ok
  | .mfirst t => t.ok
  | .mset t => t.ok
  | .mget t => t.ok
  | .tmma t => t.ok
  | .tmmaExecution l => clusterOk l
  | .tld t => t.ok
  | .tst t => t.ok
  | .tzero t => t.ok
  | .tmov t => t.ok
  | .lscan t => t.ok
  | .combOpen t => t.ok
  | .combTopkN t => t.ok
  | .combTopkW t => t.ok
  | .combBlockMerge l ctx => clusterOk l && decide (ctx < 4)
  | .combClose t => t.ok
  | .combMerge t => t.ok
  | .pumpSet t => t.ok
  | .pumpGo t => t.ok
  | .pumpFetch _ _ _ => true
  | .qPop t => t.ok
  | .qPush t => t.ok
  | .fragPost t => t.ok
  | .fragLogSt t => t.ok
  | .fragLogAdd t => t.ok
  | .fragStatus t => t.ok
  | .fragProg t => t.ok
  | .fragEnd t => t.ok
  | .wcall t => t.ok
  | .seal t => t.ok
  | .unseal t => t.ok
  | .quant t => t.ok
  | .dequant t => t.ok
  | .statAmax t => t.ok
  | .statClip t => t.ok
  | .wellInterval _ _ _ => true
  | .refresh n c b => stackOk n && channelOk c && channelOk b
  | .patrolScrub _ _ _ _ => true
  | .channelSpare n c => stackOk n && channelOk c
  | .channelRetire n c => stackOk n && channelOk c
  | .backgroundMove _ d => d.ok
  | .demandMove _ _ n _ => stackOk n
  | .moveSwitch _ => true
  | .moveSourceRelease _ => true
  | .deadlineExpiry _ => true
  | .heatHalfLife => true
  | .autoCompaction _ _ => true
  | .rangeRelease _ => true
  | .reClustering _ => true
  | .relocationNotice _ => true
  | .noticeQueueMove _ _ d => d.ok
  | .fold _ _ _ => true
  | .garbageCollection _ _ _ => true
  | .wearLevelling _ _ => true
  | .flashPatrol _ _ => true
  | .blockClose _ _ => true
  | .programFailure _ _ _ _ => true
  | .blockErase _ _ => true
  | .openBlockRecovery => true
  | .poolFail n => decide (n < 8)
  | .registerWrite c => c.writes.all RegWrite.ok && c.reads.all RegRead.ok && c.again.all fun b => b.1 % 8 == 0 && decide (b.2 < 64)
  | .plcCtrlHubtier w => w.ok
  | .tenCtrlErase w salt => w.ok && salt.length == 32
  | .evtPtrRd w => w.ok
  | .gateCtrlGo w n => w.ok && decide (n < 2 ^ 64)
  | .lcsRollFw w => w.ok
  | .lcsRollVarelm w => w.ok
  | .sysRstCold w => w.ok
  | .sysRstWarm w => w.ok
  | .pwrCtrlDormant w => w.ok
  | .pwrCtrlWake w => w.ok
  | .mctpRegisterRead _ n => n == 4 || n == 8
  | .mctpRegisterWrite _ n _ => n == 4 || n == 8
  | .attestationReport src nonce => src.ok && nonce.length == 32
  | .certificateChain src => src.ok
  | .lifeCycleChange src t _ => src.ok && decide (t < 4)
  | .recoveryImage b => decide (1 ≤ b.length ∧ b.length ≤ 4096)
  | .powerOn => true
  | .resetInput => true
  | .pcieReset => true
  | .powerLoss => true
  | .startUp _ => true
  | .secureCisternWipe cause => decide (1 ≤ cause ∧ cause ≤ 5)
  | .wipeComplete _ => true
  | .tamper b => decide (b < 4)
  | .lockstepMismatch _ _ _ => true
  | .clusterSelfTest p _ => decide (p < 544)
  | .flitCrcError _ => true
  | .linkRetrain _ _ _ => true
  | .clockFault c d => decide (c < 6 ∧ d < 32)
  | .supplyFault r _ d => decide (r < 10 ∧ d ≤ 8)
  | .watchdog _ _ => true
  | .temperatureSample _ => true
  | .throttleAdjust => true
  | .powerWindow _ => true
  | .clusterPowerGate l => clusterOk l
  | .idleEntry => true
  | .idleExit => true
  | .timeWindow => true
  | .class0Window _ _ => true
  | .class0WaitBound _ => true
  | .queueSample => true
  | .observationPeriodEnd => true
  | .gateEntryExpiry l => halfOk l
  | .gateCycleStart l => halfOk l
  | .packetTransmit l => halfOk l
  | .frameReceive p _ k => decide (p < 8) && k.ok
  | .syncMessage _ _ => true
  | .syncTimeout => true
  | .data _ _ => true
  | .sack _ c _ _ => classOk c
  | .sackTimer _ c => classOk c
  | .retransmitTimeout _ c _ => classOk c
  | .windowRecovery _ => true
  | .query _ => true
  | .partialMsg _ => true
  | .update _ _ _ _ _ _ => true
  | .map _ _ _ _ _ => true
  | .heartbeat _ => true
  | .heartbeatSend => true
  | .heartbeatTimeout => true
  | .join _ => true
  | .joinRepeat => true
  | .workerTimeout _ => true
  | .nodeLost _ _ => true
  | .bucketRebuilt _ _ _ => true
  | .reshard _ _ _ => true
  | .bucketRelease _ _ => true
  | .dormantEntryComplete => true
  | .bucketCopyComplete _ _ => true
  | .mapAcknowledgement _ _ => true
  | .updateReport _ _ _ => true
  | .staleEpochReturn _ _ _ => true
  | .idBlockAcknowledgement _ _ => true
  | .portLinkChange p h _ => decide (p < 8 ∧ h < 2)
  | .testModeEntry _ => true
  | .ideKmKeySet n k => decide (n < 9) && k.length == 32
  | .atsInvalidation fn _ _ _ => fnOk fn
  | .dieTemperatureReading _ => true

end Sys2Proof
end

