-- ==== Sys2Proof/Machine/Bits.lean ====
section
/-! DEFINITION. Bit fields, byte order and sign extension (R3, R4), and bytes of the sparse memories. -/
namespace Sys2Proof.Machine

/-- Bits `hi`:`lo` of a number (R4). -/
def field (x hi lo : Nat) : Nat := (x >>> lo) % 2 ^ (hi + 1 - lo)

/-- Bit `i` of a number. -/
def bit (x i : Nat) : Bool := field x i i == 1

/-- The number with bits `hi`:`lo` replaced by `v`. -/
def setField (x hi lo v : Nat) : Nat :=
  x - field x hi lo * 2 ^ lo + (v % 2 ^ (hi + 1 - lo)) * 2 ^ lo

def b2n (b : Bool) : Nat := if b then 1 else 0

/-- Little-endian number of a byte list (R3). -/
def leNat : List Byte → Nat
  | [] => 0
  | b :: r => b.toNat + 256 * leNat r

/-- The `n` little-endian bytes of a number. -/
def toLe : Nat → Nat → List Byte
  | 0, _ => []
  | n + 1, x => BitVec.ofNat 8 x :: toLe n (x / 256)

/-- `n` bytes at offset `o` of a byte list, read as a number; bytes past the end read as zero. -/
def leAt (bs : List Byte) (o n : Nat) : Nat := leNat ((bs.drop o).take n)

/-- Bits `hi`:`lo` of the 4-byte word at offset `o`. -/
def fieldAt (bs : List Byte) (o hi lo : Nat) : Nat := field (leAt bs o 4) hi lo

/-- Two's complement value of the low `w` bits. -/
def toSigned (w x : Nat) : Int :=
  let y := x % 2 ^ w
  if y < 2 ^ (w - 1) then (y : Int) else (y : Int) - (2 ^ w : Nat)

/-- The `w`-bit two's complement pattern of an integer. -/
def ofSigned (w : Nat) (i : Int) : Nat := (i % ((2 ^ w : Nat) : Int)).toNat

/-- Split a list into chunks of `n`, at most `fuel` of them. -/
def chunks {α : Type} (n : Nat) : Nat → List α → List (List α)
  | 0, _ => []
  | fuel + 1, l => match l with
    | [] => []
    | _ => l.take n :: chunks n fuel (l.drop n)

/-- `⌈a / b⌉`. -/
def ceilDiv (a b : Nat) : Nat := (a + b - 1) / b

def roundUp (a b : Nat) : Nat := ceilDiv a b * b

/-- `l` with the first element that satisfies `p` replaced. -/
def updFirst {α : Type} (p : α → Bool) (f : α → α) : List α → List α
  | [] => []
  | a :: r => if p a then f a :: r else a :: updFirst p f r

/-- The sum of `f` over a list. -/
def sumBy {α : Type} (f : α → Nat) (l : List α) : Nat := l.foldl (fun n a => n + f a) 0

/-- The position of the first element satisfying `p`. -/
def posOf {α : Type} (p : α → Bool) : List α → Nat → Option Nat
  | [], _ => none
  | a :: r, i => if p a then some i else posOf p r (i + 1)

/-- Insertion into a list ordered by `before`, after every element that `a` does not precede (stable). -/
def insSorted {α : Type} (before : α → α → Bool) (a : α) : List α → List α
  | [] => [a]
  | b :: r => if before a b then a :: b :: r else b :: insSorted before a r

/-- Stable sort of a list by `before`. -/
def sortBy {α : Type} (before : α → α → Bool) (l : List α) : List α :=
  l.foldl (fun acc a => insSorted before a acc) []

end Sys2Proof.Machine

namespace Sys2Proof

/-! ## Sparse byte memory -/

/-- The byte at `a`; an unlisted address reads as zero. -/
def Mem.rd (m : Mem) (a : Nat) : Byte := (Map.get? m a).getD 0

/-- `m` with the byte at `a` set; a zero byte is not listed. -/
def Mem.wr (m : Mem) (a : Nat) (b : Byte) : Mem := if b = 0 then Map.del m a else Map.put m a b

/-- `n` bytes from `a` upward. -/
def Mem.rdN (m : Mem) (a : Nat) : Nat → List Byte
  | 0 => []
  | n + 1 => m.rd a :: m.rdN (a + 1) n

/-- Bytes written from `a` upward. -/
def Mem.wrN (m : Mem) (a : Nat) : List Byte → Mem
  | [] => m
  | b :: r => (m.wr a b).wrN (a + 1) r

/-- Bytes written from `a` upward where the mask is true. -/
def Mem.wrMask (m : Mem) (a : Nat) : List (Bool × Byte) → Mem
  | [] => m
  | (on, b) :: r => (if on then m.wr a b else m).wrMask (a + 1) r

/-- The canonical form: keys rise strictly and no entry is zero. -/
def Mem.wf (m : Mem) : Bool := Map.rising m && m.all (fun p => decide (p.2 ≠ 0))

end Sys2Proof
end

