-- ==== Sys2Proof/Config.lean ====
section
/-! DEFINITION. What the manual leaves open: free values (constants with no body, so that nothing can be proved of them
but what holds for every value), the fixed figures of the part, and the status and event codes. -/
namespace Sys2Proof.Config

/-- A free value: element `n` of a sequence about which nothing is known. `State.free` numbers the next one.
Every bit pattern, choice and order the manual leaves open is drawn from here (assumption 1). -/
opaque freeNat : Nat → Nat

/-- The bytes an unpredictable effect (R9, R489) leaves in memory: offsets with byte values. The model confines them
to the issuing tenant's own memory and host buffers. -/
opaque havocWrites : Nat → List (Nat × Byte)

/-- Stack bytes of the sealed allocations that hold a fine list's arrays, for a chain of so many slots: record locations, committed
length, tags and scales. The manual states no allocation size for them; stack memory holds less than 2^40 bytes (assumption 12). -/
opaque arrayBytes : (slots : Nat) → BitVec 40

/-- Bytes of a collection's ID map with so many local IDs assigned; the manual states none (assumption 12). -/
opaque idMapBytes : Nat → BitVec 40

/-- Whether the SLH-DSA signature `sig` over `msg` verifies under `pub` (FIPS 205 is a named standard; R580, R593). -/
opaque slhVerify : (pub msg sig : List Byte) → Bool

/-- The SLH-DSA-SHAKE-256f signature of `msg` under the identity key (R586). -/
opaque slhSign : (secret msg : List Byte) → List Byte

/-- The identity public key derived from the fused unique device secret alone (R584). -/
opaque identityKey : (secret : List Byte) → List Byte

/-- How many certificates Abaund writes into the chain store at manufacture (R590: 2 to 4, here modulo 3 above 2), by the part's
serial number. -/
opaque certificateCount : (serial : Nat) → Nat

/-- The DER bytes of certificate `i` of that chain (R590). -/
opaque certificate : (serial i : Nat) → List Byte

/-- The 32 bytes of a new random number: LCS.NONCE (R593) and a tenant's first salt (R570). -/
opaque randomBytes : Nat → List Byte


/-- One entry of a vocabulary's token table (R265). -/
structure VocabTok where
  noSample : Bool
  isStart : Bool
  isEnd : Bool
  special : Bool
  bytes : List Byte
  deriving DecidableEq, Repr

/-- One tensor of a Melnum image (R114 to R116, R122, R142): 0 int4, 1 int8, 2 E4M3, 3 E5M2 with their scale entries, or 4 BF16 with
none. `cols` is the padded row length, `expert` the layer and expert whose weights it is, none for a dense tensor, and `act4` asks
for int4 activations. -/
structure TensorImage where
  fmt : Nat
  rows : Nat
  cols : Nat
  chan : Bool
  sparse : Bool
  act4 : Bool
  codes : List Byte
  positions : List Byte
  scales : List (BitVec 32)
  expert : Option (Nat × Nat)
  deriving DecidableEq, Repr

/-- What a Melnum image describes (R235, R237, R265, R267). The byte format of an image belongs to `melnumc`. -/
structure ModelImage where
  /-- 0 embedding, 1 rerank, 2 distil (R237) -/
  kind : Nat
  pool : Nat
  layers : Nat
  width : Nat
  qHeads : Nat
  kvHeads : Nat
  headDim : Nat
  experts : Nat
  active : Nat
  inputLen : Nat
  embDim : Nat
  /-- its weight tensors, embedding tables and normalisation parameters -/
  tensors : List TensorImage
  /-- tensors of the query, key and value projections of each layer -/
  projections : List (Nat × Nat × Nat)
  vocab : List VocabTok
  /-- class 0 to 15 of each of the 256 byte values (R267) -/
  byteClass : List Nat
  /-- 16 × 16 boundary matrix, row-major (R267) -/
  boundary : List Bool
  /-- merge table in rank order: left token, right token, merged token (R267) -/
  merges : List (Nat × Nat × Nat)
  /-- of a rerank model: the tokens before the query text, between the texts, and after the candidate text (R241) -/
  pair : List Nat × List Nat × List Nat
  deriving DecidableEq, Repr

/-- One interval entry of a grammar state (R273). -/
structure GramArc where
  lo : Nat
  hi : Nat
  next : Nat
  deriving DecidableEq, Repr

/-- One state of a grammar (R273). -/
structure GramState where
  accept : Bool
  arcs : List GramArc
  deriving DecidableEq, Repr

/-- What a grammar image describes (R273): its state table, and the digest of the vocabulary it was compiled against. -/
structure GramImage where
  states : List GramState
  vocabSize : Nat
  vocab : List VocabTok
  poolBytes : Nat
  deriving DecidableEq, Repr

/-- The model that the bytes of a Melnum image describe, if they are one. -/
opaque parseModel : List Byte → Option ModelImage
/-- The grammar that the bytes of a grammar image describe, if they are one. -/
opaque parseGrammar : List Byte → Option GramImage
/-- The BF16 activations that enter a layer for the token at `pos` (R142). They rest on what the layers before it computed, which `k`
leaves free (assumption 31). -/
opaque activations : (k : Nat) → (img : List Byte) → (tokens : List Nat) → (pos layer : Nat) → List (BitVec 16)
/-- The FP32 product of a row of a floating-point weight tensor with activations: the manual states no format for these activations
(assumption 31). -/
opaque floatProduct : (k : Nat) → (img : List Byte) → (tensor row : Nat) → (x : List (BitVec 16)) → F32
/-- The vector of one head that a projection's FP32 outputs give at a position: role 0 a query, 1 a key, 2 a value. How a model encodes
positions and normalises is its image's. -/
opaque headVector : (k : Nat) → (img : List Byte) → (layer role head pos : Nat) → (product : List F32) → List F32
/-- The FP32 logits of the final layer, from the attention outputs of each layer and query head and, per layer, the experts that run
with their gate weights (R238, R247, R253, R259). `k` numbers the order of its sums, which R105 leaves free. -/
opaque logits : (k : Nat) → (img : List Byte) → (tokens : List Nat) → (pos : Nat) → (attention : List (List (List F32))) →
  (experts : List (List (Nat × F32))) → List F32
/-- The router's FP32 scores of a layer's experts for the token at `pos`, from the activations that enter the layer (R238). -/
opaque expertScores : (k : Nat) → (img : List Byte) → (pos layer : Nat) → (x : List (BitVec 16)) → List F32
/-- The natural logarithm of a count as an FP32 value (R253): its rounding is not stated. -/
opaque logCount : (n : Nat) → F32
/-- The last layer's outputs of an embedding model, one for each token (R240). -/
opaque lastLayer : (k : Nat) → (img : List Byte) → (tokens : List Nat) → List (List F32)
/-- The coarse centroids and codebooks that a clustering of a block index gives (R246). -/
opaque indexCentroids : (k : Nat) → (keys : List (List (BitVec 16))) → List (List (BitVec 16))
opaque indexBooks : (k : Nat) → (keys : List (List (BitVec 16))) → List (List (List (BitVec 16)))
/-- Stack bytes of one block index with its codebooks and so many blocks; the manual states none (assumption 12). -/
opaque indexBytes : (headDim blocks : Nat) → BitVec 40
/-- The FP32 score of a rerank model on the tokens of a pair of texts (R241). `k` numbers the order of its sums (R105). -/
opaque rerankScore : (k : Nat) → (img : List Byte) → (tokens : List Nat) → F32
/-- The FP32 softmax over the admitted tokens after the division by TEMP (R278): its rounding is not stated. -/
opaque softmax : (temp : F32) → (logits : List F32) → List F32
/-- The payload of a Scarab message of a type whose format the manual leaves to the Varelm image (R497), by type, reference and
status. -/
opaque msgPayload : (type ref status : Nat) → List Byte
/-- The block of local IDs that a DATA message asks its deputy to record, as collection handle and block number (R520), if it asks for
one: its format is the Varelm image's (R497). -/
opaque blockRecord : (payload : List Byte) → Option (Nat × Nat)
/-- The bytes as which measurement 3 takes the revocations (R588): the manual gives no form for them. -/
opaque revocationBytes : (revoked : BitVec 4) → List Byte
/-- Lanes beyond the first of a mesh, bridge or neighbour link, by link number (R609): the manual gives no count. -/
opaque moreLanes : (link : Nat) → Nat
/-- Lanes of a link: one or more. -/
def linkLanes (link : Nat) : Nat := moreLanes link + 1
/-- Word `n` of the well micro-program of a Varelm image body (R188): the manual does not give the routines. -/
opaque wellProgram : (body : List Byte) → (n : Nat) → BitVec 32
/-- The 32-byte word address within its domain at which a stack keeps the first byte of a well segment (R186). -/
opaque domainWord : (tenant base : Nat) → BitVec 32
/-- Pages after a page up to the last one that shares its word line (R417): a property of the die, which the manual does not give. -/
opaque wordLine : (page : Nat) → Nat
/-- The spare channel of a stack, modulo 32 (R144): the manual does not number it. -/
opaque spareChannel : (stack : Nat) → Nat

end Sys2Proof.Config

namespace Sys2Proof

/-! ## Status codes (R490) -/
def stOk : Nat := 0x0000
def stShort : Nat := 0x0001
def stFilterShort : Nat := 0x0002
def stTruncated : Nat := 0x0003
def stBadHandle : Nat := 0x0100
def stBadAddress : Nat := 0x0101
def stBadImage : Nat := 0x0102
def stDenied : Nat := 0x0103
def stNotFound : Nat := 0x0104
def stConflict : Nat := 0x0105
def stBusy : Nat := 0x0106
def stStaleEpoch : Nat := 0x0107
def stQuota : Nat := 0x0200
def stIdExhausted : Nat := 0x0201
def stMediaExhausted : Nat := 0x0202
def stMemoryFull : Nat := 0x0203
def stLost : Nat := 0x0204
def stAborted : Nat := 0x0300
def stGrammarDead : Nat := 0x0301
def stProgramFault : Nat := 0x0302
def stUnsealed : Nat := 0x0303
def stScaleSkew : Nat := 0x0400
def stHwFault : Nat := 0x0401
def stWiped : Nat := 0x0402

/-- The status values that R490 lists and a host can see. -/
def statusValues : List Nat :=
  [stOk, stShort, stFilterShort, stTruncated, stBadHandle, stBadAddress, stBadImage, stDenied, stNotFound, stConflict,
   stBusy, stQuota, stIdExhausted, stMediaExhausted, stMemoryFull, stLost, stAborted, stGrammarDead, stProgramFault,
   stUnsealed, stScaleSkew, stHwFault, stWiped]

/-! ## Event codes and severities (R630) -/
def evResidue : Nat := 0x0100
def evLockstep : Nat := 0x0101
def evClusterRetired : Nat := 0x0102
def evWellFault : Nat := 0x0103
def evWatchdog : Nat := 0x0104
def evClock : Nat := 0x0105
def evSupply : Nat := 0x0106
def evHalt : Nat := 0x0107
def evProgramFault : Nat := 0x0108
def evLinkFail : Nat := 0x0109
def evStackUe : Nat := 0x0200
def evChannelSpare : Nat := 0x0201
def evSealPoison : Nat := 0x0202
def evCisUe : Nat := 0x0203
def evPoolFail : Nat := 0x0204
def evHubTierOff : Nat := 0x0205
def evWipeFail : Nat := 0x0206
def evScaleSkew : Nat := 0x0207
def evFlashConfig : Nat := 0x0300
def evFlashMismatch : Nat := 0x0301
def evFlashUe : Nat := 0x0302
def evBlockRetired : Nat := 0x0303
def evPartReadonly : Nat := 0x0304
def evMoveAbandon : Nat := 0x0400
def evUnitLost : Nat := 0x0401
def evDoorbell : Nat := 0x0500
def evQueueFault : Nat := 0x0501
def evVfDrainDrop : Nat := 0x0502
def evRegConflict : Nat := 0x0503
def evTimeLost : Nat := 0x0600
def evFabPeerLost : Nat := 0x0601
def evQueenTakeover : Nat := 0x0602
def evNodeLost : Nat := 0x0603
def evBucketRebuilt : Nat := 0x0604
def evClass0Miss : Nat := 0x0700
def evClass0Over : Nat := 0x0701
def evBootFail : Nat := 0x0800
def evTamper : Nat := 0x0801

/-- SEV of each event code (R630): 0 information, 1 corrected, 2 contained, 3 device halted. -/
def evSev (code : Nat) : Nat :=
  if code ∈ [evHalt, evBootFail, evTamper] then 3
  else if code ∈ [evFlashConfig, evDoorbell, evRegConflict, evClass0Over] then 0
  else if code ∈ [evChannelSpare, evBlockRetired, evMoveAbandon, evVfDrainDrop, evTimeLost, evFabPeerLost,
      evBucketRebuilt] then 1
  else 2

end Sys2Proof
end

