-- ==== Sys2Proof/Machine/State.lean ====
section
/-! DEFINITION. The state of one RKL-8512: every register, memory, queue, table and mode the manual names, as plain data,
with the queue of waiting commands. INVENTORY.md lists each with its rule and reset value. -/
namespace Sys2Proof.Machine

/-- A step stops with a fault only here. -/
inductive Fault where
  /-- A register write reached Abaund's test registers of a cluster window in BLANK or RETURNED, which the manual does not
  define (R673). Raised by REGISTER_WRITE and MCTP_REGISTER_WRITE. Safe: the run stops where the manual says nothing. -/
  | undefinedTestRegister (offset : Nat)
  deriving DecidableEq, Repr

/-- The reasons for which a command has no meaning. -/
inductive Refusal where
  /-- The row has no meaning yet; no arm of this model answers so. Safe. -/
  | notModelled (mnemonic : String)
  deriving DecidableEq, Repr

/-! ## Host side -/

/-- Device-side state of a submission queue beside its registers (R450, R452). -/
structure SqSt where
  tail : Nat
  deriving DecidableEq, Repr

/-- Device-side state of a completion queue beside its registers (R453, R454). -/
structure CqSt where
  head : Nat
  phase : Bool
  /-- entries written since the last message -/
  unsig : Nat
  /-- device time of the first entry not yet signalled -/
  firstUnsig : Option Nat
  deriving DecidableEq, Repr

/-- Life of a command: fetched by HQ, admitted by SCH, ended with its final entry still to be written. -/
inductive CmdPhase where
  | fetched | admitted | ended
  deriving DecidableEq, Repr

/-- Progress of a `vr.generate` past its checks (R259, R260, R271, R284 to R292). -/
structure GenSt where
  /-- the memory appended to; a temporary one with MEM = 0 -/
  mem : Nat
  /-- tokens of IN not yet appended -/
  prompt : List Nat
  /-- prompt tokens appended -/
  fed : Nat
  /-- blocks retrieved for the present token or group of prompt tokens, by layer and KV head -/
  group : List (List Nat)
  /-- experts by descending score for the present token, by layer -/
  rank : List (List Nat)
  /-- gate weights of the selected ones, in that order (R238) -/
  gates : List (List F32)
  /-- units whose demand moves for the present token missed their deadlines -/
  late : List UnitId
  /-- generated tokens that are not appended to the memory (COMMIT = 0), and their keys and values -/
  kept : List Nat
  keptKv : List (List (List (BitVec 16)))
  /-- tokens generated -/
  gen : Nat
  /-- state of the grammar -/
  gram : Nat
  stops : List (List Byte)
  /-- G: the bytes of the generated tokens -/
  text : List Byte
  released : Nat
  out : Nat
  seq : Nat
  deriving DecidableEq, Repr

/-- The vector of an insert whose entries are written and not yet committed (R63): its local ID, the location of its record, and the
fine lists whose committed length has still to pass its entry. -/
structure Committing where
  lid : Nat
  loc : Word
  due : List Nat
  deriving DecidableEq, Repr

/-- How far a command that works in steps has come. -/
inductive Work where
  | idle
  /-- IDOUT slots decided so far, the status of the first failure (R64), and the vector that is being committed (R63) -/
  | insert (ids : List Nat) (status : Nat) (now : Option Committing)
  /-- outcome bytes decided so far (R66) -/
  | delete (outs : List Byte)
  /-- the list to examine next and the counts of the report (R69) -/
  | compact (next examined compacted removed released discarded : Nat)
  | generate (g : GenSt)
  deriving DecidableEq, Repr

/-- One command in flight (R455, R464, R471, R392). -/
structure Cmd where
  id : Nat
  fn : Nat
  sq : Nat
  cmdid : Nat
  /-- completion queue of its entries, fixed when it was fetched; none once that queue has been disabled (R451, R487) -/
  cq : Option Nat
  /-- the 128-byte submission entry -/
  entry : List Byte
  /-- the argument block copied at admission -/
  args : List Byte
  phase : CmdPhase
  cls : Nat
  /-- pool and record slot, from admission to completion -/
  slot : Option (Nat × Nat)
  /-- position in the order of admission -/
  seq : Nat
  bp : Nat
  pos : Nat
  lastBp : Nat
  status : Nat
  count : Nat
  value : Nat
  finalBp : Nat
  /-- the command's own work has begun (root fragment made, or a Varelm program run) -/
  started : Bool
  /-- device-space base of the argument copy, 0 when none (R302) -/
  argBase : Nat
  /-- fragments of its Varelm program that have used their reissue for a tag mismatch (R138, R139) -/
  skewed : List Nat
  /-- lost runs of fragments of its Varelm program, one entry for each (R309) -/
  losses : List Nat
  /-- commands admitted before this one that it waits for (R39, R322, R410, R222) -/
  waits : List Nat
  /-- fragment that posted this Varelm program with VARELM = 1 (R298); none for a command of a queue -/
  parent : Option Nat
  work : Work
  /-- stack-memory bytes for which it waits while the placement engine makes room (R213) -/
  needRoom : Nat
  /-- device time of its admission -/
  admittedAt : Nat
  /-- at its admission: the next command number, and the inserts and deletes whose final entry was not yet written (R74, R75) -/
  bound : Nat
  unposted : List Nat
  deriving DecidableEq, Repr

/-- One reply to the sideband, DOE or a configuration request (R578, R585, R651). -/
structure Reply where
  src : ReqSource
  code : Nat
  status : Nat
  data : List Byte
  deriving DecidableEq, Repr

/-- A frame sent by a port half (R491, R496, R497): 802.1Q priority, IPv6 traffic class, UDP ports, and the Scarab packet with its
bytes. -/
structure SentFrame where
  half : Nat
  pcp : Nat
  trafficClass : Nat
  srcPort : Nat
  dstPort : Nat
  packet : Packet
  bytes : List Byte
  deriving DecidableEq, Repr

/-- The outside world as the device sees it, and everything the device has sent to it. -/
structure Outside where
  /-- host memory of every function, key fn·2^64 + address -/
  hostMem : Mem
  /-- ranges (function, base, length) whose translation the host refuses (R486) -/
  refused : List (Nat × Nat × Nat)
  /-- translations the device caches under ATS (R443): function and 4 KiB page -/
  atsCache : List (Nat × Nat)
  /-- MSI-X messages sent: function and vector, oldest first (R454, R631) -/
  msix : List (Nat × Nat)
  /-- I3C in-band interrupts to the board controller: event codes (R622, R631, R646) -/
  ibi : List Nat
  /-- functions whose AER log took an error (R486) -/
  aer : List Nat
  /-- replies over MCTP and DOE, oldest first -/
  replies : List Reply
  /-- values returned to register reads that met a write of their cycle, oldest first (R662) -/
  reads : List (RegRead × Nat)
  /-- configuration replies: function and value, none for Request Retry Status (R651) -/
  cfg : List (Nat × Option Nat)
  /-- frames transmitted, oldest first (R541) -/
  frames : List SentFrame
  /-- neighbour advertisements sent for an address (R492) -/
  adverts : List Nat
  deriving DecidableEq, Repr

/-! ## Threads and fragments -/

/-- Thread states (R297). -/
inductive ThreadState where
  | free | ready | stall | wait | ended
  deriving DecidableEq, Repr

/-- One hardware thread of a fragment (R293, R342). -/
structure Thread where
  st : ThreadState
  pc : Nat
  g : Map Word
  v : Map (BitVec 1024)
  m : Map (BitVec 128)
  /-- s0 FLAGS (R345) -/
  flags : Word
  /-- of an `lscan` that waits for its port or for the comb: entries processed, entries kept, and the bytes already taken
  of the next entry (R370) -/
  scanAt : Option (Nat × Nat × List Byte)
  /-- of a `wcall`, `seal` or `unseal` that waits at the HBMC: its number in the order of arrival, and its segment (R174) -/
  queuedAt : Option (Nat × Nat)
  deriving DecidableEq, Repr

/-- The pump descriptor's fields (R329). -/
structure PumpDesc where
  base : Nat
  port : Nat
  mode : Nat
  dims : Nat
  stream : Bool
  idxw : Bool
  esize : Nat
  ldepth : Nat
  buf : Nat
  count : List Nat
  stride : List Int
  idx : Nat
  deriving DecidableEq, Repr

/-- A pump bound by `pump.set` (R328, R330). -/
structure Pump where
  desc : PumpDesc
  running : Bool
  /-- next element to fetch -/
  next : Nat
  deriving DecidableEq, Repr

/-- One element in a port: its bytes, or the address at which it was poisoned (R334). -/
inductive Elem where
  | bytes (b : List Byte) (innerOnly : Bool)
  | poisoned (addr number : Nat)
  deriving DecidableEq, Repr

/-- A queue port bound to a pump (R328, R332, R333). -/
structure Port where
  pump : Nat
  esize : Nat
  depth : Nat
  mailbox : Bool
  elems : List Elem
  ended : Bool
  deriving DecidableEq, Repr

/-- An accumulator tile (R342, R365): elements by 64·i + j, zero when unlisted. -/
structure Tile where
  isInt : Bool
  elems : Map F32
  deriving DecidableEq, Repr

/-- One member of a fragment's gang on its logical cluster (R298 to R301). -/
structure Member where
  cluster : Nat
  /-- physical cistern offset of the area -/
  base : Nat
  threads : List Thread
  pumps : Map Pump
  ports : Map Port
  tiles : Map Tile
  deriving DecidableEq, Repr

/-- One entry of a commit log (R303). -/
structure LogEntry where
  isAdd : Bool
  addr : Nat
  value : Word
  deriving DecidableEq, Repr

/-- Life of a fragment: waiting behind a join, dispatchable, running. -/
inductive FragPhase where
  | joining | dispatchable | running
  deriving DecidableEq, Repr

/-- One fragment (R298 to R314). -/
structure Frag where
  id : Nat
  cmd : Nat
  tenant : Nat
  cls : Nat
  /-- the 64-byte descriptor -/
  desc : List Byte
  /-- program handle whose code its threads run, 0 for Varelm -/
  prog : Nat
  phase : FragPhase
  /-- gangs of commits this fragment descends from (R303) -/
  groups : List Nat
  /-- the group that a JOIN continuation waits for -/
  joinOn : Option Nat
  members : List Member
  posts : List (List Byte)
  logs : List LogEntry
  status : Option Nat
  prog2 : Option (Nat × Nat)
  /-- host-space output held for commit: host address and byte, in store order (R313) -/
  held : List (Nat × Byte)
  /-- a line with INNER_ONLY was loaded (R314) -/
  inner : Bool
  reissues : Nat
  /-- clusters of its lost runs, which the next run avoids (R309) -/
  avoid : List Nat
  /-- the single reissue for sequence-tag mismatches is used (R139) -/
  skewUsed : Bool
  /-- device time at which it became dispatchable, and at dispatch -/
  readyAt : Nat
  dispAt : Nat
  /-- device time from which R546 counts its wait: for a root fragment, the admission of its command -/
  waitFrom : Nat
  /-- its wait has reached the bound of R546 -/
  missed : Bool
  /-- charged cost L_f (R539) -/
  charged : Nat
  deriving DecidableEq, Repr

/-! ## Clusters -/

/-- One line of a line cache (R323): tenant, line address, data, dirty mask, INNER_ONLY. -/
structure Line where
  tenant : Nat
  line : Nat
  data : List Byte
  dirty : BitVec 64
  inner : Bool
  deriving DecidableEq, Repr

/-- A comb context (R84, R89). `run` and `block` hold (key bits, tag) pairs. -/
structure CombCtx where
  /-- fragment that opened it; the context is open while that fragment runs (assumption 14) -/
  frag : Nat
  tenant : Nat
  k : Nat
  dedup : Bool
  desc : Bool
  ktype : Nat
  wide : Bool
  /-- physical cistern offsets of the run area and of the descriptor -/
  area : Nat
  descAt : Nat
  run : List (F32 × Nat)
  block : List (F32 × Nat)
  pushed : Nat
  dups : Nat
  /-- its run area lies outside the fragment's area or overlaps another one, so that its run is unpredictable (R85) -/
  astray : Bool
  deriving DecidableEq, Repr

/-- An accepted `tmma` not yet executed: fragment, member, tile, weight type and the descriptor's bytes (R366). -/
structure TensorOp where
  frag : Nat
  mem : Nat
  thread : Nat
  tile : Nat
  ty : Nat
  desc : List Byte
  deriving DecidableEq, Repr

/-- Gating of a cluster (R638, R672). -/
inductive Gating where
  | running | clockGated | powerGated
  deriving DecidableEq, Repr

/-- State of one logical cluster beside its cistern. -/
structure Cluster where
  lines : List Line
  ctx : Map CombCtx
  tensor : List TensorOp
  gating : Gating
  /-- fragments dispatched while gated, whose threads start at the wake (R638) -/
  waking : List Nat
  deriving DecidableEq, Repr

/-- State of one physical cluster kept by R613 to R615. -/
structure PhysCluster where
  retired : Bool
  /-- stopped for its self-test, with the cause of R692 -/
  testing : Option Nat
  /-- device time of the last residue fault -/
  residueAt : Option Nat
  /-- cistern banks that have had an uncorrectable error -/
  ueBanks : List Nat
  deriving DecidableEq, Repr

/-! ## Stack memory -/

/-- An allocation or argument copy in a tenant's device space (R315, R320, R302). -/
structure Alloc where
  tenant : Nat
  base : Nat
  size : Nat
  shared : Bool
  wellSeg : Bool
  readOnly : Bool
  /-- stack and well domain of a well segment, chosen by the placement engine -/
  stack : Nat
  well : Nat
  mapped : Bool
  /-- commands whose completion must come before the memory returns (R322) -/
  freeing : Option (List Nat)
  deriving DecidableEq, Repr

/-- One entry of an HBMC's range table (R169). -/
structure Range where
  stack : Nat
  tenant : Nat
  base : Nat
  len : Nat
  deriving DecidableEq, Repr

/-- States of a well operation (R155). -/
inductive Wst where
  | queued | running | done | outFull | fault | aborted
  deriving DecidableEq, Repr

/-- A well operation accepted by an HBMC (R149, R186). -/
structure WellOp where
  id : Nat
  tenant : Nat
  cmd : Nat
  frag : Nat
  cls : Nat
  /-- cluster and physical cistern offset of the descriptor -/
  cluster : Nat
  descAt : Nat
  /-- the 64-byte descriptor at acceptance -/
  desc : List Byte
  stack : Nat
  well : Nat
  /-- well of the destination of a COPY to another domain -/
  well2 : Option Nat
  pos : Nat
  count : Nat
  outPos : Nat
  st : Wst
  intervals : Nat
  /-- words of TBL that its well holds, and bits of work spent on the unit in progress (R157, R163) -/
  loaded : Nat
  credit : Nat
  stop : Bool
  /-- its call broke R180, so that its result is unpredictable (R181) -/
  breach : Bool
  deriving DecidableEq, Repr

/-- What one physical well holds: the command area of its reserved row (R186), w0 to w7, c0 to c3 and the table store (R187). -/
structure WellUnit where
  area : List Byte
  regs : List (BitVec 256)
  counters : List Nat
  table : List Byte
  deriving DecidableEq, Repr

/-- The wells' own state: the micro-program store, the same in every well (R188), each well that has run an interval, and for each
stack whose spare channel is in use the channel that it replaced (R144). -/
structure WellHw where
  store : List (BitVec 32)
  units : Map WellUnit
  spared : List (Nat × Nat)
  deriving DecidableEq, Repr

/-! ## Handle-named objects -/

/-- One entry of a fine list (R29) with its tombstone bit and record location (R413), and the commands that inserted it and that set
its tombstone, 0 for none of this device (R75). -/
structure Entry where
  codes : List Nat
  lid : Nat
  attr : Nat
  tomb : Bool
  loc : Word
  ins : Nat
  del : Nat
  deriving DecidableEq, Repr

/-- One well segment of a fine list's chain: its stack and the domain that holds it (R146, R148). -/
structure Seg where
  stack : Nat
  well : Nat
  deriving DecidableEq, Repr

/-- A quantised tensor as the device stores it (R114 to R117, R134, R135): rows of codes, position fields of 2:4 weights, scale entries
with their TAGs, generation and tag array. A BF16 tensor has no scale entries and no tags. -/
structure QTensor where
  fmt : Nat
  rows : Nat
  cols : Nat
  chan : Bool
  sparse : Bool
  codes : List Byte
  positions : List Byte
  scales : List (BitVec 32)
  gen : Nat
  tags : List Byte
  deriving DecidableEq, Repr

/-- A fine list: entries in slot order and the committed length (R63), generation G (R134), the chain of its well segments (R148),
and one scale entry and one tag byte for every 256 slots in use (R117, R135). -/
structure FineList where
  entries : List Entry
  committed : Nat
  gen : Nat
  segs : List Seg
  scales : List (BitVec 32)
  tags : List Byte
  deriving DecidableEq, Repr

/-- A collection (R28 to R38). Vectors are lists of FP16 bit patterns. -/
structure Coll where
  handle : Nat
  tenant : Nat
  /-- the device's collection index (R412) -/
  index : Nat
  dim : Nat
  sub : Nat
  ncent : Nat
  nlists : Nat
  spill : Bool
  recfmt : Nat
  attrb : Nat
  metric : Nat
  cls : Nat
  /-- class before the last `vr.place` of each command in flight that was admitted before it completed (R226) -/
  was : List (Nat × Nat)
  compactAt : Nat
  budget : Nat
  coarse : List (List (BitVec 16))
  fine : List (List (BitVec 16))
  /-- codebooks: subspace, then 16 centroids -/
  book : List (List (List (BitVec 16)))
  lists : Map FineList
  nextLid : Nat
  /-- the drop admitted for it, if any (R39) -/
  dying : Option Nat
  /-- a pod or realm collection of the queen (R507): CODE and SCOPE -/
  pod : Option (Bool × Bool)
  /-- its staging set of logical clusters (R210) -/
  staging : List Nat
  deriving DecidableEq, Repr

/-- A loaded model (R233). -/
structure Model where
  handle : Nat
  tenant : Nat
  raw : List Byte
  img : Config.ModelImage
  /-- the tensors as the device stores them -/
  tensors : List QTensor
  dying : Option Nat
  deriving DecidableEq, Repr

/-- The block index of one layer and KV head (R246): coarse centroids, codebooks, and one list for each centroid, whose entries hold
block numbers as local IDs. -/
structure BlockIndex where
  coarse : List (List (BitVec 16))
  book : List (List (List (BitVec 16)))
  lists : List FineList
  deriving DecidableEq, Repr

/-- An agent memory (R242 to R249): its tokens by position, and what it holds of them. Key and value vectors are numbered
2·H·layer + 2h for the key and + 1 for the value of KV head h. -/
structure AgentMem where
  handle : Nat
  tenant : Nat
  model : Nat
  cap : Nat
  cls : Nat
  budget : Nat
  tokens : List Nat
  /-- the open block: of each token, the BF16 keys and values -/
  opened : List (List (List (BitVec 16)))
  /-- full blocks: of each, one quantised tensor for each layer (R244) -/
  blocks : List (List QTensor)
  /-- of each full block, the FP16 means of its keys and values (R245) -/
  sums : List (List (List (BitVec 16)))
  /-- one block index for each layer and KV head -/
  indexes : List BlockIndex
  /-- full blocks at the last clustering of its block indexes (R246) -/
  clustered : Nat
  temp : Bool
  dying : Option Nat
  deriving DecidableEq, Repr

/-- A loaded grammar (R272). -/
structure Grammar where
  handle : Nat
  tenant : Nat
  img : Config.GramImage
  dying : Option Nat
  deriving DecidableEq, Repr

/-- A loaded Falar program (R463): entries as (OFFSET, CLAIMS, SHAPE) and code bytes. -/
structure Prog where
  handle : Nat
  tenant : Nat
  entries : List (Nat × Nat × Nat)
  code : List Byte
  dying : Option Nat
  deriving DecidableEq, Repr

/-! ## Placement -/

/-- One placement unit and its one home (R196). Times are device times. -/
structure PUnit where
  uid : UnitId
  tenant : Nat
  home : Home
  bytes : Nat
  heat : Nat
  promotedAt : Option Nat
  demotedAt : Option Nat
  lost : Bool
  /-- flash-homed by parking and not yet promoted (R223) -/
  parked : Bool
  /-- partition that holds it while its home is flash: tenant and PID (R222, R408) -/
  part : Option (Nat × Nat)
  deriving DecidableEq, Repr

/-- A move in progress, or switched with its source not yet released (R202). -/
structure Move where
  id : Nat
  uid : UnitId
  dest : Home
  /-- requesting command and deadline of a demand move -/
  demand : Option (Nat × Option Nat)
  late : Bool
  switched : Bool
  /-- commands that resolved the source before the switch -/
  readers : List Nat
  deriving DecidableEq, Repr

/-- The old range of a compacted list, held for the searches admitted before the switch (R70). -/
structure OldRange where
  id : Nat
  handle : Nat
  list : Nat
  bytes : Nat
  readers : List Nat
  deriving DecidableEq, Repr

/-! ## Flash -/

/-- States of a block (R415). -/
inductive BlockState where
  | unalloc | free | opened | closed | verified | victim | pending | retired
  deriving DecidableEq, Repr

/-- A record on flash (R412). -/
structure Rec where
  loc : Word
  coll : Nat
  lid : Nat
  fmt : Nat
  tenant : Nat
  bytes : List Byte
  valid : Bool
  deriving DecidableEq, Repr

/-- A block, numbered by bits 63:39 of its record locations (R413). -/
structure Block where
  id : Nat
  /-- owning partition: tenant and PID -/
  part : Option (Nat × Nat)
  oneBit : Bool
  st : BlockState
  recs : List Rec
  erases : Nat
  /-- 512-byte units programmed -/
  used : Nat
  /-- order in which blocks were opened (R418) -/
  order : Nat
  /-- target of the copy while VICTIM or PENDING -/
  target : Option Nat
  cause : Nat
  /-- commands admitted before the last acknowledgement (R426) -/
  readers : List Nat
  /-- any page above the refresh threshold at the last patrol (R431) -/
  refresh : Bool
  /-- its parity group, as a member or as a parity block (R419) -/
  group : Option Nat
  /-- 512-byte units of a member, from its first on, that parity covers -/
  covered : Nat
  deriving DecidableEq, Repr

/-- A parity group (R419): its partition and cell mode, the data blocks that have not left it, its parity blocks in order, the
XOR of their pages by byte offset within a member, and the number of pages that parity covers. -/
structure ParityGroup where
  id : Nat
  part : Nat × Nat
  oneBit : Bool
  members : List Nat
  parity : List Nat
  xor : Mem
  pages : Nat
  deriving DecidableEq, Repr

/-- A relocation notice (R422). -/
structure Notice where
  id : Nat
  old : Word
  new : Word
  lid : Nat
  coll : Nat
  tenant : Nat
  cause : Nat
  block : Nat
  /-- queued with a flash-homed list (R424) -/
  queued : Bool
  deriving DecidableEq, Repr

/-- A flash partition (R407) with the counters of its health log (R439). -/
structure Part where
  tenant : Nat
  pid : Nat
  density : Bool
  kind : Bool
  classes : Nat
  capGb : Nat
  op : Nat
  bufGib : Nat
  /-- buffer size in force, in user bytes (R416) -/
  bufNow : Nat
  /-- channel of the last record written, by collection index (R209) -/
  turn : Map Nat
  readOnly : Bool
  dropping : Bool
  hostw : Nat
  mediaw : Nat
  corr : Nat
  uncorr : Nat
  rebuilt : Nat
  pfail : Nat
  efail : Nat
  retiredBlocks : Nat
  noticesOut : Nat
  tmax : Int
  t0 : Nat
  t1 : Nat
  t2 : Nat
  t3 : Nat
  deriving DecidableEq, Repr

/-- Flash below the partitions: blocks, parity groups, notices and patrol. -/
structure Flash where
  blocks : List Block
  groups : List ParityGroup
  nextGroup : Nat
  notices : List Notice
  nextNotice : Nat
  geom : FlashGeom
  /-- per channel, the dies in use by bit 4·CE + LUN (R442) -/
  dies : Map Nat
  nextOpen : Nat
  /-- blocks patrolled in the pass in progress (R433) -/
  patrolled : List Nat
  /-- device times at which the pass in progress and the last full pass began (R633) -/
  passStart : Nat
  fullPass : Nat
  /-- open blocks wait for the recovery of R438 -/
  recovering : Bool
  deriving DecidableEq, Repr

/-! ## Scheduler -/

/-- Scheduler state beside its registers (R530 to R539). Tags and costs carry 16 fraction bits. -/
structure Sched where
  u : Nat
  h : Map Nat
  v : Map Nat
  /-- T(t,c) and E(t,c) by key 4·t + c -/
  tag : Map Nat
  est : Map Nat
  /-- token count of each tenant in units of 10⁻¹² tokens, and the device time it was taken at -/
  tokens : Map Nat
  tokenAt : Map Nat
  /-- last function served: fetch of class 0, fetch of classes 1 to 3, admission -/
  rrC0 : Nat
  rrLow : Nat
  rrAdm : Nat
  /-- last queue served of each function -/
  rrQ : Map Nat
  /-- thread-cycles of each tenant in the current 10 ms window (R567) -/
  used : Map Nat
  /-- the current 100 µs window has its EV_CLASS0_OVER (R547) -/
  overNoted : Bool
  deriving DecidableEq, Repr

/-! ## Fabric -/

/-- Transport state toward one peer and class (R499, R501), key peer·4 + class. -/
structure Peer where
  nextPsn : Nat
  /-- packets not acknowledged: number, retransmissions, packet, SACKs in a row that miss it -/
  unacked : List (Nat × Nat × Packet × Nat)
  /-- packets held from this peer -/
  held : List Nat
  sinceSack : Nat
  window : Nat
  /-- size the window had before the marks -/
  fullWindow : Nat
  /-- a held packet carried a CE mark that no SACK has reported yet -/
  ceSeen : Bool
  deriving DecidableEq, Repr

/-- A message being put together from its packets (R500). -/
structure Assembly where
  src : Nat
  msg : Nat
  type : Nat
  cls : Nat
  pieces : Map Byte
  /-- bytes of the message once its last packet is held -/
  total : Option Nat
  deriving DecidableEq, Repr

/-- A message handed to the transport for sending. -/
structure OutMsg where
  type : Nat
  cls : Nat
  dst : Nat
  ref : Nat
  status : Nat
  deriving DecidableEq, Repr

/-- A query that the queen has routed (R512, R97, R99); `cmd` is 0 for one of another pod's queen (R515). -/
structure QueryCtx where
  qid : Nat
  cmd : Nat
  body : QueryBody
  /-- nodes that still owe a PARTIAL -/
  owing : List Nat
  parts : List PartialResult
  deriving DecidableEq, Repr

/-- An update that the queen has sent to its nodes (R513). -/
structure UpdateCtx where
  uid : Nat
  cmd : Nat
  coll : Nat
  /-- the local ID that it inserts or deletes, none for a creation -/
  lid : Option Nat
  isDelete : Bool
  owing : List Nat
  status : Nat
  /-- where no command asked for it: the queen of another pod that sent it, and its number there (R510) -/
  src : Nat
  ref : Nat
  deriving DecidableEq, Repr

/-- A bucket on its way between nodes (R516). -/
structure Reshard where
  coll : Nat
  bucket : Nat
  src : Nat
  dst : Nat
  deriving DecidableEq, Repr

/-- Fabric state beside its registers. -/
structure Fabric where
  nodes : List NodeEntry
  /-- the shard map last published, and the one of `routeEpoch` -/
  shards : List ShardEntry
  routeShards : List ShardEntry
  deputy : Nat
  /-- nodes whose acknowledgement of the epoch in FAB.EPOCH is outstanding; routing under it waits for them (R511) -/
  ackOwing : List Nat
  /-- the epoch the queen routes under -/
  routeEpoch : Nat
  /-- the previous epoch of this node, and the device time at which it adopted the current one (R517) -/
  prevEpoch : Nat
  adoptedAt : Nat
  hasMap : Bool
  /-- the device whose MAP this worker last adopted, and those it ignores since a takeover (R519); both queens have the same
  node ID, so these are identities of devices -/
  queen : Option Nat
  ignored : List Nat
  lastHeartbeat : Nat
  reshards : List Reshard
  /-- buckets kept after a move: collection, bucket, device time until which they are kept -/
  keeping : List (Nat × Nat × Nat)
  /-- lost buckets that the queen has given to a node that rebuilds them (R626) -/
  rebuilding : List ShardEntry
  /-- nodes held to be lost, and those of them that R626 has been applied to -/
  lostNodes : List Nat
  handledLost : List Nat
  peers : Map Peer
  inbox : List Assembly
  /-- messages handed whole to their consumers: source, type, payload -/
  delivered : List (Nat × Nat × List Byte)
  /-- messages handed to the transport, oldest first -/
  outbox : List OutMsg
  /-- their packets that wait for the sending window, and the turn of the next port -/
  waiting : List Packet
  nextPort : Nat
  queries : List QueryCtx
  updates : List UpdateCtx
  nextQid : Nat
  /-- local IDs of each pod collection: the next one, the number of blocks recorded with the deputy, and the block awaiting its
  acknowledgement (R520) -/
  idBlocks : Map (Nat × Nat × Option Nat)
  /-- consecutive valid synchronisation intervals -/
  syncRun : Nat
  nextMsg : Nat
  deriving DecidableEq, Repr

/-- Run-time state of one gate list and its egress queues (R541 to R544). -/
structure GateRt where
  idx : Nat
  mask : BitVec 4
  cycleStart : Nat
  armedAt : Nat
  base : Nat
  /-- WFQ tags of the port's classes -/
  tags : Map Nat
  vtime : Nat
  /-- packets by class, each with the device time and the gate-open time of its class at which it was enqueued -/
  queues : Map (List (Nat × Nat × Packet))
  /-- gate-open time of class 0 up to the last change of the gate or the level, and the device time of that change -/
  openTime : Nat
  openAt : Nat
  /-- the class-0 level in thousandths of a byte (R545) -/
  level : Nat
  /-- the level has passed its limit in the present gate cycle or window -/
  exceeded : Bool
  /-- packets whose wait has reached the bound of R546 -/
  missed : List (Nat × Nat × Packet)
  deriving DecidableEq, Repr

/-! ## Power, life cycle, security -/

/-- The secure cistern (R396, R571). -/
structure Secure where
  /-- the identity and media keys have been derived -/
  keys : Bool
  /-- IDE stream keys, by stream (R571) -/
  ide : Map (List Byte)
  wiping : Bool
  usable : Bool
  deriving DecidableEq, Repr

/-- Power, reset and life-cycle state beside the registers. -/
structure Power where
  /-- VAON is applied -/
  on : Bool
  /-- dormant is complete: only WAKE and the reset input are answered (R642) -/
  dormant : Bool
  /-- a wake request held during dormant entry -/
  wakeHeld : Bool
  /-- the host link is up -/
  link : Bool
  parked : Bool
  /-- the PARK command running -/
  parking : Option Nat
  /-- recovery image bytes received so far (R578, R581) -/
  recovery : List Byte
  /-- the recovery image that both copies of the boot area hold, once one was accepted -/
  boot : Option ImageId
  /-- boot stopped at step 3 (R653) -/
  bootFailed : Bool
  /-- life-cycle change in progress: target state -/
  change : Option Nat
  ownerKey : List Byte
  /-- IEEE 1149.1 test mode entered (R549) -/
  testMode : Bool
  /-- device time at which the recovery period of R549 ends -/
  recoveryUntil : Option Nat
  /-- no start-up has completed its first run on this part -/
  firstStart : Bool
  /-- CIS.WIPE.CAUSE of the start-up that follows the last reset; 0 after power-on, whose wipe the reset values count (R401) -/
  startCause : Nat
  /-- objects and allocations with a unit lost to the last reset: tenant and handle or base (R224) -/
  lostReport : List (Nat × Nat)
  /-- channels retired beyond the spare: stack and channel (R618) -/
  chRetired : List (Nat × Nat)
  /-- engines and instances with their last lockstep mismatch (R622) -/
  lockstepAt : List (Engine × Nat × Nat)
  /-- last measured temperatures in 1/16 °C -/
  temps : List Int
  /-- throttle share demanded by temperature and by power (R643, R645) -/
  shareT : Nat
  shareP : Nat
  /-- links: lanes in service by link number (R609) -/
  lanes : Map Nat
  /-- flit retries in a row by link number (R608) -/
  retries : Map Nat
  /-- refreshes issued per bank (R161) -/
  refreshes : Map Nat
  /-- lines patrolled in the pass in progress (R610) -/
  patrolled : Nat
  /-- device times at which the pass in progress and the last full pass began (R633) -/
  passStart : Nat
  fullPass : Nat
  /-- VF_DETACH commands running, by VF: command and the device time at which its grace ends (R484) -/
  detaching : Map (Nat × Nat)
  deriving DecidableEq, Repr

/-- The machine. -/
structure State where
  /-- commands waiting, first in first out -/
  pending : List Instr
  out : Outside
  /-- BAR 0 words of the PF by offset, each 8-byte aligned; unlisted words hold their reset value -/
  regs : Map Word
  /-- queue registers, key fn·2^16 + offset in the layout of R446 -/
  hq : Map Word
  /-- progress slots, key fn·2^13 + offset in BAR 2 (R474) -/
  pslot : Map Word
  /-- MSI-X table and PBA words, key fn·2^13 + offset in BAR 4 (R444) -/
  bar4 : Map Word
  /-- SYS.WRST of each master: 1 board controller, 2 queen, 3 PF (R577) -/
  wrst : Map Word
  sq : Map SqSt
  cq : Map CqSt
  cmds : List Cmd
  nextCmd : Nat
  nextSeq : Nat
  sched : Sched
  frags : List Frag
  nextFrag : Nat
  nextGroup : Nat
  clusters : Map Cluster
  phys : Map PhysCluster
  /-- physical number of each logical cluster in service; unlisted ones are out of service (R15, R614) -/
  logical : Map Nat
  /-- device space of every tenant, key tenant·2^64 + virtual address -/
  dev : Mem
  /-- cluster cisterns, key cluster·2^22 + physical offset -/
  cis : Mem
  allocs : List Alloc
  ranges : List Range
  /-- poisoned lines: tenant·2^58 + line number (R173, R619) -/
  poison : List Nat
  wells : List WellOp
  nextWell : Nat
  /-- physical wells out of service after a fault (R185) -/
  wellsOut : List Nat
  wellHw : WellHw
  colls : List Coll
  models : List Model
  mems : List AgentMem
  grammars : List Grammar
  progs : List Prog
  units : List PUnit
  moves : List Move
  nextMove : Nat
  /-- bytes moved, of which PLC.MOVED.MIB is a part (R231) -/
  movedBytes : Nat
  oldRanges : List OldRange
  parts : List Part
  flash : Flash
  fab : Fabric
  gates : Map GateRt
  fuses : Fuses
  firmware : ImageId
  varelm : ImageId
  secure : Secure
  power : Power
  /-- salts of the tenants (R570) -/
  salts : Map (List Byte)
  /-- unread records of the event ring, and records since reset (R629) -/
  evtUnread : Nat
  evtSeq : Nat
  /-- device time since reset, in picoseconds (assumption 3) -/
  clock : Nat
  /-- the model's own counter of free values drawn (assumption 1) -/
  free : Nat
  deriving DecidableEq, Repr

/-! ## Reset values of the parts -/

def Outside.reset : Outside :=
  { hostMem := [], refused := [], atsCache := [], msix := [], ibi := [], aer := [], replies := [], reads := [], cfg := [],
    frames := [], adverts := [] }

def Thread.reset : Thread := { st := .free, pc := 0, g := [], v := [], m := [], flags := 0, scanAt := none, queuedAt := none }

def Cluster.reset : Cluster := { lines := [], ctx := [], tensor := [], gating := .powerGated, waking := [] }

def PhysCluster.reset : PhysCluster := { retired := false, testing := none, residueAt := none, ueBanks := [] }

def Flash.reset : Flash :=
  { blocks := [], groups := [], nextGroup := 1, notices := [], nextNotice := 0, geom := ⟨0, 0, 3, 1⟩, dies := [], nextOpen := 0, patrolled := [], passStart := 0, fullPass := 0, recovering := false }

def Sched.reset : Sched :=
  { u := 0, h := [], v := [], tag := [], est := [], tokens := [], tokenAt := [], rrC0 := 255, rrLow := 255,
    rrAdm := 255, rrQ := [], used := [], overNoted := false }

def Peer.reset : Peer :=
  { nextPsn := 0, unacked := [], held := [], sinceSack := 0, window := 64, fullWindow := 64, ceSeen := false }

def Fabric.reset : Fabric :=
  { nodes := [], shards := [], routeShards := [], deputy := 0, ackOwing := [], routeEpoch := 0, prevEpoch := 0, adoptedAt := 0,
    hasMap := false, queen := none, ignored := [], lastHeartbeat := 0, reshards := [], keeping := [], rebuilding := [],
    lostNodes := [], handledLost := [], peers := [], inbox := [], delivered := [], outbox := [], waiting := [], nextPort := 0, queries := [], updates := [],
    nextQid := 1, idBlocks := [], syncRun := 0, nextMsg := 1 }

def GateRt.reset : GateRt :=
  { idx := 0, mask := 0xF, cycleStart := 0, armedAt := 0, base := 0, tags := [], vtime := 0, queues := [], openTime := 0, openAt := 0, level := 0, exceeded := false, missed := [] }

/-- Fuses before the first start-up reads them (assumption 4). -/
def blankFuses : Fuses :=
  { lcs := 0, epoch := 0, svnf := 0, svnv := 0, revoked := 0, keyHash := [[], [], [], []], ownerHash := [],
    secret := [], serial := 0 }

def noImage : ImageId := { slot := 0, svn := 0, digest := [], body := [] }

def Secure.reset : Secure := { keys := false, ide := [], wiping := false, usable := true }

def Power.reset : Power :=
  { on := true, dormant := false, wakeHeld := false, link := false, parked := false, parking := none, recovery := [],
    boot := none, bootFailed := false, change := none, ownerKey := [], testMode := false,
    recoveryUntil := none, firstStart := true, startCause := 0, lostReport := [], chRetired := [],
    lockstepAt := [], temps := [], shareT := 0, shareP := 0, lanes := [],
    retries := [], refreshes := [], patrolled := 0, passStart := 0, fullPass := 0, detaching := [] }

/-- The device right after power-on reset, at the first step of start-up (R647, R650, R664): every register at its
reset value, no command, no object, memory with nothing listed. Values the manual does not give are named in
notes/assumptions/4.md. -/
def State.reset : State :=
  { pending := [], out := .reset, regs := [], hq := [], pslot := [], bar4 := [], wrst := [], sq := [], cq := [],
    cmds := [], nextCmd := 1, nextSeq := 1, sched := .reset, frags := [], nextFrag := 1, nextGroup := 1,
    clusters := [], phys := [], logical := [], dev := [], cis := [], allocs := [], ranges := [], poison := [],
    wells := [], nextWell := 1, wellsOut := [], wellHw := ⟨[], [], []⟩, colls := [], models := [], mems := [],
    grammars := [], progs := [], units := [], moves := [], nextMove := 1, movedBytes := 0, oldRanges := [],
    parts := [], flash := .reset, fab := .reset, gates := [], fuses := blankFuses, firmware := noImage,
    varelm := noImage, secure := .reset, power := .reset, salts := [], evtUnread := 0, evtSeq := 0, clock := 0,
    free := 0 }

end Sys2Proof.Machine
end

