-- ==== Sys2Proof/Machine/Regs.lean ====
section
/-! DEFINITION. The register map (R659, R666): for every 64-bit word of the PF's BAR 0 its fields with access and reset
value, and the word read and field read operations over the register file. -/
namespace Sys2Proof.Machine

/-- Access types (R7); bits in no field are RSV. -/
inductive Acc where
  | rw | ro | wo | w1c
  deriving DecidableEq, Repr

/-- A field: high bit, low bit, access, reset value. -/
structure Fld where
  hi : Nat
  lo : Nat
  acc : Acc
  reset : Nat
  deriving DecidableEq, Repr

/-! ## Block offsets (R659, R666) -/
def oSysId : Nat := 0x0
def oSysCap : Nat := 0x10
def oSysVer : Nat := 0x18
def oSysRst : Nat := 0x30
def oSysMgmt : Nat := 0x38
def oSysWrst : Nat := 0x40
def oLcsState : Nat := 0x10000
def oLcsRoll : Nat := 0x10008
def oLcsNonce : Nat := 0x10020
def oPwrCtrl : Nat := 0x20000
def oPwrState : Nat := 0x20008
def oPwrTherm : Nat := 0x20010
def oClkStatus : Nat := 0x30000
def oSafStatus : Nat := 0x40000
def oSafCap : Nat := 0x40008
def oSafDiag : Nat := 0x40010
def oSafMem : Nat := 0x40018
def oSafPatrol : Nat := 0x40020
def oEvtPtr : Nat := 0x50000
def oEvtCtrl : Nat := 0x50008
def oEvtRing (i : Nat) : Nat := 0x58000 + 64 * i
def oTelClu (p : Nat) : Nat := 0x61000 + 8 * p
def oTen (t : Nat) : Nat := 0x100000 + 0x1000 * t
def oTenCtrl (t : Nat) : Nat := oTen t
def oTenQmem (t : Nat) : Nat := oTen t + 0x8
def oTenQflash (t : Nat) : Nat := oTen t + 0x10
def oTenQtime (t : Nat) : Nat := oTen t + 0x18
def oTenUse (t : Nat) : Nat := oTen t + 0x20
def oTenSkew (t : Nat) : Nat := oTen t + 0x100
def oTenRes (t : Nat) : Nat := oTen t + 0x110
def oTenSubst (t : Nat) : Nat := oTen t + 0x120
def oTenFrag (t : Nat) : Nat := oTen t + 0x130
def oTenExc (t i : Nat) : Nat := oTen t + 0x140 + 8 * i
def oSchCtrl : Nat := 0x300000
def oSchC0res : Nat := 0x300008
def oSchCw : Nat := 0x300010
def oSchC0mon : Nat := 0x300018
def oSchTen (t : Nat) : Nat := 0x301000 + 16 * t
def oSchQs (t c : Nat) : Nat := 0x304000 + 32 * t + 8 * c
def oGateCtrl (l : Nat) : Nat := 0x310000 + 0x40 * l
def oGateCycle (l : Nat) : Nat := oGateCtrl l + 0x8
def oGateBase (l : Nat) : Nat := oGateCtrl l + 0x10
def oGateC0lvl (l : Nat) : Nat := oGateCtrl l + 0x18
def oGateQs (l c : Nat) : Nat := oGateCtrl l + 0x20 + 8 * c
def oGateEntry (l b i : Nat) : Nat := 0x320000 + 0x4000 * (2 * l + b) + 8 * i
def oFabNode : Nat := 0x400000
def oFabEpoch : Nat := 0x400008
def oFabQaddr : Nat := 0x400010
def oFabTime : Nat := 0x400020
def oFabCnt : Nat := 0x400028
def oFabQos : Nat := 0x400030
def oFabPort (n : Nat) : Nat := 0x400100 + 8 * n
def oFabPaddr (n h : Nat) : Nat := 0x400200 + 32 * n + 16 * h
def oFlcCtrl : Nat := 0x500000
def oFlcCnt : Nat := 0x500010
def oFlcChst (n : Nat) : Nat := 0x500100 + 8 * n
def oRtUse (n : Nat) : Nat := 0x600040 + 0x1000 * n
def oWellcCtrl : Nat := 0x700000
def oWellcInsvc : Nat := 0x700008
def oWellcCnt : Nat := 0x700010
def oCisPoolst : Nat := 0x800000
def oCisWipe : Nat := 0x800008
def oCisEcc : Nat := 0x800010
def oPoolUse (n : Nat) : Nat := 0x800100 + 8 * n
def oMeas (n : Nat) : Nat := 0x900100 + 0x40 * n
def oMeas4 (t : Nat) : Nat := 0x900200 + 0x1000 * t
def oPlcCtrl : Nat := 0xA00000
def oPlcCap : Nat := 0xA00008
def oPlcReserve : Nat := 0xA00010
def oPlcMoves : Nat := 0xA00018
def oPlcMoved : Nat := 0xA00020
def oCcId (p : Nat) : Nat := 0x1000000 + 0x4000 * p

/-- SYS.CAP but for FDIES (R670). -/
def sysCapReset : Nat :=
  0xFF * 2 ^ 56 + 0x20 * 2 ^ 40 + 0x8 * 2 ^ 36 + 0xC * 2 ^ 32 + 0x200 * 2 ^ 22 + 0x220 * 2 ^ 12 + 0x345

def queueSampleFields : List Fld := [⟨63, 63, .ro, 1⟩, ⟨47, 32, .ro, 0⟩, ⟨31, 0, .ro, 0⟩]
def roWord : List Fld := [⟨63, 0, .ro, 0⟩]
def rwWord : List Fld := [⟨63, 0, .rw, 0⟩]

/-- Fields of the word at offset `o` of a TEN window (R560, R563, R141, R232, R257, R336, R382). -/
def tenFields (o : Nat) : List Fld :=
  if o = 0x0 then [⟨9, 9, .ro, 0⟩, ⟨8, 8, .wo, 0⟩, ⟨0, 0, .rw, 0⟩]
  else if o = 0x8 then [⟨47, 32, .rw, 0⟩, ⟨31, 0, .rw, 0⟩]
  else if o = 0x10 then [⟨31, 0, .rw, 0⟩]
  else if o = 0x18 then [⟨9, 0, .rw, 0x3E8⟩]
  else if o = 0x20 then [⟨63, 32, .ro, 0⟩, ⟨31, 16, .ro, 0⟩, ⟨9, 0, .ro, 0⟩]
  else if o = 0x100 ∨ o = 0x110 ∨ o = 0x120 ∨ o = 0x130 then [⟨63, 32, .ro, 0⟩, ⟨31, 0, .ro, 0⟩]
  else if o = 0x140 ∨ o = 0x148 then roWord
  else if o = 0x150 then
    [⟨63, 32, .ro, 0⟩, ⟨31, 24, .ro, 0⟩, ⟨23, 15, .ro, 0⟩, ⟨14, 9, .ro, 0⟩, ⟨8, 5, .ro, 0⟩, ⟨0, 0, .w1c, 0⟩]
  else if o = 0x158 then [⟨63, 48, .ro, 0⟩, ⟨31, 0, .ro, 0⟩]
  else []

/-- Fields of the word at offset `o` of the GATE block (R556, R557, R558). -/
def gateFields (o : Nat) : List Fld :=
  if o < 0x400 then
    let r := o % 0x40
    if r = 0x0 then
      [⟨42, 32, .ro, 0⟩, ⟨26, 16, .rw, 1⟩, ⟨3, 3, .ro, 0⟩, ⟨2, 2, .ro, 0⟩, ⟨1, 1, .wo, 0⟩, ⟨0, 0, .rw, 0⟩]
    else if r = 0x8 then [⟨63, 32, .ro, 0⟩, ⟨31, 0, .rw, 0xF4240⟩]
    else if r = 0x10 then rwWord
    else if r = 0x18 then [⟨63, 32, .ro, 0⟩, ⟨31, 0, .ro, 0⟩]
    else queueSampleFields
  else if 0x10000 ≤ o ∧ o < 0x10000 + 0x4000 * 32 ∧ (o - 0x10000) % 0x4000 < 0x2000 then
    [⟨35, 32, .rw, 0⟩, ⟨31, 0, .rw, 0⟩]
  else []

/-- Fields of the word at offset `o` of the FAB block (R521 to R528). -/
def fabFields (o : Nat) : List Fld :=
  if o = 0x0 then [⟨23, 22, .rw, 0⟩, ⟨21, 21, .ro, 0⟩, ⟨19, 0, .rw, 0⟩]
  else if o = 0x8 then [⟨31, 0, .ro, 0⟩]
  else if o = 0x10 ∨ o = 0x18 then rwWord
  else if o = 0x20 then [⟨63, 32, .ro, 0⟩, ⟨1, 1, .ro, 0⟩, ⟨0, 0, .ro, 0⟩]
  else if o = 0x28 then [⟨63, 32, .ro, 0⟩, ⟨31, 16, .ro, 0⟩, ⟨15, 0, .ro, 0⟩]
  else if o = 0x30 then
    [⟨56, 54, .rw, 0⟩, ⟨53, 48, .rw, 0⟩, ⟨40, 38, .rw, 2⟩, ⟨37, 32, .rw, 18⟩, ⟨24, 22, .rw, 4⟩, ⟨21, 16, .rw, 34⟩,
     ⟨8, 6, .rw, 6⟩, ⟨5, 0, .rw, 46⟩]
  else if 0x100 ≤ o ∧ o < 0x140 then [⟨19, 18, .ro, 0⟩, ⟨2, 2, .rw, 0⟩, ⟨1, 1, .rw, 0⟩, ⟨0, 0, .rw, 0⟩]
  else if 0x200 ≤ o ∧ o < 0x300 then rwWord
  else []

/-- Fields of the word at offset `o` of the SCH block (R551 to R556). -/
def schFields (o : Nat) : List Fld :=
  if o = 0x0 then [⟨31, 30, .ro, 1⟩, ⟨24, 24, .rw, 0⟩, ⟨23, 16, .rw, 0x20⟩, ⟨15, 0, .rw, 0x400⟩]
  else if o = 0x8 then
    [⟨41, 32, .rw, 0x180⟩, ⟨25, 24, .rw, 1⟩, ⟨23, 20, .rw, 4⟩, ⟨18, 16, .rw, 2⟩, ⟨13, 8, .rw, 0x10⟩, ⟨5, 0, .rw, 0x10⟩]
  else if o = 0x10 then [⟨47, 32, .rw, 0x80⟩, ⟨31, 16, .rw, 0x200⟩, ⟨15, 0, .rw, 0x800⟩]
  else if o = 0x18 then [⟨63, 48, .ro, 0⟩, ⟨47, 32, .ro, 0⟩, ⟨31, 0, .ro, 0⟩]
  else if 0x1000 ≤ o ∧ o < 0x2000 then
    if o % 16 = 0 then [⟨47, 32, .rw, 0⟩, ⟨31, 0, .rw, 0⟩]
    else [⟨63, 48, .ro, 0⟩, ⟨47, 32, .rw, 0x100⟩, ⟨31, 16, .rw, 0x100⟩, ⟨15, 0, .rw, 0x100⟩]
  else if 0x4000 ≤ o ∧ o < 0x6000 then queueSampleFields
  else []

/-- Fields of the word at an 8-byte aligned offset of BAR 0, but for the HQ block; none where the word is RSV (R659). -/
def bar0Fields (o : Nat) : List Fld :=
  if o < 0x10000 then
    if o = 0x0 then [⟨55, 48, .ro, 0x01⟩, ⟨47, 40, .ro, 0⟩, ⟨31, 16, .ro, 0x8512⟩, ⟨15, 0, .ro, 0x1F2D⟩]
    else if o = 0x8 then roWord
    else if o = 0x10 then [⟨63, 0, .ro, sysCapReset⟩]
    else if o = 0x18 then [⟨40, 40, .ro, 0⟩, ⟨39, 32, .ro, 0⟩, ⟨31, 24, .ro, 0⟩, ⟨15, 0, .ro, 0⟩]
    else if o = 0x30 then [⟨1, 1, .wo, 0⟩, ⟨0, 0, .wo, 0⟩]
    else if o = 0x38 then [⟨1, 1, .rw, 1⟩, ⟨0, 0, .rw, 1⟩]
    else if o = 0x40 then [⟨57, 32, .ro, 0⟩, ⟨15, 0, .ro, 0⟩]
    else []
  else if o < 0x20000 then
    if o = 0x10000 then
      [⟨51, 48, .w1c, 0⟩, ⟨47, 40, .ro, 0⟩, ⟨33, 33, .ro, 0⟩, ⟨32, 32, .ro, 0⟩, ⟨31, 24, .ro, 0⟩, ⟨23, 16, .ro, 0⟩,
       ⟨15, 12, .ro, 0⟩, ⟨1, 0, .ro, 0⟩]
    else if o = 0x10008 then [⟨1, 1, .wo, 0⟩, ⟨0, 0, .wo, 0⟩]
    else if 0x10020 ≤ o ∧ o < 0x10040 then roWord
    else []
  else if o < 0x30000 then
    if o = 0x20000 then
      [⟨47, 32, .rw, 0x3E8⟩, ⟨26, 16, .rw, 0x514⟩, ⟨15, 4, .rw, 0x64⟩, ⟨1, 1, .wo, 0⟩, ⟨0, 0, .wo, 0⟩]
    else if o = 0x20008 then [⟨11, 8, .ro, 1⟩, ⟨2, 2, .ro, 0⟩, ⟨1, 0, .ro, 3⟩]
    else if o = 0x20010 then
      [⟨37, 37, .w1c, 0⟩, ⟨36, 36, .ro, 0⟩, ⟨35, 32, .ro, 0⟩, ⟨31, 16, .ro, 0⟩, ⟨15, 0, .ro, 0⟩]
    else []
  else if o < 0x40000 then
    if o = 0x30000 then [⟨13, 8, .w1c, 0⟩, ⟨5, 0, .ro, 0⟩] else []
  else if o < 0x50000 then
    if o = 0x40000 then [⟨2, 2, .ro, 0⟩, ⟨1, 1, .w1c, 0⟩, ⟨0, 0, .ro, 0⟩]
    else if o = 0x40008 then [⟨59, 48, .ro, 0⟩, ⟨47, 36, .ro, 0⟩, ⟨25, 16, .ro, 0⟩, ⟨15, 10, .ro, 0x20⟩, ⟨9, 0, .ro, 0x200⟩]
    else if o = 0x40010 ∨ o = 0x40018 ∨ o = 0x40020 then roWord
    else []
  else if o < 0x60000 then
    if o = 0x50000 then [⟨63, 32, .ro, 0⟩, ⟨25, 25, .ro, 0⟩, ⟨24, 16, .ro, 0⟩, ⟨8, 0, .rw, 0⟩]
    else if o = 0x50008 then [⟨10, 9, .rw, 2⟩, ⟨8, 8, .rw, 0⟩, ⟨7, 0, .rw, 0⟩]
    else if 0x58000 ≤ o then roWord
    else []
  else if o < 0x100000 then
    if 0x61000 ≤ o ∧ o < 0x61000 + 8 * 544 then
      [⟨19, 13, .ro, 0⟩, ⟨12, 11, .ro, 2⟩, ⟨10, 9, .ro, 0⟩, ⟨8, 0, .ro, 0⟩]
    else []
  else if o < 0x200000 then tenFields (o % 0x1000)
  else if o < 0x300000 then []
  else if o < 0x310000 then schFields (o - 0x300000)
  else if o < 0x400000 then gateFields (o - 0x310000)
  else if o < 0x500000 then fabFields (o - 0x400000)
  else if o < 0x600000 then
    if o = 0x500000 then [⟨11, 8, .rw, 4⟩, ⟨4, 0, .rw, 0x18⟩]
    else if o = 0x500010 then [⟨63, 32, .ro, 0⟩, ⟨31, 0, .ro, 0⟩]
    else if 0x500100 ≤ o ∧ o < 0x500200 then [⟨47, 32, .ro, 0⟩, ⟨31, 16, .ro, 0⟩, ⟨15, 0, .ro, 0⟩]
    else []
  else if o < 0x700000 then
    if o % 0x1000 = 0x40 ∧ o < 0x60C000 then [⟨30, 16, .ro, 0⟩, ⟨14, 0, .ro, 0⟩] else []
  else if o < 0x800000 then
    if o = 0x700000 then [⟨8, 8, .rw, 0⟩, ⟨1, 0, .rw, 1⟩]
    else if o = 0x700008 then [⟨28, 16, .ro, 0⟩, ⟨12, 0, .ro, 0⟩]
    else if o = 0x700010 then [⟨63, 32, .ro, 0⟩, ⟨31, 0, .ro, 0⟩]
    else []
  else if o < 0x900000 then
    if o = 0x800000 then [⟨15, 8, .ro, 0⟩, ⟨7, 0, .ro, 0xFF⟩]
    else if o = 0x800008 then [⟨20, 20, .ro, 0⟩, ⟨19, 19, .ro, 0⟩, ⟨18, 16, .ro, 3⟩, ⟨15, 0, .ro, 1⟩]
    else if o = 0x800010 then [⟨63, 32, .ro, 0⟩, ⟨31, 0, .ro, 0⟩]
    else if 0x800100 ≤ o ∧ o < 0x800140 then [⟨47, 32, .ro, 0xC00⟩, ⟨31, 16, .ro, 0⟩, ⟨15, 0, .ro, 0⟩]
    else []
  else if o < 0xA00000 then
    if 0x900100 ≤ o ∧ o < 0x900200 then roWord
    else if 0x900200 ≤ o ∧ (o - 0x900200) % 0x1000 < 0x40 ∧ o < 0x900200 + 0x1000 * 256 then roWord
    else []
  else if o < 0x1000000 then
    if o = 0xA00000 then [⟨19, 16, .rw, 4⟩, ⟨15, 12, .rw, 4⟩, ⟨11, 11, .rw, 0⟩, ⟨4, 0, .rw, 0xA⟩]
    else if o = 0xA00008 then [⟨31, 0, .ro, 0xCF400⟩]
    else if o = 0xA00010 then [⟨63, 32, .ro, 0⟩, ⟨31, 0, .rw, 0⟩]
    else if o = 0xA00018 then [⟨63, 32, .ro, 0⟩, ⟨31, 0, .ro, 0⟩]
    else if o = 0xA00020 then [⟨63, 48, .ro, 0⟩, ⟨47, 0, .ro, 0⟩]
    else []
  else if o < 0x1880000 then
    if o % 0x4000 = 0 then [⟨15, 13, .ro, 0⟩, ⟨12, 10, .ro, 0⟩, ⟨9, 0, .ro, 0⟩] else []
  else []

/-- Fields of a word of the HQ layout (R446, R447 to R449) at an 8-byte aligned offset; doorbells hold no state. -/
def hqFields (o : Nat) : List Fld :=
  if o = 0 then [⟨63, 32, .ro, 0⟩, ⟨1, 0, .ro, 0⟩]
  else if 0x4000 ≤ o ∧ o < 0x4400 then
    if o % 16 = 0 then rwWord
    else [⟨47, 32, .ro, 0⟩, ⟨31, 31, .rw, 0⟩, ⟨30, 30, .ro, 0⟩, ⟨23, 22, .rw, 0⟩, ⟨21, 16, .rw, 0⟩, ⟨15, 0, .rw, 0⟩]
  else if 0x4400 ≤ o ∧ o < 0x4800 then
    if o % 16 = 0 then rwWord
    else [⟨63, 48, .ro, 0⟩, ⟨47, 32, .rw, 0⟩, ⟨31, 31, .rw, 0⟩, ⟨30, 30, .rw, 0⟩, ⟨29, 22, .rw, 0⟩, ⟨21, 16, .rw, 0⟩,
      ⟨15, 0, .rw, 0⟩]
  else []

/-- The word of reset values of a field list. -/
def resetOf (fs : List Fld) : Word := BitVec.ofNat 64 (sumBy (fun f => f.reset * 2 ^ f.lo) fs)

/-- The stored word at a BAR 0 offset. -/
def State.word (s : State) (o : Nat) : Word := Map.getD s.regs o (resetOf (bar0Fields o))

/-- Bits `hi`:`lo` of the stored word at a BAR 0 offset. -/
def State.fld (s : State) (o hi lo : Nat) : Nat := field (s.word o).toNat hi lo

def State.setWord (s : State) (o : Nat) (w : Word) : State := { s with regs := Map.put s.regs o w }

def State.setFld (s : State) (o hi lo v : Nat) : State :=
  s.setWord o (BitVec.ofNat 64 (setField (s.word o).toNat hi lo v))

/-- Add to a counter field that stops at its largest value. -/
def State.satAdd (s : State) (o hi lo n : Nat) : State :=
  s.setFld o hi lo (Nat.min (s.fld o hi lo + n) (2 ^ (hi + 1 - lo) - 1))

/-- Add to a counter field that wraps to 0. -/
def State.wrapAdd (s : State) (o hi lo n : Nat) : State :=
  s.setFld o hi lo ((s.fld o hi lo + n) % 2 ^ (hi + 1 - lo))

/-! ## Queue registers -/

def hqKey (fn o : Nat) : Nat := fn * 2 ^ 16 + o
def oSqBase (q : Nat) : Nat := 0x4000 + 16 * q
def oSqCfg (q : Nat) : Nat := 0x4008 + 16 * q
def oCqBase (q : Nat) : Nat := 0x4400 + 16 * q
def oCqCfg (q : Nat) : Nat := 0x4408 + 16 * q

def State.hqWord (s : State) (fn o : Nat) : Word := Map.getD s.hq (hqKey fn o) (resetOf (hqFields o))
def State.hqFld (s : State) (fn o hi lo : Nat) : Nat := field (s.hqWord fn o).toNat hi lo
def State.setHqWord (s : State) (fn o : Nat) (w : Word) : State := { s with hq := Map.put s.hq (hqKey fn o) w }
def State.setHqFld (s : State) (fn o hi lo v : Nat) : State :=
  s.setHqWord fn o (BitVec.ofNat 64 (setField (s.hqWord fn o).toNat hi lo v))

def State.sqSt (s : State) (fn q : Nat) : SqSt := Map.getD s.sq (fn * 64 + q) ⟨0⟩
def State.cqSt (s : State) (fn q : Nat) : CqSt := Map.getD s.cq (fn * 64 + q) ⟨0, true, 0, none⟩
def State.setSqSt (s : State) (fn q : Nat) (x : SqSt) : State := { s with sq := Map.put s.sq (fn * 64 + q) x }
def State.setCqSt (s : State) (fn q : Nat) (x : CqSt) : State := { s with cq := Map.put s.cq (fn * 64 + q) x }

def State.sqEn (s : State) (fn q : Nat) : Bool := s.hqFld fn (oSqCfg q) 31 31 == 1
def State.cqEn (s : State) (fn q : Nat) : Bool := s.hqFld fn (oCqCfg q) 31 31 == 1
def State.sqHead (s : State) (fn q : Nat) : Nat := s.hqFld fn (oSqCfg q) 47 32
def State.cqTail (s : State) (fn q : Nat) : Nat := s.hqFld fn (oCqCfg q) 63 48
/-- HQ.FNST.STATE (R447). -/
def State.fnState (s : State) (fn : Nat) : Nat := s.hqFld fn 0 1 0

/-! ## Conditions read from registers -/

def State.halted (s : State) : Bool := s.fld oSafStatus 0 0 == 1 || s.fld oLcsState 32 32 == 1
/-- Dormant entry runs, and from then on only WAKE and the reset input are answered (R642, R655). -/
def State.entering (s : State) : Bool := s.fld oPwrState 1 0 == 2
/-- Powered, neither dormant nor entering dormant: the device answers something. -/
def State.awake (s : State) : Bool := s.power.on && !s.power.dormant && !s.entering
/-- Powered, not dormant, not halted: engines run. -/
def State.live (s : State) : Bool := s.awake && !s.halted
/-- Start-up has reached READY (R650). -/
def State.ready (s : State) : Bool := s.live && s.fld oPwrState 2 2 == 1
/-- READY and neither idle nor entering dormant (R655). -/
def State.active (s : State) : Bool := s.ready && s.fld oPwrState 1 0 == 0
/-- A thermal trip stops dispatch (R646). -/
def State.tripped (s : State) : Bool := s.fld oPwrTherm 36 36 == 1
/-- EN of a tenant: tenant 0 is always enabled, others only in DEPLOYED (R560, R591). -/
def State.tenEn (s : State) (t : Nat) : Bool := t == 0 || (s.fuses.lcs == 2 && s.fld (oTenCtrl t) 0 0 == 1)
/-- The node ID of this device (R502). -/
def State.nodeId (s : State) : Nat := s.fld oFabNode 19 0
def State.role (s : State) : Nat := s.fld oFabNode 23 22

end Sys2Proof.Machine
end

