-- ==== Sys2Proof/Machine/Ops.lean ====
section
/-! DEFINITION. The named operations that the commands share: free values, event records and interrupts, host and device
memory, the life of a command from admission to its final entry, completion queues, progress, fragments and exceptions. -/
namespace Sys2Proof.Machine

/-- The answer of a step. -/
abbrev Res := Host.Outcome State Fault Refusal

/-- A step whose conditions do not hold does not take place (assumption 5). -/
def onlyIf (c : Bool) (s : State) (f : State → State) : Res := .next (if c then f s else s)

/-! ## Free values (assumption 1) -/

/-- Free value number `i` from here. -/
def State.draw (s : State) (i : Nat) : Nat := Config.freeNat (s.free + i)

/-- The state after `n` free values were drawn. -/
def State.drew (s : State) (n : Nat) : State := { s with free := s.free + n }

/-! ## Interrupts and events -/

def bar4Key (fn o : Nat) : Nat := fn * 2 ^ 13 + o

/-- Bytes of the MSI-X table of a function (R443, R444). -/
def msixTableEnd (fn : Nat) : Nat := if fn = 0 then 0x1000 else 0x400

def pbaBase (fn : Nat) : Nat := if fn = 0 then 0x1000 else 0x800

/-- A word of BAR 4; vectors are masked after reset, as the PCI Express specification requires (assumption 6). -/
def State.bar4Word (s : State) (fn o : Nat) : Word :=
  Map.getD s.bar4 (bar4Key fn o) (if o % 16 = 8 ∧ o < msixTableEnd fn then 0x100000000#64 else 0)

def State.vecMasked (s : State) (fn v : Nat) : Bool := bit (s.bar4Word fn (16 * v + 8)).toNat 32

def State.setBar4 (s : State) (fn o : Nat) (w : Word) : State := { s with bar4 := Map.put s.bar4 (bar4Key fn o) w }

/-- Send an MSI-X message, or set the vector's pending bit while it is masked (assumption 6). -/
def State.sendMsix (s : State) (fn v : Nat) : State :=
  let o := pbaBase fn + 8 * (v / 64)
  if s.vecMasked fn v then s.setBar4 fn o (s.bar4Word fn o ||| BitVec.ofNat 64 (2 ^ (v % 64)))
  else { s with out := { s.out with msix := s.out.msix ++ [(fn, v)] } }

/-- Raise an in-band interrupt to the board controller. -/
def State.sendIbi (s : State) (code : Nat) : State := { s with out := { s.out with ibi := s.out.ibi ++ [code] } }

/-- NT and TIME of a record written now (R629): network time, which the model leaves free, while SYNC is 1. -/
def State.eventTime (s : State) : Nat × Nat :=
  if s.fld oFabTime 0 0 = 1 then (1, s.draw 0 % 2 ^ 64) else (0, s.clock / 1000 % 2 ^ 64)

/-- The words of an event record (R629, R692). -/
def eventWords (code tenant nt seq time : Nat) (data : List Nat) : List Nat :=
  [code % 65536 * 65536 + tenant % 256 * 256 + evSev code * 64 + nt * 32 + seq % 2 ^ 32 * 2 ^ 32, time] ++
    (data.take 6 ++ List.replicate (6 - data.length) 0)

def State.setWords (s : State) : Nat → List Nat → State
  | _, [] => s
  | o, w :: r => (s.setWord o (BitVec.ofNat 64 w)).setWords (o + 8) r

/-- Write one event record into the ring (R629) and signal it (R631). -/
def State.logEvent (s : State) (code tenant : Nat) (data : List Nat) : State :=
  let wr := s.fld oEvtPtr 24 16
  let (nt, time) := s.eventTime
  let s1 := s.setWords (oEvtRing wr) (eventWords code tenant nt (s.evtSeq + 1) time data)
  let s2 := { s1 with evtSeq := s.evtSeq + 1, free := s.free + nt }
  let s3 := s2.setFld oEvtPtr 24 16 ((wr + 1) % 512)
  let s4 :=
    if s.evtUnread = 512 then
      (s3.setFld oEvtPtr 8 0 ((s.fld oEvtPtr 8 0 + 1) % 512)).satAdd oEvtPtr 63 32 1
    else { s3 with evtUnread := s.evtUnread + 1 }
  let s5 := if s.fld oEvtCtrl 8 8 = 1 ∧ 1 ≤ evSev code then s4.sendMsix 0 (s.fld oEvtCtrl 7 0) else s4
  if s.fld oEvtCtrl 10 9 ≤ evSev code then s5.sendIbi code else s5

/-! ## Host and device memory -/

def hostKey (fn a : Nat) : Nat := fn * 2 ^ 64 + a % 2 ^ 64
def devKey (t a : Nat) : Nat := t * 2 ^ 64 + a % 2 ^ 64

/-- The host refuses a translation of the range (R486). -/
def State.hostRefused (s : State) (fn a n : Nat) : Bool :=
  s.out.refused.any fun (f, b, l) => f == fn && decide (a < b + l ∧ b < a + n)

/-- The device caches the translations of the range under ATS (R443). -/
def State.atsNote (s : State) (fn a n : Nat) : State :=
  let pages := (List.range (ceilDiv (a % 4096 + n) 4096)).map fun i => (fn, a / 4096 + i)
  { s with out := { s.out with atsCache := s.out.atsCache ++ pages.filter fun p => !s.out.atsCache.contains p } }

/-- Read host memory; none where the access fails (R486). -/
def State.hostRd (s : State) (fn a n : Nat) : Option (List Byte) :=
  if s.hostRefused fn a n then none else some (s.out.hostMem.rdN (hostKey fn a) n)

/-- Write host memory; none where the access fails (R486). -/
def State.hostWr (s : State) (fn a : Nat) (bs : List Byte) : Option State :=
  if s.hostRefused fn a bs.length then none
  else some { s with out := { s.out with hostMem := s.out.hostMem.wrN (hostKey fn a) bs } }

/-- The bytes of a failed host write that had already moved: of those that the host takes, a free choice (R486). -/
def State.movePart (s : State) (fn a : Nat) (bs : List Byte) : State :=
  (bs.zipIdx.foldl (fun t p => if s.draw p.2 % 2 = 0 then t else (t.hostWr fn (a + p.2) [p.1]).getD t) s).drew bs.length

/-- The allocation of tenant `t` that holds address `a`, while it is mapped. -/
def State.allocAt (s : State) (t a : Nat) : Option Alloc :=
  s.allocs.find? fun m => m.tenant == t && m.mapped && decide (m.base ≤ a ∧ a < m.base + m.size)

/-- Every byte of the range is mapped and satisfies `p` (R317, R466). -/
def rangeOk (s : State) (t : Nat) (p : Alloc → Bool) : Nat → Nat → Nat → Bool
  | 0, _, n => n == 0
  | fuel + 1, a, n =>
    if n = 0 then true
    else match s.allocAt t a with
      | none => false
      | some m => p m && (let k := m.base + m.size - a; if n ≤ k then true else rangeOk s t p fuel (a + k) (n - k))

def State.devMapped (s : State) (t a n : Nat) : Bool := rangeOk s t (fun _ => true) (s.allocs.length + 1) a n
def State.devWritable (s : State) (t a n : Nat) : Bool :=
  rangeOk s t (fun m => !m.readOnly) (s.allocs.length + 1) a n

def State.devRd (s : State) (t a n : Nat) : List Byte := s.dev.rdN (devKey t a) n

/-- The 64-byte line of a tenant's address, as `State.poison` numbers it. -/
def lineNo (t a : Nat) : Nat := t * 2 ^ 58 + a / 64

/-- Lines that `[a, a + n)` touches. -/
def linesOf (a n : Nat) : List Nat := (List.range (ceilDiv (a % 64 + n) 64)).map fun i => a / 64 + i

/-- The address lies in an inner-only range (R169). -/
def State.innerOnly (s : State) (t a : Nat) : Bool :=
  s.ranges.any fun r => r.tenant == t && decide (r.base ≤ a ∧ a < r.base + r.len)

def State.poisoned (s : State) (t a n : Nat) : Bool :=
  (linesOf a n).any fun l => s.poison.contains (t * 2 ^ 58 + l)

/-- Store into stack memory; a whole line written to a poisoned line clears its poison (R620). -/
def State.devWr (s : State) (t a : Nat) (bs : List Byte) : State :=
  { s with
    dev := s.dev.wrN (devKey t a) bs
    poison := s.poison.filter fun l =>
      !(decide (l / 2 ^ 58 = t ∧ a ≤ l % 2 ^ 58 * 64 ∧ l % 2 ^ 58 * 64 + 64 ≤ a + bs.length)) }

/-- Drop a range's poison and bytes, so that it reads as zero (R321). -/
def Mem.clear (m : Mem) (a n : Nat) : Mem := m.filter fun p => decide (p.1 < a ∨ a + n ≤ p.1)

/-- Read through a space bit (R35): host memory with 0, device space with 1; none where it fails. -/
def State.spaceRd (s : State) (fn : Nat) (dev : Bool) (a n : Nat) : Option (List Byte) :=
  if dev then if s.devMapped fn a n then some (s.devRd fn a n) else none else s.hostRd fn a n

/-- Write through a space bit (R35); none where it fails. -/
def State.spaceWr (s : State) (fn : Nat) (dev : Bool) (a : Nat) (bs : List Byte) : Option State :=
  if dev then if s.devWritable fn a bs.length then some (s.devWr fn a bs) else none else s.hostWr fn a bs

/-! ## Commands -/

/-- Bytes of a descriptor or argument block outside the listed fields are zero (R36). -/
def cleanBut (bs : List Byte) (fields : List (Nat × Nat)) : Bool :=
  bs.zipIdx.all fun p => p.1 == 0 || fields.any fun f => decide (f.1 ≤ p.2 ∧ p.2 < f.1 + f.2)

/-- An address field of an argument block that R35 allows. -/
def addrOk (dev : Bool) (a : Nat) : Bool := a % 8 == 0 && (dev || decide (a < 2 ^ 63))

def Cmd.u (c : Cmd) (o n : Nat) : Nat := leAt c.entry o n
def Cmd.a (c : Cmd) (o n : Nat) : Nat := leAt c.args o n
/-- Bits of the 4-byte word at an offset of the argument block. -/
def Cmd.af (c : Cmd) (o hi lo : Nat) : Nat := fieldAt c.args o hi lo
def Cmd.opc (c : Cmd) : Nat := c.u 0 1
def Cmd.pslot (c : Cmd) : Nat := c.u 4 1
def Cmd.pstep (c : Cmd) : Nat := c.u 6 2
def Cmd.varelm (c : Cmd) : Bool := c.u 0x14 1 % 2 == 1
/-- PROGRAM of a `LAUNCH` of Varelm, 0 for any other command (R457, R462). -/
def Cmd.vr (c : Cmd) : Nat := if c.opc = 1 ∧ c.varelm then c.u 0x10 4 else 0
def Cmd.inFlight (c : Cmd) : Bool := c.phase != .ended
/-- A query of R392. -/
def Cmd.isQuery (c : Cmd) : Bool := c.vr == 0x110 || c.vr == 0x114
/-- A drop or release, which is never stopped once admitted (R310). -/
def Cmd.unstoppable (c : Cmd) : Bool :=
  (c.vr == 0x102 || c.vr == 0x133 || (c.opc == 4 && bit (c.u 0x20 4) 3)) && c.phase != .fetched
/-- ADMIN, QUERY_PROGRESS and ABORT, which a parked device admits (R222, R482). -/
def Cmd.parkFree (c : Cmd) : Bool := c.opc == 5 || c.opc == 6 || c.opc == 7

/-- Varelm entry identifiers of the running image (R34, R100, R225, R320, R439, R504, R507 and the chapter of R239). -/
def varelmEntries : List Nat :=
  [0x101, 0x102, 0x103, 0x104, 0x110, 0x111, 0x112, 0x113, 0x114, 0x120, 0x130, 0x131, 0x132, 0x133, 0x134, 0x140,
   0x141, 0x150, 0x160, 0x161]

/-- A program that inserts or deletes vectors. -/
def Cmd.isUpdate (c : Cmd) : Bool := c.vr == 0x111 || c.vr == 0x112

/-- Updates of a tenant whose final entry is not yet written (R74). -/
def State.openUpdates (s : State) (t : Nat) : List Nat := (s.cmds.filter fun c => c.fn == t && c.isUpdate).map (·.id)

/-- The search or rerank may see the update of this command or not: its completion was not yet posted at the admission (R75). -/
def Cmd.mayMiss (x : Cmd) (update : Nat) : Bool := update != 0 && (decide (x.bound ≤ update) || x.unposted.contains update)

def State.cmd? (s : State) (c : Nat) : Option Cmd := s.cmds.find? fun x => x.id == c
def State.updCmd (s : State) (c : Nat) (f : Cmd → Cmd) : State :=
  { s with cmds := updFirst (fun x => x.id == c) f s.cmds }

/-- `EV_…` data form of a command (R629). -/
def Cmd.evData (c : Cmd) : Nat := c.sq * 65536 + c.cmdid
def State.cmdData (s : State) (c : Nat) : Nat := ((s.cmd? c).map Cmd.evData).getD 0

/-- Record slots in use in a pool. -/
def State.slotsUsed (s : State) (n : Nat) : Nat :=
  (s.cmds.filter fun c => (c.slot.map (·.1)) == some n).length

/-! ## Record slots and the hub tier (R228, R391 to R393) -/

def mib : Nat := 2 ^ 20
def gib : Nat := 2 ^ 30

def State.hubUsed (s : State) : Nat := sumBy (·.bytes) (s.units.filter fun u => u.home == .hub)

/-- Hub-tier region of a pool in MiB: HUBTIER, or what units not yet moved out still take (R228). -/
def State.hubRegion (s : State) : Nat := Nat.max (s.fld oPlcCtrl 19 16) (ceilDiv s.hubUsed (7 * mib))

/-- Slots below this one lie in the request-state region; from it on, SCH places no new record. -/
def State.slotLimit (s : State) : Nat := 4096 - 256 * s.hubRegion

/-- Record slots of a pool in use. -/
def State.slotsOf (s : State) (n : Nat) : List Nat :=
  s.cmds.filterMap fun c => c.slot.bind fun p => if p.1 = n then some p.2 else none

/-- CIS.POOLUSE.CAP: slots beyond the limit leave the region once free in the pool and its partner. -/
def State.poolCap (s : State) (n : Nat) : Nat :=
  s.slotLimit + (((s.slotsOf n ++ s.slotsOf ((n + 4) % 8)).filter fun i => decide (s.slotLimit ≤ i)).eraseDups).length

/-- Bytes of the hub tier: seven data stripes of every 4 KiB unit that no record occupies in any pool (R194, R228). -/
def State.hubSize (s : State) : Nat :=
  7 * 4096 * (256 * s.fld oPlcCtrl 19 16 -
    (((List.range 8).flatMap fun n => (s.slotsOf n).filter fun i => decide (s.slotLimit ≤ i)).eraseDups).length)

/-- A pool takes records while it and its partner are in service (R393). -/
def State.poolUp (s : State) (n : Nat) : Bool := bit (s.fld oCisPoolst 7 0) n && bit (s.fld oCisPoolst 7 0) ((n + 4) % 8)
def State.poolFree (s : State) (n : Nat) : Nat :=
  if s.poolUp n then s.slotLimit - ((s.slotsOf n).filter fun i => decide (i < s.slotLimit)).length else 0
def State.freeSlots (s : State) : Nat := sumBy s.poolFree (List.range 8)

/-- The element with the least key. -/
def minBy {α : Type} (f : α → Nat) : List α → Option α
  | [] => none
  | a :: r => match minBy f r with
    | none => some a
    | some b => if f a ≤ f b then some a else some b

/-- The pool that takes a new record (R393). -/
def State.bestPool (s : State) : Option Nat :=
  minBy (fun n => (8192 - s.poolFree n) * 8 + n) ((List.range 8).filter fun n => decide (0 < s.poolFree n))

/-- The lowest free record slot of a pool. -/
def State.slotIn (s : State) (n : Nat) : Nat :=
  ((List.range 4097).find? fun i => !s.cmds.any fun c => c.slot == some (n, i)).getD 0

/-- CIS.POOLUSE of a pool follows its slots (R403). -/
def State.syncPool (s : State) (n : Nat) : State :=
  let u := s.slotsUsed n
  (s.setFld (oPoolUse n) 15 0 u).setFld (oPoolUse n) 31 16 (Nat.max u (s.fld (oPoolUse n) 31 16))

/-- An admitted command whose record was lost with its pool takes a free slot of an eligible one (R394). -/
def State.reseat (s : State) : State :=
  match s.cmds.find? fun c => c.phase == .admitted && c.slot.isNone && c.parent.isNone, s.bestPool with
  | some c, some n => (s.updCmd c.id fun y => { y with slot := some (n, s.slotIn n) }).syncPool n
  | _, _ => s

/-! ## Progress slots -/

def pslotKey (fn n k : Nat) : Nat := fn * 2 ^ 13 + 16 * n + k

/-- Write both registers of a command's progress slot in one step (R474, R475). -/
def State.setPslot (s : State) (c : Cmd) (st bp pos : Nat) : State :=
  if c.pslot = 0 then s
  else
    let k := pslotKey c.fn c.pslot 8
    let old := (Map.getD s.pslot k (0 : Word)).toNat
    let w := (field old 63 48 + 1) % 65536 * 2 ^ 48 + c.cmdid * 2 ^ 32 + st * 2 ^ 30 + c.sq * 65536 + bp % 65536
    { s with pslot := Map.put (Map.put s.pslot (pslotKey c.fn c.pslot 0) (BitVec.ofNat 64 pos)) k (BitVec.ofNat 64 w) }

/-- The slot still belongs to this command. -/
def State.ownsPslot (s : State) (c : Cmd) : Bool :=
  let w := (Map.getD s.pslot (pslotKey c.fn c.pslot 8) (0 : Word)).toNat
  c.pslot != 0 && c.parent.isNone && field w 47 32 == c.cmdid && field w 21 16 == c.sq && field w 31 30 == 1

/-! ## Completion queues -/

/-- Completion queue of a submission queue. -/
def State.cqOf (s : State) (fn q : Nat) : Nat := s.hqFld fn (oSqCfg q) 21 16

/-- Entries of the queue: QSIZE plus one. -/
def State.cqSize (s : State) (fn q : Nat) : Nat := s.hqFld fn (oCqCfg q) 15 0 + 1

/-- Entries that the device may still write (R453). -/
def State.cqFree (s : State) (fn q : Nat) : Nat :=
  let n := s.cqSize fn q
  n - 1 - (s.cqTail fn q + n - (s.cqSt fn q).head) % n

/-- The 32 bytes of a completion entry (R459). -/
def cqEntry (ty sq cmdid status count value bp : Nat) (p : Bool) (sqhead : Nat) : List Byte :=
  toLe 4 (ty * 2 ^ 22 + sq * 65536 + cmdid) ++ toLe 4 status ++ toLe 8 count ++ toLe 8 value ++ toLe 4 bp ++
    toLe 4 (b2n p * 2 ^ 31 + sqhead)

/-- A submission queue is disabled by a fault (R487). -/
def State.sqFault (s : State) (fn q : Nat) : State :=
  ((s.setHqFld fn (oSqCfg q) 31 31 0).setHqFld fn (oSqCfg q) 30 30 1).logEvent evQueueFault fn [fn, q, 0]

/-- A completion queue is disabled: the entries of the commands fetched through it are dropped from then on (R451, R487). -/
def State.dropCq (s : State) (fn q : Nat) : State :=
  { s with cmds := s.cmds.map fun c => if c.fn = fn ∧ c.cq = some q then { c with cq := none } else c }

/-- A completion queue that faults is disabled, and so is every submission queue bound to it (R487). -/
def State.cqFault (s : State) (fn q : Nat) : State :=
  let s1 := ((s.dropCq fn q).setHqFld fn (oCqCfg q) 31 31 0).logEvent evQueueFault fn [fn, q, 1]
  ((List.range 64).filter fun k => s.sqEn fn k && s.cqOf fn k == q).foldl
    (fun s k => (s.setHqFld fn (oSqCfg k) 31 31 0).setHqFld fn (oSqCfg k) 30 30 1) s1

/-- Send the queue's message and restart its counts (R454). -/
def State.cqSignal (s : State) (fn q : Nat) : State :=
  (s.setCqSt fn q { s.cqSt fn q with unsig := 0, firstUnsig := none }).sendMsix fn (s.hqFld fn (oCqCfg q) 29 22)

/-- Write one entry at TAIL of an enabled queue that is not full (R453), then signal it under R454. -/
def State.cqWrite (s : State) (fn q ty sq cmdid status count value bp : Nat) : State :=
  let st := s.cqSt fn q
  let tail := s.cqTail fn q
  let addr := (s.hqWord fn (oCqBase q)).toNat + 32 * tail
  match s.hostWr fn addr (cqEntry ty sq cmdid status count value bp st.phase (s.sqHead fn sq)) with
  | none => s.cqFault fn q
  | some s1 =>
    let tail' := (tail + 1) % s.cqSize fn q
    let s2 := (s1.setHqFld fn (oCqCfg q) 63 48 tail').setCqSt fn q
      { st with phase := if tail' = 0 then !st.phase else st.phase, unsig := st.unsig + 1,
                firstUnsig := st.firstUnsig.orElse fun _ => some s.clock }
    let th := Nat.max 1 (s.hqFld fn (oCqCfg q) 21 16)
    if s.hqFld fn (oCqCfg q) 30 30 = 1 ∧ th ≤ st.unsig + 1 ∧ s.vecMasked fn (s.hqFld fn (oCqCfg q) 29 22) = false then
      s2.cqSignal fn q
    else s2

/-! ## Progress -/

/-- Commands fetched through a completion queue and not yet completed (R473). -/
def State.cqOwing (s : State) (fn q : Nat) : Nat :=
  (s.cmds.filter fun c => c.fn == fn && c.parent.isNone && c.cq == some q).length

/-- Put a progress pair in force (R471) and write the interim entry that it calls for (R472, R473). -/
def State.setProgress (s : State) (c bp pos : Nat) : State :=
  match s.cmd? c with
  | none => s
  | some x =>
    let s1 := s.updCmd c fun y => { y with bp := bp, pos := pos }
    if x.parent.isSome then s1 else
    let s2 := if s.ownsPslot x then s1.setPslot x 1 bp pos else s1
    match x.cq with
    | none => s2
    | some q =>
    if x.pstep = 0 ∨ bp < x.lastBp + x.pstep ∨ 10000 ≤ bp ∨ s.cqEn x.fn q = false then s2
    else if s.cqOwing x.fn q + 1 ≤ s.cqFree x.fn q then
      (s2.updCmd c fun y => { y with lastBp := bp }).cqWrite x.fn q 1 x.sq x.cmdid stOk 0 pos bp
    else s2.setHqFld x.fn 0 63 32 (Nat.min (s.hqFld x.fn 0 63 32 + 1) 0xFFFFFFFF)

/-- Varelm programs never lower a pair in force (R471, R693). -/
def State.raiseProgress (s : State) (c bp pos : Nat) : State :=
  match s.cmd? c with
  | none => s
  | some x => if bp < x.bp ∨ (bp = x.bp ∧ pos < x.pos) then s else s.setProgress c bp pos

/-! ## Fragments -/

def State.frag? (s : State) (f : Nat) : Option Frag := s.frags.find? fun x => x.id == f
def State.updFrag (s : State) (f : Nat) (g : Frag → Frag) : State :=
  { s with frags := updFirst (fun x => x.id == f) g s.frags }

/-- Bits of the 4-byte word at an offset of the descriptor (R298). -/
def Frag.df (f : Frag) (o hi lo : Nat) : Nat := fieldAt f.desc o hi lo
def Frag.nthreads (f : Frag) : Nat := f.df 4 6 0
def Frag.gang (f : Frag) : Nat := f.df 4 23 20 + 1
def Frag.cis (f : Frag) : Nat := f.df 8 6 0
def Frag.pumps (f : Frag) : Nat := f.df 8 20 17
def Frag.ports (f : Frag) : Nat := f.df 8 25 21
def Frag.tiles (f : Frag) : Nat := f.df 8 28 26
def Frag.outRange (f : Frag) (i : Nat) : Nat × Nat := (leAt f.desc (0x20 + 16 * i) 8, leAt f.desc (0x28 + 16 * i) 8)
/-- A posted Varelm program (R298). -/
def Frag.isVarelm (f : Frag) : Bool := bit (leAt f.desc 4 4) 25

/-- Thread-cycles of a run up to now: NTHREADS times its cycles (R539, R567). -/
def State.runCost (s : State) (f : Frag) : Nat :=
  if f.phase == .running then f.nthreads * ((s.clock - f.dispAt) / 800) else 0

def flowKey (t c : Nat) : Nat := 4 * t + c
def fix16 (n : Nat) : Nat := n * 65536
/-- Class weight W_c and flow weight w(t,c) (R553, R555). -/
def State.classWeight (s : State) (c : Nat) : Nat := s.fld oSchCw (16 * c - 1) (16 * (c - 1))
def State.flowWeight (s : State) (t c : Nat) : Nat := s.fld (oSchTen t + 8) (16 * c - 1) (16 * (c - 1))
def State.flowTag (s : State) (t c : Nat) : Nat := Map.getD s.sched.tag (flowKey t c) 0
def State.classTag (s : State) (c : Nat) : Nat := Map.getD s.sched.h c 0
def State.classV (s : State) (c : Nat) : Nat := Map.getD s.sched.v c 0
/-- E(t,c) with 16 fraction bits, 64 after reset (R539). -/
def State.estimate (s : State) (t c : Nat) : Nat := Map.getD s.sched.est (flowKey t c) (fix16 64)

/-- A tag moved by a signed amount and held at or above a floor. -/
def tagAdjust (floor tag up down : Nat) : Nat := Nat.max floor (tag + up - down)

/-- The corrections of R539 and the cluster time of R567 at a commit or discard. -/
def State.chargeRun (s : State) (f : Frag) : State :=
  if f.phase == .running then
    let cost := s.runCost f
    let a := cost * 64
    let sc := s.sched
    let used := Map.put sc.used f.tenant (Map.getD sc.used f.tenant 0 + cost)
    if f.cls = 0 then { s with sched := { sc with used := used } }
    else
      let k := flowKey f.tenant f.cls
      let w := Nat.max 1 (s.flowWeight f.tenant f.cls)
      let wc := Nat.max 1 (s.classWeight f.cls)
      let e := s.estimate f.tenant f.cls
      { s with sched := { sc with
          used := used
          tag := Map.put sc.tag k (tagAdjust (s.classV f.cls) (s.flowTag f.tenant f.cls) ((a - f.charged) / w)
            ((f.charged - a) / w))
          h := Map.put sc.h f.cls (tagAdjust sc.u (s.classTag f.cls) ((a - f.charged) / wc) ((f.charged - a) / wc))
          est := Map.put sc.est k (e + (a - e) / 8 - (e - a) / 8) } }
  else s

/-- Take fragments out of the machine without commit (R308, R310); their runs are charged. -/
def State.dropFrags (s : State) (p : Frag → Bool) : State :=
  let gone := s.frags.filter p
  let s1 := gone.foldl State.chargeRun s
  { s1 with frags := s1.frags.filter fun f => !p f }

/-- Depth of SCH's queue of a tenant and class. -/
def State.schDepth (s : State) (t c : Nat) : Nat :=
  (s.frags.filter fun f => f.phase == .dispatchable && f.tenant == t && f.cls == c).length

/-- High-water marks are kept while OBS is not 0 (R549). -/
def State.observing (s : State) : Bool := s.fld oSchCtrl 31 30 != 0

/-- The word at an offset is an `SCH.QS` or a `GATE.QS`. -/
def isQueueReg (o : Nat) : Bool :=
  decide (oSchQs 0 0 ≤ o ∧ o < oSchQs 256 0) || decide (oGateCtrl 0 ≤ o ∧ o < oGateCtrl 16 ∧ 0x20 ≤ o % 0x40)

/-- SCH.CTRL.OBS by the periods that apply: start-up, test, recovery, in that order (R549). -/
def State.obsNow (s : State) : Nat :=
  if s.fld oPwrState 2 2 = 0 then 1
  else if s.fld oSchCtrl 24 24 = 1 ∨ s.power.testMode then 2
  else if s.power.recoveryUntil.isSome then 3 else 0

/-- OBS follows the periods; at a change between sampling and marks every queue register is set to 0 (R549). -/
def State.syncObs (s : State) : State :=
  let new := s.obsNow
  let s1 := s.setFld oSchCtrl 31 30 new
  if (s.fld oSchCtrl 31 30 = 0) = (new = 0) then s1 else { s1 with regs := s1.regs.filter fun e => !isQueueReg e.1 }

/-- A trigger of the recovery period: 100 ms from now (R549). -/
def State.recover (s : State) : State := { s with power := { s.power with recoveryUntil := some (s.clock + 100 * 10 ^ 9) } }.syncObs

/-- Raise a queue register's marks (R549). -/
def State.markQueue (s : State) (o depth sojourn : Nat) : State :=
  if s.observing then
    (s.setFld o 47 32 (Nat.max (s.fld o 47 32) (Nat.min depth 0xFFFF))).setFld o 31 0
      (Nat.max (s.fld o 31 0) (Nat.min sojourn 0xFFFFFFFF))
  else s

/-- A fragment becomes dispatchable: tags follow R538, the queue's mark R549. -/
def State.noteWaiting (s : State) (t c : Nat) : State :=
  let s1 :=
    if c = 0 then s
    else
      let s1 := if s.frags.any (fun f => f.phase == .dispatchable && f.cls == c) then s
        else { s with sched := { s.sched with h := Map.put s.sched.h c (Nat.max (s.classTag c) s.sched.u) } }
      if s.schDepth t c = 0 then
        { s1 with sched := { s1.sched with tag := Map.put s1.sched.tag (flowKey t c) (Nat.max (s.flowTag t c) (s.classV c)) } }
      else s1
  s1.markQueue (oSchQs t c) (s.schDepth t c + 1) 0

/-- Add a fragment of a command (R302, R303); a posted compaction runs in class 3 (R72). -/
def State.addFrag (s : State) (c : Cmd) (desc : List Byte) (prog : Nat) (groups : List Nat) (joinOn : Option Nat) : State :=
  let cls := if bit (leAt desc 4 4) 25 && leAt desc 0 4 == 0x113 then 3 else c.cls
  let f : Frag :=
    { id := s.nextFrag, cmd := c.id, tenant := c.fn, cls := cls, desc := desc, prog := prog,
      phase := if joinOn.isSome then .joining else .dispatchable, groups := groups, joinOn := joinOn, members := [],
      posts := [], logs := [], status := none, prog2 := none, held := [], inner := false, reissues := 0, avoid := [],
      skewUsed := false, readyAt := s.clock, dispAt := 0, waitFrom := s.clock, missed := false, charged := 0 }
  let s1 := if joinOn.isSome then s else s.noteWaiting c.fn cls
  { s1 with frags := s1.frags ++ [f], nextFrag := s.nextFrag + 1 }

/-- Joins whose gang of commits has no fragment left become dispatchable (R303). -/
def State.releaseJoins (s : State) : State :=
  s.frags.foldl (fun s f =>
    match f.joinOn with
    | none => s
    | some g =>
      if s.frags.any (fun x => x.groups.contains g && x.id != f.id) then s
      else (s.noteWaiting f.tenant f.cls).updFrag f.id fun x =>
        { x with phase := .dispatchable, joinOn := none, readyAt := s.clock, waitFrom := s.clock }) s

/-! ## Vectors that an insert has written and not committed (R63, R64) -/

/-- Set the tombstone of every entry of a local ID that has none (R66), for the command `by_`. -/
def Coll.bury (c : Coll) (lid by_ : Nat) : Coll :=
  { c with lists := c.lists.map fun l => (l.1, { l.2 with entries := l.2.entries.map fun e =>
      if e.lid = lid ∧ !e.tomb then { e with tomb := true, del := by_ } else e }) }

/-- The committed length of a list passes every entry in it. -/
def Coll.commitList (c : Coll) (l : Nat) : Coll :=
  { c with lists := c.lists.map fun p => if p.1 = l then (p.1, { p.2 with committed := p.2.entries.length }) else p }

/-- A command that ends, or is forgotten, with a vector in commit: no search returns it, and the lists go on without it (R64). -/
def State.dropCommitting (s : State) (x : Cmd) : State :=
  match x.work with
  | .insert _ _ (some n) =>
    { s with colls := s.colls.map fun c =>
        if c.handle = leAt x.args 0 8 then n.due.foldl Coll.commitList (c.bury n.lid 0) else c }
  | _ => s

/-! ## The end of a command -/

/-- Well operations of a command stop at their next interval (R164). -/
def State.stopWells (s : State) (c : Nat) : State :=
  { s with wells := s.wells.map fun w => if w.cmd = c then { w with stop := true } else w }

/-- A command's outcome is decided: its fragments stop without commit, its argument copy is unmapped, its slot shows the
final pair (R302, R306, R308, R310, R475), and its final entry is ready to be written. -/
def State.endCmd (s : State) (c status count value pos bp : Nat) : State :=
  match s.cmd? c with
  | none => s
  | some x =>
    if x.phase == .ended then s
    else
      let s1 := ((s.dropCommitting x).dropFrags fun f => f.cmd == c).stopWells c
      let s2 := { s1 with
        allocs := s1.allocs.filter fun m => !(x.argBase != 0 && m.tenant == x.fn && m.base == x.argBase)
        dev := if x.argBase = 0 then s1.dev else Mem.clear s1.dev (devKey x.fn x.argBase) (roundUp x.args.length 65536) }
      let inner := (s.frags.filter fun f => f.cmd == c).map (·.id)
      let s3 := if s.ownsPslot x then s2.setPslot x 2 bp pos else s2
      let s4 := { s3 with cmds := s3.cmds.filter fun y => !(y.parent.any fun f => inner.contains f) }
      s4.updCmd c fun y => { y with phase := .ended, status := status, count := count, value := value, finalBp := bp, pos := pos }

/-- End a command whose COUNT is `count` and whose VALUE is its final position (R460). -/
def State.finish (s : State) (c status count pos : Nat) : State := s.endCmd c status count pos pos 10000

/-- End a command with COUNT 0 and its position in force as VALUE. -/
def State.fail (s : State) (c status : Nat) : State :=
  s.endCmd c status 0 (((s.cmd? c).map (·.pos)).getD 0) (((s.cmd? c).map (·.pos)).getD 0) 10000

/-- End a command other than `LAUNCH` with nothing transferred. -/
def State.failPlain (s : State) (c status : Nat) : State := s.endCmd c status 0 0 0 10000

/-- Take a command out of the machine without an entry: its slot returns (R451, R479, R487). -/
def State.forgetCmd (s : State) (c : Nat) : State :=
  match s.cmd? c with
  | none => s
  | some x =>
    let inner := (s.frags.filter fun f => f.cmd == c).map (·.id)
    let s1 := { ((s.dropCommitting x).dropFrags fun f => f.cmd == c).stopWells c with
      cmds := s.cmds.filter fun y => y.id != c && !(y.parent.any fun f => inner.contains f)
      allocs := s.allocs.filter fun m => !(x.argBase != 0 && m.tenant == x.fn && m.base == x.argBase) }
    match x.slot with
    | none => s1
    | some (n, _) => (s1.syncPool n).reseat

/-- Handles that a command names, whose drop or release waits for it and makes later ones fail (R39, R243, R469). -/
def Cmd.names (x : Cmd) : List Nat :=
  if x.opc = 4 then if bit (x.u 0x20 4) 3 then [x.u 0x28 8] else []
  else if x.opc = 1 ∧ ¬ x.varelm then [x.u 0x18 8]
  else if x.vr ∈ [0x102, 0x103, 0x104, 0x111, 0x112, 0x113, 0x130, 0x132, 0x133, 0x134] then [x.a 0 8]
  else if x.vr = 0x110 then if x.af 0x14 2 1 = 2 then [x.a 0 8, x.a 0x50 8] else [x.a 0 8]
  else if x.vr = 0x114 then if x.af 0x10 1 0 = 2 then [x.a 0 8, x.a 0x30 8] else [x.a 0 8]
  else if x.vr = 0x131 then [x.a 0 8, x.a 8 8, x.a 0x30 8].filter (· != 0)
  else []

/-- The handle of the object that a placement unit belongs to; an allocation's base otherwise. -/
def unitHandle : UnitId → Nat
  | .fineList h _ => h
  | .listSegment h _ _ => h
  | .centroids h _ => h
  | .idMap h _ => h
  | .dense h _ => h
  | .expert h _ _ => h
  | .kvBlock h _ _ => h
  | .summaries h _ => h
  | .grammarMasks h => h
  | .alloc _ b => b

def unitIsAlloc : UnitId → Bool
  | .alloc _ _ => true
  | _ => false

/-- Units that leave stack memory only by parking (R197), allocations apart. -/
def fixedKind : UnitId → Bool
  | .centroids _ _ => true
  | .idMap _ _ => true
  | .dense _ _ => true
  | .summaries _ _ => true
  | _ => false

/-- Parked units that must be promoted before the command is dispatched (R223). -/
def State.awaitsUnits (s : State) (x : Cmd) : Bool :=
  x.opc != 5 && x.opc != 6 && x.opc != 7 && !x.unstoppable &&
    s.units.any fun u => u.parked && u.home == .flash && !u.lost && u.tenant == x.fn &&
      (unitIsAlloc u.uid || (fixedKind u.uid && x.names.contains (unitHandle u.uid)))

/-- The command is admitted, runs under this opcode or entry identifier, and none that it waits for is in flight. -/
def State.running (s : State) (c : Nat) (p : Cmd → Bool) : Bool :=
  s.active && match s.cmd? c with
  | none => false
  | some x => x.phase == .admitted && p x && (x.slot.isSome || x.parent.isSome) && (!s.tripped || x.parkFree) && !s.awaitsUnits x && !(s.flash.recovering && x.varelm && x.opc == 1) && !x.waits.any fun i => s.cmds.any fun y => y.id == i && y.inFlight

/-- Run `f` on a command that is ready to do its work, else nothing. -/
def runCmd (c : Nat) (s : State) (p : Cmd → Bool) (f : Cmd → State → State) : Res :=
  onlyIf (s.running c p) s fun s => match s.cmd? c with
    | none => s
    | some x => f x s

/-! ## Malformed descriptors (R9, R488, R489) -/

/-- The unpredictable writes of a malformed descriptor, confined to what the tenant may write. -/
def State.havoc (s : State) (t : Nat) : State :=
  (Config.havocWrites s.free).foldl (fun s (a, b) =>
    if s.devWritable t a 1 then s.devWr t a [b]
    else if a < 2 ^ 63 then s else (s.hostWr t (a - 2 ^ 63) [b]).getD s) { s with free := s.free + 1 }

/-- A command with a malformed descriptor, argument block or parameter block: it leaves unpredictable bytes in its
tenant's own memory and either ends with some status that R490 lists or runs on until it is stopped (R9). -/
def State.malformed (s : State) (c : Nat) : State :=
  match s.cmd? c with
  | none => s
  | some x =>
    let s1 := (s.havoc x.fn).drew 4
    if s.draw 1 % 2 = 0 then s1.updCmd c fun y => { y with started := true }
    else s1.endCmd c (statusValues.getD (s.draw 2 % statusValues.length) stOk) (s.draw 3 % 2 ^ 64) (s.draw 4 % 2 ^ 64)
      (s.draw 4 % 2 ^ 64) 10000

/-! ## Handles and objects -/

def State.handleUsed (s : State) (h : Nat) : Bool :=
  h == 0 || s.colls.any (·.handle == h) || s.models.any (·.handle == h) || s.mems.any (·.handle == h) ||
    s.grammars.any (·.handle == h) || s.progs.any (·.handle == h)

/-- A new handle: a free choice among the unused nonzero 64-bit values, the least one where the draw is in use (R38). -/
def State.newHandle (s : State) : Nat :=
  let h := s.draw 0 % 2 ^ 64
  let n := s.colls.length + s.models.length + s.mems.length + s.grammars.length + s.progs.length
  if s.handleUsed h then ((List.range (n + 2)).find? fun i => !s.handleUsed i).getD 0 else h

def State.tookHandle (s : State) : State := s.drew 1

/-- An object whose drop or release was admitted before a command does not exist for it (R39, R469). -/
def liveFor (dying : Option Nat) (seq : Nat) : Bool := match dying with
  | none => true
  | some d => decide (seq < d)

def State.coll? (s : State) (x : Cmd) (h : Nat) : Option Coll :=
  s.colls.find? fun o => o.handle == h && o.tenant == x.fn && liveFor o.dying x.seq
def State.model? (s : State) (x : Cmd) (h : Nat) : Option Model :=
  s.models.find? fun o => o.handle == h && o.tenant == x.fn && liveFor o.dying x.seq
def State.mem? (s : State) (x : Cmd) (h : Nat) : Option AgentMem :=
  s.mems.find? fun o => o.handle == h && o.tenant == x.fn && liveFor o.dying x.seq
def State.gram? (s : State) (x : Cmd) (h : Nat) : Option Grammar :=
  s.grammars.find? fun o => o.handle == h && o.tenant == x.fn && liveFor o.dying x.seq
def State.prog? (s : State) (x : Cmd) (h : Nat) : Option Prog :=
  s.progs.find? fun o => o.handle == h && o.tenant == x.fn && liveFor o.dying x.seq
def State.updColl (s : State) (h : Nat) (f : Coll → Coll) : State :=
  { s with colls := updFirst (fun o => o.handle == h) f s.colls }
def State.updMem (s : State) (h : Nat) (f : AgentMem → AgentMem) : State :=
  { s with mems := updFirst (fun o => o.handle == h) f s.mems }

/-- Record and count a sequence-tag mismatch in a block: the first one of a fragment, or one repeated after its reissue (R137, R138). -/
def State.noteSkew (s : State) (t cmd handle block : Nat) (repeated : Bool) : State :=
  let s1 := s.logEvent evScaleSkew t [s.cmdData cmd, handle, block, if repeated then 2 else 1]
  if repeated then s1.satAdd (oTenSkew t) 63 32 1 else s1.satAdd (oTenSkew t) 31 0 1

def State.updUnit (s : State) (u : UnitId) (f : PUnit → PUnit) : State :=
  { s with units := updFirst (fun x => x.uid == u) f s.units }

/-- A read of a unit by a fragment (R208). -/
def State.heatUnit (s : State) (u : UnitId) : State := s.updUnit u fun x => { x with heat := x.heat + 1 }

/-- A read of the allocation that holds an address. -/
def State.heatAlloc (s : State) (t a : Nat) : State := (s.allocAt t a).elim s fun m => s.heatUnit (.alloc t m.base)

/-- Some unit of the object was lost (R224). -/
def State.objLost (s : State) (h : Nat) : Bool :=
  s.units.any fun u => u.lost && unitHandle u.uid == h && !unitIsAlloc u.uid

end Sys2Proof.Machine
end

