-- ==== Sys2Proof/Machine/HostQueues.lean ====
section
/-! DEFINITION. Host queues: doorbells, queue enables, fetch and admission (R447 to R458, R464, R530 to R533). -/
namespace Sys2Proof.Machine

/-- The host link carries requests: the device is awake, not halted and the link is up (R622, R642). -/
def State.hostUp (s : State) : Bool := s.live && s.power.link

/-- Offset of the HQ layout in BAR 0 of a function (R446). -/
def hqBase (fn : Nat) : Nat := if fn = 0 then 0x200000 else 0

/-! ## Doorbells -/

/-- A doorbell is ignored and recorded when its queue is disabled or its value exceeds QSIZE (R450). -/
def State.badDoorbell (s : State) (fn o v : Nat) : State := s.logEvent evDoorbell fn [fn, hqBase fn + o, v]

/-- A write of a submission tail (R450, R452). A detaching or detached function ignores it (R484, R485). -/
def State.ringSq (s : State) (fn q v : Nat) : State :=
  if s.fnState fn ≠ 0 then s
  else if s.sqEn fn q && decide (v ≤ s.hqFld fn (oSqCfg q) 15 0) then s.setSqSt fn q ⟨v⟩
  else s.badDoorbell fn (0x8000 + 8 * q) v

/-- A write of a completion head (R450, R453). -/
def State.ringCq (s : State) (fn q v : Nat) : State :=
  if s.fnState fn ≠ 0 then s
  else if s.cqEn fn q && decide (v ≤ s.hqFld fn (oCqCfg q) 15 0) then
    s.setCqSt fn q { s.cqSt fn q with head := v }
  else s.badDoorbell fn (0x8004 + 8 * q) v

def execHqSqdb (fn q : Nat) (value : BitVec 32) (s : State) : Res :=
  onlyIf (s.hostUp && decide (fn < 256 ∧ q < 64)) s fun s => s.ringSq fn q (value.toNat % 65536)

def execHqCqdb (fn q : Nat) (value : BitVec 32) (s : State) : Res :=
  onlyIf (s.hostUp && decide (fn < 256 ∧ q < 64)) s fun s => s.ringCq fn q (value.toNat % 65536)

/-! ## Queue configuration -/

/-- A write that covers bits `hi`:`lo` puts the field outside its stated range `a` to `b` (R10, assumption 7). -/
def outside (mask new hi lo a b : Nat) : Bool := field mask hi lo != 0 && !(decide (a ≤ field new hi lo ∧ field new hi lo ≤ b))

/-- A write of SQCFG that R10 or R451 makes ineffective. -/
def State.sqcfgBad (s : State) (fn q mask new : Nat) : Bool :=
  let old := (s.hqWord fn (oSqCfg q)).toNat
  outside mask new 15 0 1 65535 ||
  (bit new 31 && !bit old 31 && (field new 15 0 == 0 || !s.cqEn fn (field new 21 16))) ||
  (bit old 31 && (field new 15 0 != field old 15 0 || field new 21 16 != field old 21 16))

/-- A write of SQCFG that covers the bits of `mask`; `value` is the register's value after it (R448, R451). -/
def State.writeSqcfg (s : State) (fn q : Nat) (mask value : Word) : State :=
  let new := value.toNat
  if s.sqcfgBad fn q mask.toNat new then s
  else
    let wasOn := s.sqEn fn q
    let s1 := (((s.setHqFld fn (oSqCfg q) 31 31 (field new 31 31)).setHqFld fn (oSqCfg q) 23 22 (field new 23 22)).setHqFld
      fn (oSqCfg q) 21 16 (field new 21 16)).setHqFld fn (oSqCfg q) 15 0 (field new 15 0)
    let s2 := if bit new 31 then s1.setHqFld fn (oSqCfg q) 30 30 0 else s1
    if bit new 31 && !wasOn then (s2.setHqFld fn (oSqCfg q) 47 32 0).setSqSt fn q ⟨0⟩ else s2

/-- An enabled submission queue names the completion queue (R451). -/
def State.cqNamed (s : State) (fn q : Nat) : Bool := (List.range 64).any fun k => s.sqEn fn k && s.cqOf fn k == q

/-- MSI-X vectors of a function (R443). -/
def vectorCount (fn : Nat) : Nat := if fn = 0 then 256 else 64

def State.cqcfgBad (s : State) (fn q mask new : Nat) : Bool :=
  let old := (s.hqWord fn (oCqCfg q)).toNat
  outside mask new 15 0 1 65535 || decide (vectorCount fn ≤ field new 29 22) ||
  (bit old 31 && !bit new 31 && s.cqNamed fn q) ||
  (bit old 31 && field new 15 0 != field old 15 0)

/-- A write of CQCFG that covers the bits of `mask`; `value` is the register's value after it (R449, R451). -/
def State.writeCqcfg (s : State) (fn q : Nat) (mask value : Word) : State :=
  let new := value.toNat
  if s.cqcfgBad fn q mask.toNat new then s
  else
    let wasOn := s.cqEn fn q
    let s1 := (s.setHqFld fn (oCqCfg q) 47 16 (field new 47 16)).setHqFld fn (oCqCfg q) 15 0 (field new 15 0)
    if bit new 31 && !wasOn then (s1.setHqFld fn (oCqCfg q) 63 48 0).setCqSt fn q ⟨0, true, 0, none⟩
    else if !bit new 31 && wasOn then s1.dropCq fn q else s1

/-- A write of SQBASE or CQBASE: a multiple of 4,096, and not while EN is 1 (R448, R449, R451). -/
def State.writeQbase (s : State) (fn o : Nat) (en : Bool) (value : Word) : State :=
  if (en && value != s.hqWord fn o) || value.toNat % 4096 != 0 then s else s.setHqWord fn o value

def execHqSqcfgEn (fn q : Nat) (value : Word) (s : State) : Res :=
  onlyIf (s.hostUp && decide (fn < 256 ∧ q < 64)) s fun s => s.writeSqcfg fn q (BitVec.allOnes 64) value

def execHqCqcfgEn (fn q : Nat) (value : Word) (s : State) : Res :=
  onlyIf (s.hostUp && decide (fn < 256 ∧ q < 64)) s fun s => s.writeCqcfg fn q (BitVec.allOnes 64) value

/-! ## Fetch -/

/-- Distance after the element served last, in a ring of `n`. -/
def cyc (n last x : Nat) : Nat := (x + n - last % n - 1) % n

/-- Enabled submission queues with an unfetched entry that HQ may fetch (R452, R484, R561). -/
def State.fetchable (s : State) : List (Nat × Nat) :=
  s.hq.filterMap fun (k, _) =>
    let fn := k / 65536
    let o := k % 65536
    let q := (o - 0x4008) / 16
    if 0x4000 ≤ o ∧ o < 0x4400 ∧ o % 16 = 8 ∧ s.sqEn fn q ∧ s.sqHead fn q ≠ (s.sqSt fn q).tail ∧ s.fnState fn = 0 ∧
      s.tenEn fn then some (fn, q) else none

def State.sqClass (s : State) (fn q : Nat) : Nat := s.hqFld fn (oSqCfg q) 23 22

/-- The queue that HQ fetches from next (R452, R530), and whether it is of class 0. -/
def State.nextFetch (s : State) : Option (Nat × Nat × Bool) :=
  let all := s.fetchable
  let c0 := all.filter fun p => s.sqClass p.1 p.2 == 0
  let pool := if c0.isEmpty then all else c0
  let last := if c0.isEmpty then s.sched.rrLow else s.sched.rrC0
  match minBy (fun p => cyc 256 last p.1) pool with
  | none => none
  | some (fn, _) =>
    match minBy (fun p : Nat × Nat => cyc 64 (Map.getD s.sched.rrQ fn 63) p.2) (pool.filter fun p => p.1 == fn) with
    | none => none
    | some (_, q) => some (fn, q, !c0.isEmpty)

/-- Copy the entry at HEAD and advance HEAD; a failed access disables the queue (R452, R487). -/
def State.fetchEntry (s : State) (fn q : Nat) (isC0 : Bool) : State :=
  let head := s.sqHead fn q
  let addr := (s.hqWord fn (oSqBase q)).toNat + 128 * head
  let s1 := if isC0 then { s with sched := { s.sched with rrC0 := fn, rrQ := Map.put s.sched.rrQ fn q } }
    else { s with sched := { s.sched with rrLow := fn, rrQ := Map.put s.sched.rrQ fn q } }
  match s.hostRd fn addr 128 with
  | none => s1.sqFault fn q
  | some e =>
    let c : Cmd :=
      { id := s.nextCmd, fn := fn, sq := q, cmdid := leAt e 2 2, cq := some (s.cqOf fn q), entry := e, args := [], phase := .fetched,
        cls := s.sqClass fn q, slot := none, seq := 0, bp := 0, pos := 0, lastBp := 0, status := 0, count := 0,
        value := 0, finalBp := 0, started := false, argBase := 0, skewed := [], losses := [], waits := [], parent := none, work := .idle,
        needRoom := 0, admittedAt := 0, bound := 0, unposted := [] }
    let head' := if head = s.hqFld fn (oSqCfg q) 15 0 then 0 else head + 1
    ({ s1.atsNote fn addr 128 with cmds := s.cmds ++ [c], nextCmd := s.nextCmd + 1 }).setHqFld fn (oSqCfg q) 47 32 head'

def execSubmissionFetch (fn q : Nat) (s : State) : Res :=
  match s.nextFetch with
  | none => .next s
  | some (f, k, c0) => onlyIf (s.hostUp && f == fn && k == q) s fun s => s.fetchEntry fn q c0

/-! ## Admission -/

/-- Record slots still held for class 0 (R531). -/
def State.heldSlots (s : State) : Nat :=
  s.fld oSchCtrl 15 0 - (s.cmds.filter fun c => c.slot.isSome && c.cls == 0).length

def State.slotFor (s : State) (cls : Nat) : Bool :=
  s.bestPool.isSome && (cls == 0 || decide (s.heldSlots < s.freeSlots))

/-- Class of the collection or memory that a Varelm program names (R458). -/
def State.namedClass (s : State) (x : Cmd) (args : List Byte) : Nat :=
  let coll := ((s.colls.find? fun o => o.handle == leAt args 0 8 && o.tenant == x.fn).map (·.cls)).getD 0
  let mem (o : Nat) := ((s.mems.find? fun m => m.handle == leAt args o 8 && m.tenant == x.fn).map (·.cls)).getD 0
  if x.vr ∈ [0x102, 0x103, 0x104, 0x110, 0x111, 0x112, 0x113, 0x114] then coll
  else if x.vr = 0x131 then mem 8
  else if x.vr = 0x133 then mem 0
  else 0

/-- Token count of a tenant's class-0 bucket in units of 10⁻¹² tokens (R532). -/
def State.tokensNow (s : State) (t : Nat) : Nat :=
  let burst := s.fld (oSchTen t) 47 32 * 1000000000000
  Nat.min burst (Map.getD s.sched.tokens t burst + s.fld (oSchTen t) 31 0 * (s.clock - Map.getD s.sched.tokenAt t 0))

/-- The class in which a command runs before policing (R458, R72). -/
def State.wantClass (s : State) (x : Cmd) (args : List Byte) : Nat :=
  if x.vr = 0x113 then 3 else Nat.max x.cls (s.namedClass x args)

def State.hasToken (s : State) (t : Nat) : Bool :=
  s.fld (oSchTen t) 31 0 != 0 && decide (1000000000000 ≤ s.tokensNow t)

/-- Bytes of the argument block that admission reads (R464). -/
def Cmd.alen (x : Cmd) : Nat := if x.opc = 1 then x.u 0x28 4 else 0
/-- A `LAUNCH` whose ALEN breaks R462 is malformed. -/
def Cmd.badLaunch (x : Cmd) : Bool :=
  x.opc == 1 && (if x.varelm then x.alen != 128 else decide (65536 < x.alen) || x.alen % 8 != 0)

/-- Actions of R481. -/
def adminActions : List Nat := [1, 2, 3, 0x10, 0x11, 0x20, 0x21]

/-- An entry whose header, opcode, action or `LAUNCH` fields break R456, R457, R462 or R481: malformed. -/
def Cmd.badEntry (x : Cmd) : Bool :=
  x.opc == 0 || decide (7 < x.opc ∨ 10000 < x.pstep) || !cleanBut (x.entry.take 16) [(0, 1), (2, 3), (6, 2)] || x.badLaunch ||
    (x.opc == 1 && (decide (3 < x.u 0x14 4) || (x.varelm && x.u 0x18 8 != 0) || !cleanBut (x.entry.drop 0x10) [(0, 28)])) ||
    (x.opc == 7 && x.fn == 0 && (!adminActions.contains (x.u 0x10 2) || decide (1 < x.u 0x12 2) ||
      !cleanBut (x.entry.drop 0x10) [(0, 4), (8, 8)]))

/-- The argument block, none where its read fails. -/
def State.readArgs (s : State) (x : Cmd) : Option (List Byte) :=
  if x.alen = 0 ∨ x.badLaunch then some [] else s.spaceRd x.fn (bit (x.u 0x14 1) 1) (x.u 0x20 8) x.alen

/-- The class that decides a fetched entry's record slot (R531, R532). -/
def State.admitClass (s : State) (x : Cmd) : Nat :=
  let want := s.wantClass x ((s.readArgs x).getD [])
  if want = 0 ∧ ¬ s.hasToken x.fn then 1 else want

def State.admittedQueries (s : State) : Nat := (s.cmds.filter fun c => c.phase == .admitted && c.isQuery).length

/-- The entry can be admitted now (R392, R482, R531, R595). -/
def State.admissible (s : State) (x : Cmd) : Bool :=
  x.phase == .fetched && (!(s.power.parked || s.power.parking.isSome) || x.parkFree) &&
  (!x.isQuery || decide (s.admittedQueries < 16384)) && s.slotFor (s.admitClass x)

/-- The entry that SCH admits next (R531). -/
def State.nextAdmit (s : State) : Option Cmd :=
  let can := s.cmds.filter s.admissible
  match can.find? fun x => x.cls == 0 with
  | some x => some x
  | none => minBy (fun x => cyc 256 s.sched.rrAdm x.fn) can

/-- Draw one token for a class-0 command, or count its demotion (R532). -/
def State.police (s : State) (t : Nat) (want : Nat) : State :=
  if want ≠ 0 then s
  else if s.hasToken t then
    { s with sched := { s.sched with tokens := Map.put s.sched.tokens t (s.tokensNow t - 1000000000000),
                                     tokenAt := Map.put s.sched.tokenAt t s.clock } }
  else s.satAdd (oSchTen t + 8) 63 48 1

/-- Commands in flight that the new one waits for: a drop or release for those naming its handle, an ADMIN for earlier
ADMIN, a `vr.generate` for one on the same memory, PARK for every admitted command (R39, R222, R264, R469, R481). -/
def State.waitsOf (s : State) (x : Cmd) : List Nat :=
  let earlier := s.cmds.filter fun y => y.phase == .admitted && y.id != x.id
  let park := x.opc == 7 && x.fn == 0 && x.u 0x10 2 == 0x10
  (earlier.filter fun y =>
    (((x.vr == 0x102 || x.vr == 0x133) || (x.opc == 4 && bit (x.u 0x20 4) 3)) && y.fn == x.fn &&
        y.names.any fun h => x.names.contains h) ||
    (x.vr == 0x131 && y.vr == 0x131 && x.a 8 8 != 0 && y.a 8 8 == x.a 8 8 && y.fn == x.fn) ||
    (x.opc == 7 && y.opc == 7) || park).map (·.id)

/-- Cluster time of the tenant's window is exhausted (R567). -/
def State.timeExhausted (s : State) (t : Nat) : Bool :=
  let lim := if t = 0 then 1000 else s.fld (oTenQtime t) 9 0
  lim != 1000 && decide (lim * 64 * s.fld oSafCap 9 0 * 12500000 ≤ Map.getD s.sched.used t 0 * 1000)

/-- Cistern quota in units of 64 KiB (R563). -/
def State.cisQuota (s : State) (t : Nat) : Nat := if t = 0 then 32768 else s.fld (oTenQmem t) 47 32

/-- The largest cistern claim among a Varelm program's fragments: not stated but for its bound (R566). -/
def State.varelmClaim (s : State) (x : Cmd) : Nat :=
  let big := (x.vr == 0x110 || x.vr == 0x114) && (decide (16384 < x.a 8 4) || decide (16384 < x.a 0x2C 2))
  s.draw 0 % (if big then 49 else 17)

/-- A model handle names a live model of one of these kinds (R233). -/
def State.modelKind (s : State) (x : Cmd) (h : Nat) (kinds : List Nat) : Bool := (s.model? x h).any fun m => kinds.contains m.img.kind

/-- The handles of a Varelm program name live objects of the kinds that it takes (R30, R57, R233, R243, R272). -/
def State.handlesOk (s : State) (x : Cmd) : Bool :=
  let coll := (s.coll? x (x.a 0 8)).isSome
  if x.vr = 0x110 then coll && (x.af 0x14 2 1 != 2 || s.modelKind x (x.a 0x50 8) [1])
  else if x.vr = 0x114 then coll && (x.af 0x10 1 0 != 2 || s.modelKind x (x.a 0x30 8) [1])
  else if x.vr ∈ [0x102, 0x103, 0x104, 0x111, 0x112, 0x113] then coll
  else if x.vr = 0x130 then s.modelKind x (x.a 0 8) [0]
  else if x.vr = 0x131 then
    s.modelKind x (x.a 0 8) [2] &&
      (x.a 8 8 == 0 || (s.mem? x (x.a 8 8)).any fun m => m.model == x.a 0 8 && !m.temp) &&
      (x.a 0x30 8 == 0 || (s.gram? x (x.a 0x30 8)).any fun g => (s.model? x (x.a 0 8)).any fun m => g.img.vocab == m.img.vocab)
  else if x.vr = 0x132 then s.modelKind x (x.a 0 8) [2]
  else if x.vr = 0x133 then (s.mem? x (x.a 0 8)).any fun m => !m.temp
  else if x.vr = 0x134 then s.modelKind x (x.a 0 8) [0, 1, 2]
  else true

/-- Status that the objects a command names decide at admission (R30, R57, R224, R233, R464, R504). A lost unit of
`vr.generate` is found after its quota check (R263). -/
def State.namedStatus (s : State) (x : Cmd) : Option Nat :=
  if x.opc ≠ 1 then none
  else if !x.varelm then
    match s.prog? x (x.u 0x18 8) with
    | none => some stBadHandle
    | some p => if p.entries.length ≤ x.u 0x10 4 then some stBadHandle
      else if s.objLost p.handle then some stLost else none
  else if !varelmEntries.contains x.vr || !s.handlesOk x then some stBadHandle
  else if x.vr ≠ 0x102 ∧ x.vr ≠ 0x131 ∧ x.vr ≠ 0x133 ∧ x.names.any s.objLost then some stLost
  else none

/-- Cistern claim that admission tests against the quota (R566). -/
def State.rootClaim (s : State) (x : Cmd) : Nat :=
  if x.opc ≠ 1 then 0
  else if x.varelm then s.varelmClaim x
  else ((s.prog? x (x.u 0x18 8)).bind fun p => p.entries[x.u 0x10 4]?).elim 0 fun e => field e.2.1 6 0

/-- The checks of admission in their order: named objects, cluster time, cistern claim. -/
def State.admitStatus (s : State) (x : Cmd) : Option Nat :=
  match s.namedStatus x with
  | some e => some e
  | none =>
    if x.opc = 7 ∧ x.fn ≠ 0 then some stDenied
    else if x.opc = 1 ∧ (s.timeExhausted x.fn ∨ s.cisQuota x.fn < s.rootClaim x) then some stQuota else none

/-- A drop or release makes its object dead for every later command (R39, R243, R469). -/
def State.markDying (s : State) (x : Cmd) : State :=
  let d (h t : Nat) (old : Option Nat) (want : Nat) (k : Bool) : Option Nat :=
    if k && h == want && t == x.fn && old.isNone then some x.seq else old
  let rel := x.opc == 4 && bit (x.u 0x20 4) 3
  let kind := x.u 0x20 4 % 4
  let h := if x.opc = 4 then x.u 0x28 8 else x.a 0 8
  if x.vr = 0x102 then
    -- it cancels the moves of the collection's units that have not switched (R206)
    { s with colls := s.colls.map fun o => { o with dying := d o.handle o.tenant o.dying h true }
             moves := s.moves.filter fun m => m.switched || unitIsAlloc m.uid || unitHandle m.uid != h ||
               !s.colls.any fun o => o.handle == h && o.tenant == x.fn }
  else if x.vr = 0x133 then { s with mems := s.mems.map fun o => { o with dying := d o.handle o.tenant o.dying h true } }
  else if rel && kind == 0 then
    { s with progs := s.progs.map fun o => { o with dying := d o.handle o.tenant o.dying h true } }
  else if rel && kind == 1 && !s.mems.any (fun m => m.model == h) then
    { s with models := s.models.map fun o => { o with dying := d o.handle o.tenant o.dying h true } }
  else if rel && kind == 2 then
    { s with grammars := s.grammars.map fun o => { o with dying := d o.handle o.tenant o.dying h true } }
  else s

/-- Place a command's record and put its progress slot in force (R392, R393, R475). -/
def State.takeSlot (s : State) (c cls : Nat) (args : List Byte) : State :=
  match s.bestPool, s.cmd? c with
  | some n, some x =>
    let y := { x with phase := .admitted, slot := some (n, s.slotIn n), cls := cls, seq := s.nextSeq, args := args,
                      admittedAt := s.clock, bound := s.nextCmd, unposted := (s.openUpdates x.fn).filter (· != c) }
    let s1 := ({ s with nextSeq := s.nextSeq + 1 }).updCmd c fun _ => { y with waits := s.waitsOf y }
    (s1.syncPool n).setPslot y 1 0 0
  | _, _ => s

/-- Admission of the chosen entry: policing, record slot, argument block and the admission checks. -/
def State.admitCmd (s : State) (x : Cmd) : State :=
  let args := s.readArgs x
  let want := s.wantClass x (args.getD [])
  let cls := s.admitClass x
  let s1 := (s.police x.fn want).takeSlot x.id cls (args.getD [])
  let s2 := if x.cls = 0 then s1 else { s1 with sched := { s1.sched with rrAdm := x.fn } }
  match s2.cmd? x.id with
  | none => s2
  | some y =>
    if x.badEntry then s2.malformed x.id
    else match args with
      | none => s2.fail x.id stBadAddress
      | some _ =>
        let s3 := if x.opc = 1 ∧ x.varelm then s2.drew 1 else s2
        -- an argument block in device space with a poisoned line cannot be read (R168, R619)
        if bit (x.u 0x14 1) 1 && x.alen != 0 && s.poisoned x.fn (x.u 0x20 8) x.alen then s3.fail x.id stHwFault
        else match s2.admitStatus y with
        | some e => s3.fail x.id e
        | none =>
          let s4 := s3.markDying y
          if y.opc = 7 ∧ y.fn = 0 ∧ y.u 0x10 2 = 0x10 then { s4 with power := { s4.power with parking := some x.id } }
          else s4

def execAdmission (c : Nat) (s : State) : Res :=
  match s.nextAdmit with
  | none => .next s
  | some x => onlyIf (s.active && s.fld oLcsState 33 33 == 0 && x.id == c) s fun s => s.admitCmd x

end Sys2Proof.Machine
end

