-- ==== Sys2Proof/Machine/Float.lean ====
section
/-! DEFINITION. Floating-point formats, exact arithmetic and its single rounding (R106 to R113, R121, R360, R690). -/
namespace Sys2Proof.Machine

/-- A floating-point format (R106). `maxFin` and `nan` are bit patterns without sign; `inf` is absent for E4M3. -/
structure Fmt where
  ebits : Nat
  mbits : Nat
  bias : Nat
  maxFin : Nat
  inf : Option Nat
  /-- a finite overflow saturates (R110) -/
  sat : Bool
  nan : Nat
  deriving DecidableEq, Repr

def fE4m3 : Fmt := ⟨4, 3, 7, 0x7E, none, true, 0x7F⟩
def fE5m2 : Fmt := ⟨5, 2, 15, 0x7B, some 0x7C, true, 0x7E⟩
def fF16 : Fmt := ⟨5, 10, 15, 0x7BFF, some 0x7C00, false, 0x7E00⟩
def fBf16 : Fmt := ⟨8, 7, 127, 0x7F7F, some 0x7F80, false, 0x7FC0⟩
def fF32 : Fmt := ⟨8, 23, 127, 0x7F7FFFFF, some 0x7F800000, false, 0x7FC00000⟩

def Fmt.width (f : Fmt) : Nat := 1 + f.ebits + f.mbits

/-- The value a pattern stands for: (−1)^neg · m · 2^e when finite. -/
inductive FVal where
  | nan
  | inf (neg : Bool)
  | fin (neg : Bool) (m : Nat) (e : Int)
  deriving DecidableEq, Repr

/-- The value of a bit pattern (R106, R109). -/
def Fmt.val (f : Fmt) (x : Nat) : FVal :=
  let neg := bit x (f.width - 1)
  let mag := x % 2 ^ (f.width - 1)
  let ex := mag >>> f.mbits
  let man := mag % 2 ^ f.mbits
  if mag > f.inf.getD f.maxFin then .nan
  else if f.inf = some mag then .inf neg
  else if ex = 0 then .fin neg man (1 - (f.bias : Int) - f.mbits)
  else .fin neg (man + 2 ^ f.mbits) ((ex : Int) - f.bias - f.mbits)

def Fmt.isNan (f : Fmt) (x : Nat) : Bool := f.val x == .nan

def Fmt.signed (f : Fmt) (neg : Bool) (mag : Nat) : Nat := b2n neg * 2 ^ (f.width - 1) + mag

/-- What an infinity becomes in a format (R110). -/
def Fmt.ofInf (f : Fmt) (neg : Bool) : Nat := f.signed neg (f.inf.getD f.maxFin)

/-- num·2^e and den as a fraction of naturals. -/
def fracOf (num : Nat) (e : Int) : Nat × Nat :=
  if 0 ≤ e then (num * 2 ^ e.toNat, 1) else (num, 2 ^ (-e).toNat)

/-- ⌊log₂(num/den)⌋ of a positive fraction. -/
def floorLog2 (num den : Nat) : Int :=
  let k : Int := (num.log2 : Int) - den.log2
  let (a, b) := if 0 ≤ k then (num, den * 2 ^ k.toNat) else (num * 2 ^ (-k).toNat, den)
  if a < b then k - 1 else k

/-- Encode integer significand `i` with unit 2^q, handling overflow (R110). -/
def Fmt.pack (f : Fmt) (neg : Bool) (i : Nat) (q : Int) : Nat :=
  let mag := if i < 2 ^ f.mbits then i
    else (q + f.mbits + f.bias).toNat * 2 ^ f.mbits + (i - 2 ^ f.mbits)
  if mag > f.maxFin then (if f.sat then f.signed neg f.maxFin else f.ofInf neg) else f.signed neg mag

/-- The exponent of the unit in which a value with ⌊log₂⌋ = k is represented. -/
def Fmt.unit (f : Fmt) (k : Int) : Int := Max.max k (1 - (f.bias : Int)) - f.mbits

/-- Round the fraction num/den to nearest, ties to even (R110, R360). -/
def Fmt.roundQ (f : Fmt) (neg : Bool) (num den : Nat) : Nat :=
  if num = 0 then f.signed neg 0
  else
    let q := f.unit (floorLog2 num den)
    let (n, d) := if 0 ≤ q then (num, den * 2 ^ q.toNat) else (num * 2 ^ (-q).toNat, den)
    let i := n / d
    let r := n % d
    let up := decide (d < 2 * r) || (decide (2 * r = d) && i % 2 == 1)
    f.pack neg (if up then i + 1 else i) q

/-- Round the fraction num/den toward +∞, for a positive value ("rounded up", R132). -/
def Fmt.roundUpQ (f : Fmt) (num den : Nat) : Nat :=
  if num = 0 then 0
  else
    let q := f.unit (floorLog2 num den)
    let (n, d) := if 0 ≤ q then (num, den * 2 ^ q.toNat) else (num * 2 ^ (-q).toNat, den)
    f.pack false (if n % d = 0 then n / d else n / d + 1) q

/-- ⌊√n⌋, one bit per level. -/
def isqrtBits (n : Nat) : Nat → Nat → Nat
  | 0, r => r
  | b + 1, r => let r' := r + 2 ^ b; isqrtBits n b (if r' * r' ≤ n then r' else r)

def isqrt (n : Nat) : Nat := isqrtBits n (n.log2 / 2 + 1) 0

/-- √(num/den) rounded once to nearest, ties to even. -/
def Fmt.roundSqrt (f : Fmt) (neg : Bool) (num den : Nat) : Nat :=
  if num = 0 then f.signed neg 0
  else
    let q := f.unit (floorLog2 num den / 2)
    let (n, d) := if 0 ≤ q then (num, den * 2 ^ (2 * q.toNat)) else (num * 2 ^ (2 * (-q).toNat), den)
    let i := isqrt (n / d)
    let half := (2 * i + 1) * (2 * i + 1) * d
    let up := decide (half < 4 * n) || (decide (half = 4 * n) && i % 2 == 1)
    f.pack neg (if up then i + 1 else i) q

/-- Round an exact dyadic value; an exact zero takes the sign `zneg`. -/
def Fmt.roundDy (f : Fmt) (zneg : Bool) (i : Int) (e : Int) : Nat :=
  if i = 0 then f.signed zneg 0
  else let (n, d) := fracOf i.natAbs e; f.roundQ (decide (i < 0)) n d

/-- The signed integer m·2^(e−e') at the lower exponent e'. -/
def alignTo (neg : Bool) (m : Nat) (e e' : Int) : Int :=
  let k : Int := ((m * 2 ^ (e - e').toNat : Nat) : Int)
  if neg then -k else k

/-- Sum of two values, rounded once (R360). -/
def Fmt.addV (f : Fmt) : FVal → FVal → Nat
  | .nan, _ => f.nan
  | _, .nan => f.nan
  | .inf a, .inf b => if a = b then f.ofInf a else f.nan
  | .inf a, _ => f.ofInf a
  | _, .inf b => f.ofInf b
  | .fin a m e, .fin b n e2 =>
    let lo := Min.min e e2
    f.roundDy (a && b) (alignTo a m e lo + alignTo b n e2 lo) lo

/-- Exact product of two values. -/
def mulV : FVal → FVal → FVal
  | .nan, _ => .nan
  | _, .nan => .nan
  | .inf a, .inf b => .inf (a != b)
  | .inf a, .fin b n _ => if n = 0 then .nan else .inf (a != b)
  | .fin a m _, .inf b => if m = 0 then .nan else .inf (a != b)
  | .fin a m e, .fin b n e2 => .fin (a != b) (m * n) (e + e2)

def negV : FVal → FVal
  | .nan => .nan
  | .inf a => .inf (!a)
  | .fin a m e => .fin (!a) m e

/-- A value in a format, rounded once (R110). -/
def Fmt.ofVal (f : Fmt) : FVal → Nat
  | .nan => f.nan
  | .inf a => f.ofInf a
  | .fin a m e => let (n, d) := fracOf m e; f.roundQ a n d

def Fmt.add (f : Fmt) (x y : Nat) : Nat := f.addV (f.val x) (f.val y)
def Fmt.sub (f : Fmt) (x y : Nat) : Nat := f.addV (f.val x) (negV (f.val y))
def Fmt.mul (f : Fmt) (x y : Nat) : Nat := f.ofVal (mulV (f.val x) (f.val y))
/-- A · B + C with one rounding (R358). -/
def Fmt.fma (f : Fmt) (x y z : Nat) : Nat := f.addV (mulV (f.val x) (f.val y)) (f.val z)

/-- Quotient rounded once; x/0 is ±∞ and 0/0 is NaN. -/
def Fmt.divV (f : Fmt) : FVal → FVal → Nat
  | .nan, _ => f.nan
  | _, .nan => f.nan
  | .inf _, .inf _ => f.nan
  | .inf a, .fin b _ _ => f.ofInf (a != b)
  | .fin a _ _, .inf b => f.signed (a != b) 0
  | .fin a m e, .fin b n e2 =>
    if n = 0 then (if m = 0 then f.nan else f.ofInf (a != b))
    else
      let (x, y) := fracOf m (e - e2)
      f.roundQ (a != b) x (y * n)

def Fmt.div (f : Fmt) (x y : Nat) : Nat := f.divV (f.val x) (f.val y)

/-- Conversion between formats (R110). -/
def cvtF (src dst : Fmt) (x : Nat) : Nat := dst.ofVal (src.val x)

/-- Integer to floating point (R361). -/
def Fmt.ofInt (f : Fmt) (i : Int) : Nat := f.roundQ (decide (i < 0)) i.natAbs 1

/-- The nearest integer of a finite value, ties to even. -/
def rneInt (neg : Bool) (m : Nat) (e : Int) : Int :=
  let (n, d) := fracOf m e
  let i := n / d
  let r := n % d
  let up := decide (d < 2 * r) || (decide (2 * r = d) && i % 2 == 1)
  let j : Int := ((if up then i + 1 else i : Nat) : Int)
  if neg then -j else j

/-- The exact order of two values; false when either is NaN. -/
def ltV : FVal → FVal → Bool
  | .fin a m e, .fin b n e2 =>
    let lo := Min.min e e2
    decide (alignTo a m e lo < alignTo b n e2 lo)
  | .inf a, .inf b => a && !b
  | .inf a, .fin _ _ _ => a
  | .fin _ _ _, .inf b => !b
  | _, _ => false

def eqV : FVal → FVal → Bool
  | .fin a m e, .fin b n e2 =>
    let lo := Min.min e e2
    decide (alignTo a m e lo = alignTo b n e2 lo)
  | .inf a, .inf b => a == b
  | _, _ => false

/-- `vmin`/`vmax`: NaN wins, −0 is less than +0 (R360). -/
def Fmt.minMax (f : Fmt) (max : Bool) (x y : Nat) : Nat :=
  let a := f.val x
  let b := f.val y
  if a == .nan || b == .nan then f.nan
  else
    let less := ltV a b || (eqV a b && bit x (f.width - 1))
    if less != max then x else y

/-! ## FP32 sums in an order the manual does not state (R121, R132, R689, R690) -/

/-- Remove the element at an index. -/
def pick {α : Type} : List α → Nat → Option (α × List α)
  | [], _ => none
  | a :: r, 0 => some (a, r)
  | a :: r, n + 1 => (pick r n).map (fun p => (p.1, a :: p.2))

/-- Repeatedly replace two terms, chosen by free values, by their rounded sum: every order and every tree of additions. -/
def sumFree (f : Fmt) : Nat → Nat → List FVal → Nat
  | 0, _, l => match l with
    | [] => 0
    | a :: _ => f.ofVal a
  | fuel + 1, k, l => match l with
    | [] => 0
    | [a] => f.ofVal a
    | l =>
      match pick l (Config.freeNat k % l.length) with
      | none => 0
      | some (a, r) =>
        match pick r (Config.freeNat (k + 1) % r.length) with
        | none => f.ofVal a
        | some (b, r') => sumFree f fuel (k + 2) (f.val (f.addV a b) :: r')

/-- The common exponent of finite values, `none` if one is not finite. -/
def finExp : List FVal → Option Int
  | [] => some 0
  | [.fin _ _ e] => some e
  | .fin _ _ e :: r => (finExp r).map (fun e' => Min.min e e')
  | _ :: _ => none

def isNegZero : FVal → Bool
  | .fin true 0 _ => true
  | _ => false

/-- The FP sum of exact terms in an unstated order. Where every partial sum of every order is exact, the order does not
matter and the sum is that exact value; otherwise free values choose the order (assumption 2). -/
def Fmt.sum (f : Fmt) (k : Nat) (l : List FVal) : Nat :=
  match finExp l with
  | some e =>
    let ints : List Int := l.map (fun v => match v with
      | .fin a m e' => alignTo a m e' e
      | _ => 0)
    let tot : Int := ints.foldl (fun a b => a + b) 0
    let mag : Nat := ints.foldl (fun n i => n + i.natAbs) 0
    if mag < 2 ^ (f.mbits + 1) ∧ (1 - (f.bias : Int) - (f.mbits : Int) ≤ e) ∧ e + (f.mbits : Int) < (f.bias : Int) then
      f.roundDy (!l.isEmpty && l.all isNegZero) tot e
    else sumFree f l.length k l
  | none =>
    if l.any (· == .nan) then f.nan else sumFree f l.length k l

/-! ## Functions with a bounded error (R360) -/

/-- Whether the pattern `y` lies within `u` units in the last place of the positive value num/den. -/
def Fmt.within (f : Fmt) (u : Nat) (y num den : Nat) : Bool :=
  match f.val y with
  | .fin false m e =>
    let ulp := f.unit (floorLog2 num den)
    let lo := Min.min e ulp
    let (a, b) := fracOf (m * 2 ^ (e - lo).toNat) lo
    let (c, d) := fracOf (u * 2 ^ (ulp - lo).toNat) lo
    -- |a/b − num/den| ≤ c/d
    let x : Int := ((a * den : Nat) : Int) - ((num * b : Nat) : Int)
    decide (x.natAbs * d ≤ c * (b * den))
  | _ => false

/-- A result within `u` units of the exact positive value num/den: the rounded value moved by a free choice (R360). -/
def Fmt.near (f : Fmt) (u k : Nat) (neg : Bool) (num den : Nat) : Nat :=
  let base := f.roundQ false num den
  let cand := base + Config.freeNat k % (2 * u + 1) - u
  f.signed neg (if f.within u cand num den then cand else base)

/-- e^(n/d) scaled by 2^256 for a fraction below 2^-8, by its series. -/
def expSeries (x : Nat) : Nat → Nat → Nat → Nat
  | 0, _, _ => 0
  | fuel + 1, i, term => term + expSeries x fuel (i + 1) (term * x / 2 ^ 256 / (i + 1))

def squareTimes : Nat → Nat → Nat
  | 0, y => y
  | n + 1, y => squareTimes n (y * y / 2 ^ 256)

/-- e^v for v ≥ 0 below 256, scaled by 2^256. -/
def expFix (num den : Nat) : Nat :=
  squareTimes 16 (expSeries (num * 2 ^ 240 / den) 40 0 (2 ^ 256))

/-- `vexp` (R360). -/
def fexp (k x : Nat) : Nat :=
  match fF32.val x with
  | .nan => fF32.nan
  | .inf neg => if neg then 0 else 0x7F800000
  | .fin neg m e =>
    let (n, d) := fracOf m e
    if 256 * d ≤ n then (if neg then 0 else 0x7F800000)
    else
      let y := expFix n d
      let (a, b) := if neg then (2 ^ 256, y) else (y, 2 ^ 256)
      let r := fF32.near 2 k false a b
      if fF32.roundQ false a b = 0x7F800000 then 0x7F800000 else r

/-- `vrcp` (R360). -/
def frcp (k x : Nat) : Nat :=
  match fF32.val x with
  | .nan => fF32.nan
  | .inf neg => fF32.signed neg 0
  | .fin neg m e =>
    if m = 0 then fF32.ofInf neg
    else
      let (n, d) := fracOf m e
      if fF32.roundQ false d n = 0x7F800000 then fF32.ofInf neg else fF32.near 1 k neg d n

/-- `vrsqrt` (R360): of −0 it is −∞ and of +0 it is +∞, the limits of 1/√x. -/
def frsqrt (k x : Nat) : Nat :=
  match fF32.val x with
  | .nan => fF32.nan
  | .inf neg => if neg then fF32.nan else 0
  | .fin neg m e =>
    if m = 0 then fF32.ofInf neg
    else if neg then fF32.nan
    else
      let (n, d) := fracOf m e
      -- 1/√(n/d) to 2^-200
      let y := isqrt (d * 2 ^ 600 / n)
      fF32.near 1 k false y (2 ^ 300)

/-! ## Quantisation (R111 to R126) -/

/-- `fp16_rne` of a fraction, sign positive. -/
def f16OfQ (num den : Nat) : Nat := fF16.roundQ false num den

def clampI (lo hi x : Int) : Int := if x < lo then lo else if hi < x then hi else x

/-- `quantise` (R125): the code, and whether NANQ is set. -/
def quantise (x : Nat) (s : Nat) (z qmin qmax : Int) : Int × Bool :=
  if fF32.isNan x then (z, true)
  else
    match fF16.val s with
    | .fin _ 0 _ => (z, false)
    | sv =>
      match fF32.val (fF32.divV (fF32.val x) sv) with
      | .nan => (z, false)
      | .inf neg => (if neg then qmin else qmax, false)
      | .fin neg m e =>
        let (n, d) := fracOf m e
        if 2 ^ 24 * d ≤ n then (if neg then qmin else qmax, false)
        else (clampI qmin qmax (rneInt neg m e + z), false)

/-- s · (q − z) in FP32 (R112, R113): exact, a zero scale gives +0, a NaN or infinite scale gives NaN. DESIGN CHOICE (assumption 40): a zero
product with a nonzero scale, q = z, is +0 whatever the scale's sign. -/
def dequantise (q : Int) (s : Nat) (z : Int) : Nat :=
  match fF16.val s with
  | .nan => fF32.nan
  | .inf _ => fF32.nan
  | .fin _ 0 _ => 0
  | .fin neg m e =>
    let i := (if neg then -1 else 1) * (q - z) * (m : Int)
    fF32.roundDy false i e

/-- A value under a loaded FP16 scale (R113): zero gives +0, NaN or infinity gives NaN, any other the exact product. -/
def scaleV (s : Nat) (v : FVal) : FVal :=
  match fF16.val s with
  | .nan => .nan
  | .inf _ => .nan
  | .fin _ 0 _ => .fin false 0 0
  | sv => mulV v sv

def f32Finite (x : Nat) : Bool :=
  match fF32.val x with
  | .fin _ _ _ => true
  | _ => false

/-- The least and the greatest of FP32 values. -/
def min32 (l : List Nat) : Nat := l.foldl (fun m x => if ltV (fF32.val x) (fF32.val m) then x else m) (l.headD 0)
def max32 (l : List Nat) : Nat := l.foldl (fun m x => if ltV (fF32.val m) (fF32.val x) then x else m) (l.headD 0)

/-- An FP32 value rounded to an integer, ties to even. -/
def rne32 (x : Nat) : Int :=
  match fF32.val x with
  | .fin a m e => rneInt a m e
  | _ => 0

/-- `calibrate` (R123, R124) over a group of FP32 values: scale and zero point. Each operation of the code rounds to FP32. -/
def calibrate (xs : List Nat) (qmin qmax : Int) : Nat × Int :=
  match xs.filter f32Finite with
  | [] => (0x3C00, 0)
  | g =>
    let m := min32 g
    let M := max32 g
    if !ltV (fF32.val m) (fF32.val M) then
      if m % 2 ^ 31 = 0 then (0x3C00, 0) else (cvtF fF32 fF16 (fF32.div (m % 2 ^ 31) (fF32.ofInt qmax)), 0)
    else
      let lo := if ltV (fF32.val m) (fF32.val 0) then m else 0
      let hi := if ltV (fF32.val 0) (fF32.val M) then M else 0
      let t := fF32.div (fF32.sub hi lo) (fF32.ofInt (qmax - qmin))
      let s0 := cvtF fF32 fF16 t
      let s := if s0 = 0 then 1 else if 0x7BFF < s0 then 0x7BFF else s0
      (s, clampI qmin qmax (rne32 (fF32.sub (fF32.ofInt qmin) (fF32.div lo (cvtF fF16 fF32 s)))))

end Sys2Proof.Machine
end

