-- ==== Sys2Proof/Machine/Operands.lean ====
section
/-! DEFINITION. Falar instruction words, the registers that name their operands, and the one way in which a thread takes an
instruction: fetch, the checks of R340, the effect, and the exceptions (R337 to R347, R378 to R382). -/
namespace Sys2Proof.Machine

/-! ## Instruction words (R338, R339) -/

def wOpc (w : Nat) : Nat := field w 63 56
def wTy (w : Nat) : Nat := field w 55 52
def wMk (w : Nat) : Nat := field w 51 49
def wX (w : Nat) : Nat := field w 48 48
def wD (w : Nat) : Nat := field w 47 42
def wA (w : Nat) : Nat := field w 41 36
def wB (w : Nat) : Nat := field w 35 30
def wC (w : Nat) : Nat := field w 29 24
def wSub (w : Nat) : Nat := field w 23 0
/-- IMM of the Immediate format, sign-extended to 64 bits. -/
def wImm36 (w : Nat) : Word := BitVec.ofNat 64 (ofSigned 64 (toSigned 36 (field w 35 0)))
/-- OFF of the Memory and Branch formats. -/
def wOff30 (w : Nat) : Int := toSigned 30 (field w 29 0)
/-- IMM of the Long format. -/
def wImm42 (w : Nat) : Int := toSigned 42 (field w 41 0)

/-- The bits of fields that an instruction uses: OPC always, the others as named. -/
def usesTy : Nat := 0xF * 2 ^ 52
def usesMk : Nat := 0x7 * 2 ^ 49
def usesX : Nat := 2 ^ 48
def usesD : Nat := 0x3F * 2 ^ 42
def usesA : Nat := 0x3F * 2 ^ 36
def usesB : Nat := 0x3F * 2 ^ 30
def usesC : Nat := 0x3F * 2 ^ 24
def usesImm36 : Nat := 2 ^ 36 - 1
def usesOff30 : Nat := 2 ^ 30 - 1
def usesImm42 : Nat := 2 ^ 42 - 1
def usesSub (hi lo : Nat) : Nat := 2 ^ (hi + 1) - 2 ^ lo

/-- Every field outside `used` is zero (R340). -/
def onlyUses (w used : Nat) : Bool := w % 2 ^ 56 &&& used == w % 2 ^ 56

/-- OPC values of R347. -/
def opcListed (o : Nat) : Bool :=
  decide ((1 ≤ o ∧ o ≤ 0x1C) ∨ (0x20 ≤ o ∧ o ≤ 0x27) ∨ o = 0x2F ∨ (0x30 ≤ o ∧ o ≤ 0x35) ∨ (0x38 ≤ o ∧ o ≤ 0x3B) ∨
    (0x40 ≤ o ∧ o ≤ 0x56) ∨ (0x58 ≤ o ∧ o ≤ 0x64) ∨ o = 0x68 ∨ (0x6C ≤ o ∧ o ≤ 0x70) ∨ (0x74 ≤ o ∧ o ≤ 0x7D) ∨
    (0x80 ≤ o ∧ o ≤ 0x82) ∨ (0x88 ≤ o ∧ o ≤ 0x8B)) && o != 0x57

/-- Width in bits of a type suffix (R341); 0 for none and for the reserved value. -/
def tyWidth (ty : Nat) : Nat := [0, 4, 8, 16, 32, 64, 8, 16, 32, 64, 8, 8, 16, 16, 32, 0].getD ty 0
def tySigned (ty : Nat) : Bool := decide (1 ≤ ty ∧ ty ≤ 5)
def tyInt (ty : Nat) : Bool := decide (1 ≤ ty ∧ ty ≤ 9)
def tyFloat (ty : Nat) : Bool := decide (10 ≤ ty ∧ ty ≤ 14)
/-- Types of lane arithmetic (R359). -/
def tyLane (ty : Nat) : Bool := decide ((2 ≤ ty ∧ ty ≤ 9) ∨ (12 ≤ ty ∧ ty ≤ 14))
def tyFmt (ty : Nat) : Fmt := if ty = 10 then fE4m3 else if ty = 11 then fE5m2 else if ty = 12 then fF16
  else if ty = 13 then fBf16 else fF32

/-! ## Threads and registers -/

/-- What an instruction sees: its fragment, member and thread, the word and where it runs. -/
structure Ictx where
  t : Tid
  frag : Frag
  mem : Member
  th : Thread
  w : Nat
  deriving DecidableEq, Repr

/-- g0 reads zero (R293). -/
def Thread.rg (th : Thread) (n : Nat) : Word := if n = 0 then 0 else Map.getD th.g n 0
/-- g0 ignores writes (R293). -/
def Thread.setG (th : Thread) (n : Nat) (v : Word) : Thread := if n = 0 then th else { th with g := Map.put th.g n v }
def Thread.rv (th : Thread) (n : Nat) : BitVec 1024 := Map.getD th.v n 0
def Thread.setV (th : Thread) (n : Nat) (x : BitVec 1024) : Thread := { th with v := Map.put th.v n x }
def Thread.rm (th : Thread) (n : Nat) : BitVec 128 := Map.getD th.m n 0
def Thread.setM (th : Thread) (n : Nat) (x : BitVec 128) : Thread := { th with m := Map.put th.m n x }

def Ictx.ga (c : Ictx) : Word := c.th.rg (wA c.w)
def Ictx.gb (c : Ictx) : Word := c.th.rg (wB c.w)
def Ictx.gc (c : Ictx) : Word := c.th.rg (wC c.w)
def Ictx.gd (c : Ictx) : Word := c.th.rg (wD c.w)
/-- b of a scalar instruction: gB, or IMM with X = 1. -/
def Ictx.b (c : Ictx) : Word := if wX c.w = 1 then wImm36 c.w else c.gb
/-- Bytes of the fragment's cistern area. -/
def Ictx.area (c : Ictx) : Nat := c.frag.cis * 65536
def Ictx.tenant (c : Ictx) : Nat := c.frag.tenant
def Ictx.cluster (c : Ictx) : Nat := c.mem.cluster

def State.updMember (s : State) (t : Tid) (f : Member → Member) : State :=
  s.updFrag t.frag fun x => { x with members := x.members.modify t.mem f }

def State.updThread (s : State) (t : Tid) (f : Thread → Thread) : State :=
  s.updMember t fun m => { m with threads := m.threads.modify t.idx f }

/-- Code of a loaded program. -/
def State.code (s : State) (h : Nat) : List Byte := ((s.progs.find? fun p => p.handle == h).map (·.code)).getD []

/-- The thread may take an instruction: the device works, the fragment runs and the thread is neither free nor ended. A
thread that waits at an instruction is asked again (R297, R646). -/
def State.insn (s : State) (t : Tid) : Option Ictx :=
  if s.active && !s.tripped then
    match s.frag? t.frag with
    | none => none
    | some f =>
      if f.phase == .running && !f.isVarelm then
        match f.members[t.mem]? with
        | none => none
        | some m =>
          match m.threads[t.idx]? with
          | none => none
          | some th =>
            if th.st == .free || th.st == .ended then none
            else some ⟨t, f, m, th, leAt (s.code f.prog) th.pc 8⟩
      else none
  else none

/-! ## Cistern area (R301, R384) -/

def cisKey (cluster off : Nat) : Nat := cluster * 2 ^ 22 + off

/-- The bank of a physical cistern offset, and the word within it (R383). -/
def cisBank (x : Nat) : Nat := x / 64 % 32
def cisWord (x : Nat) : Nat := x / 2048
def Ictx.inArea (c : Ictx) (off n : Nat) : Bool := decide (off + n ≤ c.area)
def Ictx.cisRd (c : Ictx) (s : State) (off n : Nat) : List Byte := s.cis.rdN (cisKey c.cluster (c.mem.base + off)) n
def Ictx.cisWr (c : Ictx) (s : State) (off : Nat) (bs : List Byte) : State :=
  { s with cis := s.cis.wrN (cisKey c.cluster (c.mem.base + off)) bs }

/-! ## Exceptions -/

/-- CODE of R379. -/
def xIllegal : Nat := 1
def xOperand : Nat := 2
def xAlign : Nat := 3
def xTranslation : Nat := 4
def xCistern : Nat := 5
def xStore : Nat := 6
def xCommit : Nat := 7
def xPump : Nat := 8
def xWell : Nat := 9
def xUnsealed : Nat := 10
def xTrap : Nat := 11

/-- The four words of the exception record (R382). -/
def excRecord (c : Ictx) (cmdid code addr unit detail : Nat) : List Nat :=
  [addr % 2 ^ 64, c.w,
   c.th.pc % 2 ^ 32 * 2 ^ 32 + code * 2 ^ 24 + c.cluster % 512 * 2 ^ 15 + c.t.idx % 64 * 2 ^ 9 + unit % 16 * 32 + 1,
   cmdid * 2 ^ 48 + detail % 2 ^ 32]

/-- Take an exception (R308, R378, R381, R382): the record goes into the event log, and into `TEN.EXC0` to `TEN.EXC3`
unless they hold one; the fragment is counted; the command ends and its fragments stop without commit. -/
def State.raise (s : State) (c : Ictx) (code addr unit detail : Nat) : State :=
  let t := c.tenant
  let cmdid := ((s.cmd? c.frag.cmd).map (·.cmdid)).getD 0
  let r := excRecord c cmdid code addr unit detail
  let s1 := if s.fld (oTenExc t 2) 0 0 = 1 then s else s.setWords (oTenExc t 0) r
  let s2 := (s1.satAdd (oTenFrag t) 31 0 1).logEvent evProgramFault t r
  s2.fail c.frag.cmd (if code = xUnsealed then stUnsealed else stProgramFault)

/-! ## Discard and reissue -/

/-- What a discarded run has left at work goes with it: its tensor operations, its comb contexts, the wakes it waited for; its well
operations stop at the end of their interval and serve no fragment any more. -/
def State.cutRun (s : State) (f : Nat) : State :=
  { s with
    clusters := s.clusters.map fun e => (e.1, { e.2 with
      tensor := e.2.tensor.filter fun o => o.frag != f
      ctx := e.2.ctx.filter fun c => c.2.frag != f
      waking := e.2.waking.filter (· != f) })
    wells := s.wells.map fun w => if w.frag = f then { w with frag := 0, stop := true } else w }

/-- Discard a fragment's run and make it dispatchable again from its unchanged descriptor (R309). -/
def State.redispatch (s : State) (f : Nat) : State :=
  match s.frag? f with
  | none => s
  | some x =>
    let s1 := s.chargeRun x
    ((s1.noteWaiting x.tenant x.cls).cutRun f).updFrag f fun x =>
      { x with phase := .dispatchable, members := [], posts := [], logs := [], status := none, prog2 := none, held := [],
               inner := false, readyAt := s.clock, dispAt := 0, waitFrom := s.clock, missed := false, charged := 0 }

/-- A run lost to a hardware fault: reissued on other clusters up to three times, then the command ends (R309, R336). -/
def State.loseRun (s : State) (f : Nat) : State :=
  match s.frag? f with
  | none => s
  | some x =>
    if 3 ≤ x.reissues then s.fail x.cmd stHwFault
    else ((s.satAdd (oTenFrag x.tenant) 63 32 1).redispatch f).updFrag f fun y =>
      { y with reissues := y.reissues + 1, avoid := x.members.map (·.cluster) }

/-! ## One instruction -/

/-- What an instruction does to the machine. -/
inductive Eff where
  /-- it retires, and the thread goes on with the next word -/
  | done (s : State)
  /-- it retires, and the thread goes on at `pc` -/
  | goto (s : State) (pc : Nat)
  /-- it has not retired: the thread stays at it in state `st` (R297) -/
  | wait (st : ThreadState)
  /-- as `wait`, with part of its work done -/
  | pause (s : State) (st : ThreadState)
  /-- it raises an exception and does nothing else -/
  | exc (code addr unit detail : Nat)
  /-- a sealed line it read is uncorrectable: the command ends with `ST_HW_FAULT` (R619) -/
  | hwFault
  /-- an inner-only line it read is uncorrectable: the run is lost (R178) -/
  | lost
  deriving DecidableEq, Repr

def applyEff (s : State) (c : Ictx) : Eff → State
  | .done s' => s'.updThread c.t fun th => { th with st := .ready, pc := th.pc + 8 }
  | .goto s' pc => s'.updThread c.t fun th => { th with st := .ready, pc := pc }
  | .wait st => s.updThread c.t fun th => { th with st := st }
  | .pause s' st => s'.updThread c.t fun th => { th with st := st }
  | .exc code addr unit detail => s.raise c code addr unit detail
  | .hwFault => s.fail c.frag.cmd stHwFault
  | .lost => s.loseRun c.t.frag

/-- Take the instruction at a thread's program counter when it is the row's: the word that R340 refuses raises the
illegal-instruction exception, any other has its effect. -/
def runInsn (opc : Nat) (legal : Nat → Bool) (eff : Ictx → State → Eff) (t : Tid) (s : State) : Res :=
  match s.insn t with
  | none => .next s
  | some c =>
    if wOpc c.w ≠ opc then .next s
    else .next (applyEff s c (if legal c.w then eff c s else .exc xIllegal 0 0 0))

/-- The state with general register D written. -/
def Ictx.putG (c : Ictx) (s : State) (v : Word) : State := s.updThread c.t fun th => th.setG (wD c.w) v
def Ictx.putV (c : Ictx) (s : State) (x : BitVec 1024) : State := s.updThread c.t fun th => th.setV (wD c.w) x
def Ictx.putM (c : Ictx) (s : State) (x : BitVec 128) : State := s.updThread c.t fun th => th.setM (wD c.w) x

/-- First exception of a list of conditions in the order of R380, else the effect. -/
def firstExc : List (Bool × Eff) → Eff → Eff
  | [], e => e
  | (true, x) :: _, _ => x
  | (false, _) :: r, e => firstExc r e

end Sys2Proof.Machine
end

