-- ==== Sys2Proof/Machine/Flags.lean ====
section
/-! DEFINITION. The sticky flags of s0 FLAGS (R345): where each is set. Flags never raise an exception and are cleared only by
`swr`. -/
namespace Sys2Proof.Machine

def flagDivz : Nat := 0
def flagSat : Nat := 1
def flagNanq : Nat := 2
def flagFpinv : Nat := 3
def flagIo : Nat := 4

/-- FLAGS with bit `i` set. -/
def setFlagBit (f : Word) (i : Nat) : Word := f ||| BitVec.ofNat 64 (2 ^ i)

/-- Set a sticky flag of the issuing thread. -/
def Ictx.setFlag (c : Ictx) (s : State) (i : Nat) : State :=
  s.updThread c.t fun th => { th with flags := setFlagBit th.flags i }

/-- Set a flag where a condition holds. -/
def Ictx.flagIf (c : Ictx) (p : Bool) (i : Nat) (s : State) : State := if p then c.setFlag s i else s

/-- FPINV: a floating-point operation made a NaN from operands that were not NaN. -/
def madeNan (f : Fmt) (ops : List Nat) (r : Nat) : Bool := f.isNan r && !ops.any f.isNan

/-- A load returned a line with `INNER_ONLY`: the thread's IO flag, and the fragment's own record (R314, R346). -/
def Ictx.noteInner (c : Ictx) (p : Bool) (s : State) : State :=
  if p then (c.setFlag s flagIo).updFrag c.t.frag fun f => { f with inner := true } else s

end Sys2Proof.Machine
end

