-- ==== Sys2Proof/Machine/Scalar.lean ====
section
/-! DEFINITION. Scalar instructions, branches and traps (R345, R348 to R350). -/
namespace Sys2Proof.Machine

/-- Words of the two-operand instructions: Register with X = 0, Immediate with X = 1 (R347). -/
def aluLegal (w : Nat) : Bool :=
  if wX w = 1 then onlyUses w (usesX ||| usesD ||| usesA ||| usesImm36) else onlyUses w (usesD ||| usesA ||| usesB)

/-- gD = f(gA, b), and nothing else. -/
def aluOp (opc : Nat) (f : Word → Word → Word) (t : Tid) (s : State) : Res :=
  runInsn opc aluLegal (fun c s => .done (c.putG s (f c.ga c.b))) t s

/-- A division: DIVZ is set when b is zero. -/
def divOp (opc : Nat) (f : Word → Word → Word) (t : Tid) (s : State) : Res :=
  runInsn opc aluLegal (fun c s => .done (c.putG (if c.b = 0 then c.setFlag s flagDivz else s) (f c.ga c.b))) t s

def oneOp (opc : Nat) (f : Word → Word) (t : Tid) (s : State) : Res :=
  runInsn opc (fun w => onlyUses w (usesD ||| usesA)) (fun c s => .done (c.putG s (f c.ga))) t s

def mulhS (a b : Word) : Word := BitVec.ofNat 64 (ofSigned 128 (a.toInt * b.toInt) / 2 ^ 64)
def mulhU (a b : Word) : Word := BitVec.ofNat 64 (a.toNat * b.toNat / 2 ^ 64)
/-- Signed quotient toward zero; −2^63 / −1 wraps to −2^63 (R348). -/
def divS (a b : Word) : Word := if b = 0 then -1#64 else BitVec.ofInt 64 (Int.tdiv a.toInt b.toInt)
def remS (a b : Word) : Word := if b = 0 then a else BitVec.ofInt 64 (Int.tmod a.toInt b.toInt)
def divU (a b : Word) : Word := if b = 0 then -1#64 else BitVec.ofNat 64 (a.toNat / b.toNat)
def remU (a b : Word) : Word := if b = 0 then a else BitVec.ofNat 64 (a.toNat % b.toNat)
def shAmt (b : Word) : Nat := b.toNat % 64
def ofBool (p : Bool) : Word := if p then 1 else 0
def clzW (a : Word) : Word := BitVec.ofNat 64 (if a = 0 then 64 else 63 - a.toNat.log2)
def popN : Nat → Nat → Nat
  | 0, _ => 0
  | n + 1, x => x % 2 + popN n (x / 2)
def popcW (a : Word) : Word := BitVec.ofNat 64 (popN 64 a.toNat)

def execAdd (t : Tid) (s : State) : Res := aluOp 0x01 (fun a b => a + b) t s
def execSub (t : Tid) (s : State) : Res := aluOp 0x02 (fun a b => a - b) t s
def execMul (t : Tid) (s : State) : Res := aluOp 0x03 (fun a b => a * b) t s
def execMulh (t : Tid) (s : State) : Res := aluOp 0x04 (mulhS) t s
def execMulhu (t : Tid) (s : State) : Res := aluOp 0x05 (mulhU) t s
def execDiv (t : Tid) (s : State) : Res := divOp 0x06 (divS) t s
def execDivu (t : Tid) (s : State) : Res := divOp 0x07 (divU) t s
def execRem (t : Tid) (s : State) : Res := divOp 0x08 (remS) t s
def execRemu (t : Tid) (s : State) : Res := divOp 0x09 (remU) t s
def execAnd (t : Tid) (s : State) : Res := aluOp 0x0A (fun a b => a &&& b) t s
def execOr (t : Tid) (s : State) : Res := aluOp 0x0B (fun a b => a ||| b) t s
def execXor (t : Tid) (s : State) : Res := aluOp 0x0C (fun a b => a ^^^ b) t s
def execShl (t : Tid) (s : State) : Res := aluOp 0x0D (fun a b => a <<< shAmt b) t s
def execShr (t : Tid) (s : State) : Res := aluOp 0x0E (fun a b => a >>> shAmt b) t s
def execSra (t : Tid) (s : State) : Res := aluOp 0x0F (fun a b => a.sshiftRight (shAmt b)) t s
def execSlt (t : Tid) (s : State) : Res := aluOp 0x10 (fun a b => ofBool (a.slt b)) t s
def execSltu (t : Tid) (s : State) : Res := aluOp 0x11 (fun a b => ofBool (a.ult b)) t s
def execMin (t : Tid) (s : State) : Res := aluOp 0x12 (fun a b => if b.slt a then b else a) t s
def execMax (t : Tid) (s : State) : Res := aluOp 0x13 (fun a b => if a.slt b then b else a) t s
def execMinu (t : Tid) (s : State) : Res := aluOp 0x14 (fun a b => if b.ult a then b else a) t s
def execMaxu (t : Tid) (s : State) : Res := aluOp 0x15 (fun a b => if a.ult b then b else a) t s
def execClz (t : Tid) (s : State) : Res := oneOp 0x16 (clzW) t s
def execPopc (t : Tid) (s : State) : Res := oneOp 0x17 (popcW) t s

def execSel (t : Tid) (s : State) : Res :=
  runInsn 0x18 (fun w => onlyUses w (usesD ||| usesA ||| usesB ||| usesC))
    (fun c s => .done (c.putG s (if c.gc ≠ 0 then c.ga else c.gb))) t s

def execLi (t : Tid) (s : State) : Res :=
  runInsn 0x19 (fun w => onlyUses w (usesD ||| usesImm42))
    (fun c s => .done (c.putG s (BitVec.ofInt 64 (wImm42 c.w)))) t s

/-- IMM 41:22 must be zero. -/
def execLhi (t : Tid) (s : State) : Res :=
  runInsn 0x1A (fun w => onlyUses w (usesD ||| usesSub 21 0))
    (fun c s => .done (c.putG s (BitVec.ofNat 64 (field c.w 21 0 * 2 ^ 42 + c.gd.toNat % 2 ^ 42)))) t s

/-- The invalid-operand exception of an operand field that has no descriptor. -/
def badOperand : Eff := .exc xOperand 0 0 0xFFFFFFFF

/-- Value of special register `n` (R345); CYCLE is a free value (assumption 8). -/
def Ictx.special (c : Ictx) (s : State) (n : Nat) : Word :=
  if n = 0 then c.th.flags
  else if n = 1 then BitVec.ofNat 64 (s.draw 0)
  else if n = 2 then BitVec.ofNat 64 (c.tenant * 2 ^ 11 + c.frag.cls * 2 ^ 9 + c.cluster)
  else BitVec.ofNat 64 (c.frag.logs.length * 256 + c.frag.posts.length)

/-- The special register number lies in A, from 0 to 3. -/
def execSrd (t : Tid) (s : State) : Res :=
  runInsn 0x1B (fun w => onlyUses w (usesD ||| usesA))
    (fun c s => if 3 < wA c.w then badOperand
      else .done (c.putG (if wA c.w = 1 then s.drew 1 else s) (c.special s (wA c.w)))) t s

/-- The special register number lies in D and the value in gA (assumption 9); only FLAGS has fields that a write changes. -/
def execSwr (t : Tid) (s : State) : Res :=
  runInsn 0x1C (fun w => onlyUses w (usesD ||| usesA))
    (fun c s => if 3 < wD c.w then badOperand
      else .done (if wD c.w = 0 then s.updThread c.t fun th => { th with flags := th.flags &&& ~~~(c.ga &&& 0x1F#64) }
        else s)) t s

/-! ## Branches (R349) -/

/-- Go to a target, or raise the exception that it calls for. -/
def Ictx.jump (c : Ictx) (s s' : State) (target : Nat) : Eff :=
  if target % 8 ≠ 0 then .exc xAlign target 0 0
  else if (s.code c.frag.prog).length ≤ target then .exc xTranslation target 0 0
  else .goto s' target

/-- The program counter moved by a number of instructions, modulo 2^64. -/
def Ictx.rel (c : Ictx) (n : Int) : Nat := ofSigned 64 ((c.th.pc : Int) + 8 * n)

def branchOp (opc : Nat) (p : Word → Word → Bool) (t : Tid) (s : State) : Res :=
  runInsn opc (fun w => onlyUses w (usesA ||| usesB ||| usesOff30))
    (fun c s => if p c.ga c.gb then c.jump s s (c.rel (wOff30 c.w)) else .done s) t s

def execBeq (t : Tid) (s : State) : Res := branchOp 0x20 (fun a b => a == b) t s
def execBne (t : Tid) (s : State) : Res := branchOp 0x21 (fun a b => a != b) t s
def execBlt (t : Tid) (s : State) : Res := branchOp 0x22 (fun a b => a.slt b) t s
def execBge (t : Tid) (s : State) : Res := branchOp 0x23 (fun a b => !a.slt b) t s
def execBltu (t : Tid) (s : State) : Res := branchOp 0x24 (fun a b => a.ult b) t s
def execBgeu (t : Tid) (s : State) : Res := branchOp 0x25 (fun a b => !a.ult b) t s

/-- PC + 8, the value that `jal` and `jalr` write. -/
def Ictx.link (c : Ictx) : Word := BitVec.ofNat 64 (c.th.pc + 8)

def execJal (t : Tid) (s : State) : Res :=
  runInsn 0x26 (fun w => onlyUses w (usesD ||| usesImm42))
    (fun c s => c.jump s (c.putG s c.link) (c.rel (wImm42 c.w))) t s

def execJalr (t : Tid) (s : State) : Res :=
  runInsn 0x27 (fun w => onlyUses w (usesD ||| usesA ||| usesImm36))
    (fun c s => c.jump s (c.putG s c.link) (c.ga + wImm36 c.w).toNat) t s

/-- `trap`, and every word whose OPC is reserved: those raise the illegal-instruction exception (R340, R347). -/
def execTrap (t : Tid) (s : State) : Res :=
  match s.insn t with
  | none => .next s
  | some c =>
    if opcListed (wOpc c.w) then
      runInsn 0x2F (fun w => onlyUses w (usesSub 15 0)) (fun c _ => .exc xTrap 0 0 (field c.w 15 0)) t s
    else .next (applyEff s c (.exc xIllegal 0 0 0))

end Sys2Proof.Machine
end

