-- ==== Sys2Proof/Machine/MemoryInstr.lean ====
section
/-! DEFINITION. Line caches, loads, stores, atomics, cache maintenance and fences (R311 to R327, R352 to R357). -/
namespace Sys2Proof.Machine

/-! ## Line caches (R323 to R325) -/

def State.cluster (s : State) (l : Nat) : Cluster := Map.getD s.clusters l Cluster.reset
def State.setCluster (s : State) (l : Nat) (c : Cluster) : State := { s with clusters := Map.put s.clusters l c }
def State.updCluster (s : State) (l : Nat) (f : Cluster → Cluster) : State := s.setCluster l (f (s.cluster l))

def Line.isAt (x : Line) (t ln : Nat) : Bool := x.tenant == t && x.line == ln

/-- Dirty bytes of a line with their flags. -/
def Line.masked (x : Line) : List (Bool × Byte) :=
  (x.data.zipIdx).map fun p => (x.dirty.getLsbD p.2, p.1)

/-- Write the dirty bytes of a line back to stack memory; a wholly dirty line clears its poison (R323, R620). -/
def State.writeBack (s : State) (x : Line) : State :=
  if x.dirty = BitVec.allOnes 64 then s.devWr x.tenant (x.line * 64) x.data
  else { s with dev := s.dev.wrMask (devKey x.tenant (x.line * 64)) x.masked }

/-- Evict one line, chosen freely, when the cache holds 1,024. -/
def State.evict (s : State) (l : Nat) : State :=
  let c := s.cluster l
  if c.lines.length < 1024 then s
  else
    let i := s.draw 0 % c.lines.length
    let s1 := ((c.lines[i]?).elim s s.writeBack).drew 1
    s1.updCluster l fun c => { c with lines := c.lines.eraseIdx i }

/-- The line as the cache of cluster `l` holds it, filled from stack memory first if need be (R170, R323). -/
def State.fill (s : State) (l t ln : Nat) : State :=
  if (s.cluster l).lines.any (·.isAt t ln) then s
  else
    let x : Line := { tenant := t, line := ln, data := s.devRd t (ln * 64) 64, dirty := 0,
                      inner := s.innerOnly t (ln * 64) }
    ((s.evict l).heatAlloc t (ln * 64)).updCluster l fun c => { c with lines := c.lines ++ [x] }

def State.fillRange (s : State) (l t a n : Nat) : State := (linesOf a n).foldl (fun s ln => s.fill l t ln) s

/-- A range's lines in the cache of a cluster, after they were filled. -/
def State.cached (s : State) (l t a n : Nat) : List Line :=
  (linesOf a n).filterMap fun ln => (s.cluster l).lines.find? (·.isAt t ln)

def State.cachedBytes (s : State) (l t a n : Nat) : List Byte :=
  (((s.cached l t a n).flatMap (·.data)).drop (a % 64)).take n

/-- A line that a fill would read is poisoned: uncorrectable data. -/
def State.badFill (s : State) (l t a n : Nat) : Bool :=
  (linesOf a n).any fun ln => s.poison.contains (t * 2 ^ 58 + ln) && !(s.cluster l).lines.any (·.isAt t ln)

/-- What an access to a range with uncorrectable lines comes to: an error of a sealed line, or of inner-only lines alone. -/
def State.uncorrectable (s : State) (t a n : Nat) : Eff :=
  if (linesOf a n).any fun ln => s.poison.contains (t * 2 ^ 58 + ln) && !s.innerOnly t (ln * 64) then .hwFault else .lost

/-- Merge one byte into a held line. -/
def Line.put (x : Line) (off : Nat) (b : Byte) : Line :=
  { x with data := x.data.set off b, dirty := x.dirty ||| BitVec.ofNat 64 (2 ^ off) }

/-- Store bytes where the mask is set, through the line cache (write-allocate). -/
def State.cacheWr (s : State) (l t a : Nat) (bs : List (Bool × Byte)) : State :=
  let s1 := s.fillRange l t a bs.length
  s1.updCluster l fun c =>
    { c with lines := bs.zipIdx.foldl (fun ls p =>
        if p.1.1 then updFirst (fun x : Line => x.isAt t ((a + p.2) / 64)) (fun x => x.put ((a + p.2) % 64) p.1.2) ls
        else ls) c.lines }

/-- Write back and drop the lines that satisfy `p` (R304 step 2, R327). -/
def State.flushDrop (s : State) (l : Nat) (p : Line → Bool) : State :=
  let c := s.cluster l
  ((c.lines.filter p).foldl State.writeBack s).updCluster l fun c => { c with lines := c.lines.filter fun x => !p x }

/-- Drop the lines that satisfy `p` without writing them back. -/
def State.dropLines (s : State) (l : Nat) (p : Line → Bool) : State :=
  s.updCluster l fun c => { c with lines := c.lines.filter fun x => !p x }

/-! ## Addresses (R311, R315, R317, R352) -/

def isHost (a : Nat) : Bool := decide (2 ^ 63 ≤ a)
def Ictx.vaddr (c : Ictx) : Nat := (c.ga + BitVec.ofInt 64 (wOff30 c.w)).toNat
def Ictx.cisOff (c : Ictx) : Nat := c.vaddr % 2 ^ 32

/-- The whole access is mapped: device space, or a host range that the host translates. -/
def Ictx.mapped (c : Ictx) (s : State) (a n : Nat) : Bool :=
  if isHost a then !s.hostRefused c.tenant (a - 2 ^ 63) n else s.devMapped c.tenant a n

/-- A byte lies in one of the fragment's output ranges, or in a SHARED allocation (R311, R313). -/
def Ictx.mayStore (c : Ictx) (s : State) (a : Nat) : Bool :=
  let inOut (i : Nat) : Bool :=
    let (b, n) := c.frag.outRange i
    isHost b == isHost a && decide (b ≤ a ∧ a < b + n)
  inOut 0 || inOut 1 || (!isHost a && (s.allocAt c.tenant a).any (·.shared))

/-- A store beyond the 1 GiB of host-space output that one fragment may hold (R313): bytes not held already count. -/
def Ictx.overHeld (c : Ictx) (a : Nat) (bs : List (Bool × Byte)) : Bool :=
  decide (2 ^ 30 < c.frag.held.length +
    (bs.zipIdx.filter fun p => p.1.1 && !c.frag.held.any fun h => h.1 == a - 2 ^ 63 + p.2).length)

/-- Hold host-space output until the commit (R313): the latest byte of an address is kept. -/
def Ictx.hold (c : Ictx) (s : State) (a : Nat) (bs : List (Bool × Byte)) : State :=
  let new := (bs.zipIdx.filter fun p => p.1.1).map fun p => (a - 2 ^ 63 + p.2, p.1.2)
  s.updFrag c.t.frag fun f => { f with held := (f.held.filter fun h => !new.any fun x => x.1 == h.1) ++ new }

/-- An accepted well operation writes bytes of the range (R153). -/
def WellOp.meets (w : WellOp) (t a n : Nat) : Bool :=
  let hits (b l : Nat) : Bool := decide (a < b + l ∧ b < a + n)
  w.tenant == t && (hits (leAt w.desc 0x18 8) (leAt w.desc 0x14 4) || (leAt w.desc 0 1 == 7 && hits (leAt w.desc 8 8) (leAt w.desc 0x10 4)))

/-- An accepted operation that has reached no final state writes lines of the range (R174, R180). -/
def State.wellWrites (s : State) (t a n : Nat) : Bool := s.wells.any fun w => w.meets t a n

/-- A thread or a pump accesses what a well operation writes: the operation's result is unpredictable (R180, R181). -/
def State.noteBreach (s : State) (t a n : Nat) : State :=
  { s with wells := s.wells.map fun w => if w.meets t a n then { w with breach := true } else w }

/-- A fill for a store that does not cover the whole of a poisoned line reads it (R19, R323, R619). -/
def State.badStore (s : State) (l t a : Nat) (bs : List (Bool × Byte)) : Bool :=
  (linesOf a bs.length).any fun ln => s.badFill l t (ln * 64) 64 &&
    !(List.range 64).all fun i => decide (a ≤ ln * 64 + i) && (bs[ln * 64 + i - a]?).any (·.1)

/-- A store's effect and its exceptions, in the order of R380. -/
def Ictx.store (c : Ictx) (s : State) (size : Nat) (bs : List (Bool × Byte)) : Eff :=
  if wX c.w = 1 then
    let o := c.cisOff
    firstExc [(o % size != 0, .exc xAlign o 0 0), (!c.inArea o bs.length, .exc xCistern o 0 0)]
      (.done { s with cis := s.cis.wrMask (cisKey c.cluster (c.mem.base + o)) bs })
  else
    let a := c.vaddr
    let bad := bs.zipIdx.any fun p => p.1.1 && !c.mayStore s (a + p.2)
    firstExc
      [(a % size != 0, .exc xAlign a 0 0),
       (!c.mapped s a bs.length || (!isHost a && !bad && !s.devWritable c.tenant a bs.length), .exc xTranslation a 0 0),
       (bad || (isHost a && c.overHeld a bs), .exc xStore a 0 0)]
      (if isHost a then .done (c.hold s a bs)
       else if s.badStore c.cluster c.tenant a bs then s.uncorrectable c.tenant a bs.length
       else .done ((s.noteBreach c.tenant a bs.length).cacheWr c.cluster c.tenant a bs))

/-- Host memory as a fragment reads it: its own held stores first (R313, R325). -/
def State.hostSeen (s : State) (f : Frag) (a n : Nat) : List Byte :=
  (s.out.hostMem.rdN (hostKey f.tenant a) n).zipIdx.map fun p => ((f.held.find? fun h => h.1 == a + p.2).map (·.2)).getD p.1

/-- A load of `n` bytes: the exceptions in the order of R380, then `k` on the state and the bytes read. -/
def Ictx.load (c : Ictx) (s : State) (size n : Nat) (k : State → List Byte → Eff) : Eff :=
  if wX c.w = 1 then
    let o := c.cisOff
    firstExc [(o % size != 0, .exc xAlign o 0 0), (!c.inArea o n, .exc xCistern o 0 0)] (k s (c.cisRd s o n))
  else
    let a := c.vaddr
    firstExc [(a % size != 0, .exc xAlign a 0 0), (!c.mapped s a n, .exc xTranslation a 0 0)]
      (if isHost a then k s (s.hostSeen c.frag (a - 2 ^ 63) n)
       else if s.badFill c.cluster c.tenant a n then s.uncorrectable c.tenant a n
       else
         let s1 := (s.noteBreach c.tenant a n).fillRange c.cluster c.tenant a n
         k (c.noteInner ((s1.cached c.cluster c.tenant a n).any (·.inner)) s1) (s1.cachedBytes c.cluster c.tenant a n))

/-- The register value of a loaded number (R354). -/
def extend (ty x : Nat) : Word :=
  if tySigned ty then BitVec.ofNat 64 (ofSigned 64 (toSigned (tyWidth ty) x)) else BitVec.ofNat 64 x

def tySize (ty : Nat) : Nat := tyWidth ty / 8

def execLd (t : Tid) (s : State) : Res :=
  runInsn 0x30 (fun w => decide (2 ≤ wTy w ∧ wTy w ≤ 9) && onlyUses w (usesTy ||| usesX ||| usesD ||| usesA ||| usesOff30))
    (fun c s => c.load s (tySize (wTy c.w)) (tySize (wTy c.w))
      fun s bs => .done (c.putG s (extend (wTy c.w) (leNat bs)))) t s

def execSt (t : Tid) (s : State) : Res :=
  runInsn 0x31 (fun w => decide (2 ≤ wTy w ∧ wTy w ≤ 5) && onlyUses w (usesTy ||| usesX ||| usesA ||| usesB ||| usesOff30))
    (fun c s => c.store s (tySize (wTy c.w)) ((toLe (tySize (wTy c.w)) c.gb.toNat).map fun b => (true, b))) t s

def execVld (t : Tid) (s : State) : Res :=
  runInsn 0x32 (fun w => decide (wD w ≤ 31) && onlyUses w (usesX ||| usesD ||| usesA ||| usesOff30))
    (fun c s => c.load s 64 128 fun s bs => .done (c.putV s (BitVec.ofNat 1024 (leNat bs)))) t s

/-- The bytes of vD with the flags of active lanes (R344, R355). -/
def Ictx.vstBytes (c : Ictx) : List (Bool × Byte) :=
  let mk := c.th.rm (wMk c.w)
  ((toLe 128 (c.th.rv (wD c.w)).toNat).zipIdx).map fun p =>
    (wMk c.w == 0 || mk.getLsbD (p.2 * 8 / tyWidth (wTy c.w)), p.1)

/-- `vst` stores vD (R355; assumption 9). -/
def execVst (t : Tid) (s : State) : Res :=
  runInsn 0x33 (fun w => decide (wD w ≤ 31) && (if wMk w = 0 then wTy w == 0 else decide (2 ≤ wTy w ∧ wTy w ≤ 9)) &&
      onlyUses w (usesTy ||| usesMk ||| usesX ||| usesD ||| usesA ||| usesOff30))
    (fun c s => c.store s 64 c.vstBytes) t s

/-! ## Atomics (R327, R356) -/

/-- The old value as an atomic returns it. -/
def amoOld (ty x : Nat) : Word := if ty = 4 then extend 4 x else BitVec.ofNat 64 x

/-- One indivisible read-modify-write at the bank or at the HBMC. -/
def amoOp (opc : Nat) (tys : List Nat) (f : Nat → Nat → Nat → Nat) (t : Tid) (s : State) : Res :=
  runInsn opc (fun w => tys.contains (wTy w) &&
      onlyUses w (usesTy ||| usesX ||| usesD ||| usesA ||| usesB ||| usesOff30))
    (fun c s =>
      let ty := wTy c.w
      let n := tySize ty
      let new (old : Nat) : Nat := f ty old (c.gb.toNat % 2 ^ (8 * n))
      let inv (old : Nat) : Bool := ty == 14 && madeNan fF32 [old, c.gb.toNat % 2 ^ 32] (new old)
      if wX c.w = 1 then
        let o := c.cisOff
        let old := leNat (c.cisRd s o n)
        firstExc [(o % n != 0, .exc xAlign o 0 0), (!c.inArea o n, .exc xCistern o 0 0)]
          (.done (c.flagIf (inv old) flagFpinv (c.putG (c.cisWr s o (toLe n (new old))) (amoOld ty old))))
      else
        let a := c.vaddr
        let s1 := (s.noteBreach c.tenant a n).flushDrop c.cluster (·.isAt c.tenant (a / 64))
        let old := leNat (s1.devRd c.tenant a n)
        firstExc [(isHost a, badOperand), (a % n != 0, .exc xAlign a 0 0),
            (!s.devWritable c.tenant a n, .exc xTranslation a 0 0), (s1.poisoned c.tenant a n, s1.uncorrectable c.tenant a n)]
          (.done (c.flagIf (inv old) flagFpinv (c.noteInner (s1.innerOnly c.tenant a)
            (c.putG (s1.devWr c.tenant a (toLe n (new old))) (amoOld ty old)))))) t s

def execAmoAdd (t : Tid) (s : State) : Res :=
  amoOp 0x34 [4, 5, 14] (fun ty old b => if ty = 14 then fF32.add old b else old + b) t s

def execAmoSwap (t : Tid) (s : State) : Res := amoOp 0x35 [4, 5] (fun _ _ b => b) t s

/-! ## Maintenance and fences (R323, R326, R357) -/

/-- Lines of the tenant that the range gA, gB touches, in mapped pages. -/
def Ictx.inRange (c : Ictx) (s : State) (x : Line) : Bool :=
  let a := c.ga.toNat
  x.tenant == c.tenant && decide (0 < c.gb.toNat ∧ a < x.line * 64 + 64 ∧ x.line * 64 < a + c.gb.toNat) &&
    (s.allocAt c.tenant (x.line * 64)).isSome

/-- The dirty bytes of the range's lines are written back; the lines stay, clean. -/
def execCflush (t : Tid) (s : State) : Res :=
  runInsn 0x38 (fun w => onlyUses w (usesA ||| usesB))
    (fun c s =>
      let s1 := (((s.cluster c.cluster).lines.filter (c.inRange s)).foldl State.writeBack s)
      .done (s1.updCluster c.cluster fun k =>
        { k with lines := k.lines.map fun x => if c.inRange s x then { x with dirty := 0 } else x })) t s

def execCinv (t : Tid) (s : State) : Res :=
  runInsn 0x39 (fun w => onlyUses w (usesA ||| usesB)) (fun c s => .done (s.dropLines c.cluster (c.inRange s))) t s

/-- Every access of this model takes effect at its step, in program order, so a fence has nothing to wait for
(assumption 10). -/
def fenceOp (opc : Nat) (t : Tid) (s : State) : Res := runInsn opc (fun w => onlyUses w 0) (fun _ s => .done s) t s

def execFenceAcq (t : Tid) (s : State) : Res := fenceOp 0x3A t s
def execFenceRel (t : Tid) (s : State) : Res := fenceOp 0x3B t s

end Sys2Proof.Machine
end

