-- ==== Sys2Proof/Machine/Fragments.lean ====
section
/-! DEFINITION. Fragments: launch, dispatch, wake, commit and reissue (R298 to R314, R462 to R464, R535 to R539, R566, R638). -/
namespace Sys2Proof.Machine

/-! ## Addresses that the device chooses (R24, R302, R321) -/

/-- No allocation of the tenant, mapped or not yet returned, overlaps the range, which lies in device space (R315). -/
def State.baseFree (s : State) (t a n : Nat) : Bool :=
  decide (0x10000 ≤ a ∧ a + n ≤ 2 ^ 48 ∧ a % 65536 = 0) &&
    s.allocs.all fun m => m.tenant != t || decide (a + n ≤ m.base ∨ m.base + m.size ≤ a)

/-- A base for `n` bytes: a free choice, or the first place above every allocation where the draw does not do. -/
def State.newBase (s : State) (t n : Nat) : Nat :=
  let a := s.draw 0 % 2 ^ 32 * 65536
  if s.baseFree t a n then a
  else (s.allocs.filter fun m => m.tenant == t).foldl (fun b m => Nat.max b (roundUp (m.base + m.size) 65536)) 0x10000

/-! ## Launch (R302, R462 to R464) -/

/-- The root fragment's descriptor: shape and claims of the entry, and ARG. -/
def rootDesc (e : Nat × Nat × Nat) (arg : Nat) : List Byte :=
  toLe 4 e.1 ++ toLe 4 (field e.2.2 23 20 * 2 ^ 20 + field e.2.2 6 0) ++ toLe 4 e.2.1 ++ toLe 4 0 ++ toLe 8 arg ++
    List.replicate 40 0

/-- Copy the argument block into a read-only range of the tenant's device space; its stack is a free value (assumption 8). -/
def State.copyArgs (s : State) (x : Cmd) : State × Nat :=
  if x.args.length = 0 then (s, 0)
  else
    let n := roundUp x.args.length 65536
    let base := s.newBase x.fn n
    let a : Alloc :=
      { tenant := x.fn, base := base, size := n, shared := false, wellSeg := false, readOnly := true, stack := s.draw 1 % 12, well := 0,
        mapped := true, freeing := none }
    ({ s with allocs := s.allocs ++ [a], dev := (Mem.clear s.dev (devKey x.fn base) n).wrN (devKey x.fn base) x.args,
              free := s.free + 2 }, base)

/-- Make the root fragment of a tenant program dispatchable. -/
def State.startProgram (s : State) (x : Cmd) (h : Nat) (e : Nat × Nat × Nat) : State :=
  let (s1, base) := s.copyArgs x
  let s2 := s1.updCmd x.id fun y => { y with started := true, argBase := base }
  (s2.addFrag x (rootDesc e base) h [] none).updFrag s2.nextFrag fun f => { f with waitFrom := x.admittedAt }

def execLaunch (c : Nat) (s : State) : Res :=
  runCmd c s (fun x => x.opc == 1 && !x.varelm && !x.started) fun x s =>
    let h := x.u 0x18 8
    match (s.prog? x h).bind fun p => p.entries[x.u 0x10 4]? with
    | none => s.fail c stBadHandle
    | some e => s.startProgram x h e

/-! ## Claims and what a cluster has free (R299) -/

/-- Members of running fragments on a cluster, each with a claim of its fragment. -/
def State.claimed (s : State) (l : Nat) (f : Frag → Nat) : Nat :=
  sumBy (fun x => if x.phase == .running then (x.members.filter fun m => m.cluster == l).length * f x else 0) s.frags

/-- Areas held in a cluster's cistern, in units of 64 KiB. -/
def State.areas (s : State) (l : Nat) : List (Nat × Nat) :=
  s.frags.flatMap fun x =>
    if x.phase == .running then (x.members.filter fun m => m.cluster == l).map fun m => (m.base / 65536, x.cis) else []

/-- The lowest contiguous range of `n` free units (R384). -/
def State.areaFor (s : State) (l n : Nat) : Option Nat :=
  let held := s.areas l
  (List.range 65).find? fun k => decide (k + n ≤ 64) && held.all fun h => decide (k + n ≤ h.1 ∨ h.1 + h.2 ≤ k)

/-- The logical cluster is in service and not at its self-test (R613, R615). -/
def State.inService (s : State) (l : Nat) : Bool :=
  match Map.get? s.logical l with
  | none => false
  | some p => (Map.getD s.phys p PhysCluster.reset).testing.isNone

/-- The cluster serves fragments: on a queen, clusters 384 to 511 are set aside for routing, and each lost one is replaced by the
highest-numbered serving cluster in service (R506, R615). -/
def State.serving (s : State) (l : Nat) : Bool :=
  s.role != 2 || (decide (l < 384) &&
    decide (128 - (s.logical.filter fun e => decide (384 ≤ e.1)).length ≤ (s.logical.filter fun e => decide (l < e.1 ∧ e.1 < 384)).length))

/-- The cluster has room for one member of the fragment (R299, R309). -/
def State.fits (s : State) (x : Frag) (l : Nat) : Bool :=
  s.inService l && s.serving l && !x.avoid.contains l && decide (s.claimed l Frag.nthreads + x.nthreads ≤ 64) &&
    decide (s.claimed l Frag.pumps + x.pumps ≤ 8) && decide (s.claimed l Frag.ports + x.ports ≤ 16) &&
    decide (s.claimed l Frag.tiles + x.tiles ≤ 4) && (s.areaFor l x.cis).isSome

/-- The cluster holds the class-0 reserve once `k` members of the fragment are added (R536). -/
def State.holdsReserve (s : State) (l : Nat) (x : Frag) (k : Nat) : Bool :=
  let r (hi lo : Nat) : Nat := s.fld oSchC0res hi lo
  decide (s.claimed l Frag.nthreads + k * x.nthreads + r 5 0 ≤ 64) && decide (s.claimed l Frag.cis + k * x.cis + r 13 8 ≤ 64) &&
    decide (s.claimed l Frag.pumps + k * x.pumps + r 18 16 ≤ 8) && decide (s.claimed l Frag.ports + k * x.ports + r 23 20 ≤ 16) &&
    decide (s.claimed l Frag.tiles + k * x.tiles + r 25 24 ≤ 4)

def State.liveClusters (s : State) : List Nat := (s.logical.map (·.1)).filter s.inService

/-- R536 for a fragment of classes 1 to 3 on these clusters. -/
def State.reserveOk (s : State) (x : Frag) (ls : List Nat) : Bool :=
  ls.all (fun l => s.holdsReserve l x 1) ||
    decide (s.fld oSchC0res 41 32 ≤ (s.liveClusters.filter fun l => s.holdsReserve l x (b2n (ls.contains l))).length)

/-- Cistern that a tenant holds, in units of 64 KiB (R563, R566). -/
def State.heldCis (s : State) (t : Nat) : Nat :=
  sumBy (fun x => if x.phase == .running && x.tenant == t then x.cis else 0) s.frags

def State.quotaOk (s : State) (x : Frag) : Bool := decide (s.heldCis x.tenant + x.cis ≤ s.cisQuota x.tenant)

/-- The most favourable clusters for a fragment: those that keep their reserve, then those that hold none, then the rest. -/
def State.bestClusters (s : State) (x : Frag) : List Nat :=
  let fit := s.liveClusters.filter (s.fits x)
  let a := fit.filter fun l => s.holdsReserve l x 1
  let b := fit.filter fun l => !s.holdsReserve l x 1 && !s.holdsReserve l x 0
  let c := fit.filter fun l => !s.holdsReserve l x 1 && s.holdsReserve l x 0
  ((a ++ b ++ c).take x.gang)

/-- Some choice of clusters can take the fragment now. -/
def State.canGo (s : State) (x : Frag) : Bool :=
  x.phase == .dispatchable &&
    (x.isVarelm || (s.quotaOk x && (let ls := s.bestClusters x; ls.length == x.gang && (x.cls == 0 || s.reserveOk x ls))))

/-! ## Choosing (R535, R538) -/

/-- Order of dispatchability. -/
def Frag.turn (x : Frag) : Nat := x.readyAt * 2 ^ 64 + x.id

/-- Heads of the flows of classes 1 to 3 that can be dispatched; each flow is served in order of dispatchability (R538). -/
def State.heads (s : State) : List Frag :=
  let waiting := s.frags.filter fun x => x.cls != 0 && x.phase == .dispatchable
  waiting.filter fun x => s.canGo x && !waiting.any fun y => y.tenant == x.tenant && y.cls == x.cls && decide (y.turn < x.turn)

/-- Φ(t,c) of a flow's head. -/
def State.phiFlow (s : State) (x : Frag) : Nat := s.flowTag x.tenant x.cls + s.estimate x.tenant x.cls / Nat.max 1 (s.flowWeight x.tenant x.cls)

/-- Head of the flow of a class with the least Φ(t,c), ties to the lower tenant. -/
def State.classHead (s : State) (c : Nat) : Option Frag :=
  minBy (fun x => s.phiFlow x * 256 + x.tenant) (s.heads.filter fun x => x.cls == c)

/-- Φ_c of a class whose head is `x`. -/
def State.phiClass (s : State) (x : Frag) : Nat := s.classTag x.cls + s.estimate x.tenant x.cls / Nat.max 1 (s.classWeight x.cls)

/-- The fragment that SCH dispatches next. -/
def State.nextDispatch (s : State) : Option Frag :=
  match minBy Frag.turn (s.frags.filter fun x => x.cls == 0 && s.canGo x) with
  | some x => some x
  | none => minBy (fun x => s.phiClass x * 4 + x.cls) ([1, 2, 3].filterMap s.classHead)

/-- A running fragment has a member on the cluster. -/
def State.holdsFrag (s : State) (l : Nat) : Bool :=
  s.frags.any fun x => x.phase == .running && x.members.any fun m => m.cluster == l

/-- Gating of a cluster: one that holds no fragment is clock-gated (R638). -/
def State.gatingOf (s : State) (l : Nat) : Gating :=
  if (s.cluster l).gating = .running ∧ s.holdsFrag l = false then .clockGated else (s.cluster l).gating

/-- A fragment dispatched to the cluster now waits for its wake (R638). -/
def State.asleep (s : State) (l : Nat) : Bool := s.gatingOf l != .running || !(s.cluster l).waking.isEmpty

/-- The staging set that AFFINITY names is preferred: a cluster outside it is used only where every other of the set is busy (R210). -/
def State.stagingOk (s : State) (x : Frag) (ls : List Nat) : Bool :=
  match s.colls.find? fun c => c.handle == leAt x.desc 0x18 8 && c.tenant == x.tenant with
  | none => true
  | some c => ls.all c.staging.contains ||
      c.staging.all fun l => ls.contains l || !s.fits x l || (x.cls != 0 && !s.reserveOk x [l])

/-- The clusters named can take the fragment, and a power-gated one is used for class 0 only where no awake one can (R537). -/
def State.goodClusters (s : State) (x : Frag) (ls : List Nat) : Bool :=
  if x.isVarelm then ls.isEmpty
  else
    ls.length == x.gang && ls.eraseDups.length == ls.length && ls.all (s.fits x) && s.quotaOk x && s.stagingOk x ls &&
      (if x.cls = 0 then
        !ls.any (fun l => s.gatingOf l == .powerGated) ||
          decide ((s.liveClusters.filter fun l => s.fits x l && s.gatingOf l != .powerGated).length < x.gang)
       else s.reserveOk x ls)

/-! ## Dispatch (R300, R538, R539) -/

/-- Thread `i` of member `m` at the start of a run. -/
def Frag.startThread (x : Frag) (asleep : Bool) (m i : Nat) : Thread :=
  { Thread.reset with
    st := if asleep then .free else .ready
    pc := x.df 0 31 0
    g := [(1, BitVec.ofNat 64 (leAt x.desc 0x10 8)), (2, BitVec.ofNat 64 i), (3, BitVec.ofNat 64 m),
          (4, BitVec.ofNat 64 x.gang), (5, BitVec.ofNat 64 (x.cis * 65536))] }

def State.startMember (s : State) (x : Frag) (m l : Nat) : Member :=
  let asleep := s.asleep l
  { cluster := l, base := (s.areaFor l x.cis).getD 0 * 65536,
    threads := (List.range x.nthreads).map (x.startThread asleep m), pumps := [], ports := [], tiles := [] }

/-- The WFQ tags of a dispatch (R538, R539). -/
def State.chargeTags (s : State) (x : Frag) : State :=
  if x.cls = 0 then s
  else
    let sc := s.sched
    { s with sched := { sc with
        u := s.phiClass x
        h := Map.put sc.h x.cls (s.phiClass x)
        v := Map.put sc.v x.cls (s.phiFlow x)
        tag := Map.put sc.tag (flowKey x.tenant x.cls) (s.phiFlow x) } }

/-- The marks and the longest class-0 wait of a dispatch (R549, R554). -/
def State.noteDispatch (s : State) (x : Frag) : State :=
  let ns := (s.clock - x.waitFrom) / 1000
  let s1 := s.markQueue (oSchQs x.tenant x.cls) (s.schDepth x.tenant x.cls) ((s.clock - x.readyAt) / 1000)
  if x.cls = 0 then s1.setFld oSchC0mon 31 0 (Nat.max (s.fld oSchC0mon 31 0) (Nat.min ns 0xFFFFFFFF)) else s1

/-- A posted Varelm program runs as a command of its poster's tenant (R298). -/
def State.startVarelm (s : State) (x : Frag) : State :=
  match s.cmd? x.cmd with
  | none => s
  | some p =>
    let arg := leAt x.desc 0x10 8
    let entry := toLe 4 1 ++ List.replicate 12 0 ++ toLe 4 (leAt x.desc 0 4) ++ toLe 4 3 ++ toLe 8 0 ++ toLe 8 arg ++ toLe 4 128 ++
      List.replicate 84 0
    let block := if isHost arg then s.hostRd x.tenant (arg - 2 ^ 63) 128
      else if s.devMapped x.tenant arg 128 then some (s.devRd x.tenant arg 128) else none
    let drop := leAt x.desc 0 4 == 0x102 || leAt x.desc 0 4 == 0x133
    let y : Cmd :=
      { id := s.nextCmd, fn := x.tenant, sq := p.sq, cmdid := p.cmdid, entry := entry, args := block.getD [], phase := .admitted,
        cls := x.cls, slot := none, seq := if drop then s.nextSeq else p.seq, bp := 0, pos := 0, lastBp := 0, status := 0, count := 0,
        value := 0, finalBp := 0, started := false, argBase := 0, skewed := [], losses := [], waits := [], parent := some x.id, cq := none,
        work := .idle, needRoom := 0, admittedAt := s.clock,
        bound := s.nextCmd, unposted := s.openUpdates x.tenant }
    let y := { y with waits := (s.waitsOf y).filter (· != p.id) }
    let s1 := { s with cmds := s.cmds ++ [y], nextCmd := s.nextCmd + 1, nextSeq := s.nextSeq + 1 }
    match block with
    | none => s1.malformed y.id
    | some _ => if !isHost arg && s.poisoned x.tenant arg 128 then s1.fail y.id stHwFault else match s1.namedStatus y with
      | some e => s1.fail y.id e
      | none => s1.markDying y

/-- Dispatch a fragment to its clusters: areas cleared, threads started or left for the wake. -/
def State.dispatch (s : State) (x : Frag) (ls : List Nat) : State :=
  let s1 := (s.noteDispatch x).chargeTags x
  let members := ls.zipIdx.map fun p => s.startMember x p.2 p.1
  let cis := members.foldl (fun m y => Mem.clear m (cisKey y.cluster y.base) (x.cis * 65536)) s.cis
  let s2 := { s1 with cis := cis }
  let s3 := ls.foldl (fun t l => if s.asleep l then t.updCluster l fun k => { k with waking := k.waking ++ [x.id] } else t) s2
  let s4 := s3.updFrag x.id fun y =>
    { y with phase := .running, members := members, dispAt := s.clock, charged := if x.cls = 0 then 0 else s.estimate x.tenant x.cls }
  if x.isVarelm then s4.startVarelm x else s4

def execFragmentDispatch (f : Nat) (clusters : List Nat) (s : State) : Res :=
  match s.nextDispatch with
  | none => .next s
  | some x => onlyIf (s.active && !s.tripped && x.id == f && s.goodClusters x clusters) s fun s => s.dispatch x clusters

/-- Some tenant has a class-0 rate. -/
def State.anyRate (s : State) : Bool :=
  s.regs.any fun e => decide (oSchTen 0 ≤ e.1 ∧ e.1 < oSchTen 256) && e.1 % 16 == 0 && decide (field e.2.toNat 31 0 ≠ 0)

/-- Free resources of a cluster hold the class-0 reserve (R536). -/
def State.reserveNow (s : State) (l : Nat) : Bool :=
  let r (hi lo : Nat) : Nat := s.fld oSchC0res hi lo
  decide (s.claimed l Frag.nthreads + r 5 0 ≤ 64) && decide (s.claimed l Frag.cis + r 13 8 ≤ 64) &&
    decide (s.claimed l Frag.pumps + r 18 16 ≤ 8) && decide (s.claimed l Frag.ports + r 23 20 ≤ 16) &&
    decide (s.claimed l Frag.tiles + r 25 24 ≤ 4)

/-- Enough reserve-holding clusters stay out of power gating without this one (R537). -/
def State.mayGate (s : State) (l : Nat) : Bool :=
  !s.anyRate || decide (s.fld oSchCtrl 23 16 ≤
    (s.liveClusters.filter fun k => k != l && s.gatingOf k != .powerGated && s.reserveNow k).length)

/-- Fewer reserve-holding clusters than C0AWAKE are out of power gating, and this one can join them (R537). -/
def State.mustWake (s : State) (l : Nat) : Bool := s.inService l && s.gatingOf l == .powerGated && s.reserveNow l && !s.mayGate l

/-- A gated cluster has woken, and the threads dispatched to it start (R638); or R537 wakes it. -/
def execClusterWake (l : Nat) (s : State) : Res :=
  let k := s.cluster l
  onlyIf (s.active && (!k.waking.isEmpty || s.mustWake l)) s fun s =>
    let wake (x : Frag) : Frag :=
      if k.waking.contains x.id && x.phase == .running then
        { x with members := x.members.map fun m =>
            if m.cluster = l then { m with threads := m.threads.map fun th => if th.st = .free then { th with st := .ready } else th }
            else m }
      else x
    { s with frags := s.frags.map wake }.setCluster l { k with gating := .running, waking := [] }

/-! ## Commit (R303 to R305, R313, R314) -/

/-- A posted descriptor that R298 or R299 calls malformed. -/
def descBad (b : List Byte) : Bool :=
  let f := leAt b 4 4
  let k := leAt b 8 4
  field f 31 26 != 0 || field f 19 7 != 0 || field k 31 29 != 0 || field k 16 7 != 0 || leAt b 0xC 4 != 0 ||
    (!bit f 25 && (leAt b 0 4 % 8 != 0 || field f 6 0 == 0 || decide (64 < field f 6 0) || decide (4 < field k 28 26) ||
      decide (16 < field k 25 21) || decide (8 < field k 20 17) || decide (64 < field k 6 0) || leAt b 0x20 8 % 8 != 0 ||
      leAt b 0x30 8 % 8 != 0))

/-- The address lies in an output range of the fragment. -/
def Frag.inOut (f : Frag) (a : Nat) : Bool :=
  (List.range 2).any fun i =>
    let (b, n) := f.outRange i
    decide (b ≤ a ∧ a < b + n)

/-- The line overlaps a device-space output range. -/
def Frag.outLine (f : Frag) (ln : Nat) : Bool :=
  (List.range 2).any fun i =>
    let (b, n) := f.outRange i
    decide (b < 2 ^ 63 ∧ ln * 64 < b + n ∧ b < ln * 64 + 64)

/-- A line with only its dirty bytes inside the output ranges left dirty. -/
def Line.onlyOut (x : Line) (f : Frag) : Line :=
  { x with dirty := BitVec.ofNat 64 (sumBy (fun i => if x.dirty.getLsbD i && f.inOut (x.line * 64 + i) then 2 ^ i else 0) (List.range 64)) }

/-- Step 2 of R304; the clean images that the fragment's clusters hold for its tenant are dropped with it (R195). -/
def State.commitLines (s : State) (f : Frag) : State :=
  let s1 := f.members.foldl (fun s m =>
    ((s.cluster m.cluster).lines.filter fun x => x.tenant == f.tenant && f.outLine x.line).foldl
      (fun s x => if s.devMapped x.tenant (x.line * 64) 64 then s.writeBack (x.onlyOut f) else s) s) s
  let gone (l : Nat) (x : Line) : Bool := x.tenant == f.tenant &&
    (f.outLine x.line || f.logs.any (fun e => e.addr / 64 == x.line) || (x.dirty == 0 && f.members.any fun m => m.cluster == l))
  { s1 with clusters := s1.clusters.map fun e => (e.1, { e.2 with lines := e.2.lines.filter fun x => !gone e.1 x }) }

/-- Step 3 of R304: none where the host refuses an address. -/
def State.commitHeld (s : State) (f : Frag) : Option State :=
  f.held.foldl (fun o h => o.bind fun s => s.hostWr f.tenant h.1 [h.2]) (some s)

/-- One log entry; an entry whose page is no longer mapped is dropped (R303). -/
def State.applyLog (s : State) (t : Nat) (e : LogEntry) : State :=
  if s.devWritable t e.addr 8 then
    let v := if e.isAdd then leNat (s.devRd t e.addr 8) + e.value.toNat else e.value.toNat
    s.devWr t e.addr (toLe 8 v)
  else s

/-- The log, the status and the progress of step 4. -/
def State.commitState (s : State) (f : Frag) : State :=
  let s1 := f.logs.foldl (fun s e => s.applyLog f.tenant e) s
  let s2 := match f.status with
    | none => s1
    | some v => s1.updCmd f.cmd fun x => if x.status = 0 then { x with status := v } else x
  match f.prog2 with
  | none => s2
  | some (bp, pos) => if 10000 < bp then s2.malformed f.cmd else s2.setProgress f.cmd bp pos

/-- Step 5: the posts of a commit. -/
def State.commitPosts (s : State) (f : Frag) : State :=
  match s.cmd? f.cmd with
  | none => s
  | some c =>
    if c.phase == .ended then s
    else if f.posts.any descBad || decide (1 < (f.posts.filter fun b => bit (leAt b 4 4) 24).length) then s.malformed f.cmd
    else
      let claim (b : List Byte) : Nat := if bit (leAt b 4 4) 25 then 0 else fieldAt b 8 6 0
      if f.posts.any fun b => decide (s.cisQuota f.tenant < claim b) then s.fail f.cmd stQuota
      else
        let g := s.nextGroup
        f.posts.foldl (fun s b =>
          if bit (leAt b 4 4) 24 then s.addFrag c b f.prog f.groups (some g) else s.addFrag c b f.prog (f.groups ++ [g]) none)
          { s with nextGroup := g + 1 }

/-- Remove a fragment that has committed. -/
def State.dropOne (s : State) (f : Frag) : State :=
  let s1 := s.chargeRun f
  { s1 with frags := s1.frags.filter fun x => x.id != f.id }

/-- What the device sees of member 0's first thread, for an exception at the commit. -/
def State.commitCtx (s : State) (f : Frag) : Option Ictx :=
  match f.members[0]? with
  | none => none
  | some m => match m.threads[0]? with
    | none => none
    | some th => some ⟨⟨f.id, 0, 0⟩, f, m, th, leAt (s.code f.prog) th.pc 8⟩

def State.raiseAtCommit (s : State) (f : Frag) (code addr : Nat) : State :=
  match s.commitCtx f with
  | none => s
  | some c => s.raise c code addr 0 0

/-- The commit of a fragment whose threads have all ended. -/
def State.commit (s : State) (f : Frag) : State :=
  if f.inner && !f.held.isEmpty then s.raiseAtCommit f xUnsealed 0
  else match (s.commitLines f).commitHeld f with
    | none => s.raiseAtCommit f xTranslation (2 ^ 63 + ((f.held.find? fun h => s.hostRefused f.tenant h.1 1).map (·.1)).getD 0)
    | some s1 => (((s1.commitState f).dropOne f).commitPosts f).releaseJoins

/-- The commit of a posted Varelm program, whose status counts as one that a fragment sets (R307). -/
def State.commitVarelm (s : State) (f : Frag) (y : Cmd) : State :=
  let s1 := { s with cmds := s.cmds.filter fun c => c.id != y.id }
  let s2 := s1.updCmd f.cmd fun x => if x.status = 0 then { x with status := y.status } else x
  (s2.dropOne f).releaseJoins

/-- Every thread of every member has ended and the tensor unit has nothing left for them. -/
def State.allEnded (s : State) (f : Frag) : Bool :=
  f.members.all fun m => m.threads.all (fun th => th.st == .ended) &&
    !((s.cluster m.cluster).tensor.any fun o => o.frag == f.id) && !(s.wells.any fun w => w.frag == f.id)

def execFragmentCommit (f : Nat) (s : State) : Res :=
  match s.frag? f with
  | none => .next s
  | some x =>
    if x.isVarelm then
      match s.cmds.find? fun c => c.parent == some f with
      | none => .next s
      | some y => onlyIf (s.active && x.phase == .running && y.phase == .ended) s fun s => s.commitVarelm x y
    else onlyIf (s.active && x.phase == .running && s.allEnded x) s fun s => s.commit x

end Sys2Proof.Machine
end

