-- ==== Sys2Proof/Machine/Codes.lean ====
section
/-! DEFINITION. What scans, wells, the comb and the Varelm programs share: ordering keys and pair order (R81 to R83), entry
layout (R29), filter terms (R43) and table lookups (R131). -/
namespace Sys2Proof.Machine

/-- Key types of R84. -/
def ktU32 : Nat := 0
def ktI32 : Nat := 1
def ktF32 : Nat := 2

/-- The ordering key (R81). -/
def okey (kt x : Nat) : Nat :=
  if kt = ktU32 then x
  else if kt = ktI32 then (x + 2 ^ 31) % 2 ^ 32
  else if fF32.isNan x then 0xFFFFFFFF
  else if x = 0x80000000 then 0x80000000
  else if 2 ^ 31 ≤ x then 0xFFFFFFFF - x else x + 2 ^ 31

/-- Pair order (R82) on (key bits, tag) pairs. -/
def pairBefore (kt : Nat) (desc : Bool) (a b : F32 × Nat) : Bool :=
  let x := okey kt a.1.toNat
  let y := okey kt b.1.toNat
  (if desc then decide (y < x) else decide (x < y)) || (x == y && decide (a.2 < b.2))

/-- Key bits as the comb writes them into a run (R83). -/
def runKey (kt : Nat) (x : F32) : F32 :=
  if kt = ktF32 then if fF32.isNan x.toNat then 0x7FC00000#32 else if x = 0x80000000#32 then 0 else x else x

/-- Keep the first pair of each tag of an ordered list (R89, R94). -/
def firstOfTag : List (F32 × Nat) → List Nat → List (F32 × Nat)
  | [], _ => []
  | p :: r, seen => if seen.contains p.2 then firstOfTag r seen else p :: firstOfTag r (p.2 :: seen)

/-- The union of runs in pair order, one pair per tag with DEDUP (R94). -/
def pairUnion (kt : Nat) (desc dedup : Bool) (l : List (F32 × Nat)) : List (F32 × Nat) :=
  let s := sortBy (pairBefore kt desc) l
  if dedup then firstOfTag s [] else s

/-! ## Entries -/

/-- Bytes of an entry with S subspaces and A attribute bytes (R29). -/
def entryBytes (sub attrb : Nat) : Nat := roundUp (sub / 2 + 5 + attrb) 8

/-- Code `j` of an entry's bytes, two per byte, the lower index in bits 3:0 (R107). -/
def entryCode (e : List Byte) (j : Nat) : Nat := field (leAt e (j / 2) 1) (4 * (j % 2) + 3) (4 * (j % 2))

/-- The attribute bytes of an entry as a number (R29, R43). -/
def entryAttr (e : List Byte) (sub attrb : Nat) : Nat := leAt e (sub / 2 + 5) attrb

/-! ## Filters -/

/-- A filter term that R43 does not reserve. -/
def termOk (attrb t : Nat) : Bool :=
  field t 15 13 == 0 && decide (field t 12 10 ≤ 5) && decide (1 ≤ field t 9 5 ∧ field t 9 5 ≤ 24) &&
    decide (field t 4 0 + field t 9 5 ≤ 8 * attrb)

/-- One filter term over the attribute bits (R43). -/
def termTest (t attr : Nat) : Bool :=
  let m := 2 ^ field t 9 5
  let f := (attr >>> field t 4 0) % m
  let a := field t 39 16 % m
  let b := field t 63 40 % m
  match field t 12 10 with
  | 0 => f == a
  | 1 => f != a
  | 2 => decide (a ≤ f ∧ f ≤ b)
  | 3 => f &&& a != 0
  | 4 => f &&& a == a
  | _ => f &&& a == 0

/-- `passes` of R43. -/
def passes (terms : List Nat) (any : Bool) (attr : Nat) : Bool :=
  if terms.isEmpty then true
  else if any then terms.any fun t => termTest t attr else terms.all fun t => termTest t attr

/-! ## Lookup tables -/

/-- The u8 table sum of an entry (R131, R132): exact. -/
def sumU8 (sub : Nat) (table e : List Byte) : Nat :=
  sumBy (fun j => leAt table (16 * j + entryCode e j) 1) (List.range sub)

/-- The FP16 table sum of an entry: FP32 in an unstated order. -/
def sumF16 (k sub : Nat) (table e : List Byte) : Nat :=
  fF32.sum k ((List.range sub).map fun j => fF16.val (leAt table (32 * j + 2 * entryCode e j) 2))

end Sys2Proof.Machine
end

