-- ==== Sys2Proof/Machine/Stop.lean ====
section
/-! DEFINITION. What a command that is stopped, or that fails part of the way, still writes and releases: the output of a
`vr.generate` (R285 to R292), and the last writes of R64, R66, R73, R104, R310 and R478. -/
namespace Sys2Proof.Machine

/-! ## Objects -/

/-- Take the units of an object out of placement: its moves are cancelled and its old ranges released (R39, R206). -/
def State.dropUnits (s : State) (h : Nat) : State :=
  { s with
    units := s.units.filter fun u => unitIsAlloc u.uid || unitHandle u.uid != h
    moves := s.moves.filter fun m => unitIsAlloc m.uid || unitHandle m.uid != h
    oldRanges := s.oldRanges.filter fun r => r.handle != h }

/-- Release an agent memory. -/
def State.dropMem (s : State) (h : Nat) : State :=
  { s.dropUnits h with mems := s.mems.filter fun m => m.handle != h }

/-- The temporary memory of a command goes with it (R260). -/
def State.releaseTemp (s : State) (x : Cmd) : State :=
  match x.work with
  | .generate g => if s.mems.any fun m => m.handle == g.mem && m.temp then s.dropMem g.mem else s
  | _ => s

/-- Unpredictable bytes in a buffer of the function or the tenant. -/
def State.blur (s : State) (fn : Nat) (dev : Bool) (a n : Nat) : State :=
  if n = 0 then s
  else ((Config.havocWrites s.free).foldl (fun s p => (s.spaceWr fn dev (a + p.1 % n) [p.2]).getD s) s).drew 1

/-! ## The output stream of `vr.generate` (R289 to R292) -/

def Cmd.genFlag (x : Cmd) (i : Nat) : Bool := bit (x.a 0x2C 4) i

/-- Write one record and advance: none where a write fails. -/
def State.putRecord (s : State) (x : Cmd) (g : GenSt) (ty bytepos : Nat) (data : List Byte) : Option (State × GenSt) :=
  let dev := x.genFlag 3
  let at0 := x.a 0x20 8 + g.out
  let body := data ++ List.replicate (roundUp data.length 8 - data.length) 0
  let size := 16 + body.length
  (s.spaceWr x.fn dev (at0 + 16) body).bind fun s =>
  (if g.out + size < x.a 0x28 4 then s.spaceWr x.fn dev (at0 + size) [0, 0, 0, 0] else some s).bind fun s =>
  (s.spaceWr x.fn dev (at0 + 4) (toLe 4 (data.length * 65536 + ty) ++ toLe 4 g.gen ++ toLe 4 bytepos)).bind fun s =>
  (s.spaceWr x.fn dev at0 (toLe 4 (g.seq + 1))).map fun s => (s, { g with out := g.out + size, seq := g.seq + 1 })

/-- Deliver the bytes of G up to `n` that are not yet released. -/
def State.release (s : State) (x : Cmd) (g : GenSt) (n : Nat) : Option (State × GenSt) :=
  if n ≤ g.released then some (s, g)
  else (s.putRecord x g 1 g.released ((g.text.drop g.released).take (n - g.released))).map fun r =>
    (r.1, { r.2 with released := n })

/-- ACCEPT of the grammar's state, 0 without a grammar. -/
def State.genAccept (s : State) (x : Cmd) (g : GenSt) : Bool :=
  ((s.grammars.find? fun m => m.handle == x.a 0x30 8).bind fun m => m.img.states[g.gram]?).any (·.accept)

/-- The data of the END record (R292). -/
def State.endData (s : State) (x : Cmd) (g : GenSt) (status reason stopidx dropped : Nat) : List Byte :=
  toLe 4 (b2n (x.a 0x30 8 != 0) * 2 ^ 30 + b2n (s.genAccept x g) * 2 ^ 29 + stopidx * 2 ^ 24 + reason * 65536 + status) ++
    toLe 4 g.gen ++ toLe 4 g.released ++ toLe 4 (dropped % 65536)

/-- End a generation: bytes up to `upto` are delivered, the rest of G is dropped, the END record is written, a temporary
memory is released and the command ends. A failed write turns the status into `ST_BAD_ADDRESS`. -/
def State.endGen (s : State) (x : Cmd) (g : GenSt) (status reason stopidx upto : Nat) : State :=
  let done (s : State) (status : Nat) : State := (s.releaseTemp x).finish x.id status 0 g.gen
  let bad (s : State) (g : GenSt) : State :=
    let s : State := if x.genFlag 3 then s else { s with out := { s.out with aer := s.out.aer ++ [x.fn] } }
    done (((s.putRecord x g 2 0 (s.endData x g stBadAddress 4 0 (g.text.length - g.released))).map (·.1)).getD s) stBadAddress
  match s.release x g upto with
  | none => bad s g
  | some (s1, g1) =>
    match s1.putRecord x g1 2 0 (s1.endData x g1 status reason stopidx (g1.text.length - g1.released)) with
    | none => bad s1 g1
    | some (s2, _) => done s2 status

/-- A generation that fails or is aborted: held-back bytes are dropped on an abort or a bad address, released otherwise
(R287). -/
def State.failGen (s : State) (x : Cmd) (g : GenSt) (status : Nat) : State :=
  s.endGen x g status 4 0 (if status = stAborted ∨ status = stBadAddress then g.released else g.text.length)

/-- A generation whose OUT or META cannot be written. -/
def State.genBad (s : State) (x : Cmd) (g : GenSt) (dev : Bool) : State :=
  ({ s with out := if dev then s.out else { s.out with aer := s.out.aer ++ [x.fn] } } : State).failGen x g stBadAddress

/-- The first state of a generation. -/
def genStart (mem : Nat) (prompt : List Nat) (stops : List (List Byte)) : GenSt :=
  { mem := mem, prompt := prompt, fed := 0, group := [], rank := [], gates := [], late := [], kept := [], keptKv := [], gen := 0, gram := 0, stops := stops, text := [],
    released := 0, out := 0, seq := 0 }

/-- A generation that is stopped before its first token: the stream holds its END record alone (R290, R292). -/
def State.failUnbegun (s : State) (x : Cmd) (status : Nat) : State :=
  let g := genStart (x.a 8 8) [] []
  match s.spaceWr x.fn (x.genFlag 3) (x.a 0x20 8) [0, 0, 0, 0] with
  | none => s.genBad x g (x.genFlag 3)
  | some s1 => s1.failGen x g status

/-! ## Reports and outcomes -/

/-- The global ID of a local ID of this node (R32). -/
def State.gid (s : State) (l : Nat) : Nat := s.nodeId * 2 ^ 44 + l

def noId : Nat := 0xFFFFFFFFFFFFFFFF

/-- IDOUT of a `vr.insert` (R64). -/
def Cmd.idBytes (x : Cmd) (ids : List Nat) : List Byte :=
  (ids ++ List.replicate (x.a 8 4 - ids.length) noId).flatMap fun i => toLe 8 i

def State.putIds (s : State) (x : Cmd) (ids : List Nat) : Option State :=
  s.spaceWr x.fn (bit (x.a 0xC 4) 7) (x.a 0x30 8) (x.idBytes ids)

/-- OUT of a `vr.delete` (R65, R66). -/
def Cmd.outBytes (x : Cmd) (outs : List Byte) : List Byte := outs ++ List.replicate (x.a 8 4 - outs.length) 2

def State.putOuts (s : State) (x : Cmd) (outs : List Byte) : Option State :=
  s.spaceWr x.fn (bit (x.a 0xC 4) 1) (x.a 0x18 8) (x.outBytes outs)

/-- REPORT of a `vr.compact` (R69). -/
def reportBytes (w : Work) : List Byte :=
  let words (a b c d e : Nat) : List Byte := toLe 4 a ++ toLe 4 b ++ toLe 8 c ++ toLe 8 d ++ toLe 8 e
  match w with
  | .compact _ a b c d e => words a b c d e
  | _ => words 0 0 0 0 0

def State.putReport (s : State) (x : Cmd) (w : Work) : Option State :=
  s.spaceWr x.fn (bit (x.a 8 4) 2) (x.a 0x18 8) (reportBytes w)

/-- What a program that is stopped writes before its final entry, by its argument block. -/
def State.lastWrites (s : State) (x : Cmd) : State :=
  if x.args.isEmpty then s
  else if x.vr = 0x111 then
    (s.putIds x (match x.work with | .insert ids _ _ => ids | _ => [])).getD s
  else if x.vr = 0x112 then (s.putOuts x (match x.work with | .delete o => o | _ => [])).getD s
  else if x.vr = 0x113 then (s.putReport x x.work).getD s
  else if x.vr = 0x120 then
    let dev := bit (x.a 0x18 4) 8
    match s.spaceWr x.fn dev (x.a 0x28 8) (toLe 8 0) with
    | some s1 => s1
    | none => if dev then s else s.blur x.fn dev (x.a 0x28 8) 8
  else s

/-- Buffers that a stop leaves unpredictable: OUT of `vr.sort`, and under `ST_BAD_ADDRESS` a host RBUF of a search or a rerank,
and OUT and REPORT of `vr.embed` (R57, R104, R240). -/
def State.smear (s : State) (x : Cmd) (status : Nat) : State :=
  if x.phase ≠ .admitted then s
  else if x.vr = 0x110 ∧ status = stBadAddress then
    if bit (x.a 0x14 4) 10 then s else s.blur x.fn false (x.a 0x20 8) (x.a 0x28 4)
  else if x.vr = 0x114 ∧ status = stBadAddress then
    if bit (x.a 0x10 4) 6 then s else s.blur x.fn false (x.a 0x28 8) (x.a 0x14 4)
  else if x.vr = 0x120 then
    let n := if x.af 0x18 1 0 = 0 then x.a 0x10 4
      else if x.af 0x18 1 0 = 2 then Nat.min (x.a 0x20 4) (x.a 0x10 4)
      else sumBy (fun i => leNat ((s.spaceRd x.fn (bit (x.a 0x18 4) 6) (x.a 0 8 + 16 * i + 8) 4).getD [])) (List.range (x.a 0x10 4))
    s.blur x.fn (bit (x.a 0x18 4) 7) (x.a 8 8) (n * x.a 0x14 4)
  else if x.vr = 0x130 ∧ status = stBadAddress then
    let d := ((s.models.find? fun m => m.handle == x.a 0 8).map (·.img.embDim)).getD 0
    (s.blur x.fn (bit (x.a 0xC 4) 5) (x.a 0x20 8) (x.a 8 4 * d * (if x.af 0xC 2 1 = 0 then 4 else 2))).blur x.fn
      (bit (x.a 0xC 4) 6) (x.a 0x28 8) 8
  else s

/-- An aborted copy leaves the rest of its destination unpredictable (R478). -/
def State.blurRest (s : State) (x : Cmd) (status : Nat) (dev : Bool) (dst : Nat) : State :=
  if status = stAborted then s.blur x.fn dev (dst + x.pos) (x.u 0x20 8 - x.pos) else s

/-- Stop a command with a status: COUNT and VALUE by its kind (R460, R478). -/
def State.stopCmd (s : State) (c status : Nat) : State :=
  match s.cmd? c with
  | none => s
  | some x =>
    if x.phase == .ended then s
    else
    let s : State := { s with moves := s.moves.filter fun m => m.switched || (m.demand.map (·.1)) != some c }
    match x.work with
    | .generate g => s.failGen x g status
    | _ =>
      if x.vr = 0x131 ∧ !x.args.isEmpty then s.failUnbegun x status
      else
      let s0 := s.smear x status
      let s1 := if status = stBadAddress ∧ x.vr = 0x120 then s0 else s0.lastWrites x
      match x.opc with
      | 1 => s1.endCmd c status 0 x.pos x.pos 10000
      | 2 => (s1.blurRest x status true (x.u 0x18 8)).endCmd c status x.pos x.pos x.pos 10000
      | 3 => (s1.blurRest x status false (x.u 0x10 8)).endCmd c status x.pos x.pos x.pos 10000
      | _ => { s1 with power := { s1.power with parking := s1.power.parking.filter (· != c) } }.endCmd c status 0 0 0 10000

end Sys2Proof.Machine
end

