-- ==== Sys2Proof/Machine/Homes.lean ====
section
/-! DEFINITION. Placement units and what they are charged to: homes, quotas, budgets, room, heat, and the flash partition that
takes a unit or a record (R194 to R216, R407 to R412, R563). -/
namespace Sys2Proof.Machine

/-! ## Partitions -/

/-- User capacity in bytes (R407, R409). -/
def Part.user (p : Part) : Nat := if p.tenant = 0 then 848952 * mib else p.capGb * 10 ^ 9

def State.part? (s : State) (t pid : Nat) : Option Part := s.parts.find? fun p => p.tenant == t && p.pid == pid
def State.updPart (s : State) (t pid : Nat) (f : Part → Part) : State :=
  { s with parts := updFirst (fun p => p.tenant == t && p.pid == pid) f s.parts }

/-- The class in which a command that names the collection works: the one in force at its admission (R226). -/
def Coll.classFor (c : Coll) (cmd : Nat) : Nat := ((c.was.find? fun e => e.1 == cmd).map (·.2)).getD c.cls

/-- The partition that serves a class of a tenant (R408). -/
def State.partFor (s : State) (t cls : Nat) : Option Part :=
  s.parts.find? fun p => p.tenant == t && bit p.classes cls && t != 0

/-- Bytes that a record occupies: whole 512-byte units (R412). -/
def Rec.size (r : Rec) : Nat := roundUp r.bytes.length 512

/-- Valid bytes of a block. -/
def Block.valid (b : Block) : Nat := sumBy Rec.size (b.recs.filter (·.valid))

/-- A valid record of a block is the copy of one that its source block still holds. -/
def State.isCopy (s : State) (b : Block) (r : Rec) : Bool :=
  s.flash.blocks.any fun v => v.target == some b.id && v.recs.any fun q => q.valid && q.tenant == r.tenant && q.coll == r.coll && q.lid == r.lid

/-- The records on flash, each once, from its write until its discard (R227, R434). -/
def State.homeRecs (s : State) : List Rec :=
  s.flash.blocks.flatMap fun b => b.recs.filter fun r => r.valid && !s.isCopy b r

/-- Valid bytes of a partition: records, and units whose home is in it. -/
def State.partValid (s : State) (t pid : Nat) : Nat :=
  sumBy Block.valid (s.flash.blocks.filter fun b => b.part == some (t, pid)) +
    sumBy (·.bytes) (s.units.filter fun u => u.home == .flash && u.part == some (t, pid))

/-! ## Range tables and wells in service (R144, R169, R193) -/

/-- The allocation's unit is parked: its range-table entries are stored with it (R222). -/
def State.parkedAt (s : State) (t a : Nat) : Bool :=
  (s.allocAt t a).any fun m => s.units.any fun u => u.uid == .alloc t m.base && u.parked

/-- Entries in use in the range table of a stack (R169). -/
def State.rangesUsed (s : State) (n : Nat) : Nat := (s.ranges.filter fun r => r.stack == n && !s.parkedAt r.tenant r.base).length

/-- HBMC.RTUSE.PEAK follows the table (R193). -/
def State.notePeak (s : State) (n : Nat) : State :=
  s.setFld (oRtUse n) 30 16 (Nat.max (s.fld (oRtUse n) 30 16) (s.rangesUsed n))

def physWell (stack well : Nat) : Nat := 512 * stack + well

/-- The wells of a stack that are in service: not those of the channel that stands idle, retired or spare, nor any that a fault took
out (R144, R145, R618). -/
def State.wellsIn (s : State) (st : Nat) : List Nat :=
  let idle : Nat := ((s.wellHw.spared.find? fun e => e.1 == st).map (·.2)).getD (Config.spareChannel st % 32)
  (List.range 512).filter fun w =>
    !s.wellsOut.contains (physWell st w) && w / 16 != idle && !s.power.chRetired.contains (st, w / 16)

/-- The domain that the placement engine chooses for a segment (R146, R208). -/
def State.anyWell (s : State) (st k : Nat) : Nat := (s.wellsIn st).getD (s.draw k % Nat.max 1 (s.wellsIn st).length) 0

/-! ## Fine lists as chains of well segments (R148) -/

/-- Entry slots of one segment: the largest multiple of 256 for which slots, tombstone bits and 64 KiB of scratch fit in 16 MiB. -/
def segSlots (sub attrb : Nat) : Nat := (16 * mib - 65536) / (256 * entryBytes sub attrb + 32) * 256

/-- Bytes of one segment, a multiple of 64 KiB. -/
def segBytes (sub attrb : Nat) : Nat :=
  roundUp (segSlots sub attrb * entryBytes sub attrb + segSlots sub attrb / 8 + 65536) 65536

/-- Segments of a list with `n` slots in use. -/
def segCount (sub attrb n : Nat) : Nat := Nat.max 1 (ceilDiv n (segSlots sub attrb))

/-- Stack-memory bytes of a list with `n` slots in use: its whole segments and list arrays. -/
def listBytes (sub attrb n : Nat) : Nat :=
  segCount sub attrb n * segBytes sub attrb + (Config.arrayBytes (segCount sub attrb n * segSlots sub attrb)).toNat

def Coll.list (c : Coll) (l : Nat) : FineList := Map.getD c.lists l ⟨[], 0, 0, [], [], []⟩

/-- Committed slots of segment `k` of a list. -/
def Coll.segUsed (c : Coll) (l k : Nat) : Nat :=
  Nat.min (segSlots c.sub c.attrb) ((c.list l).committed - k * segSlots c.sub c.attrb)

/-! ## Wells of Varelm programs (R165, R166) -/

/-- A Varelm program has wells work on these segments, unless SCAN_CLUSTER is 1. Each segment takes at least one interval; how many
more, and how many of them slice mode caps, is free, and so is how many of the scratch areas are inner-only at one time
(assumption 36). -/
def State.varelmWells (s : State) (segs : List Seg) : State :=
  if s.fld oWellcCtrl 8 8 = 1 || segs.isEmpty then s
  else
    let n := segs.length + s.draw 0
    let s1 := (s.wrapAdd oWellcCnt 31 0 n).wrapAdd oWellcCnt 63 32 (if s.fld oWellcCtrl 1 0 = 0 then 0 else s.draw 1 % (n + 1))
    ((segs.map (·.stack)).eraseDups.foldl (fun t i =>
      let k := (segs.filter fun g => g.stack == i).length
      t.setFld (oRtUse i) 30 16 (Nat.max (t.fld (oRtUse i) 30 16) (Nat.min 16384 (s.rangesUsed i + 1 + s.draw (2 + i) % k)))) s1).drew 14

/-! ## What a unit belongs to -/

def State.unitColl (s : State) (u : UnitId) : Option Coll :=
  if unitIsAlloc u then none else s.colls.find? fun c => c.handle == unitHandle u
def State.unitMem (s : State) (u : UnitId) : Option AgentMem :=
  if unitIsAlloc u then none else s.mems.find? fun m => m.handle == unitHandle u

/-- Class of a unit: its collection's or memory's, else 3 (assumption 16). -/
def State.unitClass (s : State) (u : UnitId) : Nat :=
  match s.unitColl u with
  | some c => c.cls
  | none => match s.unitMem u with
    | some m => m.cls
    | none => 3

/-- BUDGET of a unit's collection or memory, 0 for none. -/
def State.unitBudget (s : State) (u : UnitId) : Nat :=
  match s.unitColl u with
  | some c => c.budget
  | none => ((s.unitMem u).map (·.budget)).getD 0

/-- The partition that would take the unit: a tenant without one for the class has none; images take the tenant's first. -/
def State.unitPart (s : State) (t : Nat) (u : UnitId) : Option Part :=
  if (s.unitColl u).isSome || (s.unitMem u).isSome then s.partFor t (s.unitClass u)
  else s.parts.find? fun p => p.tenant == t && t != 0

/-- One segment of a list of a collection. -/
def State.listSeg (s : State) (h l k : Nat) : Option (Coll × Seg) :=
  (s.colls.find? fun c => c.handle == h).bind fun c => ((c.list l).segs[k]?).map fun g => (c, g)

/-- A unit by its name; a segment of a list stands for its own part of the list's unit. -/
def State.unit? (s : State) (u : UnitId) : Option PUnit :=
  match u with
  | .listSegment h l k =>
    match s.units.find? (fun x => x.uid == .fineList h l), s.listSeg h l k with
    | some x, some (c, g) =>
      some { x with uid := u, home := if x.home = .flash then .flash else .stack g.stack, bytes := segBytes c.sub c.attrb }
    | _, _ => none
  | _ => s.units.find? fun x => x.uid == u

/-- Units that may be demoted to flash outside parking (R197). -/
def softKind : UnitId → Bool
  | .fineList _ _ => true
  | .listSegment _ _ _ => true
  | .expert _ _ _ => true
  | .kvBlock _ _ _ => true
  | .grammarMasks _ => true
  | _ => false

/-! ## Bytes -/

/-- Stack-memory and hub-tier bytes of a tenant, ranges awaiting release among them (R211, R232). -/
def State.stackUse (s : State) (t : Nat) : Nat :=
  sumBy (·.bytes) (s.units.filter fun u => u.tenant == t && u.home != .flash && !u.lost) +
    sumBy (·.bytes) (s.oldRanges.filter fun r => s.colls.any fun c => c.handle == r.handle && c.tenant == t)

/-- Stack-memory and hub-tier bytes of one collection or memory. -/
def State.objStack (s : State) (h : Nat) : Nat :=
  sumBy (·.bytes) (s.units.filter fun u => !unitIsAlloc u.uid && unitHandle u.uid == h && u.home != .flash && !u.lost)

/-- TEN.QMEM.STACK in bytes (R563). -/
def State.stackQuota (s : State) (t : Nat) : Nat :=
  (if t = 0 then s.fld oPlcCap 31 0 else s.fld (oTenQmem t) 31 0) * mib

/-- A class-0 collection within its nonzero BUDGET is never demoted (R215). -/
def State.protectedUnit (s : State) (u : UnitId) : Bool :=
  s.unitClass u == 0 && s.unitBudget u != 0 && decide (s.objStack (unitHandle u) ≤ s.unitBudget u)

/-- A unit that demotion may take (R197, R213, R215, R437). -/
def State.demotable (s : State) (u : PUnit) : Bool :=
  u.home != .flash && softKind u.uid && !u.lost && !s.protectedUnit u.uid &&
    (s.unitPart u.tenant u.uid).any fun p => !p.readOnly && !p.dropping

/-- Non-demotable bytes of a tenant (R213). -/
def State.fixedBytes (s : State) (t : Nat) : Nat :=
  s.stackUse t - sumBy (·.bytes) (s.units.filter fun u => u.tenant == t && s.demotable u)

/-- Stack-memory bytes of all tenants, and what PLC.CAP leaves for homes (R194, R229). -/
def State.chipUse (s : State) : Nat :=
  sumBy (·.bytes) (s.units.filter fun u => u.home != .flash && u.home != .hub && !u.lost) + sumBy (·.bytes) s.oldRanges
def State.chipCap (s : State) : Nat := s.fld oPlcCap 31 0 * mib

/-- Fine lists of one coarse centroid (R28). -/
def Coll.perCoarse (c : Coll) : Nat := c.nlists / Nat.max 1 c.ncent

/-- Fine lists that an insert places one vector in (R61, R691). -/
def Coll.copies (c : Coll) : Nat := if c.spill && decide (2 ≤ c.perCoarse) then 2 else 1

/-- Stack-memory bytes of the vectors that a tenant's inserts in progress have still to write (R211, R213). -/
def State.owed (s : State) (t : Nat) : Nat :=
  sumBy (fun (x : Cmd) => match x.work, s.colls.find? fun c => c.handle == x.a 0 8 with
    | .insert ids _ _, some c => if x.fn = t ∧ x.inFlight then (x.a 8 4 - ids.length) * c.copies * entryBytes c.sub c.attrb else 0
    | _, _ => 0) s.cmds

/-- The stack-memory quota check of R213 on new bytes: none when it fails, or when the chip is short and no unit of the tenant can be
demoted (R229); else whether the tenant and the chip have the room now. -/
def State.room (s : State) (t new : Nat) : Option Bool :=
  let short := decide (s.chipCap < s.chipUse + new)
  if s.stackQuota t < new + s.fixedBytes t then none
  else if short && !s.units.any fun u => u.tenant == t && s.demotable u then none
  else some (decide (s.stackUse t + s.owed t + new ≤ s.stackQuota t) && !short)

/-- Run `f` once a command's new stack-memory bytes have room: it ends with `ST_QUOTA` where the check fails, and waits
while the placement engine makes room (R213). -/
def State.withRoom (s : State) (x : Cmd) (new : Nat) (f : State → State) : State :=
  match s.room x.fn new with
  | none => s.fail x.id stQuota
  | some false => s.updCmd x.id fun y => { y with needRoom := new }
  | some true => f (s.updCmd x.id fun y => { y with needRoom := 0 })

/-- The unit is in stack memory or the hub tier. -/
def State.resident (s : State) (u : UnitId) : Bool := (s.unit? u).any fun x => x.home != .flash && !x.lost

/-! ## Lists on the stacks (R209) -/

/-- Lists of a collection with a segment on a stack, or on their way to it. -/
def State.listsOn (s : State) (c : Coll) (n : Nat) : List Nat :=
  ((c.lists.filter fun p => s.resident (.fineList c.handle p.1) && p.2.segs.any fun g => g.stack == n).map (·.1) ++
    s.moves.filterMap fun m => if m.switched || m.dest != .stack n then none else match m.uid with
      | .fineList h l => if h = c.handle then some l else none
      | .listSegment h l _ => if h = c.handle then some l else none
      | _ => none).eraseDups

/-- A stack may take a segment of a list: no more than ⌈L/12⌉ + 1 lists of the collection are then on it (R209). -/
def State.stackTakes (s : State) (c : Coll) (l n : Nat) : Bool :=
  (s.listsOn c n).contains l || decide ((s.listsOn c n).length + 1 ≤ ceilDiv c.nlists 12 + 1)


/-! ## Staging sets (R210) -/

/-- A staging set: 8 logical clusters in service, taken in turn from the cluster dies, from a place that the placement engine chooses. -/
def State.newStaging (s : State) (k : Nat) : List Nat :=
  let on (d : Nat) : List Nat :=
    let l := (s.logical.filter fun e => e.2 / 136 == d).map (·.1)
    l.drop (k % Nat.max 1 l.length) ++ l.take (k % Nat.max 1 l.length)
  ((List.range 136).flatMap fun i => (List.range 4).filterMap fun d => (on d)[i]?).take 8

/-- A staging set without clusters that have left service, whole again. -/
def State.mendStaging (s : State) (l : List Nat) : List Nat :=
  let kept := l.filter fun c => s.logical.any fun e => e.1 == c
  if kept.length = l.length then l else (kept ++ (s.newStaging 0).filter fun c => !kept.contains c).take 8

def State.mendStagings (s : State) : State := { s with colls := s.colls.map fun c => { c with staging := s.mendStaging c.staging } }

/-! ## Changes -/

/-- A new unit. -/
def State.addUnit (s : State) (u : UnitId) (t : Nat) (home : Home) (bytes : Nat) : State :=
  { s with units := s.units ++ [{ uid := u, tenant := t, home := home, bytes := bytes, heat := 0, promotedAt := none,
                                  demotedAt := none, lost := false, parked := false, part := none }] }

/-- The stack that a new unit goes to: a free choice (R208). -/
def State.anyStack (s : State) : Home := .stack (s.draw 0 % 12)

/-- The unit's bytes change. -/
def State.sizeUnit (s : State) (u : UnitId) (n : Nat) : State := s.updUnit u fun x => { x with bytes := n }

/-- Sum of class-0 budgets (R215, R230), but for the collection `h`. -/
def State.class0Budgets (s : State) (h : Nat) : Nat :=
  sumBy (·.budget) (s.colls.filter fun c => c.cls == 0 && c.handle != h)

/-- The class-0 reserve takes the budget (R215). -/
def State.reserveTakes (s : State) (h cls budget : Nat) : Bool :=
  cls != 0 || budget == 0 || decide (s.class0Budgets h + budget ≤ s.fld oPlcReserve 31 0 * mib)

/-- Run `f` on a program's command; a unit of an object that it names, lost since its admission, ends it with `ST_LOST` (R57, R240,
R619). -/
def runVr (c vr : Nat) (s : State) (f : Cmd → State → State) : Res :=
  runCmd c s (fun x => x.vr == vr) fun x s => if x.names.any s.objLost then s.stopCmd c stLost else f x s

/-- A host access failed: it is logged under AER and ends the command (R486). -/
def State.hostFail (s : State) (x : Cmd) : State :=
  { s with out := { s.out with aer := s.out.aer ++ [x.fn] } }.stopCmd x.id stBadAddress

/-- An input of a command could not be read: a host access failed, or a device-space range is not mapped, which no rule
allows a host to name (R9, assumption 17). -/
def State.inputFail (s : State) (x : Cmd) (dev : Bool) : State := if dev then s.malformed x.id else s.hostFail x

/-- Some output of the program goes to host memory. -/
def Cmd.toHost (x : Cmd) : Bool :=
  let b (o i : Nat) : Bool := !bit (x.a o 4) i
  match x.vr with
  | 0x101 => b 0x10 26
  | 0x160 => b 0x10 26
  | 0x110 => b 0x14 10
  | 0x111 => b 0xC 7
  | 0x112 => b 0xC 1
  | 0x114 => b 0x10 6
  | 0x120 => b 0x18 7 || b 0x18 8
  | 0x130 => b 0xC 5 || b 0xC 6
  | 0x131 => b 0x2C 3
  | _ => false

/-- Read an input of a command: its bytes, or the state in which the failed read has left the command. A device-space range with a
poisoned line ends it with `ST_HW_FAULT` (R168, R173, R604, R619), one with an inner-only line with `ST_UNSEALED` where the program
has host-space output (R176, R314). -/
def State.input (s : State) (x : Cmd) (dev : Bool) (a n : Nat) : Except State (List Byte) :=
  match s.spaceRd x.fn dev a n with
  | none => .error (s.inputFail x dev)
  | some b =>
    if dev && s.poisoned x.fn a n then .error (s.stopCmd x.id stHwFault)
    else if dev && x.toHost && (linesOf a n).any fun l => s.innerOnly x.fn (l * 64) then .error (s.stopCmd x.id stUnsealed)
    else .ok b

/-- Read inputs in order. -/
def State.inputs (s : State) (x : Cmd) : List (Bool × Nat × Nat) → Except State (List (List Byte))
  | [] => .ok []
  | (dev, a, n) :: r =>
    match s.input x dev a n with
    | .error e => .error e
    | .ok b => match s.inputs x r with
      | .error e => .error e
      | .ok l => .ok (b :: l)

/-- An output of which nothing may be left could not be written: a handle or a base (R38, R321), or a buffer that
`State.smear` treats. -/
def State.outputFail (s : State) (x : Cmd) (dev : Bool) : State :=
  if dev then s.stopCmd x.id stBadAddress else s.hostFail x

/-- The write of `bs` at `a` failed: bytes already moved to the host stay (R486). -/
def State.outputLost (s : State) (x : Cmd) (dev : Bool) (a : Nat) (bs : List Byte) : State :=
  if dev then s.stopCmd x.id stBadAddress else (s.movePart x.fn a bs).hostFail x

end Sys2Proof.Machine
end

