-- ==== Sys2Proof/Machine/Vector.lean ====
section
/-! DEFINITION. Vector and mask instructions (R341 to R344, R358 to R361). -/
namespace Sys2Proof.Machine

/-! ## Lanes (R343, R344) -/

/-- Lane `i` of width `w`. -/
def lane1 (w : Nat) (v : BitVec 1024) (i : Nat) : Nat := field v.toNat (w * i + w - 1) (w * i)
def lanesOf (w : Nat) (v : BitVec 1024) : List Nat := (List.range (1024 / w)).map (lane1 w v)
/-- The register whose lanes of width `w` are these, from lane 0 upward. -/
def packLanes (w : Nat) : List Nat → Nat
  | [] => 0
  | x :: r => x % 2 ^ w + 2 ^ w * packLanes w r
def ofLanes (w : Nat) (l : List Nat) : BitVec 1024 := BitVec.ofNat 1024 (packLanes w l)

/-- Lane `i` is active under MK. -/
def Ictx.active (c : Ictx) (i : Nat) : Bool := wMk c.w == 0 || (c.th.rm (wMk c.w)).getLsbD i

/-- Write new lanes over vD: inactive lanes keep their value with X = 0 and become zero with X = 1. -/
def Ictx.merge (c : Ictx) (w : Nat) (new : List Nat) : BitVec 1024 :=
  let old := c.th.rv (wD c.w)
  ofLanes w (new.zipIdx.map fun p => if c.active p.2 then p.1 else if wX c.w = 1 then 0 else lane1 w old p.2)

/-- Some active lane satisfies `p`. -/
def Ictx.anyActive (c : Ictx) (l : List Bool) : Bool := l.zipIdx.any fun p => p.1 && c.active p.2

def usesV : Nat := usesTy ||| usesMk ||| usesX

/-- Vector register fields are at most 31. -/
def vDAB (w : Nat) : Bool := decide (wD w ≤ 31 ∧ wA w ≤ 31 ∧ wB w ≤ 31)
def vDA (w : Nat) : Bool := decide (wD w ≤ 31 ∧ wA w ≤ 31)

def Ictx.va (c : Ictx) : BitVec 1024 := c.th.rv (wA c.w)
def Ictx.vb (c : Ictx) : BitVec 1024 := c.th.rv (wB c.w)
def Ictx.vc (c : Ictx) : BitVec 1024 := c.th.rv (wC c.w)
def Ictx.width (c : Ictx) : Nat := tyWidth (wTy c.w)

/-- A lane as a signed or unsigned integer of its type. -/
def laneInt (ty x : Nat) : Int := if tySigned ty then toSigned (tyWidth ty) x else x

/-- vD = f(vA, vB) lane by lane; FPINV where a lane made a NaN. -/
def vec2 (opc : Nat) (ok : Nat → Bool) (f : Nat → Nat → Nat → Nat) (t : Tid) (s : State) : Res :=
  runInsn opc (fun w => ok (wTy w) && vDAB w && onlyUses w (usesV ||| usesD ||| usesA ||| usesB))
    (fun c s =>
      let ty := wTy c.w
      let ab := (lanesOf c.width c.va).zip (lanesOf c.width c.vb)
      let r := ab.map fun p => f ty p.1 p.2
      let inv := tyFloat ty && c.anyActive ((ab.zip r).map fun p => madeNan (tyFmt ty) [p.1.1, p.1.2] p.2)
      .done (c.flagIf inv flagFpinv (c.putV s (c.merge c.width r)))) t s

/-- Two's complement pattern in the lane of a type. -/
def wrapLane (ty : Nat) (i : Int) : Nat := ofSigned (tyWidth ty) i

def execVadd (t : Tid) (s : State) : Res :=
  vec2 0x40 tyLane (fun ty a b => if tyFloat ty then (tyFmt ty).add a b else wrapLane ty (a + b)) t s
def execVsub (t : Tid) (s : State) : Res :=
  vec2 0x41 tyLane (fun ty a b => if tyFloat ty then (tyFmt ty).sub a b else wrapLane ty ((a : Int) - b)) t s
def execVmul (t : Tid) (s : State) : Res :=
  vec2 0x42 tyLane (fun ty a b => if tyFloat ty then (tyFmt ty).mul a b else wrapLane ty (a * b)) t s

/-- A · B + C with one rounding; floating-point types only. -/
def execVfma (t : Tid) (s : State) : Res :=
  runInsn 0x43 (fun w => decide (12 ≤ wTy w ∧ wTy w ≤ 14 ∧ wC w ≤ 31) && vDAB w &&
      onlyUses w (usesV ||| usesD ||| usesA ||| usesB ||| usesC))
    (fun c s =>
      let f := tyFmt (wTy c.w)
      let abc := ((lanesOf c.width c.va).zip (lanesOf c.width c.vb)).zip (lanesOf c.width c.vc)
      let r := abc.map fun p => f.fma p.1.1 p.1.2 p.2
      let inv := c.anyActive ((abc.zip r).map fun p => madeNan f [p.1.1.1, p.1.1.2, p.1.2] p.2)
      .done (c.flagIf inv flagFpinv (c.putV s (c.merge c.width r)))) t s

/-- The lesser or greater of two lanes. -/
def laneMinMax (max : Bool) (ty a b : Nat) : Nat :=
  if tyFloat ty then (tyFmt ty).minMax max a b
  else if decide (laneInt ty a < laneInt ty b) != max then a else b

def execVmin (t : Tid) (s : State) : Res := vec2 0x44 tyLane (laneMinMax false) t s
def execVmax (t : Tid) (s : State) : Res := vec2 0x45 tyLane (laneMinMax true) t s

def tyLaneInt (ty : Nat) : Bool := decide (2 ≤ ty ∧ ty ≤ 9)

def execVand (t : Tid) (s : State) : Res := vec2 0x46 tyLaneInt (fun _ a b => a &&& b) t s
def execVor (t : Tid) (s : State) : Res := vec2 0x47 tyLaneInt (fun _ a b => a ||| b) t s
def execVxor (t : Tid) (s : State) : Res := vec2 0x48 tyLaneInt (fun _ a b => a ^^^ b) t s
def execVshl (t : Tid) (s : State) : Res := vec2 0x49 tyLaneInt (fun ty a b => a * 2 ^ (b % tyWidth ty)) t s
def execVshr (t : Tid) (s : State) : Res := vec2 0x4A tyLaneInt (fun ty a b => a / 2 ^ (b % tyWidth ty)) t s
def execVsra (t : Tid) (s : State) : Res :=
  vec2 0x4B tyLaneInt (fun ty a b => wrapLane ty (toSigned (tyWidth ty) a / (2 ^ (b % tyWidth ty) : Nat))) t s

/-- A cond B with cond 0 eq, 1 ne, 2 lt, 3 le; a comparison with NaN is true only for ne. -/
def laneCond (ty cond a b : Nat) : Bool :=
  let f := tyFmt ty
  let eq := if tyFloat ty then eqV (f.val a) (f.val b) else a == b
  let lt := if tyFloat ty then ltV (f.val a) (f.val b) else decide (laneInt ty a < laneInt ty b)
  if cond = 0 then eq else if cond = 1 then !eq else if cond = 2 then lt else lt || eq

/-- A mask of the bits, from bit 0 upward. -/
def packBits : List Bool → Nat
  | [] => 0
  | b :: r => b2n b + 2 * packBits r

def execVcmp (t : Tid) (s : State) : Res :=
  runInsn 0x4C (fun w => tyLane (wTy w) && decide (wD w ≤ 7 ∧ wA w ≤ 31 ∧ wB w ≤ 31) &&
      onlyUses w (usesTy ||| usesMk ||| usesD ||| usesA ||| usesB ||| usesSub 1 0))
    (fun c s =>
      let bits := (((lanesOf c.width c.va).zip (lanesOf c.width c.vb)).zipIdx).map fun p =>
        c.active p.2 && laneCond (wTy c.w) (field c.w 1 0) p.1.1 p.1.2
      .done (c.putM s (BitVec.ofNat 128 (packBits bits)))) t s

/-- Lane = bit i of mC ? A : B, with mC in C bits 2:0. -/
def execVsel (t : Tid) (s : State) : Res :=
  runInsn 0x4D (fun w => tyLane (wTy w) && vDAB w && decide (wC w ≤ 7) &&
      onlyUses w (usesV ||| usesD ||| usesA ||| usesB ||| usesC))
    (fun c s =>
      let m := c.th.rm (wC c.w)
      let r := (((lanesOf c.width c.va).zip (lanesOf c.width c.vb)).zipIdx).map fun p =>
        if m.getLsbD p.2 then p.1.1 else p.1.2
      .done (c.putV s (c.merge c.width r))) t s

/-! ## Conversion (R361) -/

/-- Result of one conversion, and the flags SAT and FPINV. -/
structure CvtRes where
  val : Nat
  sat : Bool
  inv : Bool
  deriving DecidableEq, Repr

def intMin (ty : Nat) : Int := if tySigned ty then -((2 ^ (tyWidth ty - 1) : Nat) : Int) else 0
def intMax (ty : Nat) : Int := if tySigned ty then ((2 ^ (tyWidth ty - 1) : Nat) : Int) - 1 else ((2 ^ tyWidth ty : Nat) : Int) - 1

/-- Saturate an integer at the range of a type. -/
def satInt (ty : Nat) (i : Int) : CvtRes :=
  ⟨wrapLane ty (clampI (intMin ty) (intMax ty) i), decide (i < intMin ty ∨ intMax ty < i), false⟩

/-- One lane from type `st` to type `dt`. Between integers of one width, a value outside the destination's range has no
stated result: `free` stands for it (assumption 8). -/
def cvtLane (st dt free x : Nat) : CvtRes :=
  if tyFloat st && tyFloat dt then ⟨cvtF (tyFmt st) (tyFmt dt) x, false, false⟩
  else if tyFloat dt then ⟨(tyFmt dt).ofInt (laneInt st x), false, false⟩
  else if tyFloat st then
    match (tyFmt st).val x with
    | .nan => ⟨0, false, true⟩
    | .inf neg => ⟨wrapLane dt (if neg then intMin dt else intMax dt), true, false⟩
    | .fin neg m e => satInt dt (rneInt neg m e)
  else if tyWidth st < tyWidth dt then ⟨wrapLane dt (laneInt st x), false, false⟩
  else if tyWidth dt < tyWidth st then satInt dt (laneInt st x)
  else
    let i := laneInt st x
    if intMin dt ≤ i ∧ i ≤ intMax dt then ⟨wrapLane dt i, false, false⟩
    else ⟨free % 2 ^ tyWidth dt, free / 2 ^ tyWidth dt % 2 == 1, false⟩

def execVcvt (t : Tid) (s : State) : Res :=
  runInsn 0x4E (fun w =>
      let ws := tyWidth (wC w)
      let wd := tyWidth (wTy w)
      decide (1 ≤ wC w ∧ wC w ≤ 14 ∧ 1 ≤ wTy w ∧ wTy w ≤ 14) && vDA w &&
      decide (field w 2 0 < Nat.max ws wd / Nat.min ws wd) &&
      (wMk w == 0 || (ws != 4 && wd != 4)) && onlyUses w (usesV ||| usesD ||| usesA ||| usesC ||| usesSub 2 0))
    (fun c s =>
      let st := wC c.w
      let dt := wTy c.w
      let ws := tyWidth st
      let wd := tyWidth dt
      let n := 1024 / Nat.max ws wd
      let p := field c.w 2 0
      let off := if wd < ws then p * n else 0
      let src := if ws < wd then ((lanesOf ws c.va).drop (p * n)).take n else lanesOf ws c.va
      let res := src.zipIdx.map fun x => (cvtLane st dt (s.draw x.2) x.1, off + x.2)
      let old := lanesOf wd (c.th.rv (wD c.w))
      let out := old.zipIdx.map fun x =>
        match res[x.2 - off]? with
        | none => x.1
        | some r => if x.2 < off then x.1 else if c.active x.2 then r.1.val else if wX c.w = 1 then 0 else x.1
      let act (q : CvtRes → Bool) : Bool := res.any fun r => q r.1 && c.active r.2
      .done (c.flagIf (act (·.inv)) flagFpinv (c.flagIf (act (·.sat)) flagSat
        (c.putV (s.drew n) (ofLanes wd out))))) t s

/-! ## Moves between lanes and registers -/

def execVbcast (t : Tid) (s : State) : Res :=
  runInsn 0x4F (fun w => tyLane (wTy w) && decide (wD w ≤ 31) && onlyUses w (usesV ||| usesD ||| usesA))
    (fun c s => .done (c.putV s (c.merge c.width (List.replicate (1024 / c.width) (c.ga.toNat % 2 ^ c.width))))) t s

def execVext (t : Tid) (s : State) : Res :=
  runInsn 0x50 (fun w => tyLane (wTy w) && decide (wA w ≤ 31) && onlyUses w (usesTy ||| usesD ||| usesA ||| usesB))
    (fun c s => .done (c.putG s (extend (wTy c.w) (lane1 c.width c.va (c.gb.toNat % (1024 / c.width)))))) t s

/-- MK must be 0. -/
def execVins (t : Tid) (s : State) : Res :=
  runInsn 0x51 (fun w => tyLane (wTy w) && decide (wD w ≤ 31) && onlyUses w (usesTy ||| usesD ||| usesA ||| usesB))
    (fun c s => .done (c.putV s (ofLanes c.width
      ((lanesOf c.width (c.th.rv (wD c.w))).set (c.gb.toNat % (1024 / c.width)) (c.ga.toNat % 2 ^ c.width))))) t s

def execVperm (t : Tid) (s : State) : Res :=
  runInsn 0x52 (fun w => tyLane (wTy w) && vDAB w && onlyUses w (usesV ||| usesD ||| usesA ||| usesB))
    (fun c s => .done (c.putV s (c.merge c.width
      ((lanesOf c.width c.vb).map fun i => lane1 c.width c.va (i % (1024 / c.width)))))) t s

/-! ## Reduction (R358 to R360) -/

/-- The reduction of the active lanes: 0 add, 1 min, 2 max. A floating-point add takes an order the manual does not state. -/
def reduceLanes (ty op k : Nat) (l : List Nat) : Nat :=
  let f := tyFmt ty
  if tyFloat ty then
    if op = 0 then (if l.isEmpty then 0 else f.sum k (l.map f.val))
    else l.foldl (f.minMax (op == 2)) (f.ofInf (op == 2))
  else if op = 0 then l.foldl (fun a b => (a + b) % 2 ^ tyWidth ty) 0
  else l.foldl (laneMinMax (op == 2) ty) (wrapLane ty (if op = 2 then intMin ty else intMax ty))

def execVred (t : Tid) (s : State) : Res :=
  runInsn 0x53 (fun w => tyLane (wTy w) && vDA w && field w 1 0 != 3 &&
      onlyUses w (usesTy ||| usesMk ||| usesD ||| usesA ||| usesSub 1 0))
    (fun c s =>
      let ty := wTy c.w
      let l := ((lanesOf c.width c.va).zipIdx.filter fun p => c.active p.2).map (·.1)
      let r := reduceLanes ty (field c.w 1 0) s.free l
      .done (c.flagIf (tyFloat ty && madeNan (tyFmt ty) l r) flagFpinv
        (c.putV (s.drew 256) (BitVec.ofNat 1024 (r % 2 ^ c.width))))) t s

/-! ## Functions (R360) -/

def vecFn (opc : Nat) (f : Nat → Nat → Nat) (t : Tid) (s : State) : Res :=
  runInsn opc (fun w => wTy w == 14 && vDA w && onlyUses w (usesV ||| usesD ||| usesA))
    (fun c s =>
      let a := lanesOf 32 c.va
      let r := a.zipIdx.map fun p => f (s.free + p.2) p.1
      let inv := c.anyActive ((a.zip r).map fun p => madeNan fF32 [p.1] p.2)
      .done (c.flagIf inv flagFpinv (c.putV (s.drew 32) (c.merge 32 r)))) t s

def execVexp (t : Tid) (s : State) : Res := vecFn 0x54 fexp t s
def execVrcp (t : Tid) (s : State) : Res := vecFn 0x55 frcp t s
def execVrsqrt (t : Tid) (s : State) : Res := vecFn 0x56 frsqrt t s

/-! ## Masks -/

def mask2 (opc : Nat) (f : BitVec 128 → BitVec 128 → BitVec 128) (t : Tid) (s : State) : Res :=
  runInsn opc (fun w => decide (wD w ≤ 7 ∧ wA w ≤ 7 ∧ wB w ≤ 7) && onlyUses w (usesD ||| usesA ||| usesB))
    (fun c s => .done (c.putM s (f (c.th.rm (wA c.w)) (c.th.rm (wB c.w))))) t s

def execMand (t : Tid) (s : State) : Res := mask2 0x58 (fun a b => a &&& b) t s
def execMor (t : Tid) (s : State) : Res := mask2 0x59 (fun a b => a ||| b) t s
def execMxor (t : Tid) (s : State) : Res := mask2 0x5A (fun a b => a ^^^ b) t s

def execMnot (t : Tid) (s : State) : Res :=
  runInsn 0x5B (fun w => decide (wD w ≤ 7 ∧ wA w ≤ 7) && onlyUses w (usesD ||| usesA))
    (fun c s => .done (c.putM s (~~~(c.th.rm (wA c.w))))) t s

def execMpop (t : Tid) (s : State) : Res :=
  runInsn 0x5C (fun w => decide (wA w ≤ 7) && onlyUses w (usesD ||| usesA))
    (fun c s => .done (c.putG s (BitVec.ofNat 64 (popN 128 (c.th.rm (wA c.w)).toNat)))) t s

/-- Index of the lowest one bit; 128 if none. -/
def firstOne (x : BitVec 128) : Nat := ((List.range 128).find? fun i => x.getLsbD i).getD 128

def execMfirst (t : Tid) (s : State) : Res :=
  runInsn 0x5D (fun w => decide (wA w ≤ 7) && onlyUses w (usesD ||| usesA))
    (fun c s => .done (c.putG s (BitVec.ofNat 64 (firstOne (c.th.rm (wA c.w)))))) t s

def execMset (t : Tid) (s : State) : Res :=
  runInsn 0x5E (fun w => decide (wD w ≤ 7) && onlyUses w (usesD ||| usesA ||| usesB))
    (fun c s => .done (c.putM s (BitVec.ofNat 128 (c.ga.toNat + c.gb.toNat * 2 ^ 64)))) t s

def execMget (t : Tid) (s : State) : Res :=
  runInsn 0x5F (fun w => decide (wA w ≤ 7) && onlyUses w (usesD ||| usesA ||| usesSub 0 0))
    (fun c s => .done (c.putG s (BitVec.ofNat 64 (field (c.th.rm (wA c.w)).toNat (64 * field c.w 0 0 + 63)
      (64 * field c.w 0 0))))) t s

end Sys2Proof.Machine
end

