-- ==== Sys2Proof/Machine/Tensor.lean ====
section
/-! DEFINITION. The tensor unit (R118 to R122, R362 to R367), sequence tags (R134 to R141). -/
namespace Sys2Proof.Machine

/-! ## Sequence tags -/

/-- A sequence-tag mismatch: one reissue of the fragment, then the end of its command (R137 to R139). -/
def State.scaleSkew (s : State) (f handle block : Nat) : State :=
  match s.frag? f with
  | none => s
  | some x =>
    let s1 := s.noteSkew x.tenant x.cmd handle block x.skewUsed
    if x.skewUsed then s1.fail x.cmd stScaleSkew
    else
      let drop (l : Nat) (k : Cluster) : Cluster :=
        if x.members.any (fun m => m.cluster == l) then
          { k with lines := k.lines.filter fun y => y.tenant != x.tenant || y.dirty != 0 }
        else k
      let s2 := { s1 with clusters := s1.clusters.map fun (e : Nat × Cluster) => (e.1, drop e.1 e.2) }
      (s2.redispatch f).updFrag f fun y => { y with skewUsed := true }

/-! ## Tensor descriptors (R362, R363) -/

structure TDesc where
  act : Nat
  wgt : Nat
  k : Nat
  wstride : Nat
  astride : Nat
  agran : Bool
  wgran : Bool
  scaled : Bool
  acc : Bool
  sparse : Bool
  aty : Nat
  ascale : Nat
  wscale : Nat
  pos : Nat
  atag : Nat
  wtag : Nat
  deriving DecidableEq, Repr

def tdesc (d : List Byte) : TDesc :=
  let f := leAt d 0x10 4
  { act := leAt d 0 4, wgt := leAt d 4 4, k := leAt d 8 4, wstride := leAt d 0xE 2, astride := leAt d 0xC 2,
    agran := bit f 12, wgran := bit f 11, scaled := bit f 10, acc := bit f 9, sparse := bit f 8, aty := field f 3 0,
    ascale := leAt d 0x14 4, wscale := leAt d 0x18 4, pos := leAt d 0x1C 4, atag := leAt d 0x20 4,
    wtag := leAt d 0x24 4 }

/-- Rows of R118, as (weight type, activation type). -/
def pairOk (ty aty : Nat) : Bool :=
  [(1, 1), (1, 2), (2, 2), (10, 10), (10, 11), (11, 10), (11, 11), (13, 13), (12, 12)].contains (ty, aty)

/-- Elements of a weight row that are stored. -/
def TDesc.wk (d : TDesc) : Nat := if d.sparse then d.k / 2 else d.k

/-- Scale entries of one operand: per row one with channel granularity, one per 32 elements with block (R114). -/
def scaleCount (chan : Bool) (k : Nat) : Nat := if chan then 64 else 64 * (k / 32)

/-- Ranges of the cistern that a `tmma` reads: offset and length (R363). -/
def TDesc.ranges (d : TDesc) (ty : Nat) : List (Nat × Nat) :=
  [(d.act, 63 * d.astride + ceilDiv (d.k * tyWidth d.aty) 8), (d.wgt, 63 * d.wstride + ceilDiv (d.wk * tyWidth ty) 8)] ++
  (if d.sparse then [(d.pos, 64 * (d.k / 8))] else []) ++
  (if d.scaled then
    [(d.ascale, 4 * scaleCount d.agran d.k), (d.wscale, 4 * scaleCount d.wgran d.k), (d.atag, 64 * (d.k / 256)),
     (d.wtag, 64 * (d.k / 256))] else [])

/-- Offset of the first reserved field value of a tensor descriptor (R362, R363). -/
def tdescBad (b : List Byte) (ty : Nat) : Option Nat :=
  let d := tdesc b
  if d.k < 32 ∨ 16384 < d.k ∨ d.k % (if d.scaled then 256 else 32) ≠ 0 then some 8
  else if d.wstride % 8 ≠ 0 ∨ d.astride % 8 ≠ 0 then some 0xC
  else if fieldAt b 0x10 31 13 ≠ 0 ∨ fieldAt b 0x10 7 4 ≠ 0 ∨ !pairOk ty d.aty ∨ (d.sparse ∧ 12 ≤ ty) ∨
      (d.scaled ∧ 12 ≤ ty) then some 0x10
  else if (b.drop 0x28).any (· != 0) then some 0x28
  else none

/-- SCALE and ZP of a scale entry (R115). -/
def entScale (e : Nat) : Nat := e % 65536
def entZp (e : Nat) : Int := toSigned 8 (field e 23 16)
def entTag (e : Nat) : Nat := field e 31 24

/-- Zero points that the operand's type allows (R111, R113). -/
def zpOk (ty : Nat) (e : Nat) : Bool :=
  if 10 ≤ ty then entZp e == 0 else ty != 1 || decide (-8 ≤ entZp e ∧ entZp e ≤ 7)

/-- The scale entries of both operands, activation first. -/
def scalesAt (rd : Nat → Nat → List Byte) (off n : Nat) : List Nat :=
  (List.range n).map fun i => leNat (rd (off + 4 * i) 4)

/-- Tile `n` of a member, its type as an earlier accepted `tmma` leaves it (R365, R366). -/
def State.tileInt (s : State) (c : Ictx) (n : Nat) : Bool :=
  let q := (s.cluster c.cluster).tensor.filter fun o => o.frag == c.t.frag && o.mem == c.t.mem && o.tile == n
  match q.getLast? with
  | some o => decide (o.ty ≤ 2) && !(tdesc o.desc).scaled
  | none => (Map.getD c.mem.tiles n ⟨false, []⟩).isInt

/-- Some accepted `tmma` on the tile has not executed. -/
def State.tileBusy (s : State) (c : Ictx) (n : Nat) : Bool :=
  (s.cluster c.cluster).tensor.any fun o => o.frag == c.t.frag && o.mem == c.t.mem && o.tile == n

/-- The invalid-operand exception for a field of a descriptor. -/
def badField (desc off : Nat) : Eff := .exc xOperand desc 0 off

/-- `tmma` retires once the tensor unit accepts it (R363, R365, R366). -/
def execTmma (t : Tid) (s : State) : Res :=
  runInsn 0x60 (fun w => decide (1 ≤ wTy w ∧ wTy w ≤ 14) && onlyUses w (usesTy ||| usesD ||| usesA))
    (fun c s =>
      let o := c.ga.toNat
      let ty := wTy c.w
      if c.frag.tiles ≤ wD c.w then badOperand
      else if !c.inArea o 64 then .exc xCistern o 0 0
      else
        let b := c.cisRd s o 64
        let d := tdesc b
        let inA := (d.ranges ty).all fun r => c.inArea r.1 r.2
        let zp := !d.scaled || !inA || ((scalesAt (c.cisRd s) d.ascale (scaleCount d.agran d.k)).all (zpOk d.aty) &&
          (scalesAt (c.cisRd s) d.wscale (scaleCount d.wgran d.k)).all (zpOk ty))
        let isInt := decide (ty ≤ 2) && !d.scaled
        match tdescBad b ty with
        | some f => badField o f
        | none =>
          firstExc [(d.acc && s.tileInt c (wD c.w) != isInt, badField o 0x10), (!zp, badField o 0x14),
              (!inA, .exc xCistern ((((d.ranges ty).find? fun r => !c.inArea r.1 r.2).map (·.1)).getD 0) 0 0)]
            (.done (s.updCluster c.cluster fun k => { k with tensor := k.tensor ++
              [{ frag := c.t.frag, mem := c.t.mem, thread := c.t.idx, tile := wD c.w, ty := ty, desc := b }] }))) t s

/-! ## Execution (R364) -/

/-- Element `k` of a packed row of codes or floats. -/
def rowElem (ty : Nat) (row : List Byte) (k : Nat) : Nat :=
  if ty = 1 then field (leAt row (k / 2) 1) (4 * (k % 2) + 3) (4 * (k % 2)) else leAt row (k * tySize ty) (tySize ty)

/-- Dense weight row: stored elements, or those that the position fields keep (R122). -/
def denseRow (d : TDesc) (ty : Nat) (row posRow : List Byte) : List (Option Nat) :=
  if d.sparse then
    (List.range d.k).map fun k =>
      let g := k / 4
      let p := field (leAt posRow (g / 2) 1) (4 * (g % 2) + 3) (4 * (g % 2))
      if k % 4 = p % 4 then some (rowElem ty row (2 * g)) else if k % 4 = p / 4 then some (rowElem ty row (2 * g + 1))
      else none
  else (List.range d.k).map fun k => some (rowElem ty row k)

/-- A position field that breaks R122. -/
def badPositions (d : TDesc) (posRow : List Byte) : Bool :=
  d.sparse && (List.range (d.k / 4)).any fun g =>
    let p := field (leAt posRow (g / 2) 1) (4 * (g % 2) + 3) (4 * (g % 2))
    decide (p / 4 ≤ p % 4)

def scaleOf (chan : Bool) (kk : Nat) (sc : List Nat) (row k : Nat) : Nat :=
  if chan then sc.getD row 0 else sc.getD (row * (kk / 32) + k / 32) 0

/-- First code block whose tag differs from the TAG of a scale entry that serves it (R136). -/
def tagMismatch (chan : Bool) (kk : Nat) (sc tags : List Nat) : Option Nat :=
  (List.range (64 * (kk / 256))).find? fun n =>
    let row := n / (kk / 256)
    let b := n % (kk / 256)
    let used := if chan then [sc.getD row 0] else (List.range 8).map fun i => sc.getD (row * (kk / 32) + 8 * b + i) 0
    used.any fun e => entTag e != tags.getD n 0

/-- One element of the tile: old value, rows of the two operands and their scale entries. -/
structure Cell where
  val : Nat
  sat : Bool
  deriving DecidableEq, Repr

def clampI32 (i : Int) : Cell :=
  ⟨ofSigned 32 (clampI (-2147483648) 2147483647 i), decide (i < -2147483648 ∨ 2147483647 < i)⟩

/-- Integer pairs without scales: exact over the reduction, saturated to int32 (R120). -/
def cellInt (old : Nat) (a : List Int) (w : List (Option Int)) : Cell :=
  clampI32 (((a.zip w).map fun p => p.1 * p.2.getD 0).foldl (fun x y => x + y) (toSigned 32 old))

/-- Floating pairs: exact products summed in FP32 in an order the manual does not state (R121). -/
def cellFloat (k old : Nat) (acc : Bool) (a w : List FVal) : Cell :=
  ⟨fF32.sum k ([if acc then fF32.val old else FVal.fin false 0 0] ++ (a.zip w).map fun p => mulV p.1 p.2), false⟩

/-- The exact partial of a run under its activation and weight scales (R113, R119). -/
def scaledPart (i : Int) (sa sw : Nat) : FVal :=
  match scaleV sa (.fin (decide (i < 0)) i.natAbs 0) with
  | .nan => .nan
  | x => scaleV sw x

/-- Integer pairs with scales: exact partials per run, scaled and added in FP32 (R119), in an order that R105 leaves open. -/
def cellScaled (k old : Nat) (acc : Bool) (runs : List (Int × Nat × Nat)) : Cell :=
  ⟨fF32.sum k ([if acc then fF32.val old else FVal.fin false 0 0] ++ runs.map fun r =>
      fF32.val (fF32.ofVal (scaledPart r.1 r.2.1 r.2.2))), false⟩

/-- Start positions and lengths of the runs that share one scale of each operand (R119). -/
def runsOf (d : TDesc) : List (Nat × Nat) :=
  let n := if d.agran && d.wgran then 8192 else 32
  (List.range (ceilDiv d.k n)).map fun i => (i * n, Nat.min n (d.k - i * n))

/-- Element (i, j) of the result. -/
def tmmaCell (d : TDesc) (ty k i j old : Nat) (a : List Nat) (w : List (Option Nat)) (sa sw : List Nat) : Cell :=
  if ty ≤ 2 then
    if d.scaled then
      cellScaled k old d.acc ((runsOf d).map fun r =>
        let ea := scaleOf d.agran d.k sa i r.1
        let ew := scaleOf d.wgran d.k sw j r.1
        let part := (((a.drop r.1).take r.2).zip ((w.drop r.1).take r.2)).foldl (fun (x : Int) p =>
          match p.2 with
          | none => x
          | some q => x + (laneInt d.aty p.1 - entZp ea) * (laneInt ty q - entZp ew)) 0
        (part, entScale ea, entScale ew))
    else cellInt old (a.map (laneInt d.aty)) (w.map fun q => q.map (laneInt ty))
  else
    let va := a.zipIdx.map fun p =>
      let v := (tyFmt d.aty).val p.1
      if d.scaled then scaleV (entScale (scaleOf d.agran d.k sa i p.2)) v else v
    let vw := w.zipIdx.map fun p => match p.1 with
      | none => FVal.fin false 0 0
      | some q =>
        let v := (tyFmt ty).val q
        if d.scaled then scaleV (entScale (scaleOf d.wgran d.k sw j p.2)) v else v
    -- elements that are not kept contribute nothing
    let kept := (va.zip (vw.zip w)).filter fun p => p.2.2.isSome
    cellFloat k old d.acc (kept.map (·.1)) (kept.map (·.2.1))

/-- Run one accepted operation against a member of its fragment. DESIGN CHOICE (assumption 40): for operands of the cistern, which belong to
no tensor with a handle, a mismatch is recorded with handle 0 and the index of the code block in its operand, 64 rows of K/256 blocks, the
activation operand before the weight operand (R137). -/
def State.runTensor (s : State) (m : Member) (o : TensorOp) : State :=
  let d := tdesc o.desc
  let rd (off n : Nat) : List Byte := s.cis.rdN (cisKey m.cluster (m.base + off)) n
  let sa := if d.scaled then scalesAt rd d.ascale (scaleCount d.agran d.k) else []
  let sw := if d.scaled then scalesAt rd d.wscale (scaleCount d.wgran d.k) else []
  let tags (off : Nat) : List Nat := (rd off (64 * (d.k / 256))).map (·.toNat)
  let posRow (j : Nat) : List Byte := if d.sparse then rd (d.pos + j * (d.k / 8)) (d.k / 8) else []
  match (if d.scaled then (tagMismatch d.agran d.k sa (tags d.atag)).orElse fun _ =>
      tagMismatch d.wgran d.k sw (tags d.wtag) else none) with
  | some block => s.scaleSkew o.frag 0 block
  | none =>
    if (List.range 64).any fun j => badPositions d (posRow j) then
      match s.frag? o.frag with
      | none => s
      | some f => s.malformed f.cmd
    else
      let isInt := decide (o.ty ≤ 2) && !d.scaled
      let tile := Map.getD m.tiles o.tile ⟨isInt, []⟩
      let arow (i : Nat) : List Nat :=
        let b := rd (d.act + i * d.astride) (ceilDiv (d.k * tyWidth d.aty) 8)
        (List.range d.k).map (rowElem d.aty b)
      let wrow (j : Nat) : List (Option Nat) :=
        denseRow d o.ty (rd (d.wgt + j * d.wstride) (ceilDiv (d.wk * tyWidth o.ty) 8)) (posRow j)
      let ws := (List.range 64).map wrow
      let cells := (List.range 64).flatMap fun i =>
        let a := arow i
        ws.zipIdx.map fun w =>
          let old := if d.acc then (Map.getD tile.elems (64 * i + w.2) (0 : F32)).toNat else 0
          tmmaCell d o.ty (s.free + (64 * i + w.2) * 65536) i w.2 old a w.1 sa sw
      let elems : Map F32 := (cells.zipIdx.filter fun p => p.1.val != 0).map fun p => (p.2, BitVec.ofNat 32 p.1.val)
      let t : Tid := ⟨o.frag, o.mem, o.thread⟩
      let s1 := (s.drew (4096 * 65536)).updMember t fun m => { m with tiles := Map.put m.tiles o.tile ⟨isInt, elems⟩ }
      if cells.any (·.sat) then s1.updThread t fun th => { th with flags := setFlagBit th.flags flagSat } else s1

/-- The oldest accepted operation of a cluster executes; one whose fragment is gone is dropped (R366). -/
def execTmmaExecution (l : Nat) (s : State) : Res :=
  match (s.cluster l).tensor with
  | [] => .next s
  | o :: rest =>
    onlyIf (s.active && !s.tripped) s fun s =>
      let s1 := s.updCluster l fun k => { k with tensor := rest }
      match (s1.frag? o.frag).bind fun f => if f.phase == .running then f.members[o.mem]? else none with
      | none => s1
      | some m => if m.cluster = l then s1.runTensor m o else s1

/-! ## Tiles (R365, R367) -/

def Ictx.tile (c : Ictx) (n : Nat) : Tile := Map.getD c.mem.tiles n ⟨false, []⟩
def Ictx.putTile (c : Ictx) (s : State) (n : Nat) (x : Tile) : State :=
  s.updMember c.t fun m => { m with tiles := Map.put m.tiles n x }

/-- The tile instructions check the claim and wait for the tile's earlier tensor instructions. -/
def tileOp (opc : Nat) (legal : Nat → Bool) (num : Nat → Nat) (f : Ictx → State → Nat → Eff) (t : Tid) (s : State) : Res :=
  runInsn opc legal (fun c s =>
    let n := num c.w
    if c.frag.tiles ≤ n then badOperand else if s.tileBusy c n then .wait .wait else f c s n) t s

def execTld (t : Tid) (s : State) : Res :=
  tileOp 0x61 (fun w => (wTy w == 4 || wTy w == 14) && onlyUses w (usesTy ||| usesD ||| usesA)) wD
    (fun c s n =>
      let o := c.ga.toNat
      if !c.inArea o 16384 then .exc xCistern o 0 0
      else
        let b := c.cisRd s o 16384
        let es : Map F32 := ((List.range 4096).map fun i => (i, BitVec.ofNat 32 (leAt b (4 * i) 4))).filter fun p => p.2 != 0
        .done (c.putTile s n ⟨wTy c.w == 4, es⟩)) t s

def execTst (t : Tid) (s : State) : Res :=
  tileOp 0x62 (fun w => onlyUses w (usesA ||| usesB)) wA
    (fun c s n =>
      let o := c.gb.toNat
      if !c.inArea o 16384 then .exc xCistern o 0 0
      else .done (c.cisWr s o ((List.range 4096).flatMap fun i => toLe 4 (Map.getD (c.tile n).elems i (0 : F32)).toNat))) t s

def execTzero (t : Tid) (s : State) : Res :=
  tileOp 0x63 (fun w => (wTy w == 4 || wTy w == 14) && onlyUses w (usesTy ||| usesD)) wD
    (fun c s n => .done (c.putTile s n ⟨wTy c.w == 4, []⟩)) t s

def execTmov (t : Tid) (s : State) : Res :=
  tileOp 0x64 (fun w => decide (wD w ≤ 31) && onlyUses w (usesD ||| usesA ||| usesB ||| usesSub 0 0)) wA
    (fun c s n =>
      let base := 64 * (c.gb.toNat % 64) + 32 * field c.w 0 0
      .done (c.putV s (ofLanes 32 ((List.range 32).map fun i => (Map.getD (c.tile n).elems (base + i) (0 : F32)).toNat)))) t s

end Sys2Proof.Machine
end

