-- ==== Sys2Proof/Machine/Comb.lean ====
section
/-! DEFINITION. The comb: contexts, top-k, block merges, run merges (R78 to R94, R371, R372), and the lookup scan that feeds
it (R368 to R370). -/
namespace Sys2Proof.Machine

/-! ## Contexts -/

/-- Context number, SUB 1:0. -/
def wCtx (w : Nat) : Nat := field w 1 0

/-- An open context of the cluster, as long as the fragment that opened it runs (assumption 14). -/
def Ictx.combCtx (c : Ictx) (s : State) (n : Nat) : Option CombCtx :=
  match Map.get? (s.cluster c.cluster).ctx n with
  | none => none
  | some k => if k.tenant = c.tenant ∧ (s.frag? k.frag).any (fun f => f.phase == .running) then some k else none

def State.setCtx (s : State) (l n : Nat) (k : CombCtx) : State :=
  s.updCluster l fun x => { x with ctx := Map.put x.ctx n k }

/-- Bytes of a run area (R85). -/
def runAreaBytes (wide : Bool) (k : Nat) : Nat := (if wide then 32 else 24) * (k + 256)

/-- Pairs wait in the context's input stage for a merge. -/
def CombCtx.full (k : CombCtx) : Bool := decide (256 ≤ k.block.length)

/-- An open context of the cluster whose input stage is full: a comb instruction aimed at it waits (R80). -/
def Ictx.combFull (c : Ictx) (s : State) (n : Nat) : Bool := (c.combCtx s n).any CombCtx.full

/-- The contexts of the cluster but `n` that are open and whose run areas share a byte with `[a, a + len)` (R85). -/
def State.overlapping (s : State) (l n a len : Nat) : List (Nat × CombCtx) :=
  (s.cluster l).ctx.filter fun e => e.1 != n && (s.frag? e.2.frag).any (fun f => f.phase == .running) &&
    decide (a < e.2.area + runAreaBytes e.2.wide e.2.k ∧ e.2.area < a + len)

/-- Open a context. One whose input stage is full is waited for before it is opened anew (R80, R88). -/
def execCombOpen (t : Tid) (s : State) : Res :=
  runInsn 0x6C (fun w => onlyUses w (usesA ||| usesSub 1 0))
    (fun c s =>
      let o := c.ga.toNat
      let n := wCtx c.w
      if c.combFull s n then .wait .stall
      else if !c.inArea o 32 then .exc xCistern o 0 0
      else
        let b := c.cisRd s o 32
        let k := leAt b 0 4
        let f := leAt b 4 4
        let area := leAt b 8 4
        if k = 0 ∨ 65536 < k then .exc xOperand o n 0
        else if field f 5 4 = 3 then .exc xOperand o n 4
        else
          let others := s.overlapping c.cluster n (c.mem.base + area) (runAreaBytes (bit f 3) k)
          let astray := !c.inArea area (runAreaBytes (bit f 3) k) || !others.isEmpty
          let ctx : CombCtx :=
            { frag := c.t.frag, tenant := c.tenant, k := k, dedup := bit f 7, desc := bit f 6, ktype := field f 5 4,
              wide := bit f 3, area := c.mem.base + area, descAt := c.mem.base + o, run := [], block := [], pushed := 0,
              dups := 0, astray := astray }
          let bad := field f 31 8 != 0 || field f 2 0 != 0 || leAt b 0x1C 4 != 0 || area % 64 != 0 || astray
          let s1 := if bad then s.malformed c.frag.cmd else s
          .done ((others.foldl (fun s e => s.setCtx c.cluster e.1 { e.2 with astray := true }) s1).setCtx c.cluster n ctx)) t s

/-- The front filter and the block buffer take one valid pair (R89). DESIGN CHOICE (assumption 40): DUPS counts a pair removed because
its tag is present; one that fails the threshold first is not counted, whether or not its tag is present. -/
def CombCtx.push (k : CombCtx) (p : F32 × Nat) : CombCtx :=
  let before := pairBefore k.ktype k.desc
  let k1 := { k with pushed := k.pushed + 1 }
  let late := k.run.length == k.k && !(k.run.getLast?.any fun l => before p l)
  if late then k1
  else if k.dedup && (k.run.any fun q => q.2 == p.2) then
    if k.run.any fun q => q.2 == p.2 && before p q then
      { k1 with run := sortBy before (p :: k.run.filter fun q => q.2 != p.2), dups := k.dups + 1 }
    else { k1 with dups := k.dups + 1 }
  else if k.dedup && (k.block.any fun q => q.2 == p.2) then
    if k.block.any fun q => q.2 == p.2 && before p q then
      { k1 with block := k.block.map fun q => if q.2 = p.2 then p else q, dups := k.dups + 1 }
    else { k1 with dups := k.dups + 1 }
  else { k1 with block := k.block ++ [p] }

/-- Sort the first `n` survivors of the block and merge them into the run (R89). -/
def CombCtx.mergeBlock (k : CombCtx) (n : Nat) : CombCtx :=
  { k with run := (sortBy (pairBefore k.ktype k.desc) (k.run ++ k.block.take n)).take k.k, block := k.block.drop n }

/-- Push the valid lanes of an instruction into a context. DESIGN CHOICE (assumption 40): `comb.topk.n` on a wide context and `comb.topk.w` on
a narrow one raise the invalid-operand exception. -/
def combPush (opc lanes : Nat) (wide : Bool) (top : Nat) (tag : Ictx → Nat → Nat) (key : Ictx → Nat → Nat) (t : Tid)
    (s : State) : Res :=
  runInsn opc (fun w => decide (wA w ≤ top) && onlyUses w (usesMk ||| usesA ||| usesSub 1 0))
    (fun c s =>
      let n := wCtx c.w
      match c.combCtx s n with
      | none => .exc xOperand 0 n 0xFFFFFFFF
      | some k =>
        if k.wide != wide then .exc xOperand 0 n 0xFFFFFFFF
        else if k.full then .wait .stall
        else .done (s.setCtx c.cluster n (((List.range lanes).filter c.active).foldl
          (fun k i => k.push (BitVec.ofNat 32 (key c i), tag c i)) k))) t s

/-- Lane `i` of `w` bits in consecutive vector registers from `r` (R87). -/
def Ictx.groupLane (c : Ictx) (r w i : Nat) : Nat := lane1 w (c.th.rv (r + i * w / 1024)) (i % (1024 / w))

def execCombTopkN (t : Tid) (s : State) : Res :=
  combPush 0x6D 64 false 28 (fun c i => c.groupLane (wA c.w + 2) 32 i) (fun c i => c.groupLane (wA c.w) 32 i) t s

def execCombTopkW (t : Tid) (s : State) : Res :=
  combPush 0x6E 32 true 29 (fun c i => c.groupLane (wA c.w + 1) 64 i) (fun c i => c.groupLane (wA c.w) 32 i) t s

/-- A full block of survivors is sorted and merged into the run of an open context. -/
def execCombBlockMerge (l ctx : Nat) (s : State) : Res :=
  match Map.get? (s.cluster l).ctx ctx with
  | none => .next s
  | some k => onlyIf (s.active && k.full) s fun s => s.setCtx l ctx (k.mergeBlock 256)

/-- A run entry in memory (R86): narrow 8 bytes, wide 12. -/
def runEntry (wide : Bool) (kt : Nat) (p : F32 × Nat) : List Byte :=
  toLe (if wide then 8 else 4) p.2 ++ toLe 4 (runKey kt p.1).toNat

def runEntrySize (wide : Bool) : Nat := if wide then 12 else 8

/-- The bytes of a closed run: free values where its run area was astray (R85). -/
def State.runBytes (s : State) (k : CombCtx) : List Byte :=
  let bs := k.run.flatMap (runEntry k.wide k.ktype)
  if k.astray then (List.range bs.length).map fun i => BitVec.ofNat 8 (s.draw i) else bs

/-- The part of `bs` at physical offset `off` that lies in the member's area; nothing outside it is written (R9, R301). -/
def Ictx.withinArea (c : Ictx) (off : Nat) (bs : List Byte) : List (Bool × Byte) :=
  bs.zipIdx.map fun p => (decide (c.mem.base ≤ off + p.2 ∧ off + p.2 < c.mem.base + c.frag.cis * 65536), p.1)

/-- Flush, write the run and the counts, and close (R86, R89). DESIGN CHOICE (assumption 40): closing a context that is not open raises the
invalid-operand exception, as a push to it does (R88), and bytes of the run area beyond the run keep what they held. -/
def execCombClose (t : Tid) (s : State) : Res :=
  runInsn 0x6F (fun w => onlyUses w (usesSub 1 0))
    (fun c s =>
      let n := wCtx c.w
      match c.combCtx s n with
      | none => .exc xOperand 0 n 0xFFFFFFFF
      | some k =>
        if k.full then .wait .stall else
        let k1 := k.mergeBlock k.block.length
        let wr (m : Mem) (off : Nat) (bs : List Byte) : Mem := m.wrMask (cisKey c.cluster off) (c.withinArea off bs)
        let m1 := wr s.cis k.area (s.runBytes k1)
        let m2 := wr m1 (k.descAt + 0xC) (toLe 4 k1.run.length ++ toLe 8 k1.pushed ++ toLe 4 k1.dups)
        .done ({ (if k.astray then s.drew (s.runBytes k1).length else s) with cis := m2 }.updCluster c.cluster fun x => { x with ctx := Map.del x.ctx n })) t s

/-! ## Reads and writes through the line cache by units (R92, R331) -/

/-- A read of the tenant's address space by a unit: `k` on the state and bytes, or the exception. DESIGN CHOICE (assumption 40): the
addresses of RUNLIST and of its runs are virtual addresses of device or host space; a run that lies in the cistern has none. -/
def Ictx.readVia (c : Ictx) (s : State) (a n : Nat) (k : State → List Byte → Eff) : Eff :=
  if !c.mapped s a n then .exc xTranslation a 0 0
  else if isHost a then k s (s.out.hostMem.rdN (hostKey c.tenant (a - 2 ^ 63)) n)
  else if s.badFill c.cluster c.tenant a n then s.uncorrectable c.tenant a n
  else
    let s1 := (s.noteBreach c.tenant a n).fillRange c.cluster c.tenant a n
    let inner := (s1.cached c.cluster c.tenant a n).any (·.inner)
    k (if inner then s1.updFrag c.t.frag fun f => { f with inner := true } else s1)
      (s1.cachedBytes c.cluster c.tenant a n)

/-- A write by a unit under R311 and R313: `k` on the state written, or the exception. -/
def Ictx.writeVia (c : Ictx) (s : State) (a : Nat) (bs : List Byte) (k : State → Eff) : Eff :=
  let all := bs.map fun b => (true, b)
  if !c.mapped s a bs.length then .exc xTranslation a 0 0
  else if (List.range bs.length).any (fun i => !c.mayStore s (a + i)) ||
      (isHost a && c.overHeld a all) then .exc xStore a 0 0
  else if isHost a then k (c.hold s a all)
  else if s.badStore c.cluster c.tenant a all then s.uncorrectable c.tenant a bs.length
  else k ((s.noteBreach c.tenant a bs.length).cacheWr c.cluster c.tenant a all)

/-! ## Merging runs -/

/-- Pairs of a run in memory. -/
def runPairs (wide : Bool) (n : Nat) (bs : List Byte) : List (F32 × Nat) :=
  let w := runEntrySize wide
  (List.range n).map fun i => (BitVec.ofNat 32 (leAt bs (i * w + w - 4) 4), leAt bs (i * w) (w - 4))

/-- Each pair precedes the next; with DEDUP no tag repeats (R93). -/
def sortedRun (kt : Nat) (desc dedup : Bool) (l : List (F32 × Nat)) : Bool :=
  (l.zip (l.drop 1)).all (fun p => !pairBefore kt desc p.2 p.1) && (!dedup || (firstOfTag l []).length == l.length)

/-- Read the listed runs, oldest first, and go on with their pairs. -/
def Ictx.readRuns (c : Ictx) (wide : Bool) :
    List (Nat × Nat) → State → List (List (F32 × Nat)) → (State → List (List (F32 × Nat)) → Eff) → Eff
  | [], s, acc, k => k s acc
  | (a, n) :: r, s, acc, k =>
    c.readVia s a (n * runEntrySize wide) fun s bs => c.readRuns wide r s (acc ++ [runPairs wide n bs]) k

/-- Merge sorted runs (R92 to R94). DESIGN CHOICE (assumption 40): a K of 0, a K above 65,536 with DEDUP, the reserved KTYPE and an NRUNS
outside 2 to 16 raise the invalid-operand exception. -/
def execCombMerge (t : Tid) (s : State) : Res :=
  runInsn 0x70 (fun w => onlyUses w usesA)
    (fun c s =>
      let o := c.ga.toNat
      if !c.inArea o 64 then .exc xCistern o 0 0
      else
        let b := c.cisRd s o 64
        let k := leAt b 0 4
        let f := leAt b 4 4
        let nruns := leAt b 8 4
        let wide := bit f 3
        let kt := field f 5 4
        let desc := bit f 6
        let dedup := bit f 7
        if k = 0 ∨ (dedup ∧ 65536 < k) then badField o 0
        else if kt = 3 then badField o 4
        else if nruns < 2 ∨ 16 < nruns then badField o 8
        else if field f 31 8 ≠ 0 ∨ field f 2 0 ≠ 0 ∨ leAt b 0xC 4 ≠ 0 ∨ (b.drop 0x28).any (· != 0) then
          .done (s.malformed c.frag.cmd)
        else
          c.readVia s (leAt b 0x10 8) (16 * nruns) fun s list =>
            let runs := (List.range nruns).map fun i => (leAt list (16 * i) 8, leAt list (16 * i + 8) 4)
            if (List.range nruns).any fun i => leAt list (16 * i + 12) 4 != 0 then .done (s.malformed c.frag.cmd)
            else c.readRuns wide runs s [] fun s ps =>
              let all := ps.flatten
              let u := pairUnion kt desc dedup all
              let dups := all.length - u.length
              let cut := if k = 0xFFFFFFFF then u.length else k
              let sorted := ps.all (sortedRun kt desc dedup)
              -- the output of unsorted runs is unpredictable (R93)
              let w := runEntrySize wide
              let n := if sorted then Nat.min cut u.length else s.draw 0 % (Nat.min k all.length + 1)
              let out := if sorted then (u.take n).flatMap (runEntry wide kt)
                else (List.range (n * w)).map fun i => BitVec.ofNat 8 (s.draw (i + 1))
              let s1 := if sorted then s else s.drew (n * w + 1)
              c.writeVia s1 (leAt b 0x18 8) out fun s => .done (c.cisWr s (o + 0x20) (toLe 4 n ++ toLe 4 dups))) t s

/-! ## Lookup scan -/

/-- The scan descriptor (R368). -/
structure ScanDesc where
  inp : Nat
  n : Nat
  ctx : Nat
  dst : Bool
  src : Bool
  fp16 : Bool
  any : Bool
  fterms : Nat
  attrb : Nat
  ebytes : Nat
  sub : Nat
  tbl : Nat
  aux : Nat
  thresh : Nat
  slot0 : Nat
  out : Nat
  outMax : Nat
  deriving DecidableEq, Repr

def scanDesc (b : List Byte) : ScanDesc :=
  let f := leAt b 8 4
  { inp := leAt b 0 4, n := leAt b 4 4, ctx := field f 29 28, dst := bit f 27, src := bit f 26, fp16 := bit f 25,
    any := bit f 24, fterms := field f 23 21, attrb := field f 20 19, ebytes := field f 18 10, sub := field f 9 0,
    tbl := leAt b 0xC 4, aux := leAt b 0x10 4, thresh := leAt b 0x14 4, slot0 := leAt b 0x18 4, out := leAt b 0x1C 4,
    outMax := leAt b 0x20 4 }

/-- Offset of the first reserved field value of a scan descriptor (R151, R368, R370). -/
def scanBad (b : List Byte) : Option Nat :=
  let d := scanDesc b
  if d.src ∧ 16 ≤ d.inp then some 0
  else if fieldAt b 8 31 30 ≠ 0 ∨ 4 < d.fterms ∨ d.ebytes < 8 ∨ 264 < d.ebytes ∨ d.sub < 8 ∨ 512 < d.sub then some 8
  else if (b.drop 0x2C).any (· != 0) then some 0x2C
  else none

def ScanDesc.tableBytes (d : ScanDesc) : Nat := d.sub * (if d.fp16 then 32 else 16)

/-- Cistern ranges of a scan. -/
def ScanDesc.ranges (d : ScanDesc) : List (Nat × Nat) :=
  (if d.src then [] else [(d.inp, d.n * d.ebytes)]) ++ [(d.tbl, d.tableBytes + 8 * d.fterms)] ++
  (if d.aux = 0xFFFFFFFF then [] else [(d.aux, ceilDiv d.n 8)]) ++ (if d.dst then [] else [(d.out, 8 * d.outMax)])

/-- Where a scan stands. -/
structure ScanSt where
  i : Nat
  count : Nat
  /-- bytes already taken of the next entry -/
  part : List Byte
  elems : List Elem
  ctx : Option CombCtx
  /-- records kept since the scan last went on, oldest first -/
  recs : List (Nat × Nat)
  inner : Bool
  deriving DecidableEq, Repr

/-- Why a scan leaves its loop. -/
inductive ScanEnd where
  | finished
  | blocked (st : ThreadState)
  | poisoned (addr number : Nat)
  deriving DecidableEq, Repr

/-- Take elements until the entry is whole. -/
def takeElems (need : Nat) : List Elem → List Byte → Bool → List Elem × List Byte × Bool
  | [], part, inner => ([], part, inner)
  | .poisoned a n :: r, part, inner => (.poisoned a n :: r, part, inner)
  | .bytes b io :: r, part, inner =>
    if need ≤ part.length then (.bytes b io :: r, part, inner) else takeElems need r (part ++ b) (inner || io)

/-- The loop of R369 over at most `fuel` further entries. `entry` reads entry `i` of the cistern, `drop` its AUX bit, and
`ended` says that the port's stream delivers nothing more. -/
def scanLoop (d : ScanDesc) (entry : Nat → List Byte) (drop : Nat → Bool) (table : List Byte) (terms : List Nat) (ended : Bool)
    (free : Nat) : Nat → ScanSt → ScanSt × ScanEnd
  | 0, st => (st, .finished)
  | fuel + 1, st =>
    let (els, part, inner) := if d.src then takeElems d.ebytes st.elems st.part st.inner else ([], entry st.i, st.inner)
    let st1 := { st with elems := els, part := part, inner := inner }
    if part.length < d.ebytes then
      match els with
      | .poisoned a n :: _ => (st1, .poisoned a n)
      | _ => if ended then (st1, .finished) else (st1, .blocked .wait)
    else
      let kt := if d.fp16 then ktF32 else ktU32
      let sum := if d.fp16 then sumF16 (free + st.i * 1024) d.sub table part else sumU8 d.sub table part
      let keep := !drop st.i && passes terms d.any (entryAttr part d.sub d.attrb) && decide (okey kt sum ≤ okey kt d.thresh)
      if !keep then scanLoop d entry drop table terms ended free fuel { st1 with i := st.i + 1, part := [] }
      else
        let slot := (d.slot0 + st.i) % 2 ^ 32
        if d.dst then
          if st.ctx.any (·.full) then (st1, .blocked .wait)
          else scanLoop d entry drop table terms ended free fuel
            { st1 with i := st.i + 1, part := [], count := st.count + 1,
                       ctx := st.ctx.map fun k => k.push (BitVec.ofNat 32 sum, slot) }
        else if st.count = d.outMax then (st1, .finished)
        else scanLoop d entry drop table terms ended free fuel
          { st1 with i := st.i + 1, part := [], count := st.count + 1, recs := st.recs ++ [(slot, sum)] }

/-- The claimed port `n` of the issuing member, bound to a pump. -/
def Ictx.port (c : Ictx) (n : Nat) : Option Port := if n < c.frag.ports then Map.get? c.mem.ports n else none
def Ictx.putPort (c : Ictx) (s : State) (m n : Nat) (p : Port) : State :=
  s.updMember { c.t with mem := m } fun x => { x with ports := Map.put x.ports n p }

/-- The stream of a port delivers nothing after the elements it holds (R332). -/
def Port.atEnd (p : Port) : Bool := p.ended

/-- The context and port conditions of R370. -/
def Ictx.scanUnits (c : Ictx) (s : State) (d : ScanDesc) : Option Eff :=
  if d.dst && !((c.combCtx s d.ctx).any fun k => !k.wide && k.ktype == (if d.fp16 then ktF32 else ktU32)) then
    some (.exc xOperand c.ga.toNat d.ctx 8)
  else if d.src && !((c.port d.inp).any fun p => p.esize == 3) then some (.exc xOperand c.ga.toNat d.inp 0)
  else none

def execLscan (t : Tid) (s : State) : Res :=
  runInsn 0x68 (fun w => wTy w == 1 && onlyUses w (usesTy ||| usesA))
    (fun c s =>
      let o := c.ga.toNat
      if !c.inArea o 64 then .exc xCistern o 0 0
      else
        let b := c.cisRd s o 64
        let d := scanDesc b
        match (scanBad b).map (badField o) with
        | some e => e
        | none =>
          match c.scanUnits s d with
          | some e => e
          | none =>
            match d.ranges.find? fun r => !c.inArea r.1 r.2 with
            | some r => .exc xCistern r.1 0 0
            | none =>
              let table := c.cisRd s d.tbl d.tableBytes
              let terms := (List.range d.fterms).map fun i => leNat (c.cisRd s (d.tbl + d.tableBytes + 8 * i) 8)
              if d.ebytes ≠ entryBytes d.sub d.attrb ∨ d.sub % 8 ≠ 0 ∨ d.tbl % 64 ≠ 0 ∨ !terms.all (termOk d.attrb) then
                .done (s.malformed c.frag.cmd)
              else
                let port := c.port d.inp
                let (i0, n0, part0) := c.th.scanAt.getD (0, 0, [])
                let aux := if d.aux = 0xFFFFFFFF then [] else c.cisRd s d.aux (ceilDiv d.n 8)
                let r := scanLoop d (fun i => c.cisRd s (d.inp + i * d.ebytes) d.ebytes)
                  (fun i => bit (leAt aux (i / 8) 1) (i % 8)) table terms (port.any Port.atEnd) s.free (d.n - i0)
                  { i := i0, count := n0, part := part0, elems := (port.map (·.elems)).getD [],
                    ctx := if d.dst then c.combCtx s d.ctx else none, recs := [], inner := false }
                let st := r.1
                let s1 := if d.fp16 then s.drew (d.n * 1024) else s
                let s2 := match port with
                  | some p => if d.src then c.putPort s1 c.t.mem d.inp { p with elems := st.elems } else s1
                  | none => s1
                let s3 := match st.ctx with
                  | some k => s2.setCtx c.cluster d.ctx k
                  | none => s2
                let s4 := c.cisWr s3 (d.out + 8 * n0) (st.recs.flatMap fun p => toLe 4 p.1 ++ toLe 4 p.2)
                let s5 := c.noteInner st.inner s4
                let at_ (v : Option (Nat × Nat × List Byte)) (x : State) : State :=
                  x.updThread c.t fun th => { th with scanAt := v }
                match r.2 with
                | .finished => .done (at_ none (c.cisWr s5 (o + 0x24) (toLe 4 st.count ++ toLe 4 st.i)))
                | .blocked w => .pause (at_ (some (st.i, st.count, st.part)) s5) w
                | .poisoned a n => .exc xPump a ((port.map (·.pump)).getD 0) n) t s

end Sys2Proof.Machine
end

