-- ==== Sys2Proof/Machine/Micro.lean ====
section
/-! DEFINITION. Well micro-programs: the layout of a word, the entry table, and the effect of each micro-operation on a well (R187 to
R189). What an operation does to memory is R150's, which a signed micro-program brings about; here is what the well itself holds. -/
namespace Sys2Proof.Machine

/-- One word of the store, split into its fields (R189). -/
structure MicroWord where
  uop : Nat
  d : Nat
  a : Nat
  b : Nat
  last : Bool
  bnk : Nat
  imm : Nat
  deriving DecidableEq, Repr

def microWord (w : BitVec 32) : MicroWord :=
  { uop := field w.toNat 31 27, d := field w.toNat 26 24, a := field w.toNat 23 21, b := field w.toNat 20 18,
    last := bit w.toNat 17, bnk := field w.toNat 16 16, imm := field w.toNat 15 0 }

def uRD : Nat := 1
def uWR : Nat := 2
def uLUT : Nat := 3
def uADD : Nat := 4
def uCMP : Nat := 5
def uCMPX : Nat := 6
def uDOT : Nat := 7
def uSWP : Nat := 8
def uLOOP : Nat := 9
def uTLD : Nat := 10
def uRES : Nat := 11
def uFIN : Nat := 12

/-- Word `n` of the micro-program store. -/
def storeWord (store : List (BitVec 32)) (n : Nat) : MicroWord := microWord (store.getD (n % 256) 0)

/-- Where the routine of OP `n` starts: IMM of word `n`, for the 16 words of the entry table (R187). -/
def routineStart (store : List (BitVec 32)) (op : Nat) : Nat := (storeWord store (op % 16)).imm % 256

/-- What a well holds before its first interval: the manual gives no value (assumption 4). -/
def WellUnit.reset : WellUnit :=
  { area := List.replicate 64 0, regs := List.replicate 8 0, counters := List.replicate 4 0, table := List.replicate 8192 0 }

/-- A well in the course of a routine: its registers, the words of the four streams that are still to come (IN, TBL, AUX, OUT), the
words it has written, its output buffer, the next byte of the table store to load, and whether it stopped out of bounds. -/
structure MicroRun where
  unit : WellUnit
  streams : List (List (BitVec 256))
  written : List (BitVec 256)
  buffer : List (BitVec 32)
  loaded : Nat
  pc : Nat
  going : Bool
  fault : Bool
  deriving DecidableEq, Repr

namespace MicroRun

def reg (r : MicroRun) (i : Nat) : BitVec 256 := r.unit.regs.getD i 0
def setReg (r : MicroRun) (i : Nat) (x : BitVec 256) : MicroRun := { r with unit := { r.unit with regs := r.unit.regs.set i x } }
def counter (r : MicroRun) (i : Nat) : Nat := r.unit.counters.getD i 0
def setCounter (r : MicroRun) (i n : Nat) : MicroRun := { r with unit := { r.unit with counters := r.unit.counters.set i n } }
def stop (r : MicroRun) : MicroRun := { r with going := false }
/-- An access computed outside the bounds is not performed and ends the interval (R187). -/
def outside (r : MicroRun) : MicroRun := { r.stop with fault := true }

end MicroRun

/-- Lane `i` of 32 bits. -/
def wLane (x : BitVec 256) (i : Nat) : Nat := field x.toNat (32 * i + 31) (32 * i)
def ofWordLanes (f : Nat → Nat) : BitVec 256 := BitVec.ofNat 256 (sumBy (fun i => f i % 2 ^ 32 * 2 ^ (32 * i)) (List.range 8))
/-- Lane 0 replaced. -/
def setLane0 (x : BitVec 256) (v : Nat) : BitVec 256 := BitVec.ofNat 256 (setField x.toNat 31 0 (v % 2 ^ 32))

/-- RD: the next word of a stream. -/
def uRead (r : MicroRun) (m : MicroWord) : MicroRun :=
  match r.streams.getD (m.imm % 4) [] with
  | [] => r.outside
  | w :: rest => { r.setReg m.d w with streams := r.streams.set (m.imm % 4) rest }

/-- WR: the next word of the OUT stream. -/
def uWrite (r : MicroRun) (m : MicroWord) : MicroRun :=
  match r.streams.getD 3 [] with
  | [] => r.outside
  | _ :: rest => { r with written := r.written ++ [r.reg m.a], streams := r.streams.set 3 rest }

/-- LUT: nibble `j` selects from the row of subspace c0 + j, as code `j` of an entry does (R131); the sums accumulate into lane 0
(assumption 36). -/
def uLookup (r : MicroRun) (m : MicroWord) : MicroRun :=
  let x := (r.reg m.a).toNat
  let total := sumBy (fun j => leAt r.unit.table (16 * (r.counter 0 + j) + field x (4 * j + 3) (4 * j)) 1) (List.range 64)
  r.setReg m.d (setLane0 (r.reg m.d) (wLane (r.reg m.d) 0 + total))

/-- ADD: lane by lane, int32 or FP32. -/
def uAdd (r : MicroRun) (m : MicroWord) : MicroRun :=
  let x := r.reg m.a
  let y := r.reg m.b
  r.setReg m.d (ofWordLanes fun i => if bit m.imm 0 then fF32.add (wLane x i) (wLane y i) else wLane x i + wLane y i)

/-- CMP: filter term IMM[1:0] of the table store, behind the rows, on the attribute field of wA. The field lies where R29 puts it,
taken modulo the word, and the one pass bit is bit 0 (assumption 36). -/
def uCompare (p0 : Nat) (scan : Bool) (r : MicroRun) (m : MicroWord) : MicroRun :=
  let sub := field p0 9 0
  let term := leAt r.unit.table ((if scan then 16 * sub else 0) + 8 * (m.imm % 4)) 8
  let attr := leAt (toLe 32 (r.reg m.a).toNat) ((sub / 2 + 5) % 32) (field p0 20 19)
  r.setReg m.d (if termTest term attr then 1 else 0)

/-- CMPX: the lanes of wA whose bit of wB is 1. -/
def uAppend (r : MicroRun) (m : MicroWord) : MicroRun :=
  { r with buffer := r.buffer ++ (((List.range 8).filter fun i => bit (r.reg m.b).toNat i).map fun i =>
      BitVec.ofNat 32 (wLane (r.reg m.a) i)) }

/-- DOT: 32 int8 products into lane 0. -/
def uDot (r : MicroRun) (m : MicroWord) : MicroRun :=
  let byte (x : BitVec 256) (i : Nat) : Int := toSigned 8 (field x.toNat (8 * i + 7) (8 * i))
  let dot := (List.range 32).foldl (fun (n : Int) i => n + byte (r.reg m.a) i * byte (r.reg m.b) i) 0
  r.setReg m.d (setLane0 (r.reg m.d) (ofSigned 32 (toSigned 32 (wLane (r.reg m.d) 0) + dot)))

/-- SWP. -/
def uSwap (r : MicroRun) (m : MicroWord) : MicroRun := (r.setReg m.a (r.reg m.b)).setReg m.b (r.reg m.a)

/-- LOOP: counter IMM[1:0] goes down by one, from 0 to a free value, and a nonzero one branches to IMM[15:8]. -/
def uLoop (free : Nat) (r : MicroRun) (m : MicroWord) : MicroRun :=
  let i := m.imm % 4
  let n := if r.counter i = 0 then free else r.counter i - 1
  if n = 0 then r.setCounter i n else { r.setCounter i n with pc := field m.imm 15 8 }

/-- TLD: the next word of the TBL stream into the table store. -/
def uTableLoad (r : MicroRun) (_ : MicroWord) : MicroRun :=
  match r.streams.getD 1 [] with
  | [] => r.outside
  | w :: rest =>
    { r with
      unit := { r.unit with table := (r.unit.table.take r.loaded ++ toLe 32 w.toNat ++ r.unit.table.drop (r.loaded + 32)).take 8192 }
      streams := r.streams.set 1 rest, loaded := (r.loaded + 32) % 8192 }

/-- One micro-operation. RES finds no mismatch in a well that works, and FIN writes the status that `wellArea` shows; NOP and the
reserved values change nothing. -/
def microOp (p0 : Nat) (scan : Bool) (free : Nat) (r : MicroRun) (m : MicroWord) : MicroRun :=
  if m.uop = uRD then uRead r m
  else if m.uop = uWR then uWrite r m
  else if m.uop = uLUT then uLookup r m
  else if m.uop = uADD then uAdd r m
  else if m.uop = uCMP then uCompare p0 scan r m
  else if m.uop = uCMPX then uAppend r m
  else if m.uop = uDOT then uDot r m
  else if m.uop = uSWP then uSwap r m
  else if m.uop = uLOOP then uLoop free r m
  else if m.uop = uTLD then uTableLoad r m
  else if m.uop = uFIN then r.stop
  else r

/-- The word at the program counter, the counter already on the next one; END is the routine's last word. -/
def microStep (store : List (BitVec 32)) (p0 : Nat) (scan : Bool) (free : Nat) (r : MicroRun) : MicroRun :=
  let m := storeWord store r.pc
  let x := microOp p0 scan free { r with pc := (r.pc + 1) % 256 } m
  if m.last then x.stop else x

/-- The routine of an operation, for at most so many micro-operations. -/
def microRun (store : List (BitVec 32)) (p0 : Nat) (scan : Bool) (free : Nat) : Nat → MicroRun → MicroRun
  | 0, r => r
  | n + 1, r => if r.going then microRun store p0 scan free n (microStep store p0 scan free r) else r

end Sys2Proof.Machine
end

