-- ==== Sys2Proof/Machine/Wells.lean ====
section
/-! DEFINITION. Wells: calls, intervals, seal and unseal, refresh (R143 to R193, R374). -/
namespace Sys2Proof.Machine

/-! ## Ranges and granules -/

/-- The well segment of the tenant that holds the whole range. -/
def State.segmentOf (s : State) (t a n : Nat) : Option Alloc :=
  s.allocs.find? fun m => m.tenant == t && m.mapped && m.wellSeg && decide (m.base ≤ a ∧ a + n ≤ m.base + m.size)

/-- 4 KiB granules of a range. -/
def granules (a n : Nat) : List Nat := (List.range (ceilDiv (a % 4096 + n) 4096)).map fun i => a / 4096 + i

/-- Every granule of the range is inner-only. -/
def State.allInner (s : State) (t a n : Nat) : Bool := (granules a n).all fun g => s.innerOnly t (g * 4096)

/-- Maximal runs of consecutive numbers in a rising list, as (first, length). -/
def runsOfNat : List Nat → List (Nat × Nat)
  | [] => []
  | a :: r => match runsOfNat r with
    | (b, n) :: q => if b = a + 1 then (a, n + 1) :: q else (a, 1) :: (b, n) :: q
    | [] => [(a, 1)]

/-- The parts of an entry outside granules `[lo, hi)`. -/
def Range.cut (r : Range) (lo hi : Nat) : List Range :=
  let b := r.base / 4096
  let e := (r.base + r.len) / 4096
  (if b < lo then [{ r with len := (Nat.min lo e - b) * 4096 }] else []) ++
  (if hi < e then [{ r with base := Nat.max hi b * 4096, len := (e - Nat.max hi b) * 4096 }] else [])

/-- A placement move that has not switched copies the allocation at this base (R147). -/
def State.moving (s : State) (t base : Nat) : Bool :=
  s.moves.any fun m => m.uid == .alloc t base && !m.switched

/-! ## Arrival at the HBMC (R174) -/

/-- Place of the instruction in the order of arrival. -/
def Ictx.arrival (c : Ictx) (s : State) : Nat := (c.th.queuedAt.map (·.1)).getD s.nextWell

/-- No `wcall`, `seal` or `unseal` that arrived earlier for the segment still waits. -/
def Ictx.inTurn (c : Ictx) (s : State) (m : Alloc) : Bool :=
  s.frags.all fun f => f.tenant != c.tenant || f.members.all fun x => x.threads.all fun th =>
    match th.queuedAt with
    | some (n, b) => b != m.base || decide (c.arrival s ≤ n)
    | none => true

/-- The instruction waits in its place. -/
def Ictx.queue (c : Ictx) (s : State) (m : Alloc) : Eff :=
  .pause (({ s with nextWell := if c.th.queuedAt.isNone then s.nextWell + 1 else s.nextWell } : State).updThread c.t fun th =>
    { th with queuedAt := some (c.arrival s, m.base) }) .wait

/-- The instruction was accepted and retires. -/
def Ictx.leave (c : Ictx) (s : State) : Eff := .done (s.updThread c.t fun th => { th with queuedAt := none })

/-! ## Seal and unseal (R172, R374) -/

/-- The operands that both instructions check: exceptions in the order of R380, else the segment, once it is the instruction's turn. -/
def sealOp (opc : Nat) (f : Ictx → State → Alloc → Nat → Nat → Eff) (t : Tid) (s : State) : Res :=
  runInsn opc (fun w => onlyUses w (usesD ||| usesA ||| usesB))
    (fun c s =>
      let a := c.ga.toNat
      let n := c.gb.toNat
      if a % 4096 ≠ 0 then .exc xAlign a 0 0
      else if n % 4096 ≠ 0 then .exc xAlign n 0 0
      else if n = 0 then .done (c.putG s 0)
      else match s.segmentOf c.tenant a n with
        | none => .exc xWell a 0 0
        | some m => if c.inTurn s m then f c s m a n else c.queue s m) t s

/-- A new entry joins no other one, so that the table shows each `unseal` (assumption 36). -/
def execUnseal (t : Tid) (s : State) : Res :=
  sealOp 0x82 (fun c s m a n =>
    let new := (runsOfNat ((granules a n).filter fun g => !s.innerOnly c.tenant (g * 4096))).map fun r =>
      ({ stack := m.stack, tenant := c.tenant, base := r.1 * 4096, len := r.2 * 4096 } : Range)
    if 16384 < s.rangesUsed m.stack + new.length then c.leave (c.putG s 1)
    else c.leave (c.putG ({ s with ranges := s.ranges ++ new }.notePeak m.stack) 0)) t s

/-- Lines of the range that the inner code cannot correct and that no outer code covered. -/
def State.badInner (s : State) (t a n : Nat) : List Nat :=
  (linesOf a n).filter fun ln => s.poison.contains (t * 2 ^ 58 + ln) && s.innerOnly t (ln * 64)

/-- The range table would be full only where the seal splits an entry (R172). -/
def execSeal (t : Tid) (s : State) : Res :=
  sealOp 0x81 (fun c s m a n =>
    if s.wellWrites c.tenant a n then c.queue s m
    else
      let lo := a / 4096
      let hi := (a + n) / 4096
      let left := s.ranges.flatMap fun r => if r.tenant = c.tenant then r.cut lo hi else [r]
      let used := ({ s with ranges := left } : State).rangesUsed m.stack
      if s.rangesUsed m.stack < used ∧ 16384 < used then c.leave (c.putG s 1)
      else
        let bad := s.badInner c.tenant a n
        let s1 := bad.foldl (fun s _ => (s.drew 1).logEvent evSealPoison c.tenant
          [m.stack, s.draw 0 % 2 ^ 40 * 64, s.cmdData c.frag.cmd]) { s with ranges := left }
        c.leave (c.putG (s1.notePeak m.stack) (if bad.isEmpty then 0 else 2))) t s

/-! ## Well descriptors (R149 to R154) -/

structure WellDesc where
  dur : Nat
  op : Nat
  p0 : Nat
  inp : Nat
  inlen : Nat
  outlen : Nat
  out : Nat
  tbl : Nat
  aux : Nat
  p1 : Nat
  p2 : Nat
  deriving DecidableEq, Repr

def wellDesc (b : List Byte) : WellDesc :=
  { dur := leAt b 2 2, op := leAt b 0 1, p0 := leAt b 4 4, inp := leAt b 8 8, inlen := leAt b 0x10 4, outlen := leAt b 0x14 4,
    out := leAt b 0x18 8, tbl := leAt b 0x20 8, aux := leAt b 0x28 8, p1 := leAt b 0x30 4, p2 := leAt b 0x34 4 }

def wSCAN4 : Nat := 1
def wDOT8 : Nat := 2
def wFILTER : Nat := 3
def wCOMPACT : Nat := 4
def wCOPY : Nat := 5
def wADD : Nat := 6
def wSWAP : Nat := 7

def WellDesc.isScan (d : WellDesc) : Bool := d.op == wSCAN4 || d.op == wFILTER
def WellDesc.sub (d : WellDesc) : Nat := field d.p0 9 0
def WellDesc.attrb (d : WellDesc) : Nat := field d.p0 20 19
def WellDesc.fterms (d : WellDesc) : Nat := field d.p0 23 21

/-- Bytes of an input unit (R150, R151). -/
def WellDesc.unit (d : WellDesc) : Nat :=
  if d.isScan then field d.p0 18 10 else if d.op = wDOT8 ∨ d.op = wCOMPACT then field d.p0 12 0 else 32

def WellDesc.units (d : WellDesc) : Nat := d.inlen / d.unit

/-- Bytes of the table: rows and filter terms of SCAN4, filter terms of FILTER, query of DOT8 (R152). -/
def WellDesc.tblLen (d : WellDesc) : Nat :=
  if d.op = wSCAN4 then 16 * d.sub + 8 * d.fterms else if d.op = wFILTER then 8 * d.fterms
  else if d.op = wDOT8 then field d.p0 12 0 else 0

def WellDesc.auxLen (d : WellDesc) : Nat := if d.isScan || d.op == wCOMPACT then ceilDiv d.units 8 else 0

/-- Ranges that the operation uses, OUT first. -/
def WellDesc.ranges (d : WellDesc) : List (Nat × Nat) :=
  ((d.out, d.outlen) :: (d.inp, d.inlen) :: (if d.tblLen = 0 then [] else [(d.tbl, d.tblLen)])) ++
    (if d.auxLen = 0 then [] else [(d.aux, d.auxLen)])

/-- The base of a range that breaks R153, if one does. -/
def State.wellRangeBad (s : State) (t : Nat) (d : WellDesc) : Option Nat :=
  if d.op = 0 ∨ 7 < d.op ∨ d.dur < 32 ∨ 512 < d.dur then some d.inp
  else
    match s.segmentOf t d.inp d.inlen with
    | none => some d.inp
    | some m =>
      let same (r : Nat × Nat) : Bool := (s.segmentOf t r.1 r.2).any fun x =>
        x.base == m.base || (d.op == wCOPY && r == (d.out, d.outlen) && x.stack == m.stack)
      match d.ranges.find? fun r => !same r with
      | some r => some r.1
      | none =>
        if !s.allInner t d.out d.outlen then some d.out
        else if d.op = wSWAP ∧ !s.allInner t d.inp d.inlen then some d.inp else none

/-- Two ranges overlap. -/
def overlap (a b : Nat × Nat) : Bool := decide (a.1 < b.1 + b.2 ∧ b.1 < a.1 + a.2)

/-- Errors that R154 leaves unchecked: fields, lengths and overlaps. PARAM0 of COPY and SWAP has no layout and must be zero
(assumption 36, DESIGN CHOICE). -/
def wellUnchecked (b : List Byte) : Bool :=
  let d := wellDesc b
  leAt b 1 1 != 0 || field (leAt b 0x3C 4) 27 24 != 0 ||
  d.inp % 32 != 0 || d.out % 32 != 0 || d.outlen % 32 != 0 || (d.tblLen != 0 && d.tbl % 32 != 0) ||
  (d.auxLen != 0 && d.aux % 32 != 0) || d.unit == 0 || d.inlen % (Nat.max d.unit 1) != 0 ||
  (d.ranges.drop 1).any (fun r => overlap r (d.out, d.outlen)) ||
  (if d.isScan then field d.p0 31 25 != 0 || decide (4 < d.fterms) || decide (d.sub < 8) || decide (512 < d.sub) || d.sub % 8 != 0 ||
      d.unit != entryBytes d.sub d.attrb || (d.op == wFILTER && d.p1 != 0)
    else if d.op = wDOT8 ∨ d.op = wCOMPACT then
      field d.p0 31 13 != 0 || decide (4096 < d.unit) || d.unit % (if d.op = wDOT8 then 32 else 8) != 0 || d.p1 != 0 || d.p2 != 0
    else d.p0 != (if d.op = wADD then d.p0 % 2 else 0) || d.p1 != 0 || d.p2 != 0)

/-- Filter terms of a scan, behind its rows (R152). -/
def State.wellTerms (s : State) (t : Nat) (d : WellDesc) : List Nat :=
  (List.range d.fterms).map fun k => leNat (s.devRd t (d.tbl + (if d.op = wSCAN4 then 16 * d.sub else 0) + 8 * k) 8)

/-- Tables that do not match the codes: terms that R43 reserves or that reach beyond the attribute bytes (R154). -/
def State.wellTablesBad (s : State) (t : Nat) (d : WellDesc) : Bool :=
  d.isScan && (s.wellTerms t d).any fun x => !termOk d.attrb x

/-- Ranges that the operation writes (R153). -/
def WellDesc.written (d : WellDesc) : List (Nat × Nat) := (d.out, d.outlen) :: (if d.op = wSWAP then [(d.inp, d.inlen)] else [])

/-- The call breaks R180: a line cache of the tenant holds bytes of IN, TBL or AUX not written back, or any line of a range that the
call writes. -/
def State.wellBreach (s : State) (t : Nat) (d : WellDesc) : Bool :=
  s.clusters.any fun e => e.2.lines.any fun x => x.tenant == t &&
    ((x.dirty != 0 && d.ranges.any fun r => overlap r (x.line * 64, 64)) || d.written.any fun r => overlap r (x.line * 64, 64))

/-- Its well is in service. -/
def State.wellUp (s : State) (m : Alloc) : Bool := (s.wellsIn m.stack).contains m.well

/-- `wcall` (R149, R153, R155, R174): the call is checked, then accepted with WST = QUEUED. It waits in its turn, during a move of its
segments (R147), and while a well that it needs is out of service, until the placement engine has moved the segment (assumption 36). -/
def execWcall (t : Tid) (s : State) : Res :=
  runInsn 0x80 (fun w => onlyUses w usesA)
    (fun c s =>
      let o := c.ga.toNat
      if !c.inArea o 64 then .exc xCistern o 0 0
      else
        let b := c.cisRd s o 64
        let d := wellDesc b
        match s.segmentOf c.tenant d.inp d.inlen with
        | none => .exc xWell d.inp 0 0
        | some m =>
          if !c.inTurn s m then c.queue s m
          else match s.wellRangeBad c.tenant d, s.segmentOf c.tenant d.out d.outlen with
          | some a, _ => .exc xWell a 0 0
          | none, none => .exc xWell d.out 0 0
          | none, some m2 =>
            if s.moving c.tenant m.base || s.moving c.tenant m2.base || !s.wellUp m || !s.wellUp m2 then c.queue s m
            else if o % 64 ≠ 0 ∨ wellUnchecked b ∨ s.wellTablesBad c.tenant d then c.leave (s.malformed c.frag.cmd)
            else
              let w : WellOp :=
                { id := s.nextWell, tenant := c.tenant, cmd := c.frag.cmd, frag := c.t.frag, cls := c.frag.cls,
                  cluster := c.cluster, descAt := c.mem.base + o, desc := b, stack := m.stack, well := m.well,
                  well2 := if m2.base = m.base then none else some m2.well, pos := 0, count := 0, outPos := 0, st := .queued,
                  intervals := 0, loaded := 0, credit := 0, stop := false, breach := s.wellBreach c.tenant d }
              let s1 := { s with wells := s.wells ++ [w], nextWell := s.nextWell + 1 }
              c.leave (c.cisWr s1 (o + 0x3F) [BitVec.ofNat 8 (leAt b 0x3F 1 % 16)])) t s

/-! ## Intervals (R156 to R164, R182 to R185) -/

/-- A well of a failed channel is the spare channel's from then on. -/
def onSpare (st channel : Nat) (stack well : Nat) : Nat :=
  if stack = st ∧ well / 16 = channel then Config.spareChannel st % 32 * 16 + well % 16 else well

/-- WELLC.INSVC.INSVC follows a change of the wells of a stack that are in service (R191); `before` were. -/
def State.recountWells (s : State) (st before : Nat) : State :=
  s.setFld oWellcInsvc 12 0 (s.fld oWellcInsvc 12 0 + (s.wellsIn st).length - before)

/-- The spare channel of a stack takes the place of a channel, its wells with it (R144). -/
def State.spareWells (s : State) (st channel : Nat) : State :=
  ({ s with
    wellHw := { s.wellHw with spared := s.wellHw.spared ++ [(st, channel)] }
    allocs := s.allocs.map fun a => { a with well := onSpare st channel a.stack a.well }
    wells := s.wells.map fun w => { w with well := onSpare st channel w.stack w.well, well2 := w.well2.map (onSpare st channel w.stack) }
    colls := s.colls.map fun c => { c with lists := c.lists.map fun l => (l.1, { l.2 with segs := l.2.segs.map fun g =>
      { g with well := onSpare st channel g.stack g.well } }) } } : State).recountWells st (s.wellsIn st).length

/-- Wells that an operation occupies. -/
def WellOp.usedWells (w : WellOp) : List Nat := physWell w.stack w.well :: (w.well2.toList.map (physWell w.stack))

/-- Class 0 is present (R162). -/
def State.class0Present (s : State) : Bool := s.cmds.any fun c => c.phase == .admitted && c.cls == 0

/-- L of an interval that starts now (R156, R162). -/
def State.intervalLen (s : State) (d : WellDesc) : Nat :=
  let slice := s.fld oWellcCtrl 1 0
  if 128 < d.dur ∧ (slice = 2 ∨ (slice = 1 ∧ s.class0Present)) then 128 else d.dur

/-- The operation that the HBMC runs next among those on its well (R163). While class-0 operations are there, a running one of them goes
on before those that wait (assumption 36, DESIGN CHOICE). -/
def State.nextOp (s : State) (w : WellOp) : Bool :=
  let on := s.wells.filter fun x => x.usedWells.any fun k => w.usedWells.contains k
  let c0 := on.filter fun x => x.cls == 0
  let pool := if c0.isEmpty then on else c0
  match pool.find? fun x => x.st == .running with
  | some x => x.id == w.id
  | none => pool.head?.any fun x => x.id == w.id

/-- One input unit: none where its output does not fit (OUT_FULL), else the operation and state after it. -/
def State.wellUnit (s : State) (d : WellDesc) (w : WellOp) : Option (WellOp × State) :=
  let t := w.tenant
  let i := w.pos
  let u := s.devRd t (d.inp + i * d.unit) d.unit
  let dropped := d.auxLen != 0 && bit (leNat (s.devRd t (d.aux + i / 8) 1)) (i % 8)
  let emit (bs : List Byte) : Option (WellOp × State) :=
    if d.outlen < w.outPos + bs.length then none
    else some ({ w with pos := i + 1, count := w.count + 1, outPos := w.outPos + bs.length }, s.devWr t (d.out + w.outPos) bs)
  let skip : Option (WellOp × State) := some ({ w with pos := i + 1 }, s)
  let slot := toLe 4 ((d.p2 + i) % 2 ^ 32)
  if d.isScan then
    if dropped || !passes (s.wellTerms t d) (bit d.p0 24) (entryAttr u d.sub d.attrb) then skip
    else if d.op = wFILTER then emit slot
    else
      let sum := sumU8 d.sub (s.devRd t d.tbl (16 * d.sub)) u
      if d.p1 < sum then skip else emit (slot ++ toLe 4 sum)
  else if d.op = wDOT8 then
    let q := s.devRd t d.tbl d.unit
    let dot := (u.zip q).foldl (fun (x : Int) p => x + toSigned 8 p.1.toNat * toSigned 8 p.2.toNat) 0
    emit (toLe 4 (ofSigned 32 dot))
  else if d.op = wCOMPACT then if dropped then skip else emit u
  else if d.outlen < 32 * i + 32 then none
  else
    let v := s.devRd t (d.out + 32 * i) 32
    let next := { w with pos := i + 1, outPos := 32 * i + 32 }
    if d.op = wCOPY then some (next, s.devWr t (d.out + 32 * i) u)
    else if d.op = wADD then
      let sum := (List.range 8).flatMap fun k =>
        let x := leAt v (4 * k) 4
        let y := leAt u (4 * k) 4
        toLe 4 (if d.p0 = 1 then fF32.add x y else x + y)
      some (next, s.devWr t (d.out + 32 * i) sum)
    else some (next, (s.devWr t (d.out + 32 * i) u).devWr t (d.inp + 32 * i) v)

/-- Work of a unit in bits, 256 for each access of 32 bytes: what it reads of IN and AUX and writes to OUT, and the lookups that overlap
the reads of SCAN4 (R157). ADD reads and writes OUT as well, SWAP reads and writes both ranges, and a COPY to another domain moves
16 bytes in a cycle over the bus (R182). -/
def WellDesc.unitWork (d : WellDesc) (w w' : WellOp) : Nat :=
  if d.op = wADD then 3 * 256
  else if d.op = wSWAP then 4 * 256
  else if d.op = wCOPY then 2 * 256
  else Nat.max (8 * d.unit + (if d.auxLen = 0 then 0 else 1) + 8 * (w'.outPos - w.outPos)) (if d.op = wSCAN4 then 4 * d.sub else 0)

/-- The next unit touches a line that the inner code cannot correct: it does so wherever an inner-only line is uncorrectable, and by a
free choice on a sealed one, whose outer code the well does not see (R155, R171). -/
def State.wellPoison (s : State) (d : WellDesc) (w : WellOp) : Bool :=
  let at_ (a n : Nat) : Bool := (linesOf a n).any fun ln =>
    s.poison.contains (w.tenant * 2 ^ 58 + ln) && (s.innerOnly w.tenant (ln * 64) || s.draw 0 % 2 == 1)
  at_ (d.inp + w.pos * d.unit) d.unit || (d.tblLen != 0 && at_ d.tbl d.tblLen) || (d.auxLen != 0 && at_ (d.aux + w.pos / 8) 1) ||
    ((d.op == wADD || d.op == wSWAP) && at_ (d.out + 32 * w.pos) 32)

/-- At most `fuel` units of one interval, on `work` bits of work. What is left of the work goes to the unit that it did not suffice
for. -/
def State.wellRun (d : WellDesc) : Nat → Nat → WellOp → State → WellOp × State
  | 0, _, w, s => if w.pos = d.units then ({ w with st := .done }, s) else (w, s)
  | fuel + 1, work, w, s =>
    if w.pos = d.units then ({ w with st := .done }, s)
    else if s.wellPoison d w then ({ w with st := .fault }, s)
    else match s.wellUnit d w with
      | none => ({ w with st := .outFull }, s)
      | some (w', s') =>
        if work < d.unitWork w w' then ({ w with credit := work }, s)
        else State.wellRun d fuel (work - d.unitWork w w') w' s'

/-- WST values of R155. -/
def wstCode : Wst → Nat
  | .queued => 0
  | .running => 1
  | .done => 2
  | .outFull => 3
  | .fault => 4
  | .aborted => 5

/-- The device writes COUNT, POS and WST while the issuing fragment still owns the area. -/
def State.writeWst (s : State) (w : WellOp) : State :=
  if (s.frag? w.frag).any (fun f => f.phase == .running && f.members.any fun m => m.cluster == w.cluster) then
    { s with cis := s.cis.wrN (cisKey w.cluster (w.descAt + 0x38)) (toLe 4 w.count ++
        toLe 4 (wstCode w.st * 2 ^ 28 + field (leAt w.desc 0x3C 4) 27 24 * 2 ^ 24 + w.pos % 2 ^ 24)) }
  else s

def State.putWell (s : State) (w : WellOp) : State :=
  if w.st = .running ∨ w.st = .queued then { s with wells := s.wells.map fun x => if x.id = w.id then w else x }
  else { s with wells := s.wells.filter fun x => x.id != w.id }

/-- The operation after an interval, with the state that it now shows. -/
def State.settleWell (s : State) (w : WellOp) : State := (s.putWell w).writeWst w

/-! ### What a well holds (R186, R187, R189) -/

/-- First word of a range and the word after its last one, within the domain of the segment at `base`, which is contiguous there
(R146, R186). -/
def domainSpan (t base a n : Nat) : Nat × Nat :=
  let w0 := (Config.domainWord t base).toNat
  (w0 + (a - base) / 32, w0 + ceilDiv (a + n - base) 32)

/-- The command area of a well at the end of an interval of `len` well cycles: written by the HBMC from the operation `w0` before it, and
by the well from `w` after it. A well of a COPY holds the words of the range in its own domain; those of the other are free
(assumption 36). -/
def State.wellArea (s : State) (d : WellDesc) (w0 w : WellOp) (len : Nat) (dest : Bool) : List Byte :=
  let base (a n : Nat) : Nat := ((s.segmentOf w.tenant a n).map (·.base)).getD 0
  let b := base d.inp d.inlen
  let b2 := base d.out d.outlen
  let span (own : Bool) (base a n k : Nat) : List Byte :=
    let p := if own then domainSpan w.tenant base a n else (s.draw k, s.draw (k + 1))
    toLe 4 p.1 ++ toLe 4 p.2
  toLe 2 len ++ toLe 1 d.op ++ toLe 1 (w0.intervals % 256) ++ toLe 4 w0.pos ++ span (!dest) b d.inp d.inlen 0 ++
    span (dest || b == b2) b2 (d.out + w0.outPos / 32 * 32) (d.outlen - w0.outPos / 32 * 32) 2 ++ span true b d.tbl d.tblLen 4 ++
    span true b d.aux d.auxLen 6 ++ toLe 4 d.p0 ++ toLe 4 d.p1 ++ toLe 4 d.p2 ++ toLe 4 w.count ++ toLe 4 (wstCode w.st * 2 ^ 28) ++ toLe 4 w.pos

/-- Words of a range as a stream. -/
def State.wellStream (s : State) (t a n : Nat) : List (BitVec 256) :=
  (List.range (ceilDiv n 32)).map fun i => BitVec.ofNat 256 (leNat (s.devRd t (a + 32 * i) 32))

/-- A well runs the routine of its operation for a free number of micro-operations, on the streams that are left to it and from the
registers, counters and table store that it holds; the counters, which no micro-operation sets, start at free values. -/
def State.wellMicro (s : State) (d : WellDesc) (w0 : WellOp) (k : Nat) : WellUnit :=
  let held := Map.getD s.wellHw.units k WellUnit.reset
  let t := w0.tenant
  let r : MicroRun :=
    { unit := { held with counters := (List.range 4).map fun i => s.draw (10 + i) }
      streams := [(s.wellStream t d.inp d.inlen).drop (w0.pos * d.unit / 32), (s.wellStream t d.tbl d.tblLen).drop w0.loaded,
        (s.wellStream t d.aux d.auxLen).drop (w0.pos / 256), (s.wellStream t d.out d.outlen).drop (w0.outPos / 32)]
      written := [], buffer := [], loaded := 32 * w0.loaded % 8192, pc := routineStart s.wellHw.store d.op, going := true, fault := false }
  (microRun s.wellHw.store d.p0 (d.op == wSCAN4) (s.draw 9) (s.draw 8) r).unit

/-- An interval ends: each well that it ran on holds its command area and what the routine left in it. -/
def State.noteWell (s before : State) (d : WellDesc) (w0 w : WellOp) (len : Nat) : State :=
  let unit (k : Nat) : WellUnit :=
    { before.wellMicro d w0 k with area := s.wellArea d w0 w len (k != physWell w.stack w.well) }
  ({ s with wellHw := { s.wellHw with units := w.usedWells.foldl (fun m k => Map.put m k (unit k)) s.wellHw.units } } : State).drew 14

/-! ### Ends of an interval -/

/-- Every operation on a well that leaves service stops, and the runs that issued them are lost (R184, R185; the others on it:
assumption 36). -/
def State.stopOn (s : State) (k : Nat) : State :=
  let on := s.wells.filter fun w => w.usedWells.contains k
  let s1 := on.foldl (fun s w => s.settleWell { w with st := .fault }) s
  ((on.map (·.frag)).eraseDups).foldl State.loseRun s1

/-- A well that reports leaves service; the residue record comes with a residue (R184, R185, R606). -/
def State.wellFault (s : State) (w : WellOp) (r : WellReport) : State :=
  let dest : Bool := match r with
    | .residue d => d
    | .bounds d => d
  let k := physWell w.stack (if dest then w.well2.getD w.well else w.well)
  let s1 := { s with wellsOut := if s.wellsOut.contains k then s.wellsOut else s.wellsOut ++ [k] }
  let s2 := if s.wellsOut.contains k then s1
    else (s1.setFld oWellcInsvc 28 16 (s1.fld oWellcInsvc 28 16 + 1)).setFld oWellcInsvc 12 0 (s1.fld oWellcInsvc 12 0 - 1)
  let s3 := match r with
    | .residue _ => s2.logEvent evResidue w.tenant [2 ^ 56 + k, 6, s.cmdData w.cmd]
    | .bounds _ => s2
  (s3.logEvent evWellFault w.tenant [k, s.cmdData w.cmd]).stopOn k

/-- What this operation can report: it forms sums or compacts (R184), and its output lies in another domain where the second well
reports (R183). -/
def WellOp.canReport (w : WellOp) (r : WellReport) : Bool :=
  match r with
  | .residue dest => leAt w.desc 0 1 != wCOPY && leAt w.desc 0 1 != wSWAP && (!dest || w.well2.isSome)
  | .bounds dest => !dest || w.well2.isSome

/-- A code fault stops the operation: the run is lost on inner-only lines, and a sealed line ends the command (R155, R178, R619). -/
def State.wellCodeFault (s : State) (d : WellDesc) (w : WellOp) : State :=
  let sealed := d.ranges.any fun r => (linesOf r.1 r.2).any fun ln =>
    s.poison.contains (w.tenant * 2 ^ 58 + ln) && !s.innerOnly w.tenant (ln * 64)
  let s1 := (s.settleWell w).drew 1
  if sealed then s1.stopCmd w.cmd stHwFault else s1.loseRun w.frag

/-- OUT of an operation that is stopped, or whose call broke R180, holds unpredictable data and stays inner-only (R164, R181). -/
def State.scramble (s : State) (t a n : Nat) : State :=
  (s.devWr t a ((List.range n).map fun i => BitVec.ofNat 8 (s.draw i))).drew n

/-- An operation set aside for another one on its wells reloads its table (R163). -/
def State.setAside (s : State) (w : WellOp) : State :=
  { s with wells := s.wells.map fun x =>
      if x.id ≠ w.id ∧ x.usedWells.any (fun k => w.usedWells.contains k) then { x with loaded := 0, credit := 0 } else x }

/-- The work of an interval: the table first, then input units (R157). -/
def State.wellWork (s : State) (d : WellDesc) (w : WellOp) (len units : Nat) : WellOp × State :=
  let need := ceilDiv d.tblLen 32 - w.loaded
  let free := len - 14
  if free < need then ({ w with loaded := w.loaded + free }, s)
  else State.wellRun d units ((free - need) * 256 + w.credit) { w with loaded := w.loaded + need, credit := 0 } s

/-- The written ranges of an operation whose call broke R180. -/
def State.applyBreach (s : State) (d : WellDesc) (w : WellOp) : State :=
  if w.breach then d.written.foldl (fun s r => s.scramble w.tenant r.1 r.2) s else s

/-- One interval of an accepted operation. `units` is how far it gets, held to the work that R157 leaves it; `report` is what a well
reports in it. One that is stopped with no interval to come ends at once (R164). -/
def execWellInterval (op units : Nat) (report : Option WellReport) (s : State) : Res :=
  match s.wells.find? fun w => w.id == op with
  | none => .next s
  | some w =>
    let d := wellDesc w.desc
    let out := w.usedWells.any fun k => !(s.wellsIn (k / 512)).contains (k % 512)
    let idle := w.stop && (out || w.st == .queued)
    onlyIf (s.live && !s.tripped && (idle || (s.nextOp w && !out)) &&
        report.all w.canReport) s fun s =>
      if idle then (s.scramble w.tenant d.out d.outlen).settleWell { w with st := .aborted }
      else
      let len := s.intervalLen d
      let n := w.usedWells.length
      let s1 := ((s.wrapAdd oWellcCnt 31 0 n).wrapAdd oWellcCnt 63 32 (if len < d.dur then n else 0)).setAside w
      let w1 := { w with intervals := w.intervals + 1, st := .running }
      if w.stop then ((s1.scramble w.tenant d.out d.outlen).settleWell { w1 with st := .aborted }).noteWell s d w { w1 with st := .aborted } len
      else match report with
      | some r => (s1.wellFault w1 r).noteWell s d w { w1 with st := .fault } len
      | none =>
        let r := s1.wellWork d w1 len units
        let s2 := r.2.applyBreach d w
        (if r.1.st = .fault then s2.wellCodeFault d r.1 else s2.settleWell r.1).noteWell s d w r.1 len

/-- A refresh of a bank (R161), counted per bank. -/
def execRefresh (stack channel bank : Nat) (s : State) : Res :=
  let k := (stack * 32 + channel) * 32 + bank
  onlyIf (s.awake && decide (stack < 12 ∧ channel < 32 ∧ bank < 32)) s fun s =>
    { s with power := { s.power with refreshes := Map.put s.power.refreshes k (Map.getD s.power.refreshes k 0 + 1) } }

end Sys2Proof.Machine
end

