-- ==== Sys2Proof/Machine/Alloc.lean ====
section
/-! DEFINITION. Allocations of a tenant's device space: `vr.alloc`, `vr.free` and the return of the memory (R317, R320 to R322). -/
namespace Sys2Proof.Machine

def Cmd.allocOk (x : Cmd) : Bool :=
  let n := x.a 0 8
  decide (65536 ≤ n ∧ n ≤ 64 * gib ∧ n % 65536 = 0) && x.af 8 31 3 == 0 && (x.af 8 0 0 == 0 || decide (n ≤ 16 * mib)) &&
    addrOk (bit (x.a 8 4) 2) (x.a 0x10 8) && cleanBut x.args [(0, 12), (0x10, 8)]

/-- Map `n` zero bytes at `base`; the placement engine chooses the stack, and the well of a segment. -/
def State.mapAlloc (s : State) (t base n : Nat) (shared wellSeg : Bool) : State :=
  let st := s.draw 1 % 12
  let a : Alloc :=
    { tenant := t, base := base, size := n, shared := shared, wellSeg := wellSeg, readOnly := false, stack := st, well := s.anyWell st 2,
      mapped := true, freeing := none }
  (({ s with allocs := s.allocs ++ [a], dev := Mem.clear s.dev (devKey t base) n } : State).addUnit (.alloc t base) t (.stack st) n).drew 3

def execVrAlloc (c : Nat) (s : State) : Res :=
  runCmd c s (fun x => x.vr == 0x140) fun x s =>
    let dev := bit (x.a 8 4) 2
    if !x.allocOk then s.malformed c
    else s.withRoom x (x.a 0 8) fun s =>
      let base := s.newBase x.fn (x.a 0 8)
      match s.spaceWr x.fn dev (x.a 0x10 8) (toLe 8 base) with
      | none => s.outputFail x dev
      | some s1 => (s1.mapAlloc x.fn base (x.a 0 8) (x.af 8 1 1 == 1) (x.af 8 0 0 == 1)).finish c stOk 0 0

/-- A live allocation of a tenant by its base; one that was lost stays allocated. -/
def State.liveAlloc (s : State) (t base : Nat) : Bool :=
  s.allocs.any fun m => m.tenant == t && m.base == base && !m.readOnly && m.freeing.isNone

/-- Commands of a tenant admitted before another, for which the return of the memory that it frees waits (R322). -/
def State.earlier (s : State) (x : Cmd) : List Nat :=
  (s.cmds.filter fun y => y.fn == x.fn && y.phase == .admitted && y.id != x.id && decide (y.seq ≤ x.seq)).map (·.id)

/-- Unmap an allocation; the commands admitted before keep its memory. -/
def State.unmapAlloc (s : State) (t base : Nat) (readers : List Nat) : State :=
  { s with allocs := s.allocs.map fun m => if m.tenant = t ∧ m.base = base then { m with mapped := false, freeing := some readers } else m }

def execVrFree (c : Nat) (s : State) : Res :=
  runCmd c s (fun x => x.vr == 0x141) fun x s =>
    if !cleanBut x.args [(0, 8)] then s.malformed c
    else if !s.liveAlloc x.fn (x.a 0 8) then s.fail c stBadHandle
    else (s.unmapAlloc x.fn (x.a 0 8) (s.earlier x)).finish c stOk 0 0

/-- Return the memory of an unmapped allocation: its unit, its inner-only ranges, its lines and its bytes go. -/
def State.returnAlloc (s : State) (m : Alloc) : State :=
  let within (t a : Nat) : Bool := t == m.tenant && decide (m.base ≤ a ∧ a < m.base + m.size)
  { s with
    allocs := s.allocs.filter fun x => !(x.tenant == m.tenant && x.base == m.base)
    units := s.units.filter fun u => u.uid != .alloc m.tenant m.base
    moves := s.moves.filter fun v => v.uid != .alloc m.tenant m.base
    ranges := s.ranges.filter fun r => !within r.tenant r.base
    poison := s.poison.filter fun l => !within (l / 2 ^ 58) (l % 2 ^ 58 * 64)
    dev := Mem.clear s.dev (devKey m.tenant m.base) m.size
    clusters := s.clusters.map fun k => (k.1, { k.2 with lines := k.2.lines.filter fun x => !within x.tenant (x.line * 64) }) }

/-- Every command of the tenant admitted before `vr.free` has completed (R322). -/
def execAllocationReturn (tenant base : Nat) (s : State) : Res :=
  match s.allocs.find? fun m => m.tenant == tenant && m.base == base with
  | none => .next s
  | some m => match m.freeing with
    | none => .next s
    | some readers => onlyIf (s.live && !s.cmds.any fun y => y.inFlight && readers.contains y.id) s fun s => s.returnAlloc m

end Sys2Proof.Machine
end

