-- ==== Sys2Proof/Machine/Hash.lean ====
section
/-! DEFINITION. The named standards the device computes by: SHAKE256 (FIPS 202, R580, R589) and CRC-32C (R412, R497). -/
namespace Sys2Proof.Machine

/-- Lane (x, y) of a Keccak state kept as 25 words in index order x + 5y. -/
def lane (a : List Word) (i : Nat) : Word := a.getD (i % 25) 0

def rotl (w : Word) (n : Nat) : Word := if n % 64 = 0 then w else w.rotateLeft (n % 64)

def keccakRho : List Nat :=
  [0, 1, 62, 28, 27, 36, 44, 6, 55, 20, 3, 10, 43, 25, 39, 41, 45, 15, 21, 8, 18, 2, 61, 56, 14]

def keccakRc : List Word :=
  [0x0000000000000001, 0x0000000000008082, 0x800000000000808A, 0x8000000080008000, 0x000000000000808B,
   0x0000000080000001, 0x8000000080008081, 0x8000000000008009, 0x000000000000008A, 0x0000000000000088,
   0x0000000080008009, 0x000000008000000A, 0x000000008000808B, 0x800000000000008B, 0x8000000000008089,
   0x8000000000008003, 0x8000000000008002, 0x8000000000000080, 0x000000000000800A, 0x800000008000000A,
   0x8000000080008081, 0x8000000000008080, 0x0000000080000001, 0x8000000080008008]

/-- One round of Keccak-f[1600]: θ, ρ and π, χ, ι. -/
def keccakRound (a : List Word) (rc : Word) : List Word :=
  let c := (List.range 5).map (fun x => lane a x ^^^ lane a (x + 5) ^^^ lane a (x + 10) ^^^ lane a (x + 15) ^^^
    lane a (x + 20))
  let d := (List.range 5).map (fun x => c.getD ((x + 4) % 5) 0 ^^^ rotl (c.getD ((x + 1) % 5) 0) 1)
  let t := (List.range 25).map (fun i => lane a i ^^^ d.getD (i % 5) 0)
  -- B[y, 2x+3y] = rot(A[x,y]); so B at (X,Y) comes from x = (X + 3Y) % 5, y = X
  let b := (List.range 25).map (fun i =>
    let x := (i % 5 + 3 * (i / 5)) % 5
    let y := i % 5
    rotl (lane t (x + 5 * y)) (keccakRho.getD (x + 5 * y) 0))
  (List.range 25).map (fun i =>
    let x := i % 5
    let y := i / 5
    let v := lane b i ^^^ (~~~ lane b ((x + 1) % 5 + 5 * y) &&& lane b ((x + 2) % 5 + 5 * y))
    if i = 0 then v ^^^ rc else v)

def keccakF (a : List Word) : List Word := keccakRc.foldl keccakRound a

/-- Absorb one block of 136 bytes. -/
def absorb (a : List Word) (blk : List Byte) : List Word :=
  keccakF ((List.range 25).map (fun i => lane a i ^^^ BitVec.ofNat 64 (leAt blk (8 * i) 8)))

def squeeze : Nat → List Word → List Byte
  | 0, _ => []
  | n + 1, a => ((List.range 17).flatMap (fun i => toLe 8 (lane a i).toNat)) ++ squeeze n (keccakF a)

/-- The message followed by SHAKE's domain bits and padding to whole 136-byte blocks. -/
def shakePad (m : List Byte) : List Byte :=
  let z := 136 - (m.length % 136) - 1
  if z = 0 then m ++ [0x9F] else m ++ [0x1F] ++ List.replicate (z - 1) 0 ++ [0x80]

/-- The first `n` bytes of SHAKE256 of a message. -/
def shake256 (n : Nat) (m : List Byte) : List Byte :=
  let p := shakePad m
  let st := (chunks 136 (p.length / 136 + 1) p).foldl absorb (List.replicate 25 0)
  (squeeze (ceilDiv n 136) st).take n

/-- The 64-byte SHAKE256 digest that R580 and R589 use. -/
def digest (m : List Byte) : List Byte := shake256 64 m

def crcBits : Nat → BitVec 32 → BitVec 32
  | 0, c => c
  | n + 1, c => crcBits n (if c.getLsbD 0 then (c >>> 1) ^^^ 0x82F63B78 else c >>> 1)

/-- CRC-32C (Castagnoli) of a byte list. -/
def crc32c (m : List Byte) : BitVec 32 :=
  ~~~ (m.foldl (fun c b => crcBits 8 (c ^^^ b.setWidth 32)) 0xFFFFFFFF)

end Sys2Proof.Machine
end

