-- ==== Sys2Proof/Machine/Blocks.lean ====
section
/-! DEFINITION. Flash blocks and records: numbering, programming, reading, discards and copies (R410 to R422, R434, R435). -/
namespace Sys2Proof.Machine

/-! ## Blocks -/

/-- Number of block `b` of a die of a channel: bits 63:39 of a record location (R413). -/
def blockId (ch die b : Nat) : Nat := ch * 2 ^ 20 + die * 2 ^ 16 + b

/-- Die of a block: channel times 16 plus 4·CE + LUN. -/
def dieOf (b : Nat) : Nat := b / 2 ^ 16

/-- Every block of the dies in use, spread over the channels (R407). -/
def State.allBlocks (s : State) : List Nat :=
  (List.range s.flash.geom.blocksPerDie).flatMap fun b =>
    (List.range 16).flatMap fun die => s.flash.dies.filterMap fun c => if bit c.2 die then some (blockId c.1 die b) else none

def State.block? (s : State) (b : Nat) : Option Block := s.flash.blocks.find? fun x => x.id == b
def State.setBlocks (s : State) (l : List Block) : State := { s with flash := { s.flash with blocks := l } }
def State.updBlock (s : State) (b : Nat) (f : Block → Block) : State := s.setBlocks (updFirst (fun x => x.id == b) f s.flash.blocks)

/-- UNALLOC blocks. -/
def State.unalloc (s : State) : List Nat :=
  s.allBlocks.filter fun b => (s.block? b).all fun x => x.st == .unalloc

def State.blocksOf (s : State) (t pid : Nat) : List Block := s.flash.blocks.filter fun b => b.part == some (t, pid)

/-- Bytes of a block in its cell mode (R416). -/
def State.blockCap (s : State) (oneBit : Bool) : Nat :=
  if oneBit then s.flash.geom.blockBytes / Nat.max 1 s.flash.geom.cellBits else s.flash.geom.blockBytes

/-- An erased block of no partition. -/
def Block.blank (b erases : Nat) : Block :=
  { id := b, part := none, oneBit := false, st := .unalloc, recs := [], erases := erases, used := 0, order := 0, target := none, cause := 0,
    readers := [], refresh := false, group := none, covered := 0 }

/-- An erased block of its partition. -/
def Block.erased (b : Block) : Block := { Block.blank b.id (b.erases + 1) with part := b.part, st := .free }

/-- Add blocks to a partition as FREE. -/
def State.giveBlocks (s : State) (t pid : Nat) (ids : List Nat) : State :=
  let fresh (b : Nat) : Block := { Block.blank b (((s.block? b).map (·.erases)).getD 0) with part := some (t, pid), st := .free }
  s.setBlocks ((s.flash.blocks.filter fun b => !ids.contains b.id) ++ ids.map fresh)

/-! ## Buffers (R416, R417) -/

/-- Buffered bytes not yet folded. -/
def State.bufUsed (s : State) (p : Part) : Nat :=
  if p.density then 0 else sumBy Block.valid ((s.blocksOf p.tenant p.pid).filter fun b => b.oneBit && b.st != .pending)

/-- The buffer size that R416 gives with `valid` valid bytes. -/
def Part.bufFor (p : Part) (valid : Nat) : Nat :=
  if p.density then 0 else if p.kind then Nat.max (p.bufGib * gib) ((p.user - valid) / 4) else p.bufGib * gib

/-- The size is recomputed when a buffer block is freed. -/
def State.resizeBuf (s : State) (t pid : Nat) : State := s.updPart t pid fun p => { p with bufNow := p.bufFor (s.partValid t pid) }

/-! ## Records (R412 to R414) -/

/-- Header and data of a record; the CRC covers its own field as zero (assumption 18). -/
def recordBytes (c : Coll) (lid : Nat) (data : List Byte) : List Byte :=
  let w0 := toLe 8 (lid * 2 ^ 24 + c.index * 4 + c.recfmt)
  let hi := toLe 4 (c.tenant * 2 ^ 24 + data.length)
  w0 ++ toLe 4 (crc32c (w0 ++ toLe 4 0 ++ data)).toNat ++ hi ++ data

def noLoc : Word := 0xFFFFFFFFFFFFFFFF

/-- Location of a record of `len` bytes at 512-byte unit `u` of a block. -/
def locAt (b u len : Nat) : Word := BitVec.ofNat 64 (b * 2 ^ 39 + u / 32 * 2 ^ 27 + u % 32 * 2 ^ 22 + len % 2 ^ 22)

/-! ## Parity groups of open blocks (R419 to R421) -/

/-- Bytes of a page (R404). -/
def pageBytes : Nat := 16384

def State.group? (s : State) (g : Nat) : Option ParityGroup := s.flash.groups.find? fun x => x.id == g
def State.setGroups (s : State) (l : List ParityGroup) : State := { s with flash := { s.flash with groups := l } }
def State.updGroup (s : State) (g : Nat) (f : ParityGroup → ParityGroup) : State :=
  s.setGroups (updFirst (fun x => x.id == g) f s.flash.groups)

/-- The block holds parity pages. -/
def State.isParity (s : State) (b : Nat) : Bool := s.flash.groups.any fun g => g.parity.contains b

/-- A parity group that a block may join: of its partition and cell mode, with fewer than 15 members, every block on another die. -/
def State.groupFor (s : State) (x : Block) (oneBit : Bool) : Option ParityGroup :=
  s.flash.groups.find? fun g => x.part == some g.part && g.oneBit == oneBit && decide (g.members.length < 15) &&
    (g.members ++ g.parity).all fun m => dieOf m != dieOf x.id

/-- The FREE blocks of one other die that serve a new group as parity blocks: one for one-bit members, one for each one-bit block's
worth of a native block's pages otherwise. -/
def State.parityFor (s : State) (x : Block) (oneBit : Bool) : Option (List Nat) :=
  match x.part with
  | none => none
  | some (t, pid) =>
    let n := if oneBit then 1 else Nat.max 1 s.flash.geom.cellBits
    let free := ((s.blocksOf t pid).filter fun b => b.st == .free && dieOf b.id != dieOf x.id).map (·.id)
    (free.map dieOf).eraseDups.findSome? fun d =>
      let l := free.filter fun b => dieOf b == d
      if n ≤ l.length then some (l.take n) else none

/-- The block may be opened in a cell mode: parity can cover it. -/
def State.canOpen (s : State) (x : Block) (oneBit : Bool) : Bool := (s.groupFor x oneBit).isSome || (s.parityFor x oneBit).isSome

/-- A block that is being opened joins a parity group, a new one where none takes it. -/
def State.joinGroup (s : State) (x : Block) (oneBit : Bool) : State :=
  match s.groupFor x oneBit with
  | some g => (s.updGroup g.id fun y => { y with members := y.members ++ [x.id] }).updBlock x.id fun y => { y with group := some g.id, covered := 0 }
  | none => match s.parityFor x oneBit, x.part with
    | some ps, some part =>
      let id := s.flash.nextGroup
      let s1 := s.setBlocks (s.flash.blocks.map fun y =>
        if ps.contains y.id && y.st == .free then { y with st := .opened, oneBit := true, group := some id }
        else if y.id = x.id then { y with group := some id, covered := 0 } else y)
      { s1 with flash := { s1.flash with nextGroup := id + 1, groups := s1.flash.groups ++
          [{ id := id, part := part, oneBit := oneBit, members := [x.id], parity := ps, xor := [], pages := 0 }] } }
    | _, _ => s

/-- The programmed bytes of a block by offset, as its records lie in it. -/
def Block.image (b : Block) : List (Nat × Byte) :=
  b.recs.flatMap fun r => r.bytes.zipIdx.map fun p => ((field r.loc.toNat 38 27 * 32 + field r.loc.toNat 26 22) * 512 + p.2, p.1)

/-- Pages of a one-bit block. -/
def State.oneBitPages (s : State) : Nat := Nat.max 1 (s.blockCap true / pageBytes)

/-- Parity block and page that cover page `j` of the members of a group. -/
def State.parityAt (s : State) (g : ParityGroup) (j : Nat) : Option (Nat × Nat) :=
  (g.parity[j / s.oneBitPages]?).map fun b => (b, j % s.oneBitPages)

/-- Units of a block that are programmed: a native-mode block is filled up to the last page of its word line (R417). -/
def State.programmedUnits (s : State) (b : Block) : Nat :=
  if b.oneBit || b.used == 0 then b.used
  else
    let q := (b.used - 1) / 32
    Nat.max b.used (Nat.min (s.blockCap false / 512) ((q + Config.wordLine q + 1) * 32))

/-- The parity pages of a group are programmed up to what its members hold: each is the XOR of that page of every member (R419). -/
def State.coverGroup (s : State) (id : Nat) : State :=
  match s.group? id with
  | none => s
  | some g =>
    let ms := s.flash.blocks.filter fun b => g.members.contains b.id
    let new := ms.flatMap fun b => b.image.filter fun p => decide (b.covered * 512 ≤ p.1)
    let x := new.foldl (fun m p => Mem.wr m p.1 (Mem.rd m p.1 ^^^ p.2)) g.xor
    let pages := ms.foldl (fun n b => Nat.max n (ceilDiv (s.programmedUnits b) 32)) g.pages
    let filled := sumBy (fun b => s.programmedUnits b - b.used) ms
    let own (b : Block) : Nat := Nat.min s.oneBitPages (pages - g.parity.idxOf b.id * s.oneBitPages) * 32
    let s1 := s.setBlocks (s.flash.blocks.map fun b =>
      if g.members.contains b.id then { b with used := s.programmedUnits b, covered := s.programmedUnits b }
      else if g.parity.contains b.id then { b with used := own b } else b)
    (s1.updGroup id fun y => { y with xor := x, pages := pages }).updPart g.part.1 g.part.2 fun p =>
      { p with mediaw := p.mediaw + (pages - g.pages) * pageBytes + filled * 512 }

/-- Cover what a block holds. -/
def State.coverBlock (s : State) (b : Nat) : State :=
  match (s.block? b).bind (·.group) with
  | none => s
  | some g => s.coverGroup g

/-- A record is programmed and covered, or lies in a block that has verified (R21, R419, R420). -/
def State.recCovered (s : State) (loc : Word) : Bool :=
  match s.block? (loc.toNat / 2 ^ 39) with
  | none => true
  | some b => b.group.isNone ||
      decide (field loc.toNat 38 27 * 32 + field loc.toNat 26 22 + ceilDiv (field loc.toNat 21 0) 512 ≤ b.covered)

/-- A member leaves its group; when every member has left, the parity blocks are erased (R420). -/
def State.leaveGroup (s : State) (b : Nat) : State :=
  match (s.block? b).bind (·.group) with
  | none => s
  | some id => match s.group? id with
    | none => s
    | some g =>
      let s1 := s.updBlock b fun x => { x with group := none, covered := 0 }
      let rest := g.members.filter (· != b)
      if !g.members.contains b then
        s1.updGroup id fun y => { y with parity := y.parity.filter (· != b) }
      else if rest.isEmpty then
        let s2 := s1.setBlocks (s1.flash.blocks.map fun x => if g.parity.contains x.id && x.st == .opened then x.erased else x)
        (s2.setGroups (s2.flash.groups.filter fun y => y.id != id)).wrapAdd oFlcCnt 31 0 g.parity.length
      else s1.updGroup id fun y => { y with members := rest }

/-! ## Writing -/

/-- The block can take `n` more bytes. -/
def State.roomIn (s : State) (b : Block) (n : Nat) : Bool := decide (b.used * 512 + roundUp n 512 ≤ s.blockCap b.oneBit)

/-- Write one record into an OPEN block, or open a FREE one for it in the given cell mode. -/
def State.writeRec (s : State) (b : Nat) (oneBit : Bool) (r : Rec) : State × Word :=
  match s.block? b with
  | none => (s, noLoc)
  | some x =>
    let fresh := x.st == .free
    let used := if fresh then 0 else x.used
    let loc := locAt b used r.bytes.length
    let s0 := if fresh then s.joinGroup x oneBit else s
    let s1 := s0.updBlock b fun y =>
      { y with st := .opened, oneBit := if fresh then oneBit else y.oneBit, order := if fresh then s.flash.nextOpen else y.order,
               used := used + roundUp r.bytes.length 512 / 512, recs := y.recs ++ [{ r with loc := loc, valid := true }] }
    ({ s1 with flash := { s1.flash with nextOpen := s.flash.nextOpen + 1 } }, loc)

/-- FREE blocks beyond the emergency reserve of 0.5 % of the partition's raw capacity, which no write of a command uses (R436). -/
def State.beyondReserve (s : State) (p : Part) : Bool :=
  let bs := s.blocksOf p.tenant p.pid
  decide (bs.length / 200 < (bs.filter fun b => b.st == .free).length)

/-- Channel of a block. -/
def channelOf (b : Nat) : Nat := b / 2 ^ 20

/-- A block of the partition that takes `n` bytes of a collection in a cell mode: on the next channel in turn that has one (R209), an
OPEN one before a FREE one. -/
def State.openFor (s : State) (p : Part) (oneBit : Bool) (n coll : Nat) : Option Nat :=
  let last := Map.getD p.turn coll 31
  let fits (b : Block) : Bool :=
    (b.st == .opened && b.oneBit == oneBit && !s.isParity b.id && s.roomIn b n) || (b.st == .free && s.beyondReserve p && s.canOpen b oneBit)
  (minBy (fun b => (channelOf b.id + 63 - last) % 32 * 2 + b2n (b.st == .free)) ((s.blocksOf p.tenant p.pid).filter fits)).map (·.id)

/-- Collection can still free a block (R435). -/
def State.reclaimable (s : State) (p : Part) : Bool :=
  (s.blocksOf p.tenant p.pid).any fun b =>
    b.st == .victim || b.st == .pending || ((b.st == .verified || b.st == .opened || b.st == .closed) && b.recs.any fun r => !r.valid)

/-- A record goes to the buffer while it has room, else to a native-mode block (R417). -/
def State.recMode (s : State) (p : Part) (n : Nat) : Bool := p.density || decide (s.bufUsed p + roundUp n 512 ≤ p.bufNow)

/-- What programming a record comes to. -/
inductive Programmed where
  | exhausted
  | wait
  | ok (s : State) (loc : Word)

/-- Program a record of a command (R417, R435, R437). -/
def State.program (s : State) (p : Part) (r : Rec) : Programmed :=
  let n := roundUp r.bytes.length 512
  if p.readOnly || p.dropping then .exhausted
  else
    let oneBit := s.recMode p n
    match s.openFor p oneBit n r.coll with
    | some b =>
      let (s1, loc) := s.writeRec b oneBit r
      .ok (s1.updPart p.tenant p.pid fun q =>
        { q with hostw := q.hostw + n, mediaw := q.mediaw + n, turn := Map.put q.turn r.coll (channelOf b) }) loc
    | none => if s.reclaimable p then .wait else .exhausted

/-- A partition turns read-only (R435). -/
def State.turnReadOnly (s : State) (p : Part) : State :=
  if p.readOnly then s
  else (s.updPart p.tenant p.pid fun q => { q with readOnly := true }).logEvent evPartReadonly p.tenant [p.pid]

/-- The record at a location, checked against the entry that names it (R414); an erased place reads as zeros. -/
def State.recordAt (s : State) (c : Coll) (lid : Nat) (loc : Word) : Option Rec :=
  (s.flash.blocks.flatMap (·.recs)).find? fun r => r.loc == loc && r.tenant == c.tenant && r.coll == c.index && r.lid == lid

/-- A discard of a vector's record (R434). -/
def State.discard (s : State) (c : Coll) (lid : Nat) : State :=
  s.setBlocks (s.flash.blocks.map fun b =>
    { b with recs := b.recs.map fun r =>
        if r.tenant == c.tenant && r.coll == c.index && r.lid == lid then { r with valid := false } else r })

/-- A discard of every record of a collection. -/
def State.discardColl (s : State) (c : Coll) : State :=
  s.setBlocks (s.flash.blocks.map fun b =>
    { b with recs := b.recs.map fun r => if r.tenant == c.tenant && r.coll == c.index then { r with valid := false } else r })

/-- The collection holds a record for the vector. -/
def State.hasRecord (s : State) (c : Coll) (lid : Nat) : Bool :=
  s.flash.blocks.any fun b => b.recs.any fun r => r.valid && r.tenant == c.tenant && r.coll == c.index && r.lid == lid

/-! ## Copies and notices (R422, R426, R429) -/

/-- Post a notice for each valid record of a source whose copies have verified, and leave the source PENDING. -/
def State.postNotices (s : State) (src dest : Nat) : State :=
  match s.block? src, s.block? dest with
  | some a, some b =>
    let moved := (a.recs.filter (·.valid)).filterMap fun r =>
      (b.recs.find? fun x => x.valid && x.tenant == r.tenant && x.coll == r.coll && x.lid == r.lid).map fun x => (r, x)
    let ns : List Notice := moved.zipIdx.map fun m =>
      { id := s.flash.nextNotice + m.2, old := m.1.1.loc, new := m.1.2.loc, lid := m.1.1.lid, coll := m.1.1.coll,
        tenant := m.1.1.tenant, cause := a.cause, block := src, queued := false }
    let s1 := s.updBlock src fun x =>
      { x with st := if x.st == .retired then .retired else .pending, recs := x.recs.map fun r => { r with valid := false } }
    let s2 := { s1 with flash := { s1.flash with notices := s1.flash.notices ++ ns, nextNotice := s1.flash.nextNotice + ns.length } }
    match a.part with
    | none => s2
    | some (t, pid) => s2.updPart t pid fun q => { q with noticesOut := q.noticesOut + ns.length }
  | _, _ => s

/-- Bytes of a block's valid records. -/
def State.copyBytes (s : State) (src : Nat) : Nat := ((s.block? src).map Block.valid).getD 0

/-- The destination is another block of the same partition, OPEN or FREE, that takes the records in a cell mode. -/
def State.destFits (s : State) (src dest : Nat) (oneBit : Bool) (n : Nat) : Bool :=
  match s.block? src, s.block? dest with
  | some a, some b => src != dest && a.part == b.part &&
      ((b.st == .opened && b.oneBit == oneBit && !s.isParity dest && s.roomIn b n) ||
        (b.st == .free && decide (n ≤ s.blockCap oneBit) && s.canOpen b oneBit))
  | _, _ => false

/-- Copy the valid records of a source that `keep` selects. -/
def State.copyRecs (s : State) (src dest : Nat) (oneBit : Bool) (keep : Rec → Bool) : State :=
  match s.block? src with
  | none => s
  | some a =>
    let s1 := (a.recs.filter fun r => r.valid && keep r).foldl (fun s r => (s.writeRec dest oneBit r).1) s
    match a.part with
    | none => s1
    | some (t, pid) => s1.updPart t pid fun q => { q with mediaw := q.mediaw + s.copyBytes src }

/-- Begin a relocation of a block: its records are copied; a one-bit destination is covered at once, so that the notices
follow, a native one waits for its read-back (R422). -/
def State.relocate (s : State) (src dest cause : Nat) (oneBit : Bool) : State :=
  let s1 := s.updBlock src fun x =>
    { x with st := if x.st == .retired then .retired else .victim, target := some dest, cause := cause }
  let s2 := s1.copyRecs src dest oneBit fun _ => true
  if oneBit || s.copyBytes src == 0 then (s2.coverBlock dest).postNotices src dest else s2

/-- A block is retired (R432). -/
def State.retireBlock (s : State) (b cause : Nat) : State :=
  match s.block? b with
  | none => s
  | some x =>
    let s1 := ((s.leaveGroup b).updBlock b fun y => { y with st := .retired }).logEvent evBlockRetired ((x.part.map (·.1)).getD 0)
      [b / 2 ^ 20, b / 2 ^ 18 % 4, b / 2 ^ 16 % 4, b % 2 ^ 16, cause]
    match x.part with
    | none => s1
    | some (t, pid) => s1.updPart t pid fun q => { q with retiredBlocks := q.retiredBlocks + 1 }

/-- A record that no path can read is lost: its location stays in the index (R430). -/
def State.loseRec (s : State) (r : Rec) : State :=
  let s1 := s.setBlocks (s.flash.blocks.map fun b => { b with recs := b.recs.filter fun x => !(x.loc == r.loc) })
  s1.logEvent evFlashUe r.tenant [r.coll, r.lid]

end Sys2Proof.Machine
end

