-- ==== Sys2Proof/Machine/Distance.lean ====
section
/-! DEFINITION. Distances of vectors to centroids, entries and records, and the encoding of a vector (R33, R131, R132, R688 to
R691). Vectors are lists of FP32 bit patterns; `k` numbers the free values that order the sums. -/
namespace Sys2Proof.Machine

/-- Metrics of R33. -/
def mL2 : Nat := 0
def mIP : Nat := 1
def mCOS : Nat := 2

/-- Element formats of QFMT and VFMT, and of RECFMT less one. -/
def elemFmt (f : Nat) : Fmt := if f = 0 then fF32 else if f = 1 then fF16 else fBf16
def elemBytes (f : Nat) : Nat := if f = 0 then 4 else 2

/-- `n` elements in a format as FP32 patterns, exactly. -/
def readElems (f n : Nat) (b : List Byte) : List Nat :=
  (List.range n).map fun i => cvtF (elemFmt f) fF32 (leAt b (i * elemBytes f) (elemBytes f))

/-- FP32 patterns as bytes in a format (R110). -/
def writeElems (f : Nat) (x : List Nat) : List Byte := x.flatMap fun e => toLe (elemBytes f) (cvtF fF32 (elemFmt f) e)

/-- R688: every element divided by the exact length and rounded once. -/
def normalise (x : List Nat) : List Nat :=
  if !x.all f32Finite then x.map fun _ => fF32.nan
  else
    let parts : List (Bool × Nat × Int) := x.map fun e => match fF32.val e with
      | .fin a m ex => (a, m, ex)
      | _ => (false, 0, 0)
    let lo := parts.foldl (fun l p => Min.min l p.2.2) 0
    let ints := parts.map fun p => (p.1, p.2.1 * 2 ^ (p.2.2 - lo).toNat)
    let len2 := sumBy (fun p => p.2 * p.2) ints
    if len2 = 0 then x else ints.map fun p => fF32.roundSqrt p.1 (p.2 * p.2) len2

/-- The vector that a metric works on. -/
def forMetric (metric : Nat) (x : List Nat) : List Nat := if metric = mCOS then normalise x else x

def neg32 (x : Nat) : Nat := if fF32.isNan x then x else (x + 2 ^ 31) % 2 ^ 32
def one32 : Nat := 0x3F800000
def nan32 : Nat := 0x7FC00000

def bits16 (l : List (BitVec 16)) : List Nat := l.map fun b => cvtF fF16 fF32 b.toNat

/-- Σ of the squared differences: each difference and each square rounded to FP32. -/
def l2Sum (k : Nat) (x y : List Nat) : Nat :=
  fF32.sum k ((x.zip y).map fun p => let d := fF32.sub p.1 p.2; fF32.val (fF32.mul d d))

/-- Σ of the products, each rounded to FP32. -/
def dotSum (k : Nat) (x y : List Nat) : Nat := fF32.sum k ((x.zip y).map fun p => fF32.val (fF32.mul p.1 p.2))

/-- Distance to an FP16 centroid (R689): the vector is rounded to FP16 first. -/
def centroidDist (metric k : Nat) (x : List Nat) (c : List (BitVec 16)) : Nat :=
  let y := x.map fun e => cvtF fF16 fF32 (cvtF fF32 fF16 e)
  if metric = mL2 then l2Sum k y (bits16 c)
  else
    let d := dotSum k y (bits16 c)
    if metric = mIP then neg32 d else fF32.sub one32 d

/-- Candidates numbered `ids` by distance, ties to the lower number (R689). -/
def rankBy (dist : Nat → Nat) (ids : List Nat) : List Nat :=
  (sortBy (pairBefore ktF32 false) (ids.map fun i => (BitVec.ofNat 32 (dist i), i))).map (·.2)

/-- Elements of subspace `j` of `sub`. -/
def subvec (sub j : Nat) (x : List Nat) : List Nat := (x.drop (j * (x.length / sub))).take (x.length / sub)

/-- The residual from a centroid, each element rounded once to FP32. -/
def residual (x : List Nat) (c : List (BitVec 16)) : List Nat := (x.zip (bits16 c)).map fun p => fF32.sub p.1 p.2

/-- The sub-distances d_j[i] of a query against a list's fine centroid (R131, R132). -/
def subDists (metric k sub : Nat) (book : List (List (List (BitVec 16)))) (q : List Nat) (f : List (BitVec 16)) : List (List Nat) :=
  let r := if metric = mL2 then residual q f else q
  book.zipIdx.map fun b => b.1.zipIdx.map fun c =>
    let n := k + 1024 * (16 * b.2 + c.2)
    if metric = mL2 then l2Sum n (subvec sub b.2 r) (bits16 c.1) else neg32 (dotSum n (subvec sub b.2 r) (bits16 c.1))

/-- The constant term of a list: −q·f under IP and COS, and a further 1 under COS. -/
def constTerm (metric k : Nat) (q : List Nat) (f : List (BitVec 16)) : Nat :=
  if metric = mL2 then 0
  else
    let d := neg32 (dotSum k q (bits16 f))
    if metric = mIP then d else fF32.add d one32

/-- The exact difference of two finite FP32 values a ≥ b as a fraction. -/
def diffQ (a b : Nat) : Nat × Nat :=
  match fF32.val a, fF32.val b with
  | .fin x m e, .fin y n e2 => let lo := Min.min e e2; fracOf (alignTo x m e lo - alignTo y n e2 lo).toNat lo
  | _, _ => (0, 1)

/-- σ of R132: the widest row's spread over 255, rounded up to FP32. -/
def tableSigma (d : List (List Nat)) : Nat :=
  d.foldl (fun s row =>
    let (n, m) := diffQ (max32 row) (min32 row)
    let x := fF32.roundUpQ n (m * 255)
    if s < x then x else s) 0

/-- Entry of a u8 table; t never exceeds 255, so a difference that overflows FP32 stands for 255 (R132). -/
def tableU8 (sigma mu d : Nat) : Nat :=
  if sigma = 0 then 0
  else match fF32.val (fF32.div (fF32.sub d mu) sigma) with
    | .fin a m e => Nat.min 255 (rneInt a m e).toNat
    | .inf _ => 255
    | _ => 0

/-- Distance of an entry through a u8 table (R132). -/
def distU8 (k : Nat) (d : List (List Nat)) (const : Nat) (codes : List Nat) : Nat :=
  let sigma := tableSigma d
  let mus := d.map min32
  let total := sumBy (fun p => tableU8 sigma (min32 p.1) (p.1.getD p.2 0)) (d.zip codes)
  fF32.sum k [fF32.val (fF32.mul sigma (fF32.ofInt total)), fF32.val (fF32.sum (k + 8) (mus.map fF32.val)), fF32.val const]

/-- Distance of an entry through an FP16 table (R131). -/
def distF16 (k : Nat) (d : List (List Nat)) (const : Nat) (codes : List Nat) : Nat :=
  fF32.sum k ((d.zip codes).map (fun p => fF16.val (cvtF fF32 fF16 (p.1.getD p.2 0))) ++ [fF32.val const])

/-- List-scan distance of an entry through the table built for its list: the u8 one with `u8`, else the FP16 one (R131, R132). -/
def scanDist (u8 : Bool) (k : Nat) (d : List (List Nat)) (const : Nat) (codes : List Nat) : Nat :=
  if !(f32Finite const && d.all fun r => r.all f32Finite) then nan32
  else if u8 then distU8 k d const codes else distF16 k d const codes

/-- Distance from a full-precision record (R690). -/
def recordDist (metric k : Nat) (q x : List Nat) : Nat :=
  let x := forMetric metric x
  if metric = mL2 then
    fF32.sum k ((q.zip x).map fun p => let d := fF32.val (fF32.sub p.1 p.2); mulV d d)
  else
    let d := fF32.sum k ((q.zip x).map fun p => mulV (fF32.val p.1) (fF32.val p.2))
    if metric = mIP then neg32 d else fF32.sub one32 d

/-- Codes of a residual (R691): in each subspace the nearest codebook centroid. -/
def encode4 (k sub : Nat) (book : List (List (List (BitVec 16)))) (r : List Nat) : List Nat :=
  book.zipIdx.map fun b =>
    (rankBy (fun i => l2Sum (k + 1024 * (16 * b.2 + i)) (subvec sub b.2 r) (bits16 (b.1.getD i []))) (List.range b.1.length)).headD 0

end Sys2Proof.Machine
end

