-- ==== Sys2Proof/Machine/Quant.lean ====
section
/-! DEFINITION. Quantisation and statistics (R125 to R130, R375 to R377). -/
namespace Sys2Proof.Machine

/-! ## Scale entries (R115) -/

def entryScale (e : Nat) : Nat := e % 65536
def entryZp (e : Nat) : Int := toSigned 8 (field e 23 16)

/-- Smallest and largest code of an integer type. -/
def codeMin (ty : Nat) : Int := if ty = 1 then -8 else -128
def codeMax (ty : Nat) : Int := if ty = 1 then 7 else 127

/-- One code with the flags it sets: NANQ, FPINV. -/
structure Code where
  bits : Nat
  nanq : Bool
  inv : Bool
  deriving DecidableEq, Repr

/-- A code of R125 and R375. The code of a NaN quotient of operands that are not NaN is a free value (assumption 8). -/
def quantCode (ty free e x : Nat) : Code :=
  let s := entryScale e
  let z := entryZp e
  if 10 ≤ ty then
    if fF32.isNan x then ⟨0, true, false⟩
    else if s % 2 ^ 15 = 0 then ⟨0, false, false⟩
    else
      let q := fF32.divV (fF32.val x) (fF16.val s)
      ⟨cvtF fF32 (tyFmt ty) q, false, fF32.isNan q && !fF16.isNan s⟩
  else
    let q := fF32.divV (fF32.val x) (fF16.val s)
    let stray := !fF32.isNan x && s % 2 ^ 15 != 0 && fF32.isNan q
    let c := quantise x s z (codeMin ty) (codeMax ty)
    ⟨if stray then Config.freeNat free % 2 ^ tyWidth ty else ofSigned (tyWidth ty) c.1, c.2, stray && !fF16.isNan s⟩

/-- Code of an inactive lane: z, and +0 for FP8 (R375). -/
def idleCode (ty e : Nat) : Nat := if 10 ≤ ty then 0 else ofSigned (tyWidth ty) (entryZp e)

def execQuant (t : Tid) (s : State) : Res :=
  runInsn 0x88 (fun w => [1, 2, 10, 11].contains (wTy w) && vDA w &&
      onlyUses w (usesTy ||| usesMk ||| usesD ||| usesA ||| usesB))
    (fun c s =>
      let e := c.gb.toNat
      let ty := wTy c.w
      if 2 ^ 32 ≤ e ∨ (10 ≤ ty ∧ entryZp e ≠ 0) then badOperand
      else
        let codes := (lanesOf 32 c.va).zipIdx.map fun p =>
          if c.active p.2 then quantCode ty (s.free + p.2) e p.1 else ⟨idleCode ty e, false, false⟩
        let s1 := c.flagIf (codes.any (·.nanq)) flagNanq (c.flagIf (codes.any (·.inv)) flagFpinv (s.drew 32))
        .done (c.putV s1 (ofLanes (tyWidth ty) (codes.map (·.bits))))) t s

/-- The value of a code in FP32 (R112, R113, R126, R376). -/
def codeValue (ty e x : Nat) : Nat :=
  if 10 ≤ ty then fF32.ofVal (scaleV (entryScale e) ((tyFmt ty).val x))
  else dequantise (toSigned (tyWidth ty) x) (entryScale e) (entryZp e)

/-- P in SUB 6:4 and the destination type in SUB 3:0. -/
def dequantLegal (w : Nat) : Bool :=
  [1, 2, 10, 11].contains (wTy w) && decide (12 ≤ field w 3 0 ∧ field w 3 0 ≤ 14) &&
    decide (field w 6 4 ≤ if wTy w = 1 then 7 else 3) && vDA w && onlyUses w (usesV ||| usesD ||| usesA ||| usesB ||| usesSub 6 0)

def execDequant (t : Tid) (s : State) : Res :=
  runInsn 0x89 dequantLegal
    (fun c s =>
      let e := c.gb.toNat
      let ty := wTy c.w
      let dt := field c.w 3 0
      let n := tyWidth dt
      let src := (lanesOf (tyWidth ty) c.va).drop (32 * field c.w 6 4)
      let old := lanesOf n (c.th.rv (wD c.w))
      let inv (x : Nat) : Bool :=
        fF32.isNan (codeValue ty e x) && !(decide (10 ≤ ty) && (tyFmt ty).isNan x) && !fF16.isNan (entryScale e)
      let new := (src.take 32).zipIdx.map fun p =>
        if c.active p.2 then cvtF fF32 (tyFmt dt) (codeValue ty e p.1) else if wX c.w = 1 then 0 else old.getD p.2 0
      .done (c.putV (c.flagIf (c.anyActive ((src.take 32).map inv)) flagFpinv s) (ofLanes n new))) t s

/-! ## Statistics (R127 to R130) -/

structure StatDesc where
  nch : Nat
  ch0 : Nat
  tfmt : Nat
  slots : Nat
  scales : Nat
  deriving DecidableEq, Repr

def statDesc (b : List Byte) : StatDesc :=
  { nch := leAt b 0 4, ch0 := leAt b 4 4, tfmt := fieldAt b 8 25 24, slots := fieldAt b 8 23 0, scales := fieldAt b 0xC 23 0 }

/-- A slot of `stat.amax` after a value (R128). -/
def amaxSlot (slot x : Nat) : Nat :=
  if fF32.isNan x then setField slot 63 63 1
  else setField slot 31 0 (fF32.minMax true (field slot 31 0) (x % 2 ^ 31))

/-- The value would be clipped (R129): integer targets, then FP8 targets. Where x is a number and x/s is none, the manual states
no outcome, and it is a free value (assumption 8). -/
def clips (k tfmt e x : Nat) : Bool :=
  if fF32.isNan x then true
  else
    let s := entryScale e
    if s % 2 ^ 15 = 0 then x % 2 ^ 31 != 0
    else
      match fF32.val (fF32.divV (fF32.val x) (fF16.val s)) with
      | .nan => Config.freeNat k % 2 == 1
      | .inf _ => true
      | .fin neg m ex =>
        if tfmt ≤ 1 then
          let i := rneInt neg m ex + entryZp e
          decide (i < codeMin (tfmt + 1) ∨ codeMax (tfmt + 1) < i)
        else
          ltV ((if tfmt = 2 then fE4m3 else fE5m2).val (if tfmt = 2 then fE4m3 else fE5m2).maxFin) (.fin false m ex)

/-- A slot of `stat.clip` after a value; a full TOTAL freezes it (R129). -/
def clipSlot (k tfmt e slot x : Nat) : Nat :=
  if field slot 63 32 = 0xFFFFFFFF then slot
  else
    let s1 := setField slot 63 32 (field slot 63 32 + 1)
    if clips k tfmt e x then setField s1 31 0 (field s1 31 0 + 1) else s1

/-- Update the slot of each active lane's channel at the bank. -/
def statOp (opc : Nat) (scales : Bool) (f : Nat → StatDesc → Nat → Nat → Nat → Nat) (t : Tid) (s : State) : Res :=
  runInsn opc (fun w => decide (12 ≤ wTy w ∧ wTy w ≤ 14) && decide (wA w ≤ 31) && onlyUses w (usesTy ||| usesMk ||| usesA ||| usesB))
    (fun c s =>
      let o := c.gb.toNat
      if !c.inArea o 16 then .exc xCistern o 0 0
      else
        let b := c.cisRd s o 16
        let d := statDesc b
        if d.nch = 0 ∨ 65536 < d.nch ∨ fieldAt b 8 31 26 ≠ 0 ∨ fieldAt b 0xC 31 24 ≠ 0 ∨ d.slots % 64 ≠ 0 ∨
            !c.inArea d.slots (8 * d.nch) ∨ (scales ∧ !c.inArea d.scales (4 * d.nch)) then .done (s.malformed c.frag.cmd)
        else
          let k := s.free
          .done ((lanesOf c.width c.va).zipIdx.foldl (fun s p =>
            let ch := d.ch0 + p.2
            if c.active p.2 && decide (ch < d.nch) then
              let e := leNat (c.cisRd s (d.scales + 4 * ch) 4)
              let slot := leNat (c.cisRd s (d.slots + 8 * ch) 8)
              c.cisWr s (d.slots + 8 * ch) (toLe 8 (f (k + p.2) d e slot (cvtF (tyFmt (wTy c.w)) fF32 p.1)))
            else s) (if scales then s.drew 64 else s))) t s

def execStatAmax (t : Tid) (s : State) : Res := statOp 0x8A false (fun _ _ _ slot x => amaxSlot slot x) t s
def execStatClip (t : Tid) (s : State) : Res := statOp 0x8B true (fun k d e slot x => clipSlot k d.tfmt e slot x) t s

end Sys2Proof.Machine
end

