-- ==== Sys2Proof/Machine/Tensors.lean ====
section
/-! DEFINITION. What the device stores with scale entries and sequence tags: the tensors of models, key/value blocks and fine lists
(R111 to R117, R122, R134, R135), and integer products through lookup tables (R119, R131, R133). -/
namespace Sys2Proof.Machine

/-! ## Fine lists (R117, R134, R135) -/

/-- A scale entry of a fine list: SCALE 1.0, ZP 0 and its TAG (R115, R117). -/
def listScale (tag : Nat) : BitVec 32 := BitVec.ofNat 32 (tag % 256 * 2 ^ 24 + 0x3C00)

/-- Tag of code block `j` of a list (R135). -/
def FineList.tagOf (f : FineList) (j : Nat) : Nat := (j + f.gen) % 256

/-- Append one entry beyond the committed length; a new code block brings its tag and scale entry, a full chain the segment `g`. -/
def FineList.append (f : FineList) (slots : Nat) (g : Seg) (e : Entry) : FineList :=
  let n := f.entries.length
  let t := f.tagOf (n / 256)
  { f with
    entries := f.entries ++ [e]
    segs := if f.segs.length * slots ≤ n then f.segs ++ [g] else f.segs
    scales := if n % 256 = 0 then f.scales ++ [listScale t] else f.scales
    tags := if n % 256 = 0 then f.tags ++ [BitVec.ofNat 8 t] else f.tags }

/-- A list rewritten whole with these entries: generation, tags, scale entries and chain are new (R70, R134). -/
def FineList.rewrite (f : FineList) (entries : List Entry) (segs : List Seg) : FineList :=
  let g : FineList := { f with gen := (f.gen + 1) % 256 }
  let blocks := List.range (ceilDiv entries.length 256)
  { g with entries := entries, committed := entries.length, segs := segs, scales := blocks.map fun j => listScale (g.tagOf j),
           tags := blocks.map fun j => BitVec.ofNat 8 (g.tagOf j) }

/-! ## Quantised tensors -/

/-- Bits of an element, by format. -/
def qWidth (fmt : Nat) : Nat := [4, 8, 8, 8, 16].getD fmt 8

/-- Code blocks of a row. -/
def perRow (cols : Nat) : Nat := cols / 256

/-- Tag of code block `k` (R135). -/
def tagOf (chan : Bool) (cols gen k : Nat) : Nat := ((if chan then k / Nat.max 1 (perRow cols) else k) + gen) % 256

/-- Code block that scale entry `i` serves first: with channel granularity the first one of its row (R116). -/
def servedBlock (chan : Bool) (cols i : Nat) : Nat := if chan then i * perRow cols else i / 8

/-- A scale entry with its TAG replaced; the learned scale and zero point stay (R115, R116). -/
def retag (e : BitVec 32) (tag : Nat) : BitVec 32 := BitVec.ofNat 32 (setField e.toNat 31 24 tag)

/-- Write a tensor whole under generation `gen` (R134, R135). -/
def QTensor.written (t : QTensor) (gen : Nat) : QTensor :=
  if t.scales.isEmpty then { t with gen := gen % 256 }
  else
    { t with
      gen := gen % 256
      scales := t.scales.zipIdx.map fun p => retag p.1 (tagOf t.chan t.cols gen (servedBlock t.chan t.cols p.2))
      tags := (List.range (t.rows * perRow t.cols)).map fun k => BitVec.ofNat 8 (tagOf t.chan t.cols gen k) }

/-- The scale entry of element `j` of row `r` (R116). -/
def QTensor.entry (t : QTensor) (r j : Nat) : Nat := (t.scales.getD (if t.chan then r else r * (t.cols / 32) + j / 32) 0).toNat

/-- The first code block whose tag differs from the TAG of a scale entry that serves it (R136). -/
def QTensor.skew (t : QTensor) : Option Nat :=
  (List.range t.tags.length).find? fun k =>
    let used := if t.chan then [t.entry (k / Nat.max 1 (perRow t.cols)) 0]
      else (List.range 8).map fun i => (t.scales.getD (8 * k + i) 0).toNat
    used.any fun e => entTag e != (t.tags.getD k 0).toNat

/-- Stack bytes of a tensor: codes, position fields, tags and scale entries. -/
def QTensor.bytes (t : QTensor) : Nat := t.codes.length + t.positions.length + t.tags.length + 4 * t.scales.length

/-- A position field of R122: the first position is the lower one. -/
def positionOk (n : Nat) : Bool := decide (n % 4 < n / 4 % 4)

/-- Position fields of a row: half a byte for every four elements. -/
def QTensor.position (t : QTensor) (r i : Nat) : Nat :=
  let k := r * (t.cols / 4) + i
  field (t.positions.getD (k / 2) 0).toNat (4 * (k % 2) + 3) (4 * (k % 2))

/-- Raw bits of stored element `i` of row `r`. -/
def QTensor.stored (t : QTensor) (r i : Nat) : Nat :=
  let w := qWidth t.fmt
  let n := r * (if t.sparse then t.cols / 2 else t.cols) + i
  if w = 4 then field (leAt t.codes (n / 2) 1) (4 * (n % 2) + 3) (4 * (n % 2)) else leAt t.codes (n * (w / 8)) (w / 8)

/-- Raw bits of dense element `j` of row `r`: none for one that 2:4 sparsity leaves out (R122). -/
def QTensor.raw (t : QTensor) (r j : Nat) : Option Nat :=
  if !t.sparse then some (t.stored r j)
  else
    let p := t.position r (j / 4)
    if j % 4 = p % 4 then some (t.stored r (j / 4 * 2)) else if j % 4 = p / 4 % 4 then some (t.stored r (j / 4 * 2 + 1)) else none

/-- A code as an integer. -/
def intCode (fmt raw : Nat) : Int := toSigned (qWidth fmt) raw

/-! ## Images (R114, R122, R142) -/

/-- A tensor as its image gives it, before it is written. -/
def ofImage (t : Config.TensorImage) : QTensor :=
  { fmt := t.fmt, rows := t.rows, cols := t.cols, chan := t.chan, sparse := t.sparse, codes := t.codes, positions := t.positions,
    scales := t.scales, gen := 0, tags := [] }

/-- A tensor that R111, R113 to R116, R122 and R142 allow. -/
def tensorOk (t : Config.TensorImage) : Bool :=
  let w := qWidth t.fmt
  let n := t.rows * t.cols
  decide (t.fmt ≤ 4 ∧ 1 ≤ t.rows ∧ 1 ≤ t.cols ∧ t.codes.length * 8 = (if t.sparse then n / 2 else n) * w) &&
    (if t.fmt = 4 then !t.sparse && t.scales.isEmpty && t.positions.isEmpty
     else t.cols % 256 == 0 && decide (t.positions.length = if t.sparse then n / 8 else 0) &&
      decide (t.scales.length = if t.chan then t.rows else n / 32) &&
      t.scales.all (fun e => zpOk (if t.fmt = 0 then 1 else if t.fmt = 1 then 2 else 10) e.toNat) &&
      t.positions.all fun b => positionOk (b.toNat % 16) && positionOk (b.toNat / 16))

/-- Bytes of an image's tensors that satisfy `p`. -/
def imageBytes (m : Config.ModelImage) (p : Config.TensorImage → Bool) : Nat :=
  sumBy (fun t => ((ofImage t).written 0).bytes) (m.tensors.filter p)

/-- Bytes of the dense weights and attention projections, and of the expert weights (R234, R237). -/
def denseBytes (m : Config.ModelImage) : Nat := imageBytes m fun t => t.expert.isNone
def expertBytes (m : Config.ModelImage) : Nat := imageBytes m fun t => t.expert.isSome

/-- Weights of one expert of one layer. -/
def oneExpert (m : Config.ModelImage) (layer e : Nat) : Nat := imageBytes m fun t => t.expert == some (layer, e)

/-! ## Quantising on the device (R123 to R125) -/

/-- A group of FP32 values quantised: scale, zero point, codes. -/
structure QGroup where
  scale : Nat
  zp : Int
  codes : List Int
  deriving DecidableEq, Repr

def quantGroup (xs : List Nat) (qmin qmax : Int) : QGroup :=
  let (s, z) := calibrate xs qmin qmax
  ⟨s, z, xs.map fun x => (quantise x s z qmin qmax).1⟩

/-- Two int4 codes to a byte, the lower index in bits 3:0 (R107). -/
def packInt4 : List Int → List Byte
  | a :: b :: r => BitVec.ofNat 8 (ofSigned 4 a + 16 * ofSigned 4 b) :: packInt4 r
  | [a] => [BitVec.ofNat 8 (ofSigned 4 a)]
  | [] => []

/-- The scale entry of a group, its TAG still to be written. -/
def QGroup.entry (g : QGroup) : BitVec 32 := BitVec.ofNat 32 (ofSigned 8 g.zp * 65536 + g.scale)

/-! ## Products through lookup tables (R119, R131, R133) -/

/-- Row `j` of an integer-product or attention table: (a_j − z_a) · (i − z_w) for every raw code i, 16 of an int4 and 256 of an int8
operand. Every entry fits int16 for int4 codes. -/
def intTable (fmt : Nat) (a za zw : Int) : List Int := (List.range (2 ^ qWidth fmt)).map fun i => (a - za) * (intCode fmt i - zw)

/-- The exact int32 partial of a run: the sum of the entries that the codes select. Elements left out by sparsity add nothing. -/
def tablePartial (fmt : Nat) (a : List Int) (za zw : Int) (raws : List (Option Nat)) : Int :=
  (a.zip raws).foldl (fun (n : Int) p => match p.2 with
    | some c => n + (intTable fmt p.1 za zw).getD c 0
    | none => n) 0

/-- The runs of a reduction that share one scale of the weights, of at most 8,192 elements (R119). -/
def QTensor.runs (t : QTensor) : List (Nat × Nat) :=
  let n := if t.chan then 8192 else 32
  (List.range (ceilDiv t.cols n)).map fun i => (i * n, Nat.min n (t.cols - i * n))

/-- The FP32 product of row `r` of an integer weight tensor with activations quantised per token (R119, R133); the sum's order is free. -/
def QTensor.product (t : QTensor) (k r : Nat) (a : QGroup) : Nat :=
  fF32.sum k (t.runs.map fun u =>
    let e := t.entry r u.1
    let raws := (List.range u.2).map fun j => t.raw r (u.1 + j)
    fF32.val (fF32.ofVal (scaledPart (tablePartial t.fmt ((a.codes.drop u.1).take u.2) a.zp (entryZp e) raws) a.scale (entryScale e))))

end Sys2Proof.Machine
end

