-- ==== Sys2Proof/Machine/Tokens.lean ====
section
/-! DEFINITION. Bytes and tokens on either side of the sampler: tokenising (R267), grammar masks (R274, R277), sampling (R259,
R277, R278) and stop strings (R284, R286). -/
namespace Sys2Proof.Machine

/-! ## Tokenising (R267, R271) -/

/-- A piece boundary falls between two adjacent bytes. -/
def boundaryAt (m : Config.ModelImage) (a b : Byte) : Bool :=
  m.boundary.getD (16 * m.byteClass.getD a.toNat 0 + m.byteClass.getD b.toNat 0) false

/-- The pieces of a text. -/
def pieces (m : Config.ModelImage) : List Byte → List (List Byte)
  | [] => []
  | a :: r => match pieces m r with
    | (b :: p) :: ps => if boundaryAt m a b then [a] :: (b :: p) :: ps else (a :: b :: p) :: ps
    | ps => [a] :: ps

/-- The one-byte token of a byte. -/
def byteToken (m : Config.ModelImage) (b : Byte) : Nat := (posOf (fun t : Config.VocabTok => t.bytes == [b]) m.vocab 0).getD 0

/-- The leftmost adjacent pair (a, b) merged into c. -/
def mergePair (a b c : Nat) : List Nat → Option (List Nat)
  | x :: y :: r => if x = a ∧ y = b then some (c :: r) else (mergePair a b c (y :: r)).map (x :: ·)
  | _ => none

/-- One merge: the pair of lowest rank, leftmost among equal ranks. -/
def mergeOnce (m : Config.ModelImage) (ts : List Nat) : Option (List Nat) := m.merges.findSome? fun g => mergePair g.1 g.2.1 g.2.2 ts

/-- Merge until no adjacent pair appears in the table; each merge shortens the sequence by one. -/
def mergeAll (m : Config.ModelImage) : Nat → List Nat → List Nat
  | 0, ts => ts
  | n + 1, ts => match mergeOnce m ts with
    | none => ts
    | some r => mergeAll m n r

def tokenise (m : Config.ModelImage) (text : List Byte) : List Nat :=
  (pieces m text).flatMap fun p => mergeAll m p.length (p.map (byteToken m))

/-- The tokens of a pair of texts, cut to the input length from the end of the candidate text first (R241). -/
def pairTokens (m : Config.ModelImage) (query cand : List Byte) : List Nat :=
  let (a, b, z) := m.pair
  let room := m.inputLen - (a.length + b.length + z.length)
  let q := (tokenise m query).take room
  a ++ q ++ b ++ (tokenise m cand).take (room - q.length) ++ z

def startToken (m : Config.ModelImage) : List Nat := (posOf (·.isStart) m.vocab 0).toList
def endToken (m : Config.ModelImage) : List Nat := (posOf (·.isEnd) m.vocab 0).toList

/-- Bytes that a token writes (R269). -/
def tokenBytes (m : Config.ModelImage) (t : Nat) : List Byte := (m.vocab[t]?).elim [] (·.bytes)

/-! ## Grammars (R274, R275) -/

def gramAt (g : Config.GramImage) (n : Nat) : Config.GramState := g.states.getD n ⟨false, []⟩

/-- The entry of a state that covers a token. -/
def gramArc (st : Config.GramState) (t : Nat) : Option Config.GramArc := st.arcs.find? fun a => decide (a.lo ≤ t ∧ t ≤ a.hi)

/-- The tokens admitted in a step (R277), in ascending order. -/
def admitted (m : Config.ModelImage) (g : Option Config.GramState) : List Nat :=
  (m.vocab.zipIdx.filter fun t => !t.1.noSample && g.all fun st => (gramArc st t.2).isSome).map (·.2)

/-! ## Sampling -/

/-- The first element that `better` prefers to every one before it. -/
def bestOf (better : Nat → Nat → Bool) : List Nat → Nat → Nat
  | [], b => b
  | a :: r, b => bestOf better r (if better a b then a else b)

/-- A logit as the sampler takes it: NaN counts as −∞. -/
def logitVal (l : List F32) (t : Nat) : FVal :=
  match fF32.val (l.getD t 0).toNat with
  | .nan => .inf true
  | v => v

/-- Greedy choice among the admitted tokens, ties to the lower ID; the lowest ID where all are −∞. -/
def greedy (l : List F32) (adm : List Nat) : Nat := bestOf (fun a b => ltV (logitVal l b) (logitVal l a)) adm (adm.headD 0)

/-- The function rnd of R278. -/
def xorshift (x : BitVec 32) : BitVec 32 :=
  let a := x ^^^ (x <<< 13)
  let b := a ^^^ (a >>> 17)
  b ^^^ (b <<< 5)

def rnd (seed pos : Nat) : Nat := (xorshift (xorshift (BitVec.ofNat 32 seed ^^^ BitVec.ofNat 32 (pos * 0x9E3779B9)))).toNat

/-- r as an FP32 value. -/
def rndF (seed pos : Nat) : Nat := fF32.roundQ false (rnd seed pos / 256) (2 ^ 24)

/-- The shortest leading run whose summed probability is at least TOPP. -/
def leadingRun (topp : Nat) : Nat → List (Nat × Nat) → List (Nat × Nat)
  | _, [] => []
  | acc, p :: r =>
    let s := fF32.add acc p.2
    if ltV (fF32.val s) (fF32.val topp) then p :: leadingRun topp s r else [p]

/-- The first token of the run at which the running sum exceeds r, else the last. -/
def pickRun (r : Nat) : Nat → Nat → List (Nat × Nat) → Nat
  | _, last, [] => last
  | acc, _, p :: q =>
    let s := fF32.add acc p.2
    if ltV (fF32.val r) (fF32.val s) then p.1 else pickRun r s p.1 q

/-- Temperature and top-p sampling (R278). -/
def sampleTopP (temp topp seed pos : Nat) (l : List F32) (adm : List Nat) : Nat :=
  if adm.all fun t => logitVal l t == .inf true then adm.headD 0
  else
    let probs := Config.softmax (BitVec.ofNat 32 temp) (adm.map fun t => if fF32.isNan (l.getD t 0).toNat then 0xFF800000#32 else l.getD t 0)
    let order := sortBy (fun a b : Nat × Nat => ltV (fF32.val b.2) (fF32.val a.2)) (adm.zipIdx.map fun t => (t.1, (probs.getD t.2 0).toNat))
    let kept := leadingRun topp 0 order
    let total := kept.foldl (fun a p => fF32.add a p.2) 0
    pickRun (rndF seed pos) 0 (adm.headD 0) (kept.map fun p => (p.1, fF32.div p.2 total))

/-! ## Stop strings -/

/-- `p` stands at the front of `l`. -/
def prefixAt (p l : List Byte) : Bool := l.take p.length == p

/-- Occurrences of stop strings that end within the bytes of G from `old` on: (start, table index). -/
def stopHits (stops : List (List Byte)) (g : List Byte) (old : Nat) : List (Nat × Nat) :=
  stops.zipIdx.flatMap fun p => ((List.range g.length).filter fun i => prefixAt p.1 (g.drop i) && decide (old < i + p.1.length)).map fun i => (i, p.2)

/-- The occurrence that starts earliest, the lowest index among equals (R284). -/
def stopHit (stops : List (List Byte)) (g : List Byte) (old : Nat) : Option (Nat × Nat) :=
  (sortBy (fun a b : Nat × Nat => decide (a.1 < b.1 ∨ (a.1 = b.1 ∧ a.2 < b.2))) (stopHits stops g old)).head?

/-- Length of the longest suffix of G that is a proper prefix of some stop string (R286). -/
def heldBack (stops : List (List Byte)) (g : List Byte) : Nat :=
  ((List.range 64).filter fun n => decide (n ≤ g.length) && stops.any fun p => decide (n < p.length) && prefixAt (g.drop (g.length - n)) p).foldl Nat.max 0

/-- Stop-string table: none where a LEN or a reserved field breaks R283. -/
def stopTable (n : Nat) (b : List Byte) : Option (List (List Byte)) :=
  (List.range n).foldr (fun i acc =>
    let e := (b.drop (72 * i)).take 72
    let len := leAt e 0 4
    if 1 ≤ len ∧ len ≤ 64 ∧ leAt e 4 4 = 0 then acc.map ((e.drop 8).take len :: ·) else none) (some [])

end Sys2Proof.Machine
end

