-- ==== Sys2Proof/Machine/Search.lean ====
section
/-! DEFINITION. The phases of a search on the vectors that a node holds, and the result that a search or rerank delivers
(R43 to R60, R98). -/
namespace Sys2Proof.Machine

/-! ## Collections -/

/-- Node field of the collection's global IDs (R32, R509). -/
def State.collNode (s : State) (c : Coll) : Nat := if c.pod.isSome then s.nodeId / 256 * 256 else s.nodeId

def State.gidOf (s : State) (c : Coll) (lid : Nat) : Nat := s.collNode c * 2 ^ 44 + lid

/-- The local ID that a global ID names on this collection, none for another node's or an ID with bits 43:40 set. -/
def State.lidOf (s : State) (c : Coll) (gid : Nat) : Option Nat :=
  if gid / 2 ^ 44 = s.collNode c ∧ gid % 2 ^ 44 < 2 ^ 40 then some (gid % 2 ^ 44) else none

/-- Committed entries of a local ID (R63). -/
def Coll.entriesOf (c : Coll) (lid : Nat) : List Entry :=
  c.lists.flatMap fun l => (l.2.entries.take l.2.committed).filter fun e => e.lid == lid

/-- Those that are not tombstoned. -/
def Coll.liveEntries (c : Coll) (lid : Nat) : List Entry := (c.entriesOf lid).filter fun e => !e.tomb

def Coll.isLive (c : Coll) (lid : Nat) : Bool := !(c.liveEntries lid).isEmpty

/-! ## Phases 1 to 4 -/

/-- Free-value numbers of a search: one region for each fine list and centroid. -/
def kCoarse (k i : Nat) : Nat := k + 2 ^ 40 + i * 2 ^ 14
def kFine (k l : Nat) : Nat := k + 2 ^ 60 + l * 2 ^ 14
def kList (k l : Nat) : Nat := k + 2 ^ 80 + l * 2 ^ 40

/-- The NCOARSE nearest coarse centroids (R44, R689). -/
def Coll.coarseNear (c : Coll) (k : Nat) (q : List Nat) (n : Nat) : List Nat :=
  (rankBy (fun i => centroidDist c.metric (kCoarse k i) q (c.coarse.getD i [])) (List.range c.ncent)).take n

/-- The NLIST nearest fine lists under the kept coarse centroids, or all of them (R45). -/
def Coll.fineNear (c : Coll) (k : Nat) (q : List Nat) (ncoarse nlist : Nat) : List Nat :=
  let ls := (c.coarseNear k q ncoarse).flatMap fun i => (List.range c.perCoarse).map fun j => i * c.perCoarse + j
  (rankBy (fun l => centroidDist c.metric (kFine k l) q (c.fine.getD l [])) ls).take nlist

/-- The segment of a list that wells scan: the list's home is stack memory, the well of the segment's domain is in service, its
committed slots take 16 KiB, and SCAN_CLUSTER is 0 (R148, R165). -/
def State.byWell (s : State) (c : Coll) (l k : Nat) : Bool :=
  s.fld oWellcCtrl 8 8 == 0 && s.resident (.fineList c.handle l) &&
    ((c.list l).segs[k]?).any (fun g => (s.wellsIn g.stack).contains g.well) &&
    decide (16384 ≤ c.segUsed l k * entryBytes c.sub c.attrb)

/-- Segments of a list that wells scan. -/
def State.wellSegs (s : State) (c : Coll) (l : Nat) : List Seg :=
  (List.range (c.list l).segs.length).filterMap fun k => if s.byWell c l k then (c.list l).segs[k]? else none

/-- What a search sees of its updates in flight: `miss e` that the completion of an update was not posted at its admission. -/
abbrev Miss := Nat → Bool

/-- The search sees the entry: its insert, unless a draw hides one that it may miss, and its delete likewise, each entry for itself
(R74 to R76). -/
def Entry.seen (e : Entry) (k : Nat) (miss : Miss) : Bool :=
  !(miss e.ins && Config.freeNat k % 2 == 0) && (!e.tomb || (miss e.del && Config.freeNat (k + 1) % 2 == 0))

/-- Entries of a list that a scan takes: those below the committed length, in slot order, that it sees (R44, R75, R77). -/
def Coll.scanned (c : Coll) (k : Nat) (miss : Miss) (l : Nat) : List (Entry × Nat) :=
  (((c.list l).entries.take (c.list l).committed).zipIdx).filter fun p => p.1.seen (kList k l + 2 ^ 39 + 2 * p.2) miss

/-- Scan one list: the entries that pass as (distance, global ID), and the entries before filtering. Wells use u8 tables, and the
device chooses the table for what clusters scan (R131, R132); under IP and COS one table serves every list of the query. -/
def State.scanOne (s : State) (k : Nat) (miss : Miss) (c : Coll) (q : List Nat) (terms : List Nat) (anyTerm : Bool) (l : Nat) :
    List (F32 × Nat) × Nat :=
  let f := c.fine.getD l []
  let d := subDists c.metric (if c.metric = mL2 then kList k l + 2 ^ 30 else k + 2 ^ 38) c.sub c.book q f
  let const := constTerm c.metric (kList k l + 2 ^ 20) q f
  let u8 := Config.freeNat (if c.metric = mL2 then kList k l else k + 2 ^ 39) % 2 == 0
  let live := c.scanned k miss l
  let hits := live.filter fun p => passes terms anyTerm p.1.attr
  (hits.map fun p => (BitVec.ofNat 32 (scanDist (u8 || s.byWell c l (p.2 / segSlots c.sub c.attrb)) (kList k l + 2 ^ 31 + p.2 * 2 ^ 13) d const
    p.1.codes), s.gidOf c p.1.lid), live.length)

/-- A code block of the list whose tag differs from the TAG of its scale entry, among those with committed slots (R135, R136). -/
def Coll.listSkew (c : Coll) (l : Nat) : Option Nat :=
  let f := c.list l
  (List.range (ceilDiv f.committed 256)).find? fun j => decide ((f.tags.getD j 0).toNat ≠ field (f.scales.getD j 0).toNat 31 24)

/-- What the rounds of a search have found. -/
structure Found where
  probed : List Nat
  hits : List (F32 × Nat)
  scanned : Nat
  widened : Bool
  fallback : Bool
  deriving DecidableEq, Repr

/-- One round: the lists that it adds are scanned once (R47). -/
def State.searchRound (s : State) (k : Nat) (miss : Miss) (c : Coll) (q : List Nat) (b : QueryBody) (lists : List Nat) (f : Found) : Found :=
  let new := lists.filter fun l => !f.probed.contains l
  let r := new.map (s.scanOne k miss c q b.terms b.anyTerm)
  { f with probed := f.probed ++ new, scanned := f.scanned + sumBy (·.2) r,
           hits := pairUnion ktF32 false true (f.hits ++ r.flatMap (·.1)) }

/-- R47: further rounds at two and four times NCOARSE and NLIST while fewer than K entries pass. -/
def State.widenRounds (s : State) (k : Nat) (miss : Miss) (c : Coll) (q : List Nat) (b : QueryBody) : List Nat → Found → Found
  | [], f => f
  | m :: r, f =>
    if b.widen && !b.terms.isEmpty && decide (f.hits.length < b.k) then
      State.widenRounds s k miss c q b r
        { s.searchRound k miss c q b (c.fineNear k q (Nat.min (m * b.ncoarse) c.ncent) (Nat.min (m * b.nlist) c.nlists)) f with widened := true }
    else f

/-! ## Phase 5 (R48, R49, R241) -/

/-- Bytes of a record's vector. -/
def Coll.vecBytes (c : Coll) : Nat := c.dim * elemBytes (c.recfmt - 1)

/-- A vector's record, none where it has none or it cannot be read. -/
def State.recordOf (s : State) (c : Coll) (lid : Nat) : Option Rec :=
  match (c.entriesOf lid).find? fun e => e.loc != noLoc with
  | none => none
  | some e => s.recordAt c lid e.loc

/-- Location of a record that its entry names and that cannot be read. -/
def State.unreadable (s : State) (c : Coll) (lid : Nat) : Option Word :=
  match (c.entriesOf lid).find? fun e => e.loc != noLoc with
  | none => none
  | some e => if (s.recordAt c lid e.loc).isSome then none else some e.loc

/-- Distance of one candidate after phase 5, none where it keeps the one it has. -/
def State.rescore (s : State) (k : Nat) (c : Coll) (mode : Nat) (q : List Nat) (model : Nat) (text : List Byte) (lid : Nat) : Option F32 :=
  (s.recordOf c lid).bind fun r =>
    let data := r.bytes.drop 16
    if mode = 1 then
      some (BitVec.ofNat 32 (recordDist c.metric k q (readElems (c.recfmt - 1) c.dim (data.take c.vecBytes))))
    else ((s.models.find? fun m => m.handle == model).map fun m =>
      Config.rerankScore k m.raw (pairTokens m.img text (data.drop c.vecBytes))).map fun x => BitVec.ofNat 32 (neg32 x.toNat)

/-- Rerank the RR_N best candidates. -/
def State.rerankHits (s : State) (k : Nat) (c : Coll) (q : List Nat) (b : QueryBody) (f : Found) : Found :=
  if b.rrMode = 0 then f
  else
    let cand := f.hits.take b.rrN
    let new := cand.zipIdx.map fun p => (p.1, s.rescore (k + p.2 * 2 ^ 16) c b.rrMode q b.model b.text (p.1.2 % 2 ^ 44))
    { f with hits := pairUnion ktF32 false true (new.map fun p => (p.2.getD p.1.1, p.1.2)), fallback := new.any fun p => p.2.isNone }

/-- Phases 3 to 5 on the vectors this node holds, from the lists chosen in phases 1 and 2. -/
def State.localSearch (s : State) (miss : Miss) (c : Coll) (b : QueryBody) : Found :=
  let q := forMetric c.metric (b.elems.map (·.toNat))
  let k := s.free
  let f := s.widenRounds k miss c q b [2, 4] (s.searchRound k miss c q b b.lists ⟨[], [], 0, false, false⟩)
  s.rerankHits (k + 2 ^ 90) c q b f

/-- Lists that phases 1 and 2 choose. -/
def State.chooseLists (s : State) (c : Coll) (b : QueryBody) : List Nat :=
  c.fineNear s.free (forMetric c.metric (b.elems.map (·.toNat))) b.ncoarse b.nlist

/-- What a local search leaves behind: heat, drawn free values and records of unreadable candidates. -/
def State.afterSearch (s : State) (c : Coll) (b : QueryBody) (f : Found) : State :=
  let read := (List.range 3).map (UnitId.centroids c.handle) ++ f.probed.map (UnitId.fineList c.handle)
  let s0 := read.foldl State.heatUnit (s.drew (2 ^ 128))
  let s1 := s0.varelmWells (f.probed.flatMap (s.wellSegs c))
  if b.rrMode = 0 then s1
  else (f.hits.filterMap fun h => (s.unreadable c (h.2 % 2 ^ 44)).map fun w => (w, h.2 % 2 ^ 44)).foldl
    (fun s p => s.logEvent evFlashMismatch c.tenant [p.1.toNat, c.index, p.2]) s1

/-! ## The result (R50 to R57) -/

structure Result where
  k : Nat
  dev : Bool
  rbuf : Nat
  rlen : Nat
  hits : List (F32 × Nat)
  scanned : Nat
  probed : Nat
  total : Option Nat
  filtered : Bool
  widened : Bool
  reranked : Bool
  fallback : Bool
  skew : Bool
  epoch : Nat
  deriving DecidableEq, Repr

def everyMatch : Nat := 0xFFFFFFFF

/-- Entries that the result buffer holds (R56). -/
def bufEntries (rlen : Nat) : Nat := if rlen < 32 then 0 else (rlen - 32) / 12

def Result.valid (r : Result) : List (F32 × Nat) := if r.k = everyMatch then r.hits else r.hits.take r.k

def Result.truncated (r : Result) : Bool :=
  decide (r.rlen < 32) ||
    (if r.k = everyMatch then decide (bufEntries r.rlen < r.valid.length) else decide (r.rlen < 32 + 12 * r.k))

/-- Rows 7 to 11 of R57. -/
def Result.status (r : Result) : Nat :=
  if r.skew then stScaleSkew
  else if r.truncated then stTruncated
  else if r.k ≠ everyMatch ∧ r.valid.length < r.k then (if r.filtered && decide (r.k ≤ r.scanned) then stFilterShort else stShort)
  else stOk

def Result.totalOf (r : Result) : Nat := if r.skew then 0 else r.total.getD r.valid.length

/-- Slots written after the header: valid entries with the key bits of R83, then padding up to K. -/
def Result.slots (r : Result) : List (F32 × Nat) :=
  if r.skew then []
  else
    let pad := if r.k = everyMatch then [] else List.replicate (r.k - r.valid.length) (0x7F800000#32, 0xFFFFFFFFFFFFFFFF)
    (r.valid.map (fun p => (runKey ktF32 p.1, p.2)) ++ pad).take (bufEntries r.rlen)

/-- Header and entries as bytes. -/
def Result.bytes (r : Result) : List Byte :=
  let n := if r.skew then 0 else Nat.min r.valid.length (bufEntries r.rlen)
  toLe 4 (b2n r.fallback * 2 ^ 19 + b2n r.reranked * 2 ^ 18 + b2n r.widened * 2 ^ 17 + b2n r.filtered * 2 ^ 16 + r.status) ++ toLe 4 n ++
    toLe 8 r.totalOf ++ toLe 4 r.k ++ toLe 4 r.probed ++ toLe 4 r.epoch ++ toLe 4 0 ++
    r.slots.flatMap fun p => toLe 8 p.2 ++ toLe 4 p.1.toNat

/-- Write a result and end its command. -/
def State.deliver (s : State) (x : Cmd) (r : Result) (pos : Nat) : State :=
  if r.rlen < 32 then s.finish x.id r.status r.totalOf pos
  else match s.spaceWr x.fn r.dev r.rbuf r.bytes with
    | none => s.outputFail x r.dev
    | some s1 => s1.finish x.id r.status r.totalOf pos

/-! ## The argument block of `vr.search` (R40 to R42) -/

def Cmd.sFlag (x : Cmd) (hi lo : Nat) : Nat := x.af 0x14 hi lo
def Cmd.sTerms (x : Cmd) : List Nat := (List.range (x.sFlag 7 5)).map fun i => x.a (0x30 + 8 * i) 8

/-- An address of a text, which may have any alignment (R35, R316). -/
def textOk (dev : Bool) (a : Nat) : Bool := dev || decide (a < 2 ^ 63)

def Cmd.searchOk (x : Cmd) (c : Coll) : Bool :=
  let k := x.a 8 4
  let n := x.a 0x2C 2
  let rr := x.sFlag 2 1
  decide (1 ≤ k ∧ (k ≤ 65536 ∨ k = everyMatch)) && decide (1 ≤ x.a 0xC 4 ∧ x.a 0xC 4 ≤ c.nlists ∧ 1 ≤ x.a 0x10 4 ∧ x.a 0x10 4 ≤ c.ncent) &&
    x.sFlag 31 12 == 0 && decide (x.sFlag 7 5 ≤ 4 ∧ x.sFlag 4 3 ≤ 2 ∧ rr ≤ 2) &&
    (if rr = 0 then n == 0 else decide (k ≤ 1024 ∧ k ≤ n ∧ n ≤ 1024)) &&
    (k != everyMatch || (rr == 0 && x.sFlag 0 0 == 0)) && x.sTerms.all (termOk c.attrb) &&
    addrOk (bit (x.a 0x14 4) 9) (x.a 0x18 8) && addrOk (bit (x.a 0x14 4) 10) (x.a 0x20 8) &&
    (rr != 2 || (textOk (x.sFlag 11 11 == 1) (x.a 0x58 8) && decide (1 ≤ x.a 0x60 4 ∧ x.a 0x60 4 ≤ 65536))) && cleanBut x.args [(0, 0x2E), (0x30, 0x34)]

/-- The query of a `vr.search` block, but for its lists. -/
def Cmd.queryBody (x : Cmd) (elems : List Nat) (text : List Byte) : QueryBody :=
  { qid := 0, src := 0, epoch := 0, tenant := x.fn, coll := x.a 0 8, cls := x.cls, k := x.a 8 4, e := bufEntries (x.a 0x28 4),
    nlist := x.a 0xC 4, ncoarse := x.a 0x10 4, lists := [], elems := elems.map (BitVec.ofNat 32), terms := x.sTerms,
    anyTerm := x.sFlag 8 8 == 1, widen := x.sFlag 0 0 == 1, rrMode := x.sFlag 2 1, rrN := x.a 0x2C 2, model := x.a 0x50 8, text := text }

/-- The result of a search that one node ran. -/
def Cmd.resultOf (x : Cmd) (b : QueryBody) (f : Found) (epoch : Nat) : Result :=
  { k := b.k, dev := bit (x.a 0x14 4) 10, rbuf := x.a 0x20 8, rlen := x.a 0x28 4, hits := f.hits, scanned := f.scanned,
    probed := f.probed.length, total := none, filtered := !b.terms.isEmpty, widened := f.widened, reranked := b.rrMode != 0,
    fallback := f.fallback, skew := false, epoch := epoch }

/-- The result of a search in which a mismatch was repeated (R57): what it had probed by then is a free value. -/
def Cmd.skewResult (x : Cmd) (s : State) : Result :=
  let b := x.queryBody [] []
  { x.resultOf b { probed := [], hits := [], scanned := 0, widened := b.widen && s.draw 0 % 2 == 1, fallback := false }
      (if s.role = 0 then 0 else s.fld oFabEpoch 31 0) with probed := s.draw 1 % 2 ^ 32, skew := true }

/-- Progress of a search list by list (R55, R693). -/
def State.searchProgress (s : State) (x : Cmd) (k : Nat) (probed : List Nat) : State :=
  probed.zipIdx.foldl (fun s p => s.raiseProgress x.id (10000 * (p.2 + 1) / Nat.max 1 probed.length)
    (if k = everyMatch then p.1 else p.2 + 1)) s

/-- A mismatch that the lists scanned hold in stored tags: met in the first run and in the reissue (R136 to R138). -/
def State.twiceSkewed (s : State) (t cmd : Nat) (c : Coll) (f : Found) : Option State :=
  (f.probed.findSome? c.listSkew).map fun b => (s.noteSkew t cmd c.handle b false).noteSkew t cmd c.handle b true

/-- A search on a collection of this node. -/
def State.searchHere (s : State) (x : Cmd) (c : Coll) (b0 : QueryBody) : State :=
  let b := { b0 with lists := s.chooseLists c b0 }
  let f := s.localSearch x.mayMiss c b
  match s.twiceSkewed x.fn x.id c f with
  | some s1 => (s1.drew 2).deliver x (x.skewResult s) x.pos
  | none =>
  let s1 := (s.afterSearch c b f).searchProgress x b.k f.probed
  s1.deliver x (x.resultOf b f (if s.role = 0 then 0 else s.fld oFabEpoch 31 0))
    (if b.k = everyMatch then f.probed.getLastD 0 else f.probed.length)

/-! ## `vr.rerank` (R59, R60) -/

def Cmd.rerankOk (x : Cmd) : Bool :=
  let m := x.af 0x10 1 0
  decide (1 ≤ x.a 8 4 ∧ x.a 8 4 ≤ 1024 ∧ 1 ≤ x.a 0xC 4 ∧ x.a 0xC 4 ≤ x.a 8 4) && x.af 0x10 31 8 == 0 && decide (x.af 0x10 3 2 ≤ 2) &&
    (m == 1 || m == 2) && (m != 1 || addrOk (bit (x.a 0x10 4) 4) (x.a 0x18 8)) && addrOk (bit (x.a 0x10 4) 5) (x.a 0x20 8) &&
    addrOk (bit (x.a 0x10 4) 6) (x.a 0x28 8) && (m != 2 || (textOk (x.af 0x10 7 7 == 1) (x.a 0x38 8) && decide (1 ≤ x.a 0x40 4 ∧ x.a 0x40 4 ≤ 65536))) &&
    cleanBut x.args [(0, 0x44)]

/-- The result of a rerank in which a mismatch was repeated (R57). -/
def Cmd.rerankSkew (x : Cmd) (s : State) : Result :=
  { k := x.a 0xC 4, dev := bit (x.a 0x10 4) 6, rbuf := x.a 0x28 8, rlen := x.a 0x14 4, hits := [], scanned := 0, probed := 0, total := none,
    filtered := false, widened := false, reranked := true, fallback := false, skew := true,
    epoch := if s.role = 0 then 0 else s.fld oFabEpoch 31 0 }

/-- The vector's bucket lies on another node of the pod under the map in force (R509, R510). -/
def State.heldElsewhere (s : State) (c : Coll) (lid : Nat) : Bool :=
  c.pod.isSome && s.fab.routeShards.any fun e => e.coll == c.handle && e.bucket == lid % 4096 && e.node != s.nodeId

/-- Candidates that are live vectors of the collection, each once, with their distances; one whose delete is in flight is kept or not. One that
another node of the pod holds is live or not, at a distance that this node's state does not give: free values (assumption 33). One whose record cannot be read is
left out under MODE 1; under MODE 2 the manual states no score for it, which is a free value (assumption 8). -/
def State.rerankList (s : State) (miss : Miss) (c : Coll) (mode : Nat) (q : List Nat) (model : Nat) (text : List Byte) (ids : List Nat) :
    List (F32 × Nat) :=
  let kept (lid : Nat) : Bool := c.isLive lid || ((c.entriesOf lid).any (fun e => miss e.del) && s.draw (2 ^ 60 + lid) % 2 == 0)
  let named := ids.eraseDups.filterMap (s.lidOf c)
  let lids := named.filter kept
  let far := named.filter fun lid => !kept lid && s.heldElsewhere c lid && s.draw (2 ^ 61 + 2 * lid) % 2 == 0
  pairUnion ktF32 false true (far.map (fun lid => (BitVec.ofNat 32 (s.draw (2 ^ 61 + 2 * lid + 1)), s.gidOf c lid)) ++ lids.zipIdx.filterMap fun p =>
    ((s.rescore (s.free + p.2 * 2 ^ 16) c mode q model text p.1).orElse fun _ =>
      if mode = 2 then some (BitVec.ofNat 32 (s.draw (p.2 * 2 ^ 16))) else none).map fun d => (d, s.gidOf c p.1))

def State.rerankHere (s : State) (x : Cmd) (c : Coll) (q : List Nat) (text : List Byte) (ids : List Nat) : State :=
  let mode := x.af 0x10 1 0
  let hits := s.rerankList x.mayMiss c mode (forMetric c.metric q) (x.a 0x30 8) text ids
  let s1 := ((ids.eraseDups.filterMap (s.lidOf c)).filterMap fun l => (s.unreadable c l).map fun w => (w, l)).foldl
    (fun s p => s.logEvent evFlashMismatch c.tenant [p.1.toNat, c.index, p.2]) (s.drew (2 ^ 64))
  s1.deliver x { k := x.a 0xC 4, dev := bit (x.a 0x10 4) 6, rbuf := x.a 0x28 8, rlen := x.a 0x14 4, hits := hits, scanned := 0, probed := 0,
                 total := none, filtered := false, widened := false, reranked := true, fallback := false, skew := false,
                 epoch := if s.role = 0 then 0 else s.fld oFabEpoch 31 0 } 0

def execVrRerank (c : Nat) (s : State) : Res :=
  runVr c 0x114 s fun x s =>
    match s.coll? x (x.a 0 8) with
    | none => s.fail c stBadHandle
    | some o =>
      let m := x.af 0x10 1 0
      let qf := x.af 0x10 3 2
      let qdev := bit (x.a 0x10 4) 4
      let tdev := bit (x.a 0x10 4) 7
      let cdev := bit (x.a 0x10 4) 5
      if !x.rerankOk then s.malformed c
      else match s.input x cdev (x.a 0x20 8) (8 * x.a 8 4) with
        | .error e => e
        | .ok ids =>
          match (if m = 1 then s.input x qdev (x.a 0x18 8) (o.dim * elemBytes qf) else .ok []),
                (if m = 2 then s.input x tdev (x.a 0x38 8) (x.a 0x40 4) else .ok []) with
          | .error e, _ => e
          | _, .error e => e
          | .ok q, .ok text => s.rerankHere x o (readElems qf o.dim q) text ((List.range (x.a 8 4)).map fun i => leAt ids (8 * i) 8)

end Sys2Proof.Machine
end

