-- ==== Sys2Proof/Machine/Ports.lean ====
section
/-! DEFINITION. Fabric ports, their egress queues and gate control lists, and network time (R491 to R495, R527, R541 to R545,
R556 to R558). -/
namespace Sys2Proof.Machine

/-! ## Port halves -/

def State.split (s : State) (n : Nat) : Bool := s.fld (oFabPort n) 2 2 == 1

/-- Port half `l` = 2n + h exists, is enabled and has its link up. -/
def State.halfUp (s : State) (l : Nat) : Bool :=
  decide (l < 16) && s.fld (oFabPort (l / 2)) 0 0 == 1 && bit (s.fld (oFabPort (l / 2)) 19 18) (l % 2) && (l % 2 == 0 || s.split (l / 2))

/-- Data rate of a port half in bytes per nanosecond (R491). -/
def State.portRate (s : State) (l : Nat) : Nat := if s.split (l / 2) then 50 else 100

/-- Bytes of a packet on the wire (R497). -/
def wireBytes (p : Packet) : Nat := 106 + p.payload.length

/-- Time in picoseconds that a packet takes at a port half. -/
def State.txTime (s : State) (l : Nat) (p : Packet) : Nat := wireBytes p * 1000 / s.portRate l

/-! ## Gates (R541 to R545) -/

def State.gate (s : State) (l : Nat) : GateRt := Map.getD s.gates l GateRt.reset
def State.setGate (s : State) (l : Nat) (g : GateRt) : State := { s with gates := Map.put s.gates l g }
def State.gateEn (s : State) (l : Nat) : Bool := s.fld (oGateCtrl l) 0 0 == 1

/-- While EN is 0 every gate is open. -/
def State.gateOpen (s : State) (l c : Nat) : Bool := !s.gateEn l || (s.gate l).mask.getLsbD c

/-- Class-0 gate-open time up to now. -/
def State.openTotal (s : State) (l : Nat) : Nat :=
  let g := s.gate l
  g.openTime + if s.gateOpen l 0 then s.clock - g.openAt else 0

/-- The class-0 level now, in thousandths of a byte: it falls at 0.2 × R while the gate is open (R545). -/
def State.levelNow (s : State) (l : Nat) : Nat :=
  let g := s.gate l
  g.level - if s.gateOpen l 0 then (s.clock - g.openAt) * s.portRate l / 5 else 0

/-- Account for the time up to now before a gate or the level changes. -/
def State.settleGate (s : State) (l : Nat) : State :=
  s.setGate l { s.gate l with openTime := s.openTotal l, level := s.levelNow l, openAt := s.clock }

/-- Entry `i` of the active list: gate mask, interval in ns. -/
def State.gateEntry (s : State) (l i : Nat) : Nat × Nat :=
  let o := oGateEntry l (s.fld (oGateCtrl l) 3 3) i
  (s.fld o 35 32, s.fld o 31 0)

def State.actLen (s : State) (l : Nat) : Nat := s.fld (oGateCtrl l) 42 32
/-- Cycle of the active list in picoseconds. -/
def State.actCycle (s : State) (l : Nat) : Nat := s.fld (oGateCycle l) 63 32 * 1000

/-- Picoseconds from the cycle's start to the end of entry `i`: the last entry holds to the cycle's end, which cuts the list. -/
def State.entryEnd (s : State) (l i : Nat) : Nat :=
  if s.actLen l ≤ i + 1 then s.actCycle l
  else Nat.min (s.actCycle l) (sumBy (fun j => (s.gateEntry l j).2 * 1000) (List.range (i + 1)))

/-- How long the gate of class `c` stays open from the end of entry `i` on, looking `n` entries ahead. -/
def State.openAfter (s : State) (l c : Nat) : Nat → Nat → Nat
  | 0, _ => 0
  | n + 1, i =>
    let j := if s.entryEnd l i = s.actCycle l then 0 else i + 1
    if bit (s.gateEntry l j).1 c then
      s.entryEnd l j - (if j = 0 then 0 else s.entryEnd l i) + s.openAfter l c n j
    else 0

/-- A packet that starts now leaves before its gate closes (R541). -/
def State.beforeClose (s : State) (l c : Nat) (p : Packet) : Bool :=
  !s.gateEn l || s.actLen l == 0 ||
    (let g := s.gate l
     let left := g.cycleStart + s.entryEnd l g.idx - s.clock
     decide (s.txTime l p ≤ left + s.openAfter l c (s.actLen l) g.idx))

def GateRt.queue (g : GateRt) (c : Nat) : List (Nat × Nat × Packet) := Map.getD g.queues c []

/-- Raise the marks of a `GATE.QS` (R549, R556). -/
def State.markGate (s : State) (l c : Nat) (sojourn : Nat) : State := s.markQueue (oGateQs l c) ((s.gate l).queue c).length sojourn

/-- The largest class-0 level that R545 allows: R × 9 µs. -/
def State.levelLimit (s : State) (l : Nat) : Nat := s.portRate l * 9000 * 1000

/-- Queue a packet at a port half (R541, R545). -/
def State.enqueue (s : State) (l : Nat) (p : Packet) : State :=
  let s1 := s.settleGate l
  let g := s1.gate l
  let q := g.queue p.cls
  let tags := if q.isEmpty then Map.put g.tags p.cls (Nat.max (Map.getD g.tags p.cls 0) g.vtime) else g.tags
  let level := if p.cls = 0 then g.level + wireBytes p * 1000 else g.level
  (s1.setGate l { g with
    tags := tags, queues := Map.put g.queues p.cls (q ++ [(s.clock, g.openTime, p)])
    level := level, exceeded := g.exceeded || decide (s.levelLimit l < level) }).markGate l p.cls 0

/-- Φ_c of a port's class. -/
def State.phiGate (s : State) (l : Nat) (p : Packet) : Nat :=
  Map.getD (s.gate l).tags p.cls 0 + fix16 (wireBytes p) / Nat.max 1 (s.classWeight p.cls)

/-- The head of a class whose gate is open. -/
def State.gateHead (s : State) (l c : Nat) : Option (Nat × Nat × Packet) :=
  if s.gateOpen l c then ((s.gate l).queue c).head? else none

/-- The first element with the least `f`. -/
def leastBy {α : Type} (f : α → Nat) (l : List α) : Option α := l.find? fun a => l.all fun b => decide (f a ≤ f b)

/-- The packet that a port half sends next: class 0 first, then by Φ_c, ties to the lower class. -/
def State.nextPacket (s : State) (l : Nat) : Option (Nat × Nat × Packet) :=
  match s.gateHead l 0 with
  | some x => some x
  | none => leastBy (fun x => s.phiGate l x.2.2 * 4 + x.2.2.cls) ([1, 2, 3].filterMap (s.gateHead l))

/-- The longest class-0 queueing in gate-open time (R557). -/
def State.noteWait (s : State) (l openAt : Nat) : State :=
  s.setFld (oGateC0lvl l) 63 32 (Nat.max (s.fld (oGateC0lvl l) 63 32) (Nat.min ((s.openTotal l - openAt) / 1000) 0xFFFFFFFF))

/-- Header, payload and CRC-32C of a Scarab packet (R497). -/
def packetWire (p : Packet) : List Byte :=
  let body := toLe 4 (2 ^ 24 + p.type % 256 * 65536 + p.cls % 4 * 16384) ++ toLe 4 (p.src % 2 ^ 20) ++ toLe 4 (p.dst % 2 ^ 20) ++ toLe 4 p.psn ++
    toLe 8 p.msg ++ toLe 4 p.moff ++ toLe 4 (p.payload.length % 65536 * 65536 + b2n p.last) ++ p.payload
  body ++ toLe 4 (crc32c body).toNat

/-- The frame that carries a packet: priority and traffic class by its class, ECT(0), and a source port that varies as the device sees
fit (R496, R526). -/
def State.frameOf (s : State) (l : Nat) (p : Packet) : SentFrame :=
  { half := l, pcp := s.fld oFabQos (16 * p.cls + 8) (16 * p.cls + 6)
    trafficClass := 4 * s.fld oFabQos (16 * p.cls + 5) (16 * p.cls) + 2
    srcPort := 49152 + s.draw 0 % 16384, dstPort := 47266, packet := p, bytes := packetWire p }

/-- Send one packet: it leaves the queue, and the time that it takes passes. -/
def State.transmit (s : State) (l : Nat) (x : Nat × Nat × Packet) : State :=
  let (since, openAt, p) := x
  let g := s.gate l
  let phi := s.phiGate l p
  let s1 := s.markGate l p.cls ((s.clock - since) / 1000)
  let s2 := if p.cls = 0 then s1.noteWait l openAt else s1
  let g1 := { g with queues := Map.put g.queues p.cls ((g.queue p.cls).drop 1),
                     tags := if p.cls = 0 then g.tags else Map.put g.tags p.cls phi,
                     vtime := if p.cls = 0 then g.vtime else phi
                     missed := g.missed.filter (· != x) }
  { (s2.setGate l g1).drew 1 with clock := s.clock + s.txTime l p, out := { s2.out with frames := s2.out.frames ++ [s.frameOf l p] } }

def execPacketTransmit (l : Nat) (s : State) : Res :=
  match s.nextPacket l with
  | none => .next s
  | some x => onlyIf (s.live && s.halfUp l && s.beforeClose l x.2.2.cls x.2.2) s fun s => s.transmit l x

/-- An entry's interval ends and the next entry's mask applies (R542). -/
def execGateEntryExpiry (l : Nat) (s : State) : Res :=
  let g := s.gate l
  onlyIf (s.live && decide (l < 16) && decide (g.idx + 1 < s.actLen l ∧ s.entryEnd l g.idx < s.actCycle l)) s fun s =>
    let s1 := ({ s with clock := Nat.max s.clock (g.cycleStart + s.entryEnd l g.idx) } : State).settleGate l
    s1.setGate l { s1.gate l with idx := g.idx + 1, mask := BitVec.ofNat 4 (s.gateEntry l (g.idx + 1)).1 }

/-- A pending bank becomes active (R543). -/
def State.switchBank (s : State) (l : Nat) : State :=
  let o := oGateCtrl l
  let s1 := (((s.setFld o 3 3 (1 - s.fld o 3 3)).setFld o 2 2 0).setFld o 42 32 (s.fld o 26 16)).setFld (oGateCycle l) 63 32
    (s.fld (oGateCycle l) 31 0)
  s1.setGate l { s1.gate l with base := (s.word (oGateBase l)).toNat }

/-- Start a cycle at a device time with entry 0. -/
def State.startCycle (s : State) (l at0 : Nat) (switch : Bool) : State :=
  let s1 := ({ s with clock := Nat.max s.clock at0 } : State).settleGate l
  let s2 := if switch then s1.switchBank l else s1
  s2.setGate l { s2.gate l with idx := 0, cycleStart := at0, mask := BitVec.ofNat 4 (s2.gateEntry l 0).1 }

/-- A switch is pending and waits for no synchronisation (R543, R544). -/
def State.switchArmed (s : State) (l : Nat) : Bool := s.fld (oGateCtrl l) 2 2 == 1 && s.fld oFabTime 0 0 == 1

/-- The pending bank's first cycle start comes before the end of the active cycle. -/
def State.switchFirst (s : State) (l : Nat) : Bool :=
  let g := s.gate l
  s.switchArmed l && (s.actLen l == 0 || decide (g.armedAt ≤ g.cycleStart + s.actCycle l))

/-- A condition of R545 failed in a window or gate cycle: one record, counted (R547). `at0` is the window's start or the gate
cycle's, in ns, and `cond` the condition's number in R692. -/
def State.noteOver (s : State) (gateCycle : Bool) (at0 cond : Nat) : State :=
  (s.logEvent evClass0Over 0 [b2n gateCycle * 2 ^ 56 + at0 % 2 ^ 56, cond]).satAdd oSchC0mon 63 48 1

/-- The gate cycle that ends had a class-0 level above its limit. -/
def State.endCycle (s : State) (l : Nat) : State :=
  let g := s.gate l
  if g.exceeded then (s.setGate l { g with exceeded := decide (s.levelLimit l < s.levelNow l) }).noteOver true (g.cycleStart / 1000) 2 else s

/-- A gate cycle begins, with the armed bank once its first cycle start has come (R542 to R544). -/
def execGateCycleStart (l : Nat) (s : State) : Res :=
  let g := s.gate l
  onlyIf (s.live && decide (l < 16) && (s.switchFirst l || s.actLen l != 0)) s fun s =>
    if s.switchFirst l then (s.endCycle l).startCycle l g.armedAt true
    else (s.endCycle l).startCycle l (g.cycleStart + s.actCycle l) false

/-! ## Links and network time (R494, R495, R527) -/

def execPortLinkChange (port half : Nat) (up : Bool) (s : State) : Res :=
  onlyIf (s.live && decide (port < 8 ∧ half < 2) && (half == 0 || s.split port) && (!up || s.fld (oFabPort port) 0 0 == 1)) s fun s =>
    s.setFld (oFabPort port) (18 + half) (18 + half) (b2n up)

/-- A synchronisation message; SYNC returns after 16 consecutive valid intervals (R495). -/
def execSyncMessage (valid : Bool) (offset : Int) (s : State) : Res :=
  onlyIf s.live s fun s =>
    if !valid then { s with fab := { s.fab with syncRun := 0 } }
    else
      let s1 := (({ s with fab := { s.fab with syncRun := s.fab.syncRun + 1 } } : State).setFld oFabTime 63 32 (ofSigned 32 offset))
      if 16 ≤ s1.fab.syncRun then (s1.setFld oFabTime 0 0 1).setFld oFabTime 1 1 0 else s1

/-- No valid synchronisation message for 1 s (R495). -/
def execSyncTimeout (s : State) : Res :=
  onlyIf (s.live && s.fld oFabTime 0 0 == 1) s fun s =>
    ((({ s with fab := { s.fab with syncRun := 0 } } : State).setFld oFabTime 0 0 0).setFld oFabTime 1 1 1).logEvent evTimeLost 0 []

end Sys2Proof.Machine
end

