-- ==== Sys2Proof/Machine/Scarab.lean ====
section
/-! DEFINITION. The Scarab transport (R492, R496 to R501): messages cut into packets, spread over the ports, acknowledged and put
together again. -/
namespace Sys2Proof.Machine

/-! ## Packet types (R497) -/
def tyData : Nat := 1
def tySack : Nat := 2
def tyQuery : Nat := 3
def tyPartial : Nat := 4
def tyUpdate : Nat := 5
def tyMap : Nat := 6
def tyHeartbeat : Nat := 7
def tyJoin : Nat := 8

def peerKey (peer cls : Nat) : Nat := peer * 4 + cls
def State.peer (s : State) (peer cls : Nat) : Peer := Map.getD s.fab.peers (peerKey peer cls) Peer.reset
def State.setPeer (s : State) (peer cls : Nat) (p : Peer) : State :=
  { s with fab := { s.fab with peers := Map.put s.fab.peers (peerKey peer cls) p } }

/-- Node ID of a pod's queen (R502). -/
def queenOf (n : Nat) : Nat := n / 256 * 256

/-- The node is in the pod or realm table; a worker that has no table yet takes its queen for a member (R503). -/
def State.member (s : State) (n : Nat) : Bool :=
  s.fab.nodes.any (fun e => e.node == n) || (s.role == 1 && !s.fab.hasMap && n == queenOf s.nodeId)

/-! ## Sending -/

/-- Port halves in service. -/
def State.upHalves (s : State) : List Nat := (List.range 16).filter s.halfUp

/-- Queue a packet at the next port half in turn (R498); with none in service it is left to the retransmission. -/
def State.sendPacket (s : State) (p : Packet) : State :=
  let up := s.upHalves
  match up[s.fab.nextPort % Nat.max 1 up.length]? with
  | none => s
  | some l => ({ s with fab := { s.fab with nextPort := s.fab.nextPort + 1 } } : State).enqueue l p

/-- Packets sent and not acknowledged: the fabric transactions in flight. -/
def State.inTransit (s : State) : Nat := sumBy (fun e => e.2.unacked.length) s.fab.peers

/-- Send the waiting packets that the windows take, at most 131,072 in flight, each with its sequence number (R18, R499, R501). -/
def State.pumpOut (s : State) : State :=
  s.fab.waiting.foldl (fun s p =>
    let q := s.peer p.dst p.cls
    if q.unacked.length < q.window ∧ s.inTransit < 131072 then
      let p1 := { p with psn := q.nextPsn }
      (s.setPeer p.dst p.cls { q with nextPsn := (q.nextPsn + 1) % 2 ^ 32, unacked := q.unacked ++ [(q.nextPsn, 0, p1, 0)] }).sendPacket p1
    else { s with fab := { s.fab with waiting := s.fab.waiting ++ [p] } }) { s with fab := { s.fab with waiting := [] } }

/-- Largest payload of a packet: 1,024 bytes while a port in service has PMTU = 1 (R497, R493). -/
def State.payloadMax (s : State) : Nat := if s.upHalves.any fun l => s.fld (oFabPort (l / 2)) 1 1 == 1 then 1024 else 4096

/-- The packets of a message. -/
def cutMessage (ty cls src dst msg max : Nat) (payload : List Byte) : List Packet :=
  let n := Nat.max 1 (ceilDiv payload.length max)
  (List.range n).map fun i =>
    { type := ty, cls := cls, src := src, dst := dst, psn := 0, msg := msg, moff := max * i, last := i + 1 == n, crcOk := true, ceMark := false,
      payload := (payload.drop (max * i)).take max }

/-- Hand a message to the transport. -/
def State.post (s : State) (ty cls dst ref status : Nat) (payload : List Byte) : State :=
  let f := s.fab
  let s1 : State := { s with fab := { f with
    nextMsg := f.nextMsg + 1, outbox := f.outbox ++ [{ type := ty, cls := cls, dst := dst, ref := ref, status := status }],
    waiting := f.waiting ++ cutMessage ty cls s.nodeId dst f.nextMsg s.payloadMax payload } }
  s1.pumpOut

/-- Hand over a message of a type whose payload the manual leaves to the Varelm image. -/
def State.say (s : State) (ty cls dst ref status : Nat) : State := s.post ty cls dst ref status (Config.msgPayload ty ref status)

/-- A SACK: one packet, itself not acknowledged (R499); it reports a CE mark. -/
def State.sendSack (s : State) (peer cls : Nat) : State :=
  let q := s.peer peer cls
  let p : Packet := { type := tySack, cls := cls, src := s.nodeId, dst := peer, psn := 0, msg := s.fab.nextMsg, moff := 0, last := true,
                      crcOk := true, ceMark := false, payload := Config.msgPayload tySack q.held.length (b2n q.ceSeen) }
  (({ s with fab := { s.fab with
      nextMsg := s.fab.nextMsg + 1
      outbox := s.fab.outbox ++ [{ type := tySack, cls := cls, dst := peer, ref := q.held.length, status := b2n q.ceSeen }] } } : State).setPeer
    peer cls { q with sinceSack := 0, ceSeen := false }).sendPacket p

/-- 2 µs while packets arrive (R499). -/
def execSackTimer (peer cls : Nat) (s : State) : Res :=
  onlyIf (s.live && decide (cls < 4 ∧ 0 < (s.peer peer cls).sinceSack)) s fun s => s.sendSack peer cls

/-! ## Receiving -/

/-- The message is held whole (R500). -/
def Assembly.whole (a : Assembly) : Bool := a.total.any fun n => (List.range n).all fun i => (Map.get? a.pieces i).isSome

def Assembly.bytes (a : Assembly) : List Byte := (List.range (a.total.getD 0)).map fun i => (Map.get? a.pieces i).getD 0

/-- A packet's payload placed by MOFF (R498). -/
def Assembly.place (a : Assembly) (p : Packet) : Assembly :=
  { a with pieces := p.payload.zipIdx.foldl (fun m b => Map.put m (p.moff + b.2) b.1) a.pieces,
           total := if p.last then some (p.moff + p.payload.length) else a.total }

def Assembly.isOf (a : Assembly) (p : Packet) : Bool := a.src == p.src && a.msg == p.msg

/-- Place a packet in its message. A whole message of a type with a consumer of its own is handed over at once; `DATA` has its own
row. -/
def State.assemble (s : State) (p : Packet) : State :=
  let old := (s.fab.inbox.find? fun a => a.isOf p).getD { src := p.src, msg := p.msg, type := p.type, cls := p.cls, pieces := [], total := none }
  let a := old.place p
  let rest := s.fab.inbox.filter fun a => !a.isOf p
  if a.whole && a.type != tyData then
    { s with fab := { s.fab with inbox := rest, delivered := s.fab.delivered ++ [(a.src, a.type, a.bytes)] } }
  else { s with fab := { s.fab with inbox := rest ++ [a] } }

/-- A Scarab packet: dropped where a check fails, its sender is no member, or it is a duplicate (R498, R500); after 16 packets a SACK
is due (R499). -/
def State.receivePacket (s : State) (p : Packet) : State :=
  if !p.crcOk || !s.member p.src || p.dst != s.nodeId || decide (3 < p.cls) || p.type == tySack then s
  else
    let q := s.peer p.src p.cls
    let q1 := { q with sinceSack := q.sinceSack + 1, ceSeen := q.ceSeen || p.ceMark }
    let s1 := if q.held.contains p.psn then s.setPeer p.src p.cls q1
      else (s.setPeer p.src p.cls { q1 with held := q.held ++ [p.psn] }).assemble p
    if 16 ≤ q1.sinceSack then s1.sendSack p.src p.cls else s1

def State.countDrop (s : State) : State := s.satAdd oFabCnt 15 0 1

/-- The device's own IPv6 addresses: one of each port, or of each half of a split port, where it has been set (R492, R528). -/
def State.ownAddrs (s : State) : List Nat :=
  (((List.range 16).filter fun l => l % 2 == 0 || s.split (l / 2)).map fun l =>
    (s.word (oFabPaddr (l / 2) (l % 2))).toNat + (s.word (oFabPaddr (l / 2) (l % 2) + 8)).toNat * 2 ^ 64).filter (· != 0)

/-- An Ethernet frame arrives on a port in service (R492). -/
def execFrameReceive (port : Nat) (kind : FrameKind) (p : Packet) (s : State) : Res :=
  onlyIf (s.live && (s.halfUp (2 * port) || s.halfUp (2 * port + 1))) s fun s =>
    match kind with
    | .neighbourSolicit a => if s.ownAddrs.contains a then { s with out := { s.out with adverts := s.out.adverts ++ [a] } } else s.countDrop
    | .gptp => s
    | .scarab => s.receivePacket p
    | .other => s.countDrop

/-- The deputy records a block of local IDs that its queen asks it to, and acknowledges it (R520). -/
def State.recordIds (s : State) (src : Nat) (payload : List Byte) : State :=
  match Config.blockRecord payload with
  | none => s
  | some (h, b) =>
    if s.fld oFabNode 21 21 = 1 ∧ src = queenOf s.nodeId then
      let old := Map.getD s.fab.idBlocks h (0, 0, none)
      { s with fab := { s.fab with idBlocks := Map.put s.fab.idBlocks h (old.1, Nat.max old.2.1 (b + 1), none) } }.say tyData 1 src b stOk
    else s

/-- A whole DATA message goes to its consumer (R500). -/
def execData (msg src : Nat) (s : State) : Res :=
  match s.fab.inbox.find? fun a => a.msg == msg && a.src == src with
  | none => .next s
  | some a => onlyIf (s.live && a.type == tyData && a.whole) s fun s => (s.recordIds src a.bytes) |> fun s =>
    { s with fab := { s.fab with inbox := s.fab.inbox.filter fun b => !(b.msg == msg && b.src == src),
                                 delivered := s.fab.delivered ++ [(src, tyData, a.bytes)] } }

/-! ## Acknowledgement, loss and windows -/

/-- A receiver is unreachable: what was on its way to it is given up (R499). -/
def State.losePeer (s : State) (peer : Nat) : State :=
  let clear (m : Map Peer) (c : Nat) : Map Peer := Map.put m (peerKey peer c) { Map.getD m (peerKey peer c) Peer.reset with unacked := [] }
  ({ s with fab := { s.fab with
      peers := [0, 1, 2, 3].foldl clear s.fab.peers
      waiting := s.fab.waiting.filter fun p => p.dst != peer
      lostNodes := if s.role = 2 ∧ ¬ s.fab.lostNodes.contains peer then s.fab.lostNodes ++ [peer] else s.fab.lostNodes } } : State).logEvent
    evFabPeerLost 0 [peer]

/-- Send a packet again, or give its receiver up after 16 times (R499). -/
def State.resend (s : State) (peer cls psn : Nat) : State :=
  let q := s.peer peer cls
  match q.unacked.find? fun u => u.1 == psn with
  | none => s
  | some u =>
    if 16 ≤ u.2.1 then s.losePeer peer
    else ((s.setPeer peer cls { q with unacked := q.unacked.map fun v => if v.1 = psn then (v.1, v.2.1 + 1, v.2.2.1, 0) else v }).satAdd
      oFabCnt 63 32 1).sendPacket u.2.2.1

/-- A later number comes after an earlier one, modulo 2³². -/
def psnAfter (a b : Nat) : Bool := a != b && decide ((a + 2 ^ 32 - b) % 2 ^ 32 < 2 ^ 31)

/-- The sender halves its windows toward a receiver for classes 1 to 3 (R501). -/
def State.halveWindows (s : State) (peer : Nat) : State :=
  [1, 2, 3].foldl (fun s c => s.setPeer peer c { s.peer peer c with window := Nat.max 1 ((s.peer peer c).window / 2) }) s

/-- A SACK arrives: held packets are acknowledged, and one that three in a row miss is sent again. -/
def State.takeSack (s : State) (peer cls : Nat) (held : List Nat) (ce : Bool) : State :=
  let q := s.peer peer cls
  let left := (q.unacked.filter fun u => !held.contains u.1).map fun u =>
    if held.any fun h => psnAfter h u.1 then (u.1, u.2.1, u.2.2.1, u.2.2.2 + 1) else (u.1, u.2.1, u.2.2.1, 0)
  let s1 := s.setPeer peer cls { q with unacked := left }
  let s2 := (left.filter fun u => decide (3 ≤ u.2.2.2)).foldl (fun s u => s.resend peer cls u.1) s1
  (if ce then s2.halveWindows peer else s2).pumpOut

def execSack (peer cls : Nat) (held : List Nat) (ce : Bool) (s : State) : Res :=
  onlyIf (s.live && decide (cls < 4)) s fun s => s.takeSack peer cls held ce

/-- 100 µs without an acknowledgement (R499). -/
def execRetransmitTimeout (peer cls psn : Nat) (s : State) : Res :=
  onlyIf (s.live && decide (cls < 4) && (s.peer peer cls).unacked.any fun u => u.1 == psn) s fun s => s.resend peer cls psn

/-- 50 µs without marks: the windows of classes 1 to 3 double again, up to what they were (R501). -/
def execWindowRecovery (peer : Nat) (s : State) : Res :=
  onlyIf s.live s fun s =>
    ([1, 2, 3].foldl (fun s c =>
      let q := s.peer peer c
      s.setPeer peer c { q with window := Nat.min q.fullWindow (2 * q.window) }) s).pumpOut

end Sys2Proof.Machine
end

