-- ==== Sys2Proof/Machine/ShardMap.lean ====
section
/-! DEFINITION. The shard map and its epochs (R509 to R511, R516 to R518). -/
namespace Sys2Proof.Machine

/-! ## Nodes -/

/-- Workers of this pod that are not lost. -/
def State.workers (s : State) : List Nat :=
  (s.fab.nodes.map (·.node)).filter fun n => queenOf n == queenOf s.nodeId && n % 256 != 0 && !s.fab.lostNodes.contains n

/-- Queens of the other pods of the realm. -/
def State.remoteQueens (s : State) : List Nat :=
  (s.fab.nodes.map (·.node)).filter fun n => queenOf n != queenOf s.nodeId && !s.fab.lostNodes.contains n

/-- Bucket of a local ID (R509). -/
def bucketOf (lid : Nat) : Nat := lid % 4096

/-- The two parity shards of a bucket's code group stand in the map under numbers above the buckets' (R624). -/
def groupOf (b : Nat) : Nat := if b < 4096 then b / 14 else (b - 4096) / 2
def parityShards (g : Nat) : List Nat := [4096 + 2 * g, 4097 + 2 * g]

def holdersIn (m : List ShardEntry) (coll bucket : Nat) : List Nat := (m.filter fun e => e.coll == coll && e.bucket == bucket).map (·.node)

/-- Nodes that hold data buckets of a collection under the map that the queen routes by. -/
def State.queryNodes (s : State) (coll : Nat) : List Nat :=
  ((s.fab.routeShards.filter fun e => e.coll == coll && decide (e.bucket < 4096)).map (·.node)).eraseDups

/-- Nodes that an update of a bucket goes to: its holders before and after a pending change of the map, the destination of its
copy, and its parity holders (R516, R625). -/
def State.updateNodes (s : State) (coll bucket : Nat) : List Nat :=
  (([bucket] ++ parityShards (groupOf bucket)).flatMap (fun b =>
    holdersIn s.fab.routeShards coll b ++ holdersIn s.fab.shards coll b ++
      (s.fab.reshards.filter fun r => r.coll == coll && r.bucket == b).map (·.dst))).eraseDups

/-! ## Epochs -/

/-- The time for which an old map stays good after a node adopted a new one. -/
def oldEpochPs : Nat := 20 * 10 ^ 9

/-- Buckets that a change of map takes from their holders are kept for 20 ms (R516). -/
def keptBy (old new : List ShardEntry) (until_ : Nat) : List (Nat × Nat × Nat) :=
  (old.filter fun e => decide (e.bucket < 4096) && !new.contains e).map fun e => (e.coll, e.bucket, until_)

/-- Nodes whose holdings a change of map affects. -/
def affected (old new : List ShardEntry) : List Nat :=
  (((old.filter fun e => !new.contains e) ++ (new.filter fun e => !old.contains e)).map (·.node)).eraseDups

/-- This node adopts an epoch (R511, R517). -/
def State.adopt (s : State) (e : Nat) : State :=
  let old := s.fld oFabEpoch 31 0
  if old = e then s
  else ({ s with fab := { s.fab with prevEpoch := old, adoptedAt := s.clock } } : State).setFld oFabEpoch 31 0 e

/-- Routing under the epoch in force begins once nobody owes its acknowledgement (R511, R519). -/
def State.routeNow (s : State) : State :=
  if s.fab.ackOwing.isEmpty then { s with fab := { s.fab with routeEpoch := s.fld oFabEpoch 31 0, routeShards := s.fab.shards } } else s

/-- Send the map to every worker. -/
def State.sendMaps (s : State) : State := s.workers.foldl (fun s n => s.say tyMap 1 n (s.fld oFabEpoch 31 0) stOk) s

/-- The queen publishes a change of the map under the next epoch (R511). -/
def State.publish (s : State) (m : List ShardEntry) : State :=
  let old := s.fab.shards
  let owing := ((affected old m ++ (if s.fab.deputy = 0 then [] else [s.fab.deputy])).filter fun n => n != s.nodeId && s.workers.contains n).eraseDups
  let s1 := s.adopt ((s.fld oFabEpoch 31 0 + 1) % 2 ^ 32)
  let s2 : State := { s1 with fab := { s1.fab with
    shards := m, ackOwing := (s1.fab.ackOwing ++ owing).eraseDups, keeping := s1.fab.keeping ++ keptBy old m (s.clock + oldEpochPs) } }
  s2.sendMaps.routeNow

/-- A dropped collection leaves the map, its moves are cancelled, and both copies go (R518, R39). -/
def State.forgetShards (s : State) (c : Coll) : State :=
  let s1 : State := { s with fab := { s.fab with
    reshards := s.fab.reshards.filter fun r => r.coll != c.handle
    rebuilding := s.fab.rebuilding.filter fun r => r.coll != c.handle
    keeping := s.fab.keeping.filter fun k => k.1 != c.handle
    idBlocks := Map.del s.fab.idBlocks c.handle } }
  if c.pod.isSome ∧ s.role = 2 then
    let s2 := s1.publish (s1.fab.shards.filter fun e => e.coll != c.handle)
    { s2 with fab := { s2.fab with keeping := s2.fab.keeping.filter fun k => k.1 != c.handle } }
  else s1

/-- An epoch that this node serves (R517). -/
def State.epochOk (s : State) (e : Nat) : Bool :=
  e == s.fld oFabEpoch 31 0 || (e == s.fab.prevEpoch && decide (s.clock < s.fab.adoptedAt + oldEpochPs))

/-- Return `ST_STALE_EPOCH` (R517). -/
def State.sayStale (s : State) (cls dst ref : Nat) : State := (s.satAdd oFabCnt 31 16 1).say tyData cls dst ref stStaleEpoch

end Sys2Proof.Machine
end

