-- ==== Sys2Proof/Machine/Collections.lean ====
section
/-! DEFINITION. Collections of this node: creation, insert, delete, compaction, drop, placement and residency (R28 to R39, R61 to
R73, R210, R215, R225 to R227). Inserts, deletes and compactions advance one vector, ID or list a step. -/
namespace Sys2Proof.Machine

/-! ## Creation -/

structure CreateReq where
  dim : Nat
  sub : Nat
  ncent : Nat
  nlists : Nat
  coarse : List Byte
  fine : List Byte
  book : List Byte
  deriving DecidableEq, Repr

/-- An argument block within R28, R36 and R37; `extra` are further bytes in use. -/
def Cmd.createOk (x : Cmd) (extra : List (Nat × Nat)) : Bool :=
  let d := x.a 0 4
  let sb := x.a 4 2
  let c := x.a 8 4
  let l := x.a 0xC 4
  let f := x.a 0x10 4
  decide (8 ≤ sb ∧ sb ≤ 512 ∧ sb % 8 = 0 ∧ 8 ≤ d ∧ d ≤ 4096 ∧ d % sb = 0) &&
    decide (1 ≤ c ∧ c ≤ 65536 ∧ c ≤ l ∧ l ≤ 4194304 ∧ l % c = 0) && field f 31 27 == 0 &&
    decide (field f 23 16 ≤ 3 ∧ field f 15 8 ≤ 3 ∧ field f 7 0 ≤ 2 ∧ x.a 0x14 2 ≤ 10000 ∧ x.a 0x16 1 < 4) &&
    addrOk (bit f 25) (x.a 0x18 8) && addrOk (bit f 25) (x.a 0x20 8) && addrOk (bit f 25) (x.a 0x28 8) && addrOk (bit f 26) (x.a 0x30 8) &&
    cleanBut x.args ([(0, 6), (8, 15), (0x18, 0x28)] ++ extra)

/-- Rows of FP16 values. -/
def rows16 (rows n : Nat) (b : List Byte) : List (List (BitVec 16)) :=
  (List.range rows).map fun r => (List.range n).map fun i => BitVec.ofNat 16 (leAt b (2 * (r * n + i)) 2)

/-- The device's index of a new collection: above every one in use. -/
def State.newIndex (s : State) : Nat :=
  let m := s.colls.foldl (fun m c => Nat.max m (c.index + 1)) 0
  s.flash.blocks.foldl (fun m b => b.recs.foldl (fun m r => Nat.max m (r.coll + 1)) m) m % 4194304


/-- Stack-memory bytes of the centroids, codebooks and empty lists (R38). -/
def createBytes (r : CreateReq) (attrb : Nat) : Nat :=
  2 * r.ncent * r.dim + 2 * r.nlists * r.dim + 32 * r.dim + r.nlists * listBytes r.sub attrb 0

/-- Stack-memory bytes of a list with so many slots in use. -/
def Coll.listSize (c : Coll) (n : Nat) : Nat := listBytes c.sub c.attrb n

/-- An empty list: one segment, in a domain of the stack given, and a free generation (R134, R148, R209). -/
def State.emptyList (s : State) (stack k : Nat) : FineList :=
  { entries := [], committed := 0, gen := s.draw k % 256, segs := [⟨stack, s.anyWell stack (k + 1)⟩], scales := [], tags := [] }

/-- Stack of list `l` of a new collection: the lists go round the stacks (R209). -/
def State.listStack (s : State) (l : Nat) : Nat := (l + s.draw 8) % 12

/-- The collection that a `vr.create` or `vr.pod.create` describes. -/
def State.newColl (s : State) (x : Cmd) (r : CreateReq) (pod : Option (Bool × Bool)) (h : Nat) : Coll :=
  let f := x.a 0x10 4
  let ds := r.dim / Nat.max 1 r.sub
  { handle := h, tenant := x.fn, index := s.newIndex, dim := r.dim, sub := r.sub, ncent := r.ncent, nlists := r.nlists,
    spill := bit f 24, recfmt := field f 23 16, attrb := field f 15 8, metric := field f 7 0, cls := x.a 0x16 1, was := [], compactAt := x.a 0x14 2,
    budget := x.a 0x38 8, coarse := rows16 r.ncent r.dim r.coarse, fine := rows16 r.nlists r.dim r.fine,
    book := (List.range r.sub).map fun j => rows16 16 ds (r.book.drop (32 * ds * j)),
    lists := (List.range r.nlists).map fun l => (l, s.emptyList (s.listStack l) (16 + 2 * l)), nextLid := 0, dying := none, pod := pod, staging := s.newStaging (s.draw 9) }

/-- Bytes of the pieces of an ID map with so many local IDs assigned, each at most 16 MiB (R197). -/
def idPieces (lids : Nat) : List Nat :=
  let n := (Config.idMapBytes lids).toNat
  (List.range (Nat.max 1 (ceilDiv n (16 * mib)))).map fun i => Nat.min (16 * mib) (n - i * (16 * mib))

/-- The pieces of a collection's ID map follow the local IDs assigned. -/
def State.growIdMap (s : State) (c : Coll) (lids : Nat) : State :=
  (idPieces lids).zipIdx.foldl (fun s p =>
    if s.units.any fun u => u.uid == .idMap c.handle p.2 then s.sizeUnit (.idMap c.handle p.2) p.1
    else (s.addUnit (.idMap c.handle p.2) c.tenant s.anyStack p.1).drew 1) s

/-- Units of a new collection: lists spread over the stacks (R209). -/
def State.addCollUnits (s : State) (c : Coll) : State :=
  let at_ (k : Nat) : Home := .stack (s.draw k % 12)
  let s1 := ((s.addUnit (.centroids c.handle 0) c.tenant (at_ 1) (2 * c.ncent * c.dim)).addUnit (.centroids c.handle 1) c.tenant
    (at_ 2) (2 * c.nlists * c.dim)).addUnit (.centroids c.handle 2) c.tenant (at_ 3) (32 * c.dim)
  ({ s1 with units := s1.units ++ (List.range c.nlists).map fun l =>
      { uid := .fineList c.handle l, tenant := c.tenant, home := .stack (s.listStack l), bytes := c.listSize 0,
        heat := 0, promotedAt := none, demotedAt := none, lost := false, parked := false, part := none } } : State).drew (16 + 2 * c.nlists)
    |>.growIdMap c 0

/-- Chip limits of R28. -/
def State.chipHolds (s : State) (lists : Nat) : Bool :=
  decide (s.colls.length < 4194304 ∧ sumBy (·.nlists) s.colls + lists ≤ 16777216)

/-- Vectors that a collection holds, each once. -/
def Coll.vectors (c : Coll) : Nat :=
  (((c.lists.flatMap fun l => l.2.entries).filter fun e => !e.tomb).map (·.lid)).eraseDups.length

/-- Vectors that the inserts in progress have still to write. -/
def State.insertsOwe (s : State) : Nat :=
  sumBy (fun (x : Cmd) => match x.work with
    | .insert ids _ now => if x.inFlight then x.a 8 4 - ids.length - b2n now.isSome else 0
    | _ => 0) s.cmds

/-- The chip holds `n` more vectors (R16, R28). -/
def State.vectorRoom (s : State) (n : Nat) : Bool := decide (sumBy Coll.vectors s.colls + s.insertsOwe + n ≤ 8589934592)

/-- Create a collection, deliver the handle of one that is not a pod's, then go on with `k`. -/
def State.createColl (s : State) (x : Cmd) (pod : Option (Bool × Bool)) (k : Coll → State → State) : State :=
  let f := x.a 0x10 4
  let dev := bit f 25
  let d := x.a 0 4
  let r0 : CreateReq := { dim := d, sub := x.a 4 2, ncent := x.a 8 4, nlists := x.a 0xC 4, coarse := [], fine := [], book := [] }
  if !s.reserveTakes 0 (x.a 0x16 1) (x.a 0x38 8) || !s.chipHolds r0.nlists then s.fail x.id stQuota
  else s.withRoom x (createBytes r0 (field f 15 8)) fun s =>
    match s.inputs x [(dev, x.a 0x18 8, 2 * x.a 8 4 * d), (dev, x.a 0x20 8, 2 * x.a 0xC 4 * d), (dev, x.a 0x28 8, 32 * d)] with
    | .error s1 => s1
    | .ok [co, fi, bo] =>
      let h := s.newHandle
      match (if pod.isSome then some s else s.spaceWr x.fn (bit f 26) (x.a 0x30 8) (toLe 8 h)) with
      | none => s.outputFail x (bit f 26)
      | some s1 =>
        let c := s.newColl x { r0 with coarse := co, fine := fi, book := bo } pod h
        k c { (s1.addCollUnits c).tookHandle with colls := s1.colls ++ [c] }
    | .ok _ => s

/-! ## Drop, placement and residency -/

/-- Once every earlier command on it has completed, a collection goes (R39). -/
def execVrDrop (c : Nat) (s : State) : Res :=
  runCmd c s (fun x => x.vr == 0x102) fun x s =>
    if !cleanBut x.args [(0, 8)] then s.malformed c
    else
      let s1 := s.dropUnits (x.a 0 8)
      match s.colls.find? fun o => o.handle == x.a 0 8 with
      | none => s1.finish c stOk 0 0
      | some o =>
        (({ s1.discardColl o with colls := s1.colls.filter fun y => y.handle != o.handle } : State).forgetShards o).finish c stOk 0 0

/-- CLASS and BUDGET change; the commands in flight keep the class that they were admitted under (R226). -/
def Coll.placed (o : Coll) (s : State) (cls budget c : Nat) : Coll :=
  { o with cls := cls, budget := budget
           was := (s.cmds.filter fun y => y.inFlight && y.id != c && y.names.contains o.handle).map fun y => (y.id, o.classFor y.id) }

def execVrPlace (c : Nat) (s : State) : Res :=
  runCmd c s (fun x => x.vr == 0x103) fun x s =>
    let h := x.a 0 8
    let cls := x.a 0xA 1
    let budget := x.a 0x10 8
    if !cleanBut x.args [(0, 8), (0xA, 1), (0x10, 8)] || decide (3 < cls) then s.malformed c
    else if !s.reserveTakes h cls budget then s.fail c stQuota
    else (s.updColl h fun o => o.placed s cls budget c).finish c stOk 0 0

/-- The report of R227. -/
def State.residency (s : State) (c : Coll) : List Byte :=
  let us := s.units.filter fun u => !unitIsAlloc u.uid && unitHandle u.uid == c.handle && !u.lost
  let lists (p : PUnit → Bool) : Nat := (us.filter fun u => p u && match u.uid with
    | .fineList _ _ => true
    | _ => false).length
  let bytes (p : PUnit → Bool) : Nat := sumBy (·.bytes) (us.filter p)
  let onStack (u : PUnit) : Bool := u.home != .flash && u.home != .hub
  let recs := sumBy Rec.size (s.homeRecs.filter fun r => r.tenant == c.tenant && r.coll == c.index)
  let within := c.budget == 0 || decide (s.objStack c.handle ≤ c.budget)
  toLe 8 (bytes onStack) ++ toLe 8 (bytes fun u => u.home == .hub) ++ toLe 8 (bytes fun u => u.home == .flash) ++ toLe 8 recs ++
    toLe 4 (lists onStack) ++ toLe 4 (lists fun u => u.home == .flash) ++ toLe 8 c.budget ++ toLe 4 (b2n within * 4 + c.cls) ++
    toLe 4 (s.moves.filter fun m => !unitIsAlloc m.uid && unitHandle m.uid == c.handle && !m.switched).length ++ toLe 8 0

def execVrResidency (c : Nat) (s : State) : Res :=
  runCmd c s (fun x => x.vr == 0x104) fun x s =>
    let dev := bit (x.a 0x10 1) 0
    if !cleanBut x.args [(0, 17)] || decide (1 < x.a 0x10 1) || !addrOk dev (x.a 8 8) then s.malformed c
    else match s.coll? x (x.a 0 8) with
      | none => s.fail c stBadHandle
      | some o => match s.spaceWr x.fn dev (x.a 8 8) (s.residency o) with
        | none => s.outputLost x dev (x.a 8 8) (s.residency o)
        | some s1 => s1.finish c stOk 0 0

/-! ## Insert -/

/-- Flags of a `vr.insert` block. -/
def Cmd.iFlag (x : Cmd) (i : Nat) : Bool := bit (x.a 0xC 4) i
def Cmd.vfmt (x : Cmd) : Nat := x.af 0xC 3 2
def Cmd.hasPay (x : Cmd) (c : Coll) : Bool := c.recfmt != 0 && !x.iFlag 1

def Cmd.insertOk (x : Cmd) (c : Coll) : Bool :=
  decide (1 ≤ x.a 8 4 ∧ x.a 8 4 ≤ 65536 ∧ x.vfmt ≤ 2) && x.af 0xC 31 8 == 0 && !x.iFlag 0 && addrOk (x.iFlag 4) (x.a 0x10 8) &&
    (c.attrb == 0 || addrOk (x.iFlag 5) (x.a 0x18 8)) &&
    (x.iFlag 1 || (addrOk (x.iFlag 6) (x.a 0x20 8) && addrOk (x.iFlag 6) (x.a 0x28 8))) && addrOk (x.iFlag 7) (x.a 0x30 8) &&
    cleanBut x.args [(0, 0x38)]

/-- Bytes of a record's header and vector. -/
def Coll.recordBase (c : Coll) : Nat := 16 + c.vecBytes

/-- PAYIDX as offsets; empty without payloads. -/
def State.payIdx (s : State) (x : Cmd) (c : Coll) : Except State (List Nat) :=
  if x.hasPay c then
    (s.input x (x.iFlag 6) (x.a 0x28 8) (4 * (x.a 8 4 + 1))).map fun b => (List.range (x.a 8 4 + 1)).map fun i => leAt b (4 * i) 4
  else .ok []

/-- Payload lengths that R61 allows. -/
def payOk : List Nat → Bool
  | a :: b :: r => decide (a ≤ b ∧ b - a ≤ 65536) && payOk (b :: r)
  | _ => true

/-- Flash bytes that an insert is charged (R62, R412). -/
def insertFlash (c : Coll) (n : Nat) (idx : List Nat) : Nat :=
  if c.recfmt = 0 then 0
  else sumBy (fun i => roundUp (c.recordBase + (idx.getD (i + 1) 0 - idx.getD i 0)) 512) (List.range n)

/-- The flash check of R62 and R408. -/
def State.flashTakes (s : State) (c : Coll) (cmd n : Nat) : Bool :=
  c.recfmt == 0 || (s.partFor c.tenant (c.classFor cmd)).any fun p => p.readOnly || decide (s.partValid p.tenant p.pid + n ≤ p.user)

/-- The checks before any vector is written (R62). -/
def State.beginInsert (s : State) (x : Cmd) (c : Coll) : State :=
  match s.payIdx x c with
  | .error e => e
  | .ok idx =>
    if !payOk idx then s.malformed x.id
    else if !s.flashTakes c x.id (insertFlash c (x.a 8 4) idx) || !s.vectorRoom (x.a 8 4) then s.fail x.id stQuota
    else s.withRoom x (x.a 8 4 * c.copies * entryBytes c.sub c.attrb) fun s =>
      s.updCmd x.id fun y => { y with started := true, work := .insert [] stOk none }

/-- The fine lists of a vector with its codes in each (R61, R691). -/
def Coll.place (c : Coll) (k : Nat) (v : List Nat) : List (Nat × List Nat) :=
  let y := forMetric c.metric v
  match (c.coarseNear k y 1).head? with
  | none => []
  | some i =>
    let ls := rankBy (fun l => centroidDist c.metric (kFine k l) y (c.fine.getD l [])) ((List.range c.perCoarse).map fun j => i * c.perCoarse + j)
    (ls.take c.copies).map fun l => (l, encode4 (kList k l) c.sub c.book (residual y (c.fine.getD l [])))

/-- Where the placement engine puts a new segment of a list: a free choice among the stacks that may take it (R208). -/
def State.newSeg (s : State) (c : Coll) (l k : Nat) : Seg :=
  let on := (List.range 12).filter (s.stackTakes c l)
  let st := on.getD (s.draw k % Nat.max 1 on.length) 0
  ⟨st, s.anyWell st (k + 1)⟩

/-- Append one vector's entries to its lists. -/
def State.addEntries (s : State) (c : Coll) (places : List (Nat × List Nat)) (lid attr : Nat) (loc : Word) (cmd : Nat) : State :=
  ((places.foldl (fun s p =>
    let g := s.newSeg c p.1 0
    ((s.updColl c.handle fun o =>
      { o with lists := Map.put o.lists p.1 ((o.list p.1).append (segSlots c.sub c.attrb) g
          { codes := p.2, lid := lid, attr := attr, tomb := false, loc := loc, ins := cmd, del := 0 }) }).sizeUnit
      (.fineList c.handle p.1) (c.listSize ((c.list p.1).entries.length + 1))).drew 2) s)).growIdMap c (lid + 1)

/-- Commit a vector in every one of these lists at once. -/
def State.commitAll (s : State) (c : Coll) (lists : List Nat) : State := s.updColl c.handle fun o => lists.foldl Coll.commitList o

/-- The lists take an entry now: they are in stack memory, and no other vector is in commit in them. -/
def State.listsReady (s : State) (c : Coll) (places : List (Nat × List Nat)) : Bool :=
  places.all fun p => s.resident (.fineList c.handle p.1) && (c.list p.1).committed == (c.list p.1).entries.length

/-- A vector is decided: its ID slot, the first failure and the progress. -/
def State.inserted (s : State) (x : Cmd) (ids : List Nat) (st gid fail : Nat) : State :=
  let ids' := ids ++ [gid]
  (s.updCmd x.id fun y => { y with work := .insert ids' (if st = stOk then fail else st) none }).raiseProgress x.id
    (10000 * ids'.length / x.a 8 4) ids'.length

/-- One vector of an insert: its elements as FP32 patterns, the bytes that its record holds, and its attribute bits. -/
structure NewVec where
  elems : List Nat
  record : List Byte
  attr : Nat
  deriving DecidableEq, Repr

/-- The record of one vector as the collection stores it. -/
def Coll.record (c : Coll) (lid : Nat) (data : List Byte) : Rec :=
  { loc := noLoc, coll := c.index, lid := lid, fmt := c.recfmt, tenant := c.tenant, bytes := recordBytes c lid data, valid := true }

/-- Write one vector with the next local ID: its record and its entries, beyond the committed lengths (R31, R63, R64). -/
def State.insertOne (s : State) (x : Cmd) (c : Coll) (ids : List Nat) (st : Nat) (v : NewVec) : State :=
  let places := c.place s.free v.elems
  let lid := c.nextLid
  let s1 := (s.updColl c.handle fun o => { o with nextLid := lid + 1 }).drew (2 ^ 128)
  let begin_ (s : State) (loc : Word) : State :=
    (s.addEntries c places lid v.attr loc x.id).updCmd x.id fun y => { y with work := .insert ids st (some ⟨lid, loc, places.map (·.1)⟩) }
  if 2 ^ 40 ≤ lid then s.inserted x ids st noId stIdExhausted
  else if !s.listsReady c places then s
  else if c.recfmt = 0 then begin_ s1 noLoc
  else match s.partFor c.tenant (c.classFor x.id) with
    | none => s.inserted x ids st noId stMediaExhausted
    | some p => match s1.program p (c.record lid v.record) with
      | .wait => s
      | .exhausted => (s1.turnReadOnly p).inserted x ids st noId stMediaExhausted
      | .ok s2 loc => begin_ s2 loc

/-- Go on with the vector in commit: its record is covered, then the committed length of one of its lists passes its entry, in an order
that is free; with the last one the vector is inserted (R21, R63). -/
def State.commitStep (s : State) (x : Cmd) (c : Coll) (ids : List Nat) (st : Nat) (n : Committing) (decided : State → State) : State :=
  if !s.recCovered n.loc then s.coverBlock (n.loc.toNat / 2 ^ 39)
  else match n.due[s.draw 0 % Nat.max 1 n.due.length]? with
    | none => decided s
    | some l =>
      if !s.resident (.fineList c.handle l) then s
      else
        let rest := n.due.filter (· != l)
        let s1 := (s.commitAll c [l]).drew 1
        if rest.isEmpty then decided s1 else s1.updCmd x.id fun y => { y with work := .insert ids st (some { n with due := rest }) }

/-- Payload `i`. -/
def State.payload (s : State) (x : Cmd) (c : Coll) (i : Nat) : Except State (List Byte) :=
  if x.hasPay c then
    (s.payIdx x c).bind fun idx => s.input x (x.iFlag 6) (x.a 0x20 8 + idx.getD i 0) (idx.getD (i + 1) 0 - idx.getD i 0)
  else .ok []

/-- Attribute bits of vector `i`. -/
def State.attrOf (s : State) (x : Cmd) (c : Coll) (i : Nat) : Except State Nat :=
  if c.attrb = 0 then .ok 0
  else (s.input x (x.iFlag 5) (x.a 0x18 8 + 4 * i) 4).map fun b => leNat b % 2 ^ (8 * c.attrb)

/-- Vector `i` of an insert. A vector given in the record format is stored unchanged, any other is converted (R108, R110, R691). -/
def State.newVec (s : State) (x : Cmd) (c : Coll) (i : Nat) : Except State NewVec :=
  let n := c.dim * elemBytes x.vfmt
  (s.input x (x.iFlag 4) (x.a 0x10 8 + n * i) n).bind fun b =>
  (s.attrOf x c i).bind fun a =>
  (s.payload x c i).map fun p =>
    let v := readElems x.vfmt c.dim b
    { elems := v, record := (if x.vfmt + 1 = c.recfmt then b else writeElems (c.recfmt - 1) v) ++ p, attr := a }

/-- The next vector of an insert, or its end. -/
def State.insertStep (s : State) (x : Cmd) (c : Coll) (ids : List Nat) (st : Nat) : State :=
  let i := ids.length
  if x.a 8 4 ≤ i then
    match s.putIds x ids with
    | none => s.outputLost x (x.iFlag 7) (x.a 0x30 8) (x.idBytes ids)
    | some s1 => s1.finish x.id st 0 i
  else match s.newVec x c i with
    | .error e => e
    | .ok v => s.insertOne x c ids st v

def State.insertHere (s : State) (x : Cmd) (c : Coll) : State :=
  match x.work with
  | .insert ids st none => s.insertStep x c ids st
  | .insert ids st (some n) => s.commitStep x c ids st n fun s => s.inserted x ids st (s.gidOf c n.lid) stOk
  | _ => if !x.insertOk c then s.malformed x.id else s.beginInsert x c

/-! ## Repeated tag mismatches (R138) -/

/-- End a program of Varelm whose fragment met a mismatch again: a search or rerank as R57 says, an insert with this vector failed
(R64), a generation as R287 says, any other with no output. -/
def State.endSkew (s : State) (x : Cmd) : State :=
  if x.vr = 0x110 then (s.drew 2).deliver x (x.skewResult s) x.pos
  else if x.vr = 0x114 then s.deliver x (x.rerankSkew s) 0
  else match x.work with
  | .insert ids st _ => if x.a 8 4 ≤ ids.length then s else (s.dropCommitting x).inserted x ids st noId stScaleSkew
  | .generate g => s.failGen x g stScaleSkew
  | _ => s.fail x.id stScaleSkew

/-! ## Delete -/

def Cmd.deleteOk (x : Cmd) : Bool :=
  decide (1 ≤ x.a 8 4 ∧ x.a 8 4 ≤ 262144 ∧ x.a 0xC 4 < 4) && addrOk (x.iFlag 0) (x.a 0x10 8) && addrOk (x.iFlag 1) (x.a 0x18 8) &&
    cleanBut x.args [(0, 0x20)]

/-- Lists that hold an untombstoned entry of a local ID. -/
def Coll.listsOf (c : Coll) (lid : Nat) : List Nat :=
  (c.lists.filter fun l => l.2.entries.any fun e => e.lid == lid && !e.tomb).map (·.1)

/-- The next ID of a delete, or its end. -/
def State.deleteStep (s : State) (x : Cmd) (c : Coll) (outs : List Byte) : State :=
  let i := outs.length
  let said (s : State) (b : Byte) : State :=
    (s.updCmd x.id fun y => { y with started := true, work := .delete (outs ++ [b]) }).raiseProgress x.id (10000 * (i + 1) / x.a 8 4) (i + 1)
  if x.a 8 4 ≤ i then
    match s.putOuts x outs with
    | none => s.outputLost x (x.iFlag 1) (x.a 0x18 8) (x.outBytes outs)
    | some s1 => s1.finish x.id stOk 0 i
  else match s.input x (x.iFlag 0) (x.a 0x10 8 + 8 * i) 8 with
    | .error e => e
    | .ok b => match s.lidOf c (leNat b) with
      | none => said s 1
      | some lid =>
        if !c.isLive lid then said s 1
        else if (c.listsOf lid).any fun l => !s.resident (.fineList c.handle l) then s
        else said (s.updColl c.handle fun o => o.bury lid x.id) 0

def State.deleteHere (s : State) (x : Cmd) (c : Coll) : State :=
  match x.work with
  | .delete outs => s.deleteStep x c outs
  | _ => if !x.deleteOk then s.malformed x.id else s.deleteStep x c []

/-! ## Compaction (R69 to R73) -/

/-- Tombstoned share of a list in basis points. -/
def FineList.share (l : FineList) : Nat := (l.entries.filter (·.tomb)).length * 10000 / Nat.max 1 l.entries.length

/-- Local IDs whose last entry the compaction of a list removes and that hold a record. -/
def State.orphans (s : State) (c : Coll) (l : Nat) : List Nat :=
  let gone := (((c.list l).entries.filter (·.tomb)).map (·.lid)).eraseDups
  let kept (lid : Nat) : Bool := c.lists.any fun p => p.2.entries.any fun e => e.lid == lid && !(p.1 == l && e.tomb)
  (gone.filter fun lid => !kept lid).filter (s.hasRecord c)

/-- Compact one list: its untombstoned entries in a new chain, and the old one held for the searches admitted before (R70, R148). -/
def State.compactList (s : State) (c : Coll) (l : Nat) : State :=
  let fl := c.list l
  let keep := fl.entries.filter fun e => !e.tomb
  let old := ((s.unit? (.fineList c.handle l)).map (·.bytes)).getD 0
  let readers := (s.cmds.filter fun y => y.phase == .admitted && y.vr == 0x110 && y.names.contains c.handle).map (·.id)
  let segs := (List.range (segCount c.sub c.attrb keep.length)).map fun k => s.newSeg c l (2 * k)
  let s1 := (s.orphans c l).foldl (fun s lid => s.discard c lid) s
  let s2 := ((s1.updColl c.handle fun o => { o with lists := Map.put o.lists l (fl.rewrite keep segs) }).sizeUnit
    (.fineList c.handle l) (c.listSize keep.length)).updUnit (.fineList c.handle l) fun u =>
      { u with home := .stack ((segs.head?.map (·.stack)).getD 0) }
  let s3 := (s2.drew (2 * segs.length)).varelmWells (s.wellSegs c l)
  { s3 with nextMove := s.nextMove + 1, oldRanges := s2.oldRanges ++
      [{ id := s.nextMove, handle := c.handle, list := l, bytes := old, readers := readers }] }

/-- A list under a move waits for it, a flash-homed one for its promotion, one with a vector in commit for its end (R71, R206, R219). -/
def State.compactable (s : State) (c : Coll) (l : Nat) : Bool :=
  s.listsReady c [(l, [])] && !s.moves.any fun m => !m.switched && match m.uid with
    | .fineList h k => h == c.handle && k == l
    | .listSegment h k _ => h == c.handle && k == l
    | _ => false

def Cmd.compactOk (x : Cmd) (c : Coll) : Bool :=
  let m := x.af 8 1 0
  x.af 8 31 3 == 0 && decide (m ≤ 2) && (m != 0 || decide (x.a 0xC 4 ≤ 10000)) &&
    (m != 2 || decide (x.a 0x10 4 ≤ x.a 0x14 4 ∧ x.a 0x14 4 < c.nlists)) && addrOk (bit (x.a 8 4) 2) (x.a 0x18 8) && cleanBut x.args [(0, 0x20)]

/-- First and last list that a compaction examines. -/
def Cmd.compactSpan (x : Cmd) (c : Coll) : Nat × Nat := if x.af 8 1 0 = 2 then (x.a 0x10 4, x.a 0x14 4) else (0, c.nlists - 1)

/-- Bytes that the compaction of a list releases: its old range less its new one (R69). -/
def Coll.freed (c : Coll) (l : Nat) : Nat :=
  c.listSize (c.list l).entries.length - c.listSize ((c.list l).entries.filter fun e => !e.tomb).length

/-- Examine one list. -/
def State.compactStep (s : State) (x : Cmd) (c : Coll) (next examined compacted removed released discarded : Nat) : State :=
  let (first, last) := x.compactSpan c
  let due := x.af 8 1 0 != 0 || decide (x.a 0xC 4 ≤ (c.list next).share)
  let note (s : State) (w : Work) : State :=
    (s.updCmd x.id fun y => { y with started := true, work := w }).raiseProgress x.id (10000 * (examined + 1) / (last - first + 1)) next
  if last < next then
    match s.putReport x (.compact next examined compacted removed released discarded) with
    | none => s.outputLost x (bit (x.a 8 4) 2) (x.a 0x18 8) (reportBytes (.compact next examined compacted removed released discarded))
    | some s1 => s1.finish x.id stOk 0 last
  else if !due then note s (.compact (next + 1) (examined + 1) compacted removed released discarded)
  else if !s.compactable c next then s
  else
    let dead := ((c.list next).entries.filter (·.tomb)).length
    note (s.compactList c next) (.compact (next + 1) (examined + 1) (compacted + 1) (removed + dead)
      (released + c.freed next) (discarded + (s.orphans c next).length))

def execVrCompact (c : Nat) (s : State) : Res :=
  runVr c 0x113 s fun x s =>
    match s.coll? x (x.a 0 8) with
    | none => s.fail c stBadHandle
    | some o => match x.work with
      | .compact n a b d e f => s.compactStep x o n a b d e f
      | _ => if !x.compactOk o then s.malformed c else s.compactStep x o (x.compactSpan o).1 0 0 0 0 0

/-- Automatic compaction of a list whose tombstoned share has reached COMPACT_AT (R72). -/
def execAutoCompaction (handle list : Nat) (s : State) : Res :=
  match s.colls.find? fun o => o.handle == handle with
  | none => .next s
  | some c =>
    onlyIf (s.active && c.dying.isNone && c.compactAt != 0 && decide (list < c.nlists ∧ c.compactAt ≤ (c.list list).share) &&
      s.compactable c list) s fun s => s.compactList c list

end Sys2Proof.Machine
end

