-- ==== Sys2Proof/Machine/Clusters.lean ====
section
/-! DEFINITION. Faults of clusters: stopping one, its self-test, retirement and the spares (R309, R606, R613 to R615, R389). -/
namespace Sys2Proof.Machine

def State.physOf (s : State) (p : Nat) : PhysCluster := Map.getD s.phys p PhysCluster.reset
def State.setPhys (s : State) (p : Nat) (k : PhysCluster) : State := { s with phys := Map.put s.phys p k }

/-- Self-test with no cause to retire but its own failure. -/
def noCause : Nat := 255

/-- Physical clusters of a cluster die (R613). -/
def physPerDie : Nat := 136

/-- The logical number that a physical cluster serves. -/
def State.logicalOf (s : State) (p : Nat) : Option Nat := (s.logical.find? fun e => e.2 == p).map (·.1)

/-- Lose every run with a member on a logical cluster (R309). -/
def State.loseRunsOn (s : State) (l : Nat) : State :=
  ((s.frags.filter fun f => f.phase == .running && f.members.any fun m => m.cluster == l).map (·.id)).foldl State.loseRun s

/-- A physical cluster with a fault stops: its runs are lost, and it goes to its self-test with the cause that will retire
it, if there is one (R613). What its caches and units held is gone (assumption 15). -/
def State.stopPhys (s : State) (p cause : Nat) : State :=
  let k := s.physOf p
  let s1 := s.setPhys p { k with testing := some (if k.testing.getD noCause = noCause then cause else k.testing.getD noCause) }
  match s.logicalOf p with
  | none => s1
  | some l => (s1.loseRunsOn l).setCluster l Cluster.reset

/-- The physical cluster of a gang member. -/
def State.memberPhys (s : State) (f : Frag) (m : Nat) : Option Nat :=
  (f.members[m]?).bind fun x => Map.get? s.logical x.cluster

/-- Physical clusters that serve no logical number and are not retired. -/
def State.freeSpares (s : State) : List Nat :=
  (List.range 544).filter fun p => !(s.physOf p).retired && (s.physOf p).testing.isNone && !s.logical.any fun e => e.2 == p

/-- SAF.CAP and SAF.STATUS.DEGRADED follow the kept state (R614, R632). -/
def State.syncCap (s : State) : State :=
  let spares := s.freeSpares.length
  let s1 := ((s.setFld oSafCap 25 16 (s.phys.filter fun e => e.2.retired).length).setFld oSafCap 15 10 spares).setFld
    oSafCap 9 0 s.logical.length
  if spares = 0 then s1.setFld oSafStatus 2 2 1 else s1

/-- The spare that replaces a cluster: any free one on its die, else the lowest-numbered. -/
def State.pickSpare (s : State) (p : Nat) : Option Nat :=
  let free := s.freeSpares
  let same := free.filter fun q => q / physPerDie == p / physPerDie
  match same[s.draw 0 % Nat.max 1 same.length]? with
  | some q => some q
  | none => free.head?

/-- Retire a physical cluster (R614, R615). -/
def State.retirePhys (s : State) (p cause : Nat) : State :=
  if (s.physOf p).retired then s
  else
    let s1 := s.setPhys p { s.physOf p with retired := true, testing := none }
    match s.logicalOf p with
    | none => (s1.logEvent evClusterRetired 0 [p, 0xFFFF, cause]).syncCap.recover
    | some l =>
      let s2 := (s1.loseRunsOn l).setCluster l Cluster.reset
      let s3 := match s2.pickSpare p with
        | none => { s2 with logical := Map.del s2.logical l }.logEvent evClusterRetired 0 [p, 0xFFFF, cause]
        | some q => ({ s2 with logical := Map.put s2.logical l q }.drew 1).logEvent evClusterRetired 0 [p, q, cause]
      (if (s2.pickSpare p).isNone then s3.mendStagings else s3).syncCap.recover

/-- One hour and one millisecond of device time. -/
def hourPs : Nat := 3600 * 10 ^ 12
def msPs : Nat := 10 ^ 9

/-- A failed arithmetic check on a physical cluster, met by a fragment of command `c` (R606, R613). -/
def State.residueOn (s : State) (p unit tenant c : Nat) : State :=
  let k := s.physOf p
  let again := k.residueAt.any fun t => decide (s.clock ≤ t + hourPs)
  let s1 := (s.logEvent evResidue tenant [p, unit, s.cmdData c]).satAdd oSafDiag 63 48 1
  (s1.setPhys p { k with residueAt := some s.clock }).stopPhys p (if again then 2 else noCause)

/-- An uncorrectable word in the cistern of a physical cluster, at the physical offset `x` (R383, R389, R613). -/
def State.cisternOn (s : State) (p x tenant : Nat) : State :=
  let k := s.physOf p
  let bank := cisBank x
  let s1 := (s.logEvent evCisUe tenant [p, bank]).satAdd oCisEcc 63 32 1
  (s1.setPhys p { k with ueBanks := if k.ueBanks.contains bank then k.ueBanks else k.ueBanks ++ [bank] }).stopPhys p
    (if k.ueBanks.contains bank then 4 else noCause)

def State.residueFault (s : State) (f : Frag) (m unit : Nat) : State :=
  match s.memberPhys f m with
  | none => s.loseRun f.id
  | some p => s.residueOn p unit f.tenant f.cmd

/-- The same of the word at an offset in the area of a member that read it. -/
def State.cisternFault (s : State) (f : Frag) (m off : Nat) : State :=
  match s.memberPhys f m with
  | none => s.loseRun f.id
  | some p => s.cisternOn p ((f.members[m]?).elim off fun y => y.base + off % (f.cis * 65536)) f.tenant

/-- The step of a generation whose fragment is reissued applies the deadlines again (R256). -/
def Cmd.again (y : Cmd) : Cmd :=
  match y.work with
  | .generate g => { y with work := .generate { g with rank := [], gates := [], late := [] } }
  | _ => y

/-- A fragment of a program of Varelm lost its run to a hardware fault: three reissues for each fragment, then the program's end
(R309). -/
def State.programLost (s : State) (f : Nat) (x : Cmd) : State :=
  if 3 ≤ (x.losses.filter (· == f)).length then s.stopCmd x.id stHwFault
  else (s.satAdd (oTenFrag x.fn) 63 32 1).updCmd x.id fun y => { y.again with losses := y.losses ++ [f] }

/-- A fragment of a program of Varelm met a mismatch in a block: one reissue for each fragment, then the program's end (R137 to
R139). -/
def State.programSkew (s : State) (f : Nat) (x : Cmd) (handle block : Nat) : State :=
  let s1 := s.noteSkew x.fn x.id handle block (x.skewed.contains f)
  if x.skewed.contains f then s1.endSkew x else s1.updCmd x.id fun y => { y.again with skewed := y.skewed ++ [f] }

/-- The unit of a residue check is one of those that R692 numbers for a cluster. -/
def unitOk : LostRun → Bool
  | .residue _ u => decide (u < 6)
  | .programResidue _ _ u => decide (u < 6)
  | _ => true

/-- A run lost to a hardware fault or discarded for a tag mismatch (R309, R137). -/
def execFragmentReissue (f : Nat) (cause : LostRun) (s : State) : Res :=
  match cause with
  | .programSkew c h b => runCmd c s (fun x => x.vr != 0) fun x s => s.programSkew f x h b
  | .programResidue c p u =>
    runCmd c s (fun x => x.vr != 0 && (s.logicalOf p).isSome && unitOk cause) fun x s => (s.residueOn p u x.fn x.id).programLost f x
  | .programCistern c p o =>
    runCmd c s (fun x => x.vr != 0 && (s.logicalOf p).isSome) fun x s => (s.cisternOn p (o % 2 ^ 22) x.fn).programLost f x
  | .programOther c => runCmd c s (fun x => x.vr != 0) fun x s => s.programLost f x
  | _ =>
    match s.frag? f with
    | none => .next s
    | some x => onlyIf (s.live && x.phase == .running && !x.isVarelm && unitOk cause) s fun s =>
      match cause with
      | .residue m u => s.residueFault x m u
      | .cistern m o => s.cisternFault x m o
      | .skew h b => s.scaleSkew f h b
      | _ => s.loseRun f

/-- A faulted cluster's self-test ends: it returns to service or is retired (R613). -/
def execClusterSelfTest (phys : Nat) (pass : Bool) (s : State) : Res :=
  match (s.physOf phys).testing with
  | none => .next s
  | some cause => onlyIf s.live s fun s =>
    if pass && cause == noCause then s.setPhys phys { s.physOf phys with testing := none }
    else s.retirePhys phys (if pass then cause else 0)

end Sys2Proof.Machine
end

