-- ==== Sys2Proof/Machine/Completion.lean ====
section
/-! DEFINITION. The end of a command as the host sees it, function resets and configuration requests (R306, R453, R454,
R479, R480, R486, R651, R667). -/
namespace Sys2Proof.Machine

/-- A tenant program completes once every fragment has committed (R306, R307). -/
def execCommandComplete (c : Nat) (s : State) : Res :=
  match s.cmd? c with
  | none => .next s
  | some x =>
    onlyIf (s.live && x.phase == .admitted && x.opc == 1 && !x.varelm && x.started && !s.frags.any fun f => f.cmd == c) s
      fun s => s.finish c x.status 0 x.pos

/-- Write a final entry (R453, R459), or drop it where its queue is disabled (R451, R487). A device halted by a tamper event still
completes its commands (R596); one halted under R622 writes no entry. -/
def execCompletionEntry (c : Nat) (s : State) : Res :=
  match s.cmd? c with
  | none => .next s
  | some x =>
    let open_ := x.cq.filter fun q => s.cqEn x.fn q
    onlyIf (s.awake && s.fld oSafStatus 0 0 == 0 && x.phase == .ended && x.parent.isNone && open_.all fun q => decide (0 < s.cqFree x.fn q)) s fun s =>
      match open_ with
      | some q => (s.cqWrite x.fn q 0 x.sq x.cmdid x.status x.count x.value x.finalBp).forgetCmd c
      | none => s.forgetCmd c

/-- ITIME µs after the first entry not yet signalled (R454). -/
def execInterruptTimer (fn q : Nat) (s : State) : Res :=
  match (s.cqSt fn q).firstUnsig with
  | none => .next s
  | some t =>
    let itime := s.hqFld fn (oCqCfg q) 47 32
    let o := oCqCfg q
    onlyIf (s.live && itime != 0 && s.hqFld fn o 30 30 == 1 && !s.vecMasked fn (s.hqFld fn o 29 22)) s fun s =>
      { s with clock := Nat.max s.clock (t + itime * 1000000) }.cqSignal fn q

/-- Commands whose host accesses R486 governs: neither tenant programs nor commands that access no host memory. -/
def Cmd.usesHost (x : Cmd) : Bool :=
  !x.unstoppable && x.opc != 5 && x.opc != 6 && (x.opc != 1 || x.varelm)

/-- A failed host access ends its command and is logged under AER (R486). -/
def execHostAccessFault (c : Nat) (s : State) : Res :=
  match s.cmd? c with
  | none => .next s
  | some x =>
    onlyIf (s.live && x.phase == .admitted && x.usesHost) s fun s =>
      { s with out := { s.out with aer := s.out.aer ++ [x.fn] } }.stopCmd c stBadAddress

/-- Keys of a map that satisfy `p` are dropped. -/
def dropKeys {α : Type} (m : Map α) (p : Nat → Bool) : Map α := m.filter fun e => !p e.1

/-- TEN counters and exception record of a tenant that a function reset clears (R479). -/
def tenCounters (t : Nat) : List Nat :=
  [oTenSkew t, oTenSubst t, oTenFrag t, oTenExc t 0, oTenExc t 1, oTenExc t 2, oTenExc t 3]

/-- Function-level reset of one function (R479, R310, R532). -/
def State.resetFn (s : State) (fn : Nat) : State :=
  let s1 := (s.cmds.filter fun x => x.fn == fn && x.parent.isNone && !(x.unstoppable && x.inFlight)).foldl
    (fun s x => (s.releaseTemp x).forgetCmd x.id) s
  let inFn (w : Nat) (k : Nat) : Bool := k / w == fn
  { s1 with
    cmds := s1.cmds.map fun c => if c.fn = fn then { c with cq := none } else c
    hq := (dropKeys s1.hq fun k => inFn 65536 k && k % 65536 != 0).map fun e =>
      if inFn 65536 e.1 then (e.1, BitVec.ofNat 64 (e.2.toNat % 4)) else e
    sq := dropKeys s1.sq (inFn 64)
    cq := dropKeys s1.cq (inFn 64)
    pslot := dropKeys s1.pslot (inFn 8192)
    bar4 := dropKeys s1.bar4 (inFn 8192)
    regs := dropKeys s1.regs fun k => (tenCounters fn).contains k
    sched := { s1.sched with tokens := Map.del s1.sched.tokens fn, tokenAt := Map.del s1.sched.tokenAt fn }
    out := { s1.out with atsCache := s1.out.atsCache.filter fun p => p.1 != fn }
    power := { s1.power with parking := s1.power.parking.filter fun c => s1.cmds.any fun x => x.id == c } }

/-- A reset of the PF clears VF Enable and so resets every VF (R480). -/
def State.resetFns (s : State) (fn : Nat) : State :=
  if fn = 0 then (List.range 256).foldl State.resetFn s else s.resetFn fn

def execFunctionLevelReset (fn : Nat) (s : State) : Res :=
  onlyIf (s.hostUp && decide (fn < 256)) s fun s => s.resetFns fn

/-- Values in configuration space (R667). -/
def cfgValue (s : State) (fn : Nat) : CfgItem → Nat
  | .vendorId => 0x1F2D
  | .subsystemVendorId => 0x1F2D
  | .deviceId => if fn = 0 then 0x8512 else 0x8513
  | .revisionId => s.fld oSysId 47 40
  | .classCode => 0x120000
  | .subsystemId => s.fld oSysId 55 48

/-- Start-up has passed step 3 (R651). -/
def State.pastStep3 (s : State) : Bool := decide (3 < s.fld oPwrState 11 8)

/-- A configuration request, answered with Request Retry Status until the end of step 3 (R651); a halted device answers it
too (R622). -/
def execConfigRequest (fn : Nat) (item : CfgItem) (s : State) : Res :=
  onlyIf (s.awake && s.power.link && decide (fn < 256)) s fun s =>
    { s with out := { s.out with cfg := s.out.cfg ++ [(fn, if s.pastStep3 then some (cfgValue s fn item) else none)] } }

end Sys2Proof.Machine
end

