-- ==== Sys2Proof/Machine/Images.lean ====
section
/-! DEFINITION. LOAD_IMAGE: images, their checks, and their release (R233 to R235, R265, R266, R272 to R274, R463, R468, R469,
R579, R580, R582, R589). -/
namespace Sys2Proof.Machine

/-! ## Falar programs (R463) -/

/-- CLAIMS within the limits of R299. -/
def claimsOk (k : Nat) : Bool :=
  field k 31 29 == 0 && field k 16 7 == 0 && decide (field k 28 26 ≤ 4 ∧ field k 25 21 ≤ 16 ∧ field k 20 17 ≤ 8 ∧ field k 6 0 ≤ 64)

/-- SHAPE with its other bits zero. -/
def shapeOk (f : Nat) : Bool :=
  field f 31 24 == 0 && field f 19 7 == 0 && decide (1 ≤ field f 6 0 ∧ field f 6 0 ≤ 64)

/-- The entries (OFFSET, CLAIMS, SHAPE) and the code of a program image, none where it breaks R463. -/
def parseProg (b : List Byte) : Option (List (Nat × Nat × Nat) × List Byte) :=
  let n := field (leAt b 4 4) 6 0
  let len := leAt b 8 4
  let es := (List.range n).map fun e => (leAt b (0x40 + 16 * e) 4, leAt b (0x44 + 16 * e) 4, leAt b (0x48 + 16 * e) 4)
  let ok := leAt b 0 4 == 0x00010001 && decide (leAt b 4 4 < 128 ∧ 1 ≤ n ∧ n ≤ 64 ∧ 8 ≤ len ∧ len ≤ 2 ^ 24 ∧ len % 8 = 0) &&
    leAt b 0xC 0x34 == 0 && decide (64 + 16 * n + len ≤ b.length) &&
    (List.range n).all (fun e => leAt b (0x4C + 16 * e) 4 == 0) &&
    es.all fun e => e.1 % 8 == 0 && decide (e.1 < len) && claimsOk e.2.1 && shapeOk e.2.2
  if ok then some (es, (b.drop (64 + 16 * n)).take len) else none

/-! ## Models (R235, R265, R266) -/

def vocabOk (m : Config.ModelImage) : Bool :=
  let v := m.vocab
  decide (v.length ≤ 262144) &&
    (List.range 256).all (fun b => v.any fun t => t.bytes == [BitVec.ofNat 8 b]) &&
    (v.filter (·.isEnd)).length == 1 && decide ((v.filter (·.isStart)).length ≤ 1) &&
    v.all (fun t => !t.special || t.isEnd || t.isStart || t.noSample) &&
    v.all (fun t => t.special == t.bytes.isEmpty && decide (t.bytes.length ≤ 128)) &&
    v.any (fun t => !t.noSample) &&
    m.merges.all fun g => decide (g.1 < v.length ∧ g.2.1 < v.length ∧ g.2.2 < v.length)

def modelOk (m : Config.ModelImage) : Bool :=
  let within (lo x hi : Nat) : Bool := decide (lo ≤ x ∧ x ≤ hi)
  decide (m.kind ≤ 2) && within 1 m.layers 256 && within 256 m.width 16384 && m.width % 256 == 0 && within 1 m.qHeads 256 &&
    within 1 m.kvHeads 64 && m.qHeads % m.kvHeads == 0 && within 32 m.headDim 256 && m.headDim % 32 == 0 &&
    (if m.experts = 0 then m.active == 0 else within 2 m.experts 256 && within 1 m.active 16 && decide (m.active ≤ m.experts)) &&
    (m.kind != 0 || decide (m.pool ≤ 2)) && m.tensors.all (fun t => tensorOk t && t.expert.all fun e => decide (e.1 < m.layers ∧ e.2 < m.experts)) &&
    within 256 m.vocab.length 262144 && (m.kind == 2 || within 16 m.inputLen 8192) &&
    (m.kind != 0 || within 8 m.embDim 4096) && vocabOk m

/-! ## Grammars (R273, R274) -/

/-- Entries in ascending order of LO, none overlapping the next. -/
def arcsRise : List Config.GramArc → Bool
  | a :: b :: r => decide (a.hi < b.lo) && arcsRise (b :: r)
  | _ => true

def gramOk (g : Config.GramImage) : Bool :=
  decide (1 ≤ g.states.length ∧ g.states.length ≤ 1048576 ∧ g.poolBytes ≤ 2 * gib) &&
    g.states.all fun st => decide (st.arcs.length ≤ 131072) && arcsRise st.arcs &&
      st.arcs.all fun a => decide (a.lo ≤ a.hi ∧ a.hi < g.vocabSize ∧ a.next < g.states.length)

/-! ## Signed images (R579, R580) -/

def imgSlot (b : List Byte) : Nat := leAt b 8 4
def imgSvn (b : List Byte) : Nat := leAt b 4 4
def imgBody (b : List Byte) : List Byte := (b.drop 0x7500).take (leAt b 0xC 4)
def imgDigest (b : List Byte) : List Byte := (b.drop 0x50).take 64

/-- The first check of R580 that a signed image of this KIND fails; 6 where all hold. A header outside R579 fails the
first. -/
def signedCheck (f : Fuses) (kind : Nat) (b : List Byte) : Nat :=
  let key := (b.drop 0x10).take 64
  let slot := imgSlot b
  if leAt b 0 4 ≠ kind ∨ 64 < imgSvn b ∨ 3 < slot ∨ f.revoked.getLsbD slot ∨ (f.lcs = 0 ∧ kind = 1 ∧ slot ≠ 0) then 1
  else if digest key ≠ f.keyHash.getD slot [] then 2
  else if imgSvn b < (if kind = 1 then f.svnf else f.svnv) then 3
  else if !Config.slhVerify key (b.take 0x90) ((b.drop 0x90).take 29792) then 4
  else if (imgBody b).length ≠ leAt b 0xC 4 ∨ digest (imgBody b) ≠ imgDigest b then 5
  else 6

/-! ## Measurements (R588, R589) -/

def State.setMeas (s : State) (o : Nat) (d : List Byte) : State := s.setWords o ((List.range 8).map fun i => leAt d (8 * i) 8)

def State.meas (s : State) (o : Nat) : List Byte := (List.range 8).flatMap fun i => toLe 8 (s.word (o + 8 * i)).toNat

/-- The tenant's image chain takes an accepted image. -/
def State.chainImage (s : State) (t : Nat) (b : List Byte) : State :=
  s.setMeas (oMeas4 t) (digest (s.meas (oMeas4 t) ++ digest b))

/-! ## LOAD_IMAGE -/

def Cmd.imgKind (x : Cmd) : Nat := x.u 0x20 4 % 4
def Cmd.imgRelease (x : Cmd) : Bool := bit (x.u 0x20 4) 3
def Cmd.imgDev (x : Cmd) : Bool := bit (x.u 0x20 4) 2
def Cmd.imgLen (x : Cmd) : Nat := x.u 0x18 8

/-- An entry that R456 and R468 allow. -/
def Cmd.loadOk (x : Cmd) : Bool :=
  decide (x.u 0x20 4 < 16) &&
    (if x.imgRelease then cleanBut (x.entry.drop 0x10) [(0, 17), (24, 8)]
     else addrOk x.imgDev (x.u 0x10 8) && decide (64 ≤ x.imgLen ∧ x.imgLen ≤ 2 ^ 40) && cleanBut (x.entry.drop 0x10) [(0, 17), (24, 8)])

/-- The handle names a live image of KIND of the tenant: live when the release was admitted. -/
def State.imageLive (s : State) (x : Cmd) (h : Nat) : Bool :=
  let mine (t : Nat) (d : Option Nat) : Bool := t == x.fn && (d.isNone || d == some x.seq)
  match x.imgKind with
  | 0 => s.progs.any fun o => o.handle == h && mine o.tenant o.dying
  | 1 => s.models.any fun o => o.handle == h && mine o.tenant o.dying
  | 2 => s.grammars.any fun o => o.handle == h && mine o.tenant o.dying
  | _ => false

/-- Release an image (R469): a model with a memory stays (R243). -/
def State.releaseImage (s : State) (x : Cmd) : State :=
  let h := x.u 0x28 8
  if !s.imageLive x h then s.endCmd x.id stBadHandle 0 0 0 10000
  else if x.imgKind = 1 ∧ s.mems.any fun m => m.model == h then
    ({ s with models := s.models.map fun (o : Model) => if o.handle = h then { o with dying := none } else o } : State).endCmd
      x.id stBusy 0 0 0 10000
  else
    { s.dropUnits h with
      progs := s.progs.filter fun o => o.handle != h
      models := s.models.filter fun o => o.handle != h
      grammars := s.grammars.filter fun o => o.handle != h }.endCmd x.id stOk 0 0 0 10000

/-- A loaded image is accepted: measurement, handle and completion. -/
def State.accepted (s : State) (x : Cmd) (b : List Byte) (h : Nat) : State :=
  ((s.chainImage x.fn b).tookHandle).endCmd x.id stOk x.imgLen h 0 10000

/-- The quota check of a load, whose COUNT is the whole image. -/
def State.loadRoom (s : State) (x : Cmd) (new : Nat) (f : State → State) : State :=
  match s.room x.fn new with
  | none => s.endCmd x.id stQuota x.imgLen 0 0 10000
  | some false => s.updCmd x.id fun y => { y with needRoom := new }
  | some true => f (s.updCmd x.id fun y => { y with needRoom := 0 })

/-- One unit for each dense tensor of a model (R197). -/
def State.addDense (s : State) (t h : Nat) (m : Config.ModelImage) : State :=
  (m.tensors.zipIdx.filter fun p => p.1.expert.isNone).foldl
    (fun s p => (s.addUnit (.dense h p.2) t s.anyStack ((ofImage p.1).written 0).bytes).drew 1) s

/-- Experts of a model: in stack memory where the tenant's room takes them all, else on flash (R208). -/
def State.addExperts (s : State) (t h : Nat) (m : Config.ModelImage) : State :=
  let n := m.layers * m.experts
  let each (i : Nat) : Nat := oneExpert m (i / m.experts) (i % m.experts)
  let fast := s.stackUse t + expertBytes m ≤ s.stackQuota t
  let part := (s.unitPart t (.expert h 0 0)).map fun p => (p.tenant, p.pid)
  if fast ∨ part.isNone then
    (List.range n).foldl (fun s i => (s.addUnit (.expert h (i / m.experts) (i % m.experts)) t s.anyStack (each i)).drew 1) s
  else
    (List.range n).foldl (fun s i => (s.addUnit (.expert h (i / m.experts) (i % m.experts)) t .flash (each i)).updUnit
      (.expert h (i / m.experts) (i % m.experts)) fun u => { u with part := part }) s

def State.loadProg (s : State) (x : Cmd) (b : List Byte) : State :=
  match parseProg b with
  | none => s.endCmd x.id stBadImage x.imgLen 0 0 10000
  | some (es, code) => s.loadRoom x b.length fun s =>
    let h := s.newHandle
    (({ s with progs := s.progs ++ [{ handle := h, tenant := x.fn, entries := es, code := code, dying := none }] } : State).addUnit
      (.dense h 0) x.fn s.anyStack b.length).accepted x b h

def State.loadModel (s : State) (x : Cmd) (b : List Byte) : State :=
  match (Config.parseModel b).filter modelOk with
  | none => s.endCmd x.id stBadImage x.imgLen 0 0 10000
  | some m => s.loadRoom x (denseBytes m) fun s =>
    let h := s.newHandle
    -- each tensor is written whole under a generation that the manual does not state (R134)
    let ts := m.tensors.zipIdx.map fun p => (ofImage p.1).written (s.draw (p.2 + 1))
    (((({ s with models := s.models ++ [{ handle := h, tenant := x.fn, raw := b, img := m, tensors := ts, dying := none }] } : State).drew
      (ts.length + 1)).addDense x.fn h m).addExperts x.fn h m).accepted x b h

def State.loadGrammar (s : State) (x : Cmd) (b : List Byte) : State :=
  match (Config.parseGrammar b).filter gramOk with
  | none => s.endCmd x.id stBadImage x.imgLen 0 0 10000
  | some g =>
    let bytes := 16 * g.states.length + g.poolBytes
    s.loadRoom x bytes fun s =>
      let h := s.newHandle
      (({ s with grammars := s.grammars ++ [{ handle := h, tenant := x.fn, img := g, dying := none }] } : State).addUnit
        (.grammarMasks h) x.fn s.anyStack bytes).accepted x b h

/-- The 256 words of the wells' micro-program in a Varelm image (R187, R188). -/
def wellStore (body : List Byte) : List (BitVec 32) := (List.range 256).map (Config.wellProgram body)

/-- Measurement 2: the digest of the wells' micro-program (R588). -/
def State.measureWells (s : State) : State :=
  s.setMeas (oMeas 2) (digest ((wellStore s.varelm.body).flatMap fun w => toLe 4 w.toNat))

/-- A Varelm library: an accepted one replaces the stored image and measurement 1 (R582), and its micro-program goes to the
wells (R188) and to measurement 2 (assumption 38). -/
def State.loadVarelm (s : State) (x : Cmd) (b : List Byte) : State :=
  if signedCheck s.fuses 2 b ≠ 6 then s.endCmd x.id stDenied x.imgLen 0 0 10000
  else
    let v : ImageId := { slot := imgSlot b, svn := imgSvn b, digest := imgDigest b, body := imgBody b }
    let s1 : State := { s with varelm := v, wellHw := { s.wellHw with store := wellStore v.body } }
    (((s1.setMeas (oMeas 1) v.digest).measureWells).setFld oSysVer 31 24 v.svn).accepted x b s.newHandle

def execLoadImage (c : Nat) (s : State) : Res :=
  runCmd c s (fun x => x.opc == 4) fun x s =>
    if x.imgKind = 3 ∧ x.fn ≠ 0 then s.endCmd c stDenied 0 0 0 10000
    else if !x.loadOk then s.malformed c
    else if x.imgRelease then s.releaseImage x
    else match s.spaceRd x.fn x.imgDev (x.u 0x10 8) x.imgLen with
      | none =>
        let s1 := if x.imgDev then s else { s with out := { s.out with aer := s.out.aer ++ [x.fn] } }
        (s1.drew 1).endCmd c stBadAddress (s.draw 0 % x.imgLen) 0 0 10000
      | some b =>
        -- a poisoned line of a device-space image is an uncorrectable read (R168, R604, R619)
        if x.imgDev && s.poisoned x.fn (x.u 0x10 8) x.imgLen then s.endCmd c stHwFault 0 0 0 10000
        else match x.imgKind with
        | 0 => s.loadProg x b
        | 1 => s.loadModel x b
        | 2 => s.loadGrammar x b
        | _ => s.loadVarelm x b

end Sys2Proof.Machine
end

