-- ==== Sys2Proof/Machine/Partitions.lean ====
section
/-! DEFINITION. Partitions and their health log: PART_CREATE, PART_GROW, PART_DROP, `vr.part.health` and the dies' temperature
readings (R407 to R410, R439, R481, R483). -/
namespace Sys2Proof.Machine

/-! ## ADMIN actions -/

def Cmd.adminDev (x : Cmd) : Bool := bit (x.u 0x12 2) 0
def Cmd.isAdmin (x : Cmd) (a : Nat) : Bool := x.opc == 7 && x.fn == 0 && x.u 0x10 2 == a

/-- Run `f` on the 32-byte parameter block of an ADMIN action whose bytes outside the listed fields are zero. -/
def State.withParam (s : State) (x : Cmd) (fields : List (Nat × Nat)) (f : List Byte → State) : State :=
  if !addrOk x.adminDev (x.u 0x18 8) then s.malformed x.id
  else match s.input x x.adminDev (x.u 0x18 8) 32 with
    | .error e => e
    | .ok b => if cleanBut b fields then f b else s.malformed x.id

def State.adminEnd (s : State) (c status : Nat) : State := s.endCmd c status 0 0 0 10000

/-! ## Creating and growing -/

structure PartReq where
  tenant : Nat
  pid : Nat
  density : Bool
  kind : Bool
  classes : Nat
  cap : Nat
  op : Nat
  buf : Nat
  deriving DecidableEq, Repr

def partReq (b : List Byte) : PartReq :=
  { tenant := leAt b 1 1, pid := leAt b 0 1 % 8, density := bit (leAt b 4 4) 9, kind := bit (leAt b 4 4) 8, classes := leAt b 4 4 % 16,
    cap := leAt b 8 8, op := if leAt b 0x12 2 = 0 then 1250 else leAt b 0x12 2, buf := leAt b 0x14 4 }

/-- A parameter block of PART_CREATE within R407. -/
def partOk (b : List Byte) : Bool :=
  let r := partReq b
  decide (leAt b 0 1 < 8 ∧ 1 ≤ r.tenant ∧ leAt b 4 4 < 1024) && field (leAt b 4 4) 7 4 == 0 &&
    decide (1 ≤ r.cap ∧ r.cap ≤ 131072 ∧ 700 ≤ r.op ∧ r.op ≤ 5000) && (r.density || decide (1 ≤ r.buf ∧ r.buf ≤ 4096))

/-- Raw bytes that a request needs (R410): user capacity with its over-provisioning, and the buffer. -/
def State.rawBytes (s : State) (density : Bool) (userBytes op bufBytes : Nat) : Nat :=
  let f := s.flash.geom.cellBits
  let main := ceilDiv (userBytes * 10000) (10000 - op)
  if density then f * main else main + f * bufBytes

/-- Blocks at their native cell mode. -/
def State.rawBlocks (s : State) (n : Nat) : Nat := ceilDiv n (Nat.max 1 s.flash.geom.blockBytes)

/-- Sum of a tenant's partition capacities in GB (R563). -/
def State.partSum (s : State) (t : Nat) : Nat := sumBy (·.capGb) (s.parts.filter fun p => p.tenant == t)

/-- The flash quota and the unallocated blocks suffice (R410, R565). -/
def State.partFits (s : State) (t cap blocks : Nat) : Bool :=
  decide (s.partSum t + cap ≤ s.fld (oTenQflash t) 31 0 ∧ blocks ≤ s.unalloc.length)

def State.newPart (s : State) (r : PartReq) : State :=
  State.resizeBuf { s with parts := s.parts ++
      [{ tenant := r.tenant, pid := r.pid, density := r.density, kind := r.kind, classes := r.classes, capGb := r.cap, op := r.op,
         bufGib := r.buf, bufNow := 0, turn := [], readOnly := false, dropping := false, hostw := 0, mediaw := 0, corr := 0, uncorr := 0, rebuilt := 0,
         pfail := 0, efail := 0, retiredBlocks := 0, noticesOut := 0, tmax := -128, t0 := 0, t1 := 0, t2 := 0, t3 := 0 }] } r.tenant r.pid

def State.partCreate (s : State) (x : Cmd) (r : PartReq) : State :=
  let n := s.rawBlocks (s.rawBytes r.density (r.cap * 10 ^ 9) r.op (r.buf * gib))
  if (s.part? r.tenant r.pid).isSome || s.parts.any fun p => p.tenant == r.tenant && p.classes &&& r.classes != 0 then
    s.adminEnd x.id stConflict
  else if s.partFits r.tenant r.cap n then
    ((s.newPart r).giveBlocks r.tenant r.pid (s.unalloc.take n)).adminEnd x.id stOk
  else s.adminEnd x.id stQuota

def execPartCreate (c : Nat) (s : State) : Res :=
  runCmd c s (fun x => x.isAdmin 1) fun x s =>
    s.withParam x [(0, 2), (4, 2), (8, 8), (0x12, 2), (0x14, 4)] fun b => if partOk b then s.partCreate x (partReq b) else s.malformed c

/-- PART_GROW adds user capacity and ends a read-only state (R437). -/
def State.partGrow (s : State) (x : Cmd) (t pid cap : Nat) : State :=
  match s.part? t pid with
  | none => s.adminEnd x.id stBadHandle
  | some p =>
    let n := s.rawBlocks (s.rawBytes p.density (cap * 10 ^ 9) p.op 0)
    if s.partFits t cap n then
      ((s.updPart t pid fun q => { q with capGb := q.capGb + cap, readOnly := false }).giveBlocks t pid (s.unalloc.take n)).adminEnd
        x.id stOk
    else s.adminEnd x.id stQuota

/-- TENANT and PID of a parameter block. -/
def paramOwner (b : List Byte) : Nat × Nat := (leAt b 1 1, leAt b 0 1)

def execPartGrow (c : Nat) (s : State) : Res :=
  runCmd c s (fun x => x.isAdmin 2) fun x s =>
    s.withParam x [(0, 2), (8, 8)] fun b =>
      let (t, pid) := paramOwner b
      let cap := leAt b 8 8
      if t = 0 ∨ 7 < pid ∨ cap = 0 ∨ 131072 < cap then s.malformed c else s.partGrow x t pid cap

/-! ## Dropping -/

/-- The partition holds records or units of the object. -/
def State.partHolds (s : State) (t pid h : Nat) : Bool :=
  s.units.any (fun u => u.part == some (t, pid) && u.home == .flash && !unitIsAlloc u.uid && unitHandle u.uid == h) ||
    s.colls.any fun o => o.handle == h &&
      (s.blocksOf t pid).any fun b => b.recs.any fun r => r.valid && r.tenant == o.tenant && r.coll == o.index

/-- Handles of the collections and memories that a partition holds. -/
def State.partHandles (s : State) (t pid : Nat) : List Nat :=
  ((s.colls.filter fun o => o.tenant == t).map (·.handle) ++ (s.mems.filter fun o => o.tenant == t).map (·.handle)).filter
    (s.partHolds t pid)

/-- Release a collection: its lists, units and records go (R39, R68). -/
def State.dropColl (s : State) (h : Nat) : State :=
  match s.colls.find? fun o => o.handle == h with
  | none => s
  | some o => { (s.dropUnits h).discardColl o with colls := s.colls.filter fun x => x.handle != h }

/-- The drop is admitted: later commands no longer see the objects, earlier ones are waited for. -/
def State.beginDrop (s : State) (x : Cmd) (t pid : Nat) : State :=
  let hs := s.partHandles t pid
  let mark (h : Nat) (d : Option Nat) : Option Nat := if hs.contains h && d.isNone then some x.seq else d
  let earlier := (s.cmds.filter fun y => y.phase == .admitted && y.id != x.id && decide (y.seq < x.seq) && y.fn == t &&
    y.names.any hs.contains).map (·.id)
  ({ s with colls := s.colls.map fun o => { o with dying := mark o.handle o.dying }
            mems := s.mems.map fun o => { o with dying := mark o.handle o.dying } } : State).updPart t pid (fun q => { q with dropping := true })
    |>.updCmd x.id fun y => { y with started := true, waits := earlier }

/-- Erase a partition's blocks, which become UNALLOC; retired ones stay so. -/
def State.eraseBlocks (s : State) (t pid : Nat) : State :=
  let live := (s.blocksOf t pid).filter fun b => b.st != .retired
  let wipe (b : Block) : Block :=
    if b.part == some (t, pid) then
      { Block.blank b.id (if b.st = .retired ∨ b.st = .free then b.erases else b.erases + 1) with
        st := if b.st = .retired then .retired else .unalloc }
    else b
  ((s.setBlocks (s.flash.blocks.map wipe)).setGroups (s.flash.groups.filter fun g => g.part != (t, pid))).wrapAdd oFlcCnt 31 0 (live.filter fun b => b.st != .free).length

/-- Drop a partition with the collections and memories that it holds and no earlier drop has taken. -/
def State.dropPart (s : State) (t pid : Nat) : State :=
  let s1 := (s.partHandles t pid).foldl (fun s h => (s.dropColl h).dropMem h) s
  let s2 := s1.eraseBlocks t pid
  { s2 with parts := s2.parts.filter fun p => !(p.tenant == t && p.pid == pid) }

def execPartDrop (c : Nat) (s : State) : Res :=
  runCmd c s (fun x => x.isAdmin 3) fun x s =>
    s.withParam x [(0, 2)] fun b =>
      let (t, pid) := paramOwner b
      if t = 0 ∨ 7 < pid then s.malformed c
      else if (s.part? t pid).isNone then s.adminEnd c stBadHandle
      else if !x.started then s.beginDrop x t pid
      else (s.dropPart t pid).adminEnd c stOk

/-! ## Health log (R439) -/

/-- Blocks of spare capacity at creation: what OP provides less the emergency reserve (R432, R436). -/
def State.spareBlocks (s : State) (p : Part) : Nat :=
  let n := (s.blocksOf p.tenant p.pid).length
  n * p.op / 10000 - n / 200

def sat32 (n : Nat) : Nat := Nat.min n 0xFFFFFFFF
def sat64 (n : Nat) : Nat := Nat.min n 0xFFFFFFFFFFFFFFFF

/-- The 128 bytes of a partition's log; RESERVE is a free value, since no rule says how much of the reserve the FLC's metadata takes
(assumption 30). -/
def State.healthLog (s : State) (p : Part) : List Byte :=
  let bs := s.blocksOf p.tenant p.pid
  let rated := Nat.max 1 s.flash.geom.rated
  let spare := s.spareBlocks p
  let st := if p.dropping then 2 else b2n p.readOnly
  let wear := sumBy (·.erases) bs * 10000 / (rated * Nat.max 1 bs.length)
  let wmax := bs.foldl (fun m b => Nat.max m b.erases) 0 * 10000 / rated
  toLe 4 (p.tenant * 256 + st * 32 + b2n p.density * 16 + b2n p.kind * 8 + p.pid) ++ toLe 4 p.classes ++ toLe 8 p.user ++
    toLe 8 (s.partValid p.tenant p.pid) ++
    toLe 4 ((spare - p.retiredBlocks) * 10000 / Nat.max 1 spare * 65536 + Nat.min wear 0xFFFF) ++
    toLe 4 (Nat.min wmax 0xFFFF * 65536 + s.draw 0 % 10001) ++ toLe 8 (sat64 p.hostw) ++ toLe 8 (sat64 p.mediaw) ++
    toLe 8 (sat64 p.corr) ++ toLe 4 (sat32 p.uncorr) ++ toLe 4 (sat32 p.rebuilt) ++ toLe 4 (sat32 p.pfail) ++ toLe 4 (sat32 p.efail) ++
    toLe 4 (sat32 p.retiredBlocks) ++ toLe 4 (sat32 p.noticesOut) ++ toLe 8 p.bufNow ++ toLe 8 (s.bufUsed p) ++
    toLe 2 (ofSigned 16 p.tmax) ++ toLe 2 0 ++ toLe 4 (sat32 p.t0) ++ toLe 4 (sat32 p.t1) ++ toLe 4 (sat32 p.t2) ++ toLe 4 (sat32 p.t3) ++
    toLe 12 0

def execVrPartHealth (c : Nat) (s : State) : Res :=
  runCmd c s (fun x => x.vr == 0x150) fun x s =>
    let dev := bit (x.a 0x10 1) 0
    let t := if x.fn = 0 then x.a 1 1 else x.fn
    if !cleanBut x.args [(0, 2), (8, 8), (16, 1)] || decide (7 < x.a 0 1 ∨ 1 < x.a 0x10 1) || (x.fn != 0 && x.a 1 1 != 0) ||
        !addrOk dev (x.a 8 8) then s.malformed c
    else match s.part? t (x.a 0 1) with
      | none => s.fail c stBadHandle
      | some p => match (s.drew 1).spaceWr x.fn dev (x.a 8 8) (s.healthLog p) with
        | none => (s.drew 1).outputLost x dev (x.a 8 8) (s.healthLog p)
        | some s1 => s1.finish c stOk 0 0

/-- Once a minute, the hottest of a partition's dies (R439). -/
def Part.noteTemp (p : Part) (hot : Int) : Part :=
  let q := { p with tmax := max p.tmax hot }
  if hot < 40 then { q with t0 := q.t0 + 1 } else if hot < 70 then { q with t1 := q.t1 + 1 }
  else if hot < 85 then { q with t2 := q.t2 + 1 } else { q with t3 := q.t3 + 1 }

def execDieTemperatureReading (temps : List (Nat × Int)) (s : State) : Res :=
  onlyIf s.active s fun s =>
    { s with parts := s.parts.map fun p =>
        let dies := (s.blocksOf p.tenant p.pid).map fun b => dieOf b.id
        match (temps.filter fun t => dies.contains t.1).map (·.2) with
        | [] => p
        | h :: r => p.noteTemp (r.foldl max h) }

end Sys2Proof.Machine
end

