-- ==== Sys2Proof/Machine/Resets.lean ====
section
/-! DEFINITION. Resets and loss of power: what each clears and what survives it (R224, R559, R647 to R649, R664). -/
namespace Sys2Proof.Machine

/-! ## Register fields that survive -/

/-- Bits of the fields of a word that satisfy `p`. -/
def fieldBits (fs : List Fld) (p : Fld → Bool) : Word :=
  BitVec.ofNat 64 (sumBy (fun f => (2 ^ (f.hi + 1 - f.lo) - 1) * 2 ^ f.lo) (fs.filter p))

def rwBits (o : Nat) : Word := fieldBits (bar0Fields o) fun f => f.acc == .rw

/-- The word holds tenant configuration fields (R559). -/
def isTenantCfg (o : Nat) : Bool :=
  (decide (oTen 0 ≤ o ∧ o < oTen 256) && [0x0, 0x8, 0x10, 0x18].contains (o % 0x1000)) ||
    decide (oSchTen 0 ≤ o ∧ o < oSchTen 256)

/-- Both HALT bits, which only a cold or power-on reset clears (R648). -/
def haltBits (o : Nat) : Word := if o = oLcsState then 0x100000000 else if o = oSafStatus then 1 else 0

/-- The resets of R647 that act on the whole device, with the loss of power. -/
inductive ResetKind where
  | powerOn | cold | warm | wake
  deriving DecidableEq, Repr

/-- Bits of a word that survive a reset (R647, R664): the tenant configuration fields always; the fields of the always-on domain but
for power-on; the RW fields of FAB and PLC over a warm reset and a wake. -/
def keepBits (k : ResetKind) (o : Nat) : Word :=
  let warm := k == .warm || k == .wake
  (if isTenantCfg o then rwBits o else 0) |||
    (if k = .powerOn then 0 else if o = oCisWipe then BitVec.allOnes 64 else if o = oLcsState then 0xF000000000000 else 0) |||
    (if warm && decide (oFabNode ≤ o ∧ o < oFlcCtrl) then rwBits o else 0) |||
    (if warm && decide (oPlcCtrl ≤ o ∧ o < oCcId 0) then rwBits o else 0) ||| (if warm then haltBits o else 0)

/-- The register file after a reset. -/
def State.keepRegs (s : State) (k : ResetKind) : Map Word :=
  (s.regs.filter fun e => keepBits k e.1 != 0).map fun e =>
    (e.1, (e.2 &&& keepBits k e.1) ||| (resetOf (bar0Fields e.1) &&& ~~~ keepBits k e.1))

/-! ## Units lost (R224, R648) -/

/-- A unit in stack memory or the hub tier, which a reset of an unparked device loses. -/
def State.losesUnit (s : State) (u : PUnit) : Bool := !s.power.parked && u.home != .flash && !u.lost

/-- Tenant and handle of a unit's object, or the base of an allocation. -/
def PUnit.owner (u : PUnit) : Nat × Nat := (u.tenant, unitHandle u.uid)

/-- Objects and allocations that lose their first unit. -/
def State.newLosses (s : State) : List (Nat × Nat) :=
  (((s.units.filter s.losesUnit).map PUnit.owner).eraseDups).filter fun o => !s.units.any fun u => u.lost && u.owner == o

/-- The allocation's unit survives: the device is parked, and the unit is on flash with its lines (R222). -/
def State.allocSurvives (s : State) (a : Alloc) : Bool :=
  s.units.any fun u => u.uid == .alloc a.tenant a.base && u.home == .flash && !u.lost

/-- The byte or line at an address of a tenant belongs to an allocation that survives. -/
def State.addrSurvives (s : State) (t a : Nat) : Bool :=
  s.allocs.any fun m => m.tenant == t && decide (m.base ≤ a ∧ a < m.base + m.size) && s.allocSurvives m

/-- Objects whose drop was admitted are gone (R39, R310), and temporary memories go with their commands (R260). -/
def State.finishDrops (s : State) : State :=
  let s1 := (s.colls.filter fun o => o.dying.isSome).foldl (fun s o => s.dropColl o.handle) s
  let s2 := (s1.mems.filter fun o => o.dying.isSome || o.temp).foldl (fun s o => s.dropMem o.handle) s1
  let gone := (s2.progs.filter (·.dying.isSome)).map (·.handle) ++ (s2.models.filter (·.dying.isSome)).map (·.handle) ++
    (s2.grammars.filter (·.dying.isSome)).map (·.handle)
  let s3 := gone.foldl State.dropUnits s2
  { s3 with
    progs := s3.progs.filter fun o => !o.dying.isSome
    models := s3.models.filter fun o => !o.dying.isSome
    grammars := s3.grammars.filter fun o => !o.dying.isSome }

/-- Power, reset and life-cycle state after a reset: start-up begins at its first step. -/
def Power.restart (p : Power) (k : ResetKind) (lost : List (Nat × Nat)) : Power :=
  { Power.reset with
    link := p.link && k == .warm
    parked := p.parked
    boot := p.boot
    change := p.change
    ownerKey := p.ownerKey
    firstStart := p.firstStart
    lostReport := p.lostReport ++ lost
    startCause := match k with
      | .powerOn => 0
      | .cold => 3
      | .warm => 4
      | .wake => 5 }

/-- A reset of the whole device (R647, R648, R664). Commands stop without a completion entry; the step reached is 1 for power-on and a
cold reset, 2 for a warm reset and a wake (R650). -/
def State.wholeReset (s0 : State) (k : ResetKind) : State :=
  let s := s0.finishDrops
  let s1 : State := { s with
    out := { s.out with atsCache := [] }
    regs := s.keepRegs k
    hq := [], pslot := [], bar4 := [], wrst := [], sq := [], cq := [], cmds := [], sched := .reset, frags := [], clusters := []
    phys := s.phys.map fun e => (e.1, { PhysCluster.reset with retired := e.2.retired })
    dev := s.dev.filter fun e => s.addrSurvives (e.1 / 2 ^ 64) (e.1 % 2 ^ 64)
    cis := []
    allocs := (s.allocs.filter fun a => s.units.any fun u => u.uid == .alloc a.tenant a.base && a.freeing.isNone).map fun a =>
      { a with mapped := a.mapped && s.allocSurvives a }
    ranges := s.ranges.filter fun r => s.addrSurvives r.tenant r.base
    poison := s.poison.filter fun l => s.addrSurvives (l / 2 ^ 58) (l % 2 ^ 58 * 64)
    wells := [], wellsOut := [], wellHw := ⟨[], [], []⟩
    units := (s.units.filter fun u => !s.allocs.any fun a => u.uid == .alloc a.tenant a.base && a.freeing.isSome).map fun u =>
      { u with lost := u.lost || s.losesUnit u, promotedAt := none, demotedAt := none }
    moves := [], movedBytes := 0, oldRanges := []
    parts := s.parts.map fun p => { p with dropping := false }
    flash := { s.flash with patrolled := [], passStart := 0, fullPass := 0 }
    fab := .reset, gates := [], firmware := noImage
    secure := { s.secure with keys := false, ide := [], wiping := s.secure.wiping && k != .powerOn }
    power := s.power.restart k s.newLosses
    evtUnread := 0, evtSeq := 0, clock := 0 }
  s1.setFld oPwrState 11 8 (if k = .powerOn ∨ k = .cold then 1 else 2)

/-- VAON is applied. -/
def execPowerOn (s : State) : Res := onlyIf (!s.power.on) s fun s => s.wholeReset .powerOn

/-- The reset input is asserted; a dormant device answers it too (R642). -/
def execResetInput (s : State) : Res := onlyIf s.power.on s fun s => s.wholeReset .cold

/-- A fundamental or hot reset of the PCIe endpoint acts on every function as R480. -/
def execPcieReset (s : State) : Res := onlyIf s.awake s fun s => s.resetFns 0

/-- Power is removed: what is not parked is lost (R224), and nothing answers until VAON returns. -/
def execPowerLoss (s : State) : Res :=
  onlyIf s.power.on s fun s =>
    let s1 := s.wholeReset .powerOn
    { s1 with power := { s1.power with on := false } }

end Sys2Proof.Machine
end

