-- ==== Sys2Proof/Machine/Security.lean ====
section
/-! DEFINITION. The secure cistern, tamper events, life cycle, rollback, identity and attestation, recovery images, keys and ATS
(R396, R397, R443, R562, R570 to R598). -/
namespace Sys2Proof.Machine

/-! ## The secure cistern (R396, R397, R401) -/

/-- A trigger starts, or restarts, a wipe: keys are gone at once, and CAUSE names the trigger. -/
def State.startWipe (s : State) (cause : Nat) : State :=
  ({ s with secure := { s.secure with keys := false, ide := [], wiping := true } } : State).setFld oCisWipe 19 19 1
    |>.setFld oCisWipe 18 16 cause

/-- A wipe ends: COUNT wraps, FAULT shows the read-back, and a nonzero word keeps the cistern out of use. -/
def State.endWipe (s : State) (bad : Option Nat) : State :=
  let s1 := (({ s with secure := { s.secure with wiping := false, usable := bad.isNone } } : State).setFld oCisWipe 19 19 0).setFld
    oCisWipe 20 20 (b2n bad.isSome)
  match bad with
  | none => s1.wrapAdd oCisWipe 15 0 1
  | some w => (s1.wrapAdd oCisWipe 15 0 1).logEvent evWipeFail 0 [w]

/-! ## Life cycle (R591 to R597) -/

/-- Tenants' objects and partitions go with the life-cycle state: their keys change with the epoch (R559, R595). -/
def State.dropTenants (s : State) (p : Nat → Bool) : State :=
  let s1 := (s.colls.filter fun o => p o.tenant).foldl (fun s o => s.dropColl o.handle) s
  let s2 := (s1.mems.filter fun o => p o.tenant).foldl (fun s o => s.dropMem o.handle) s1
  let imgs := (s2.progs.filter fun o => p o.tenant).map (·.handle) ++ (s2.models.filter fun o => p o.tenant).map (·.handle) ++
    (s2.grammars.filter fun o => p o.tenant).map (·.handle)
  let s3 := imgs.foldl State.dropUnits s2
  let s4 : State := { s3 with
    progs := s3.progs.filter fun o => !p o.tenant
    models := s3.models.filter fun o => !p o.tenant
    grammars := s3.grammars.filter fun o => !p o.tenant }
  let s5 := (s4.allocs.filter fun a => p a.tenant).foldl State.returnAlloc s4
  (s5.parts.filter fun q => p q.tenant && q.tenant != 0).foldl (fun s q => s.dropPart q.tenant q.pid) s5

/-- The tenant configuration fields take their reset values (R559). -/
def State.resetTenantCfg (s : State) : State := { s with regs := s.regs.filter fun e => !isTenantCfg e.1 }

/-- The rest of an accepted change, once its epoch is fused: the state, the tenants' data and their configuration (R595). -/
def State.completeChange (s : State) (target : Nat) : State :=
  let s1 : State := { s with fuses := { s.fuses with lcs := target }, power := { s.power with change := none } }
  { (s1.dropTenants fun _ => true).resetTenantCfg with power := { s1.power with lostReport := [] } }

/-- A wipe whose cause is a life-cycle change is step 4 of R595: the state is fused, and the device resets into it. -/
def execSecureCisternWipe (cause : Nat) (s : State) : Res :=
  match s.power.change with
  | some t => onlyIf (s.power.on && decide (1 ≤ cause ∧ cause ≤ 5)) s fun s =>
    if cause = 2 then ((s.startWipe 2).completeChange t).wholeReset .cold else s.startWipe cause
  | none => onlyIf (s.power.on && decide (1 ≤ cause ∧ cause ≤ 5)) s fun s => s.startWipe cause

/-- After a wipe that is not a tamper, the MC derives the media and identity keys again (R571). -/
def execWipeComplete (bad : Option Nat) (s : State) : Res :=
  onlyIf (s.power.on && s.secure.wiping) s fun s =>
    let s1 := s.endWipe bad
    { s1 with secure := { s1.secure with
        keys := bad.isNone && s.fld oCisWipe 18 16 != 1 && decide (4 < s.fld oPwrState 11 8) } }

/-- Tamper sensing is on (R591, R596). -/
def State.sensing (s : State) : Bool := s.fuses.lcs == 1 || s.fuses.lcs == 2

/-- Every command in flight ends with `ST_WIPED` (R596). -/
def State.wipeCommands (s : State) : State :=
  ((s.cmds.filter fun x => x.inFlight && x.parent.isNone).map (·.id)).foldl (fun s c => s.stopCmd c stWiped) s

/-- A tamper event: wipe, TAMPER bit, record and HALT. `end` tells whether commands in flight complete, which they do not where a hub
fault halts the device under R622. -/
def State.tamperEvent (s : State) (bit : Nat) (ends : Bool) : State :=
  let s1 := (((s.startWipe 1).setFld oLcsState (48 + bit) (48 + bit) 1).logEvent evTamper 0 [bit]).setFld oLcsState 32 32 1
  if ends && s.fld oSafStatus 0 0 == 0 then s1.wipeCommands else s1

def execTamper (bit : Nat) (s : State) : Res :=
  onlyIf (s.power.on && s.sensing && decide (bit < 4)) s fun s => s.tamperEvent bit true

/-! ## Replies -/

def State.reply (s : State) (src : ReqSource) (code status : Nat) (data : List Byte) : State :=
  { s with out := { s.out with replies := s.out.replies ++ [{ src := src, code := code, status := status, data := data }] } }

/-- The firmware serves requests of this source: MCTP, or the DOE of a function over the host link. A halted device answers both
(R578, R585, R622). -/
def State.serves (s : State) (src : ReqSource) : Bool :=
  s.awake && s.pastStep3 && match src with
  | .mctp => true
  | .doe fn => s.power.link && decide (fn < 256)

/-- The tenant that a source's report describes (R585). -/
def reqTenant : ReqSource → Nat
  | .mctp => 0
  | .doe fn => fn

/-- SHAKE256 of the fused key hashes, revocations and owner key hash (R588). -/
def fuseMeasure (f : Fuses) : List Byte := digest (f.keyHash.flatten ++ Config.revocationBytes f.revoked ++ f.ownerHash)

/-! ## Attestation (R585 to R590) -/

def State.tamperBits (s : State) : Nat := s.fld oLcsState 51 48

/-- Bytes 0x000 to 0x1AF of a report (R586). -/
def State.reportBody (s : State) (t : Nat) (nonce : List Byte) : List Byte :=
  let f := s.fuses
  toLe 4 (t * 2 ^ 24 + f.lcs * 2 ^ 16 + 1) ++ toLe 4 (f.epoch * 2 ^ 24 + f.svnv * 2 ^ 16 + f.svnf * 2 ^ 8 + s.tamperBits) ++ toLe 8 f.serial ++
    nonce ++ s.meas (oMeas 0) ++ s.meas (oMeas 1) ++ s.meas (oMeas 2) ++ s.meas (oMeas 3) ++ s.meas (oMeas4 t) ++
    (Config.identityKey f.secret).take 64

/-- The status with which a report or key request fails (R397, R587). -/
def State.keyStatus (s : State) : Option Nat :=
  if !s.sensing then some stDenied
  else if s.secure.wiping || !s.secure.usable || !s.secure.keys then some stWiped else none

def execAttestationReport (src : ReqSource) (nonce : List Byte) (s : State) : Res :=
  onlyIf (s.serves src && nonce.length == 32) s fun s =>
    match s.keyStatus with
    | some e => s.reply src 3 e []
    | none =>
      let b := s.reportBody (reqTenant src) nonce
      s.reply src 3 stOk (b ++ Config.slhSign s.fuses.secret b)

/-- The certificates of the chain: 2 to 4 of them, of lengths that fit the chain store of 256 KiB (R590). -/
def certificates (serial : Nat) : List (List Byte) :=
  (List.range (2 + Config.certificateCount serial % 3)).map fun i => (Config.certificate serial i).take 65520

/-- The certificate chain in the layout of R590. -/
def certChain (serial : Nat) : List Byte :=
  let cs := certificates serial
  let body := cs.flatMap fun d => toLe 4 d.length ++ d ++ List.replicate (roundUp (4 + d.length) 8 - (4 + d.length)) 0
  toLe 4 (2 ^ 16 + cs.length) ++ toLe 4 (16 + body.length) ++ toLe 8 serial ++ body

def execCertificateChain (src : ReqSource) (s : State) : Res :=
  onlyIf (s.serves src) s fun s => s.reply src 4 stOk (certChain s.fuses.serial)

/-! ## Life-cycle requests (R592 to R595) -/

/-- LCS.NONCE. -/
def State.nonce (s : State) : List Byte := (List.range 4).flatMap fun i => toLe 8 (s.word (oLcsNonce + 8 * i)).toNat

def State.setNonce (s : State) (n : List Byte) : State := s.setWords oLcsNonce ((List.range 4).map fun i => leAt n (8 * i) 8)

/-- A fresh nonce replaces the one that a request used (R593). -/
def State.freshNonce (s : State) : State := (s.setNonce (Config.randomBytes s.free)).drew 1

/-- OWNERPK of a token. -/
def tokenKey (b : List Byte) : List Byte := (b.drop 0x30).take 64

/-- The device accepts a token for a target (R593). -/
def State.tokenOk (s : State) (target : Nat) (b : List Byte) : Bool :=
  b.length == 0x74D0 && leAt b 0 4 == target && leAt b 4 4 == 0 && leAt b 8 8 == s.fuses.serial && (b.drop 0x10).take 32 == s.nonce &&
    Config.slhVerify (tokenKey b) (b.take 0x70) (b.drop 0x70) && (s.fuses.lcs == 0 || digest (tokenKey b) == s.fuses.ownerHash)

/-- Transitions of R592: none where there is none, else whether a token is required. -/
def transition (src dst : Nat) : Option Bool :=
  if src = 0 ∧ dst = 1 then some true
  else if src = 1 ∧ dst = 2 then some false
  else if src = 2 ∧ dst = 1 then some true
  else if src < 3 ∧ dst = 3 then some false else none

/-- Commands in flight stop under R310, which leaves admitted drops and releases running. -/
def State.abortAll (s : State) : State :=
  ((s.cmds.filter fun x => x.inFlight && x.parent.isNone && !x.unstoppable).map (·.id)).foldl (fun s c => s.stopCmd c stAborted) s

/-- An accepted change as far as the fusing of the epoch and the owner key hash (R595). -/
def State.beginChange (s : State) (target : Nat) (token : Option (List Byte)) : State :=
  let f := s.fuses
  let owner := match token with
    | some b => if f.lcs = 0 then digest (tokenKey b) else f.ownerHash
    | none => f.ownerHash
  let s1 := (s.setFld oLcsState 33 33 1).abortAll
  { s1 with
    fuses := { s1.fuses with epoch := Nat.min 30 (f.epoch + 1), ownerHash := owner }
    power := { s1.power with change := some target, ownerKey := match token with
      | some b => if f.lcs = 0 then tokenKey b else s1.power.ownerKey
      | none => s1.power.ownerKey } }

/-- Status of a life-cycle request (R592, R594). -/
def State.changeStatus (s : State) (target : Nat) (token : Option (List Byte)) : Nat :=
  if s.power.change.isSome then stConflict
  else match transition s.fuses.lcs target with
    | none => stDenied
    | some need =>
      if need && !token.any (s.tokenOk target) then stDenied
      else if 30 ≤ s.fuses.epoch ∧ target ≠ 3 then stDenied else stOk

/-- The request checks its token, and so uses the nonce. -/
def State.usesNonce (s : State) (target : Nat) (token : Option (List Byte)) : Bool :=
  s.power.change.isNone && transition s.fuses.lcs target == some true && token.isSome

/-- Requests come over MCTP and the PF's DOE (R594). -/
def execLifeCycleChange (src : ReqSource) (target : Nat) (token : Option (List Byte)) (s : State) : Res :=
  onlyIf (s.serves src && reqTenant src == 0) s fun s =>
    let st := s.changeStatus target token
    let need := transition s.fuses.lcs target == some true
    let s1 := if st = stOk then s.beginChange target (if need then token else none) else s
    (if s.usesNonce target token then s1.freshNonce else s1).reply src 5 st []

/-! ## Recovery images (R578, R581) -/

/-- Bytes of a whole image, once its header has come. -/
def imageTotal (b : List Byte) : Option Nat := if b.length < 0x7500 then none else some (0x7500 + leAt b 0xC 4)

/-- A whole recovery image is checked under R580 and written to both copies. -/
def State.tryRecovery (s : State) (b : List Byte) : State :=
  let s1 : State := { s with power := { s.power with recovery := [] } }
  if signedCheck s.fuses 1 b = 6 then
    ({ s1 with power := { s1.power with
        boot := some { slot := imgSlot b, svn := imgSvn b, digest := imgDigest b, body := imgBody b } } } : State).reply .mctp 6 stOk []
  else s1.reply .mctp 6 stDenied []

def execRecoveryImage (piece : List Byte) (s : State) : Res :=
  onlyIf (s.awake && decide (1 ≤ piece.length ∧ piece.length ≤ 4096)) s fun s =>
    let b := s.power.recovery ++ piece
    if (imageTotal b).any fun n => decide (n ≤ b.length) then s.tryRecovery b
    else ({ s with power := { s.power with recovery := b } } : State).reply .mctp 6 stOk []

/-! ## Rollback (R583) -/

def revokeBelow (r : BitVec 4) (slot : Nat) : BitVec 4 := r ||| BitVec.ofNat 4 (2 ^ slot - 1)

/-- LCS.ROLL.FW: the counter of MC firmware follows the running image. -/
def State.rollFw (s : State) : State :=
  if s.firmware.digest = [] ∨ s.firmware.svn < s.fuses.svnf then s
  else { s with fuses := { s.fuses with svnf := s.firmware.svn, revoked := revokeBelow s.fuses.revoked s.firmware.slot } }

/-- LCS.ROLL.VARELM. -/
def State.rollVarelm (s : State) : State :=
  if s.varelm.digest = [] ∨ s.varelm.svn < s.fuses.svnv then s
  else { s with fuses := { s.fuses with svnv := s.varelm.svn, revoked := revokeBelow s.fuses.revoked s.varelm.slot } }

/-! ## Erasing a tenant (R562) -/

/-- The tenant's objects, partitions, salt, measurement and counters go; quotas and SCH.TEN stay. -/
def State.eraseTenant (s : State) (t : Nat) (salt : List Byte) : State :=
  let s1 := s.dropTenants fun x => x == t
  ({ s1 with salts := Map.put s1.salts t salt, regs := dropKeys s1.regs fun k => (tenCounters t).contains k } : State).setMeas (oMeas4 t)
    (List.replicate 64 0)

/-- The media key of a tenant (R570); the concatenation takes the epoch and the number as single bytes (assumption 24). -/
def State.mediaKey (s : State) (t : Nat) : List Byte :=
  shake256 64 (s.fuses.secret ++ toLe 1 s.fuses.epoch ++ toLe 1 t ++ Map.getD s.salts t (Config.randomBytes t))

/-! ## IDE keys, test mode and ATS (R443, R549, R571) -/

/-- An IDE_KM message sets a stream's key; the link stream is number 0, the selective ones 1 to 8. -/
def execIdeKmKeySet (stream : Nat) (key : List Byte) (s : State) : Res :=
  onlyIf (s.serves (.doe 0) && decide (stream < 9) && key.length == 32) s fun s =>
    if s.secure.wiping || !s.secure.usable then s.reply (.doe 0) 0 stWiped []
    else ({ s with secure := { s.secure with ide := Map.put s.secure.ide stream key } } : State).reply (.doe 0) 0 stOk []

def execTestModeEntry (entered : Bool) (s : State) : Res :=
  onlyIf s.awake s fun s => ({ s with power := { s.power with testMode := entered } } : State).syncObs

/-- What is left of a refused range once another is translated again. -/
def cutRange (r : Nat × Nat × Nat) (fn base len : Nat) : List (Nat × Nat × Nat) :=
  let (f, b, l) := r
  if f ≠ fn ∨ b + l ≤ base ∨ base + len ≤ b then [r]
  else ((if b < base then [(f, b, base - b)] else []) ++ if base + len < b + l then [(f, base + len, b + l - (base + len))] else [])

/-- An ATS invalidation drops the cached translations of a range; `present` tells whether the host translates it from then on. -/
def execAtsInvalidation (fn base len : Nat) (present : Bool) (s : State) : Res :=
  onlyIf (s.awake && s.power.link && decide (fn < 256)) s fun s =>
    let o := s.out
    { s with out := { o with
        atsCache := o.atsCache.filter fun p => !(p.1 == fn && decide (p.2 * 4096 < base + len ∧ base < p.2 * 4096 + 4096))
        refused := o.refused.flatMap (fun r => cutRange r fn base len) ++ if present then [] else [(fn, base, len)] } }

end Sys2Proof.Machine
end

