-- ==== Sys2Proof/Machine/Startup.lean ====
section
/-! DEFINITION. Start-up, from the end of a reset to READY (R395, R396, R405, R409, R442, R581, R588, R609, R614, R650 to R653, R670,
R671). Each START_UP carries it through the step that PWR.STATE.STEP shows; the times of R650 are not modelled. -/
namespace Sys2Proof.Machine

/-! ## Boot (R580, R581) -/

/-- The image of an accepted copy is one that R580 can accept, and the one that a recovery wrote where there is one. -/
def State.bootOk (s : State) (i : StartInfo) : Bool :=
  let f := s.fuses
  decide (i.primary ≤ 6 ∧ i.secondary ≤ 6) &&
    (i.primary != 6 && i.secondary != 6 ||
      (decide (i.fw.slot < 4 ∧ i.fw.svn ≤ 64 ∧ f.svnf ≤ i.fw.svn) && !f.revoked.getLsbD i.fw.slot && (f.lcs != 0 || i.fw.slot == 0) &&
        s.power.boot.all (· == i.fw)))

/-- The Varelm image that the first start-up finds passes the checks of R580 (R581, R188). -/
def State.varelmOk (s : State) (i : StartInfo) : Bool :=
  let f := s.fuses
  !(s.power.firstStart && s.varelm == noImage) ||
    (decide (i.varelm.slot < 4 ∧ i.varelm.svn ≤ 64 ∧ f.svnv ≤ i.varelm.svn) && !f.revoked.getLsbD i.varelm.slot)

/-- Neither copy is accepted: start-up stops at step 3. -/
def State.failBoot (s : State) (i : StartInfo) : State :=
  let s1 : State := { s with power := { s.power with bootFailed := true } }
  (s1.logEvent evBootFail 0 [0, i.primary]).logEvent evBootFail 0 [1, i.secondary]

/-! ## Flash (R405, R409, R442) -/

/-- Dies of a channel, as a number of bits. -/
def popcount16 (n : Nat) : Nat := ((List.range 16).filter (bit n)).length

/-- One channel: dies found, dies that fit R404 and R405, rate. -/
def State.startChannel (s : State) (n : Nat) (c : Nat × Nat × Nat) : State :=
  let found := c.1 % 65536
  let good := found &&& c.2.1
  let s1 := ((s.setFld (oFlcChst n) 47 32 c.2.2).setFld (oFlcChst n) 31 16 good).setFld (oFlcChst n) 15 0 (found - good)
  let s2 : State := { s1 with flash := { s1.flash with dies := Map.put s1.flash.dies n good } }
  ((List.range 16).filter fun b => bit found b && !bit good b).foldl (fun s b => s.logEvent evFlashConfig 0 [n, b / 4, b % 4]) s2

def State.startChannels (s : State) (cs : List (Nat × Nat × Nat)) : State :=
  let s1 := (cs.zipIdx.filter fun p => decide (p.2 < 32)).foldl (fun s p => s.startChannel p.2 p.1) s
  s1.setFld oSysCap 55 46 (sumBy (fun e => popcount16 e.2) s1.flash.dies)

/-- A factory-marked block is retired at first start-up (R432). -/
def State.retireFactory (s : State) (b : Nat) : State :=
  let blk : Block := { Block.blank b 0 with st := .retired }
  (s.setBlocks (s.flash.blocks ++ [blk])).logEvent evBlockRetired 0 [b / 2 ^ 20, b / 2 ^ 18 % 4, b / 2 ^ 16 % 4, b % 2 ^ 16, 0]

/-- The system partition of R409. -/
def State.systemPart (s : State) : State :=
  let n := s.rawBlocks (s.rawBytes false (848952 * mib) 1250 (64 * gib))
  (s.newPart { tenant := 0, pid := 0, density := false, kind := false, classes := 0, cap := 0, op := 1250, buf := 64 }).giveBlocks 0 0
    (s.unalloc.take n)

/-! ## Clusters (R614) -/

/-- The logical map that the device chooses at first start-up: at most 512 distinct physical clusters that pass their self-test. -/
def mapOk (i : StartInfo) : Bool :=
  decide (i.logicalMap.length ≤ 512 ∧ i.logicalMap.eraseDups.length = i.logicalMap.length) &&
    i.logicalMap.all fun p => decide (p < 544) && !i.badClusters.contains p

def mapOf : List Nat → Nat → Map Nat
  | [], _ => []
  | p :: r, i => (i, p) :: mapOf r (i + 1)

/-! ## First start-up -/

/-- The fuses, which the first start-up reads; later ones find what the state keeps. -/
def State.readFuses (s : State) (i : StartInfo) : State :=
  if s.power.firstStart && s.fuses == blankFuses then { s with fuses := i.fuses } else s

/-- What only the first start-up does with flash and clusters. -/
def State.layOut (s : State) (i : StartInfo) : State :=
  if s.power.firstStart then
    let s1 : State := { s with flash := { s.flash with geom := i.geom }, logical := mapOf i.logicalMap 0 }
    (i.factoryBad.foldl State.retireFactory s1).systemPart
  else s

/-! ## The steps -/

/-- What a start-up does before anything else, at its first step: the fuse read, and a change whose epoch is fused completes (R595,
R597). -/
def State.stepOne (s : State) (i : StartInfo) : State :=
  let s1 := s.readFuses i
  match s1.power.change with
  | some t => s1.completeChange t
  | none => s1

/-- Step 2: the wipe, and the links train. The reset values of CIS.WIPE count the wipe after power-on (R401). -/
def State.stepTwo (s : State) (i : StartInfo) : State :=
  let s1 : State := { s with power := { s.power with link := true } }
  if s1.power.startCause = 0 then
    match i.wipeBad with
    | none => { s1 with secure := { s1.secure with usable := true } }
    | some w => (({ s1 with secure := { s1.secure with usable := false } } : State).setFld oCisWipe 20 20 1).logEvent evWipeFail 0 [w]
  else (s1.startWipe s1.power.startCause).endWipe i.wipeBad

/-- Step 3: the accepted copy runs and is measurement 0 (R581, R671). -/
def State.stepThree (s : State) (i : StartInfo) : State :=
  ((({ s with firmware := i.fw } : State).setFld oSysVer 40 40 (b2n (i.primary != 6))).setFld oSysVer 39 32 (i.fw.svn % 256)).setMeas (oMeas 0)
    i.fw.digest

/-- Step 4: keys, the Varelm image of the system partition, and the other measurements. -/
def State.stepFour (s : State) (i : StartInfo) : State :=
  let s1 : State := { s with secure := { s.secure with keys := s.secure.usable },
                             varelm := if s.power.firstStart && s.varelm == noImage then i.varelm else s.varelm }
  let s2 := (s1.setFld oSysVer 31 24 (s1.varelm.svn % 256)).setFld oSysVer 15 0 1
  ((s2.setMeas (oMeas 1) s2.varelm.digest).measureWells).setMeas (oMeas 3) (fuseMeasure s2.fuses)

/-- Step 6 and the flash channels: wells, clusters, dies. -/
def State.stepSix (s : State) (i : StartInfo) : State :=
  let s0 : State := { s with wellHw := { s.wellHw with store := wellStore s.varelm.body } }
  let s1 := (s0.setFld oWellcInsvc 12 0 5952).setFld oWellcInsvc 28 16 0
  let s2 := (s1.startChannels i.channels).layOut i
  let s3 := (i.badClusters.filter fun p => decide (p < 544)).foldl (fun s p => s.retirePhys p 0) s2
  s3.syncCap

/-- One record for each object that the last reset made lose a unit (R224). -/
def State.reportLosses (s : State) : State :=
  { s.power.lostReport.foldl (fun s o => s.logEvent evUnitLost o.1 [o.2]) s with power := { s.power with lostReport := [] } }

/-- Blocks to recover under R438 before a command that needs flash runs (R652). -/
def State.needsRecovery (s : State) : Bool := s.flash.blocks.any fun b => b.st == .opened || b.st == .victim

/-- Step 7: READY. The clocks run, and the start-up period of R549 ends. -/
def State.stepSeven (s : State) (i : StartInfo) : State :=
  let s1 := ((s.setFld oPwrState 2 2 1).setFld oPwrState 1 0 0).setFld oClkStatus 5 0 0x2F
  let s2 := s1.setNonce i.nonce
  ({ s2 with
    flash := { s2.flash with recovering := s2.needsRecovery }
    power := { s2.power with link := true, firstStart := false } } : State).syncObs

/-- The step reached (R650, R655). -/
def State.startStep (s : State) : Nat := s.fld oPwrState 11 8

/-- The device is in start-up and nothing holds it there: power-on, a reset or a wake has happened, and no boot failure or halt. -/
def State.canStart (s : State) : Bool :=
  s.awake && s.fld oSafStatus 0 0 == 0 && s.fld oPwrState 1 0 == 3 && !s.power.bootFailed && decide (1 ≤ s.startStep ∧ s.startStep ≤ 6)

/-- What the part shows at the step that runs is possible. -/
def State.startOk (s : State) (i : StartInfo) : Bool :=
  (s.startStep != 3 || s.bootOk i) && (s.startStep != 4 || s.varelmOk i) && (s.startStep != 6 || (mapOk i && i.nonce.length == 32))

/-- The work of one step, and the step that follows. Step 5, whose training and clearing leave nothing that the state does not hold
already, and step 4, with which it runs in parallel, come one after the other. -/
def State.runStep (s : State) (i : StartInfo) : State :=
  let k := s.startStep
  if k = 1 then (s.stepOne i).setFld oPwrState 11 8 2
  else if k = 2 then ((s.stepOne i).stepTwo i).setFld oPwrState 11 8 3
  else if k = 3 then if i.primary ≠ 6 ∧ i.secondary ≠ 6 then s.failBoot i else (s.stepThree i).setFld oPwrState 11 8 4
  else if k = 4 then (s.stepFour i).setFld oPwrState 11 8 5
  else if k = 5 then s.setFld oPwrState 11 8 6
  else (((s.stepSix i).reportLosses).setFld oPwrState 11 8 7).stepSeven i

def execStartUp (i : StartInfo) (s : State) : Res := onlyIf (s.canStart && s.startOk i) s fun s => s.runStep i

end Sys2Proof.Machine
end

