-- ==== Sys2Proof/Machine/Thermal.lean ====
section
/-! DEFINITION. Temperatures, the throttle, power limits, cluster gating, idle and dormant (R537, R567, R637 to R646). -/
namespace Sys2Proof.Machine

/-- Temperatures are in 1/16 °C. -/
def degC (n : Int) : Int := 16 * n

/-- TJ as a signed number. -/
def State.tj (s : State) : Int := toSigned 16 (s.fld oPwrTherm 15 0)

/-- The hottest junction of a measurement is stored, and the trip of R646 starts at 110 °C and ends when all are below 100 °C. -/
def State.sample (s : State) (temps : List Int) (hot : Int) : State :=
  let peak := max hot (toSigned 16 (s.fld oPwrTherm 31 16))
  let s1 := (({ s with power := { s.power with temps := temps } } : State).setFld oPwrTherm 15 0 (ofSigned 16 hot)).setFld oPwrTherm 31 16
    (ofSigned 16 peak)
  if degC 110 ≤ hot ∧ s.tripped = false then (s1.setFld oPwrTherm 36 36 1).sendIbi 0
  else if hot < degC 100 ∧ s.tripped = true then s1.setFld oPwrTherm 36 36 0 else s1

/-- Some die is above 115 °C or below −20 °C (R596, R646). -/
def tamperTemp (temps : List Int) : Bool := temps.any fun t => decide (degC 115 < t ∨ t < degC (-20))

/-- The measurement that first finds a die outside the limits of R596 is a tamper event, where tampering is sensed. -/
def execTemperatureSample (temps : List Int) (s : State) : Res :=
  match temps with
  | [] => .next s
  | h :: r => onlyIf s.awake s fun s =>
    let s1 := s.sample temps (r.foldl max h)
    if s.sensing && tamperTemp temps && !tamperTemp s.power.temps then s1.tamperEvent 3 true else s1

/-- The share in force is the larger of the two demands (R643). -/
def State.setShares (s : State) (t p : Nat) : State :=
  ({ s with power := { s.power with shareT := t, shareP := p } } : State).setFld oPwrTherm 35 32 (Nat.max t p)

/-- The thermal demand moves by 1/16 (R645). -/
def State.thermalShare (s : State) : Nat :=
  if degC 100 ≤ s.tj then Nat.min 12 (s.power.shareT + 1)
  else if s.tj < degC 98 then s.power.shareT - 1 else s.power.shareT

def execThrottleAdjust (s : State) : Res := onlyIf s.live s fun s => s.setShares s.thermalShare s.power.shareP

/-- A 1 ms power window. How far a window moves the power demand is not stated: it is a free value from 0 to 12 sixteenths. At the
largest share, a window above PLIMIT sets PLOVER and the share stays (R643). -/
def execPowerWindow (watts : Nat) (s : State) : Res :=
  onlyIf s.live s fun s =>
    let exceeded := decide (s.fld oPwrCtrl 26 16 < watts)
    if exceeded && s.fld oPwrTherm 35 32 == 12 then s.setFld oPwrTherm 37 37 1
    else (s.drew 1).setShares s.power.shareT (s.draw 0 % 13)

/-! ## Cluster gating (R537, R638, R639) -/

/-- Power gating writes back what the line cache holds, as eviction may at any time, and the cistern's contents go (R323, R398). -/
def State.powerGate (s : State) (l : Nat) : State :=
  let s1 := ((s.cluster l).lines.filter fun x => s.devMapped x.tenant (x.line * 64) 64).foldl State.writeBack s
  ({ s1 with cis := Mem.clear s1.cis (cisKey l 0) (2 ^ 22) } : State).setCluster l Cluster.reset

def execClusterPowerGate (l : Nat) (s : State) : Res :=
  onlyIf (s.live && s.inService l && !s.holdsFrag l && (s.cluster l).waking.isEmpty && s.gatingOf l != .powerGated && s.mayGate l) s
    fun s => s.powerGate l

/-! ## Idle (R641) -/

/-- Nothing is held, and no tenant has a class-0 rate. -/
def State.quiet (s : State) : Bool :=
  s.cmds.isEmpty && s.frags.isEmpty && s.moves.isEmpty && !s.anyRate &&
    s.wells.all fun w => w.st != .queued && w.st != .running

/-- On entry every cluster is gated. -/
def execIdleEntry (s : State) : Res :=
  onlyIf (s.active && s.quiet) s fun s => (((s.clusters.map (·.1)).foldl State.powerGate s)).setFld oPwrState 1 0 1

def execIdleExit (s : State) : Res :=
  onlyIf (s.ready && s.fld oPwrState 1 0 == 1) s fun s => s.setFld oPwrState 1 0 0

/-! ## Dormant (R642) -/

/-- The host link and the fabric ports close. -/
def State.closeLinks (s : State) : State :=
  (List.range 8).foldl (fun s n => s.setFld (oFabPort n) 19 18 0) { s with power := { s.power with link := false } }

/-- A write of DORMANT on a parked device. -/
def State.enterDormant (s : State) : State := s.closeLinks.setFld oPwrState 1 0 2

/-- A write of WAKE: it ends dormancy, or is held while entry runs. -/
def State.wake (s : State) : State :=
  if s.power.dormant then s.wholeReset .wake
  else if s.entering then { s with power := { s.power with wakeHeld := true } } else s

def execDormantEntryComplete (s : State) : Res :=
  onlyIf (s.power.on && !s.power.dormant && s.entering) s fun s =>
    let s1 : State := { s with power := { s.power with dormant := true } }
    if s.power.wakeHeld then s1.wake else s1

/-! ## Cluster-time windows (R567) -/

/-- A period's next multiple of device time. -/
def nextMultiple (clock period : Nat) : Nat := (clock / period + 1) * period

def execTimeWindow (s : State) : Res :=
  onlyIf s.live s fun s => { s with clock := nextMultiple s.clock (10 * msPs), sched := { s.sched with used := [] } }

end Sys2Proof.Machine
end

