-- ==== Sys2Proof/Machine/Access.lean ====
section
/-! DEFINITION. Reads of registers: the fields that follow the device's state, the tenant 0 quotas, the cluster windows, and the
accesses of R445 and R660 (R7, R141, R193, R229 to R232, R403, R560, R563, R577, R591, R598, R631, R633, R669 to R673). -/
namespace Sys2Proof.Machine

/-! ## Masters (R574) -/

/-- Precedence, which is also the number of EV_REG_CONFLICT. -/
def masterRank : Master → Nat
  | .bmc => 1
  | .queen _ => 2
  | .pf => 3
  | .vf _ => 4

/-- Function of a master that reaches the device over PCI Express. -/
def masterFn : Master → Option Nat
  | .pf => some 0
  | .vf t => some t
  | _ => none

/-! ## Fields that follow state -/

/-- MiB, rounded up. -/
def mibUp (n : Nat) : Nat := ceilDiv n mib

/-- A tenant's bytes on flash: its units there, parked ones too, and its records (R232). -/
def State.flashUse (s : State) (t : Nat) : Nat :=
  sumBy (·.bytes) (s.units.filter fun u => u.tenant == t && u.home == .flash && !u.lost) +
    sumBy Rec.size (s.homeRecs.filter fun r => r.tenant == t)

/-- Per-mille of the tenant's cluster time in the current window (R563, R567). -/
def State.timeUse (s : State) (t : Nat) : Nat :=
  Nat.min 1000 (Map.getD s.sched.used t 0 * 1000 / Nat.max 1 (64 * s.fld oSafCap 9 0 * 12500000))

/-- A quota register; those of tenant 0 read as the top of each range. -/
def State.quotaWord (s : State) (t o : Nat) : Word :=
  if t ≠ 0 then s.word (oTen t + o)
  else if o = 0x8 then BitVec.ofNat 64 (32768 * 2 ^ 32 + s.fld oPlcCap 31 0)
  else if o = 0x10 then 1048576
  else 1000

/-- A word of a TEN window. -/
def State.tenWord (s : State) (t o : Nat) : Word :=
  if o = 0x0 then BitVec.ofNat 64 (setField (s.word (oTen t)).toNat 0 0 (b2n (s.tenEn t)))
  else if o = 0x8 ∨ o = 0x10 ∨ o = 0x18 then s.quotaWord t o
  else if o = 0x20 then BitVec.ofNat 64 (s.partSum t % 2 ^ 32 * 2 ^ 32 + Nat.min (s.heldCis t) 0xFFFF * 65536 + s.timeUse t)
  else if o = 0x110 then BitVec.ofNat 64 (mibUp (s.flashUse t) % 2 ^ 32 * 2 ^ 32 + mibUp (s.stackUse t) % 2 ^ 32)
  else s.word (oTen t + o)

/-- LCS.STATE: fused fields beside TAMPER, PENDING and HALT. -/
def State.lcsWord (s : State) : Word :=
  let w := (s.word oLcsState).toNat
  BitVec.ofNat 64 (field w 51 48 * 2 ^ 48 + s.fuses.epoch % 256 * 2 ^ 40 + field w 33 32 * 2 ^ 32 + s.fuses.svnv % 256 * 2 ^ 24 +
    s.fuses.svnf % 256 * 2 ^ 16 + s.fuses.revoked.toNat * 2 ^ 12 + s.fuses.lcs % 4)

def gatingNo : Gating → Nat
  | .running => 0
  | .clockGated => 1
  | .powerGated => 2

/-- TEL.CLU of a physical cluster, with THREADS as last sampled (R672). -/
def State.telWord (s : State) (p : Nat) : Word :=
  match s.logicalOf p with
  | some l => BitVec.ofNat 64 (s.fld (oTelClu p) 19 13 * 2 ^ 13 + gatingNo (s.gatingOf l) * 2 ^ 11 + l)
  | none => BitVec.ofNat 64 (2 * 2 ^ 11 + (if (s.physOf p).retired then 2 else 1) * 2 ^ 9)

/-- CC.ID of a physical cluster (R673). -/
def ccWord (p : Nat) : Word := BitVec.ofNat 64 (p % 136 / 17 * 2 ^ 13 + p / 136 * 2 ^ 10 + p)

/-- Whole minutes since a device time; stops at 0xFFFF. -/
def State.minutesSince (s : State) (t : Nat) : Nat := Nat.min 0xFFFF ((s.clock - t) / (60 * 10 ^ 12))

/-- SAF.PATROL. -/
def State.patrolWord (s : State) : Word :=
  BitVec.ofNat 64 (s.fld oSafPatrol 63 32 * 2 ^ 32 + s.minutesSince s.power.fullPass * 65536 + s.minutesSince s.flash.fullPass)

/-- A queue register shows MODE by the period in force (R549, R556). -/
def State.queueReg (s : State) (o : Nat) : Word :=
  BitVec.ofNat 64 (setField (s.word o).toNat 63 63 (b2n s.observing))

/-- PLC.RESERVE.USED is the sum of class-0 budgets, rounded up (R230). -/
def State.reserveUsed (s : State) : Nat := mibUp (sumBy (·.budget) (s.colls.filter fun c => c.cls == 0))

/-- A cluster-domain PLL runs while some cluster is out of power gating (R637). -/
def State.clkWord (s : State) : Word :=
  BitVec.ofNat 64 (setField (s.word oClkStatus).toNat 4 4 (b2n (s.logical.any fun e => s.gatingOf e.1 != .powerGated)))

/-- Number of the cluster window of an offset, and the offset in it. -/
def clusterWindow (o : Nat) : Option (Nat × Nat) :=
  if oCcId 0 ≤ o ∧ o < oCcId 544 then some ((o - oCcId 0) / 0x4000, (o - oCcId 0) % 0x4000) else none

/-- Abaund's test registers lie here: a cluster window in BLANK or RETURNED (R673). -/
def State.testReg (s : State) (o : Nat) : Bool :=
  !s.sensing && (clusterWindow o).any fun p => decide (0x100 ≤ p.2)

/-- The 64-bit word that a master reads at an 8-byte aligned offset of the PF's BAR 0, but for the HQ block. -/
def State.blockWord (s : State) (m : Master) (o : Nat) : Word :=
  match clusterWindow o with
  | some (p, k) => if k = 0 then ccWord p else if s.testReg o then BitVec.ofNat 64 (s.draw o) else 0
  | none =>
    if bar0Fields o = [] then 0
    else if o = oSysId + 8 then BitVec.ofNat 64 s.fuses.serial
    else if o = oSysWrst then Map.getD s.wrst (masterRank m) 0
    else if o = oLcsState then s.lcsWord
    else if o = oClkStatus then s.clkWord
    else if o = oSafPatrol then s.patrolWord
    else if o = oEvtPtr then BitVec.ofNat 64 (setField (s.word o).toNat 25 25 (b2n (s.evtUnread == 512)))
    else if oTelClu 0 ≤ o ∧ o < oTelClu 544 then s.telWord ((o - oTelClu 0) / 8)
    else if oTen 0 ≤ o ∧ o < oTen 256 then s.tenWord ((o - oTen 0) / 0x1000) (o % 0x1000)
    else if isQueueReg o then s.queueReg o
    else if oGateCtrl 0 ≤ o ∧ o < oGateCtrl 16 ∧ o % 0x40 = 0x18 then
      BitVec.ofNat 64 (setField (s.word o).toNat 31 0 (Nat.min 0xFFFFFFFF (s.levelNow ((o - oGateCtrl 0) / 0x40) / 1000)))
    else if oRtUse 0 ≤ o ∧ o < oRtUse 12 then BitVec.ofNat 64 (setField (s.word o).toNat 14 0 (s.rangesUsed ((o - oRtUse 0) / 0x1000)))
    else if oPoolUse 0 ≤ o ∧ o < oPoolUse 8 then BitVec.ofNat 64 (setField (s.word o).toNat 47 32 (s.poolCap ((o - oPoolUse 0) / 8)))
    else if o = oPlcReserve then BitVec.ofNat 64 (setField (s.word o).toNat 63 32 s.reserveUsed)
    else s.word o

/-- A word of a function's HQ layout; doorbells read zero. -/
def State.hqRead (s : State) (fn o : Nat) : Word := if hqFields o = [] then 0 else s.hqWord fn o

/-- The PF's BAR 0 as a 64-bit word at an aligned offset. -/
def State.bar0Word (s : State) (m : Master) (o : Nat) : Word :=
  if 0x200000 ≤ o ∧ o < 0x210000 then s.hqRead 0 (o - 0x200000) else s.blockWord m o

/-- A VF's BAR 0 (R446, R665). -/
def State.vfWord (s : State) (t o : Nat) : Word :=
  if 0x1000 ≤ o ∧ o < 0x2000 then s.blockWord (.vf t) (oTen t + (o - 0x1000)) else s.hqRead t o

/-! ## Accesses (R445) -/

def accessOk (o size : Nat) : Bool := (size == 4 || size == 8) && o % size == 0

/-- The part of an aligned word that an access reads. -/
def accessPart (w : Word) (o size : Nat) : Nat := if size = 8 then w.toNat else if o % 8 = 4 then field w.toNat 63 32 else field w.toNat 31 0

/-- A read of the PF's BAR 0: an access of another size or alignment reads zero. -/
def State.bar0Read (s : State) (m : Master) (o size : Nat) : Nat :=
  if accessOk o size then accessPart (s.bar0Word m (o / 8 * 8)) o size else 0

/-- The sideband serves register messages: the device is awake and its boot has not failed, after which only recovery images are
accepted (R578, R581). -/
def State.sideband (s : State) : Bool := s.awake && !s.power.bootFailed

def execMctpRegisterRead (offset size : Nat) (s : State) : Res :=
  onlyIf (s.sideband && (size == 4 || size == 8)) s fun s =>
    (if s.testReg offset then s.drew (offset + 8) else s).reply .mctp 1 stOk (toLe size (s.bar0Read .bmc offset size))

end Sys2Proof.Machine
end

