-- ==== Sys2Proof/Machine/Commands.lean ====
section
/-! DEFINITION. COPY_IN, COPY_OUT, QUERY_PROGRESS and ABORT (R465 to R467, R470 to R478). The copies move one 4 KiB piece a
step. -/
namespace Sys2Proof.Machine

/-! ## Copies -/

def Cmd.copyHost (x : Cmd) : Nat := x.u 0x10 8
def Cmd.copyDev (x : Cmd) : Nat := x.u 0x18 8
def Cmd.copyLen (x : Cmd) : Nat := x.u 0x20 8

/-- An entry that R465 and R456 allow. -/
def Cmd.copyOk (x : Cmd) : Bool :=
  addrOk false x.copyHost && x.copyDev % 8 == 0 && decide (8 ≤ x.copyLen ∧ x.copyLen ≤ 2 ^ 36) && x.copyLen % 8 == 0 &&
    cleanBut (x.entry.drop 0x10) [(0, 24)]

/-- Bytes of the next piece. -/
def Cmd.piece (x : Cmd) : Nat := Nat.min 4096 (x.copyLen - x.pos)

/-- A piece has moved: progress, or the end of the command. -/
def State.copied (s : State) (x : Cmd) (n : Nat) : State :=
  if x.pos + n = x.copyLen then s.finish x.id stOk x.copyLen x.copyLen
  else s.setProgress x.id ((x.pos + n) * 10000 / x.copyLen) (x.pos + n)

def State.markStarted (s : State) (c : Nat) : State := s.updCmd c fun y => { y with started := true }

def State.copyInStep (s : State) (x : Cmd) : State :=
  match s.hostRd x.fn (x.copyHost + x.pos) x.piece with
  | none => s.hostFail x
  | some bs => ((s.devWr x.fn (x.copyDev + x.pos) bs).markStarted x.id).copied x x.piece

def execCopyIn (c : Nat) (s : State) : Res :=
  runCmd c s (fun x => x.opc == 2) fun x s =>
    if !x.copyOk then s.malformed c
    else if !x.started && !s.devWritable x.fn x.copyDev x.copyLen then s.failPlain c stBadAddress
    else s.copyInStep x

/-- A range includes an inner-only line (R176). -/
def State.anyInner (s : State) (t a n : Nat) : Bool := (linesOf a n).any fun l => s.innerOnly t (l * 64)

def State.copyOutStep (s : State) (x : Cmd) : State :=
  let a := x.copyDev + x.pos
  if s.poisoned x.fn a x.piece then s.stopCmd x.id stHwFault
  else match s.hostWr x.fn (x.copyHost + x.pos) (s.devRd x.fn a x.piece) with
    | none => (s.movePart x.fn (x.copyHost + x.pos) (s.devRd x.fn a x.piece)).hostFail x
    | some s1 => (s1.markStarted x.id).copied x x.piece

def execCopyOut (c : Nat) (s : State) : Res :=
  runCmd c s (fun x => x.opc == 3) fun x s =>
    if !x.copyOk then s.malformed c
    else if !x.started && !s.devMapped x.fn x.copyDev x.copyLen then s.failPlain c stBadAddress
    else if s.anyInner x.fn x.copyDev x.copyLen then s.stopCmd c stUnsealed
    else s.copyOutStep x

/-! ## Progress and abort -/

/-- The target that an entry names: a command of the same function that is fetched and not yet completed (R470). -/
def State.target? (s : State) (x : Cmd) : Option Cmd :=
  s.cmds.find? fun y => y.fn == x.fn && y.parent.isNone && y.sq == x.u 0x12 1 % 64 && y.cmdid == x.u 0x10 2

/-- An entry of QUERY_PROGRESS or ABORT that R456 and R470 allow. -/
def Cmd.targetOk (x : Cmd) : Bool := decide (x.u 0x12 1 < 64) && cleanBut (x.entry.drop 0x10) [(0, 3)]

def execQueryProgress (c : Nat) (s : State) : Res :=
  runCmd c s (fun x => x.opc == 5) fun x s =>
    if !x.targetOk then s.malformed c
    else match s.target? x with
      | none => s.endCmd c stNotFound 0 0 0 0
      | some y => s.endCmd c stOk 0 y.pos y.pos y.bp

/-- Commands that an ABORT never stops (R310, R477, R478). -/
def Cmd.abortProof (y : Cmd) : Bool := y.unstoppable || (y.opc == 7 && y.u 0x10 2 != 0x10)

/-- An argument block read for a program that is stopped before its admission, whose last writes it names (R64, R66, R73, R104, R290);
one whose counts break its layout is malformed and names none. -/
def State.lateArgs (s : State) (y : Cmd) : State :=
  let sane (b : List Byte) : Bool :=
    (y.vr == 0x111 && decide (leAt b 8 4 ≤ 65536)) || (y.vr == 0x112 && decide (leAt b 8 4 ≤ 262144)) || y.vr ∈ [0x113, 0x120, 0x131]
  if y.phase ≠ .fetched then s
  else match s.readArgs y with
    | some b => if sane b then s.updCmd y.id fun z => { z with args := b } else s
    | none => s

/-- Stop the target and keep the ABORT's own status until the target's final entry is written (R477). -/
def State.abortTarget (s : State) (x y : Cmd) : State :=
  let s1 := if y.abortProof || y.phase == .ended then s else (s.lateArgs y).stopCmd y.id stAborted
  let ok := (s1.cmd? y.id).any fun z => z.phase == .ended && z.status == stAborted
  s1.updCmd x.id fun z => { z with started := true, waits := [y.id], status := if ok then stOk else stNotFound }

/-- An ABORT. A pod update with a part outstanding is stopped once the part has been reported, so that its outcome is known (R64,
R66). -/
def execAbort (c : Nat) (s : State) : Res :=
  runCmd c s (fun x => x.opc == 6) fun x s =>
    if !x.targetOk then s.malformed c
    else if x.started then
      if s.cmds.any fun y => x.waits.contains y.id then s else s.endCmd c x.status 0 0 0 10000
    else match s.target? x with
      | none => s.endCmd c stNotFound 0 0 0 10000
      | some y =>
        if y.opc = 5 ∨ y.opc = 6 then s.endCmd c stNotFound 0 0 0 10000
        else if s.fab.updates.any fun u => u.cmd == y.id then s
        else s.abortTarget x y

end Sys2Proof.Machine
end

