-- ==== Sys2Proof/Machine/Detach.lean ====
section
/-! DEFINITION. Moving a VF to another host (R481, R484, R485). -/
namespace Sys2Proof.Machine

/-- HQ.FNST.STATE of a VF (R447). -/
def State.setFnState (s : State) (vf st : Nat) : State := s.setHqFld vf 0 1 0 st

def execVfDetach (c : Nat) (s : State) : Res :=
  runCmd c s (fun x => x.isAdmin 0x20 && !x.started) fun x s =>
    s.withParam x [(0, 1), (4, 4)] fun b =>
      let vf := leAt b 0 1
      let grace := leAt b 4 4
      if vf = 0 ∨ 4000 < grace then s.malformed c
      else if s.fnState vf ≠ 0 then s.adminEnd c stConflict
      else
        ({ s with power := { s.power with detaching := Map.put s.power.detaching vf (c, s.clock + grace * 1000000) } } : State).setFnState vf 1
          |>.updCmd c fun y => { y with started := true }

/-- Write one final entry, or drop it where its queue is full or disabled; answers whether it was dropped for want of room. -/
def State.drainOne (s : State) (x : Cmd) : State × Nat :=
  match x.cq.filter fun q => s.cqEn x.fn q with
  | none => (s.forgetCmd x.id, 0)
  | some q =>
  if 0 < s.cqFree x.fn q then ((s.cqWrite x.fn q 0 x.sq x.cmdid x.status x.count x.value x.finalBp).forgetCmd x.id, 0)
  else (s.forgetCmd x.id, 1)

/-- Write what final entries the VF's queues take and drop the rest (R484). -/
def State.drainFn (s : State) (vf : Nat) : State × Nat :=
  (s.cmds.filter fun x => x.fn == vf && x.phase == .ended && x.parent.isNone).foldl
    (fun p x => let r := p.1.drainOne x; (r.1, p.2 + r.2)) (s, 0)

/-- GRACE µs after acceptance: what is still in flight stops, the ATS translations go, STATE is 2 and VF_DETACH completes. -/
def State.detachEnd (s : State) (vf c due : Nat) : State :=
  let s0 : State := { s with clock := Nat.max s.clock due }
  let s1 := ((s0.cmds.filter fun x => x.fn == vf && x.inFlight && x.parent.isNone && !x.unstoppable).map (·.id)).foldl
    (fun s i => s.stopCmd i stAborted) s0
  let (s2, dropped) := s1.drainFn vf
  let s3 := if dropped = 0 then s2 else s2.logEvent evVfDrainDrop vf [vf, dropped]
  let s4 : State := { s3 with
    out := { s3.out with atsCache := s3.out.atsCache.filter fun p => p.1 != vf }
    power := { s3.power with detaching := Map.del s3.power.detaching vf } }
  (s4.setFnState vf 2).adminEnd c stOk

def execVfDetachGrace (vf : Nat) (s : State) : Res :=
  match Map.get? s.power.detaching vf with
  | none => .next s
  | some (c, due) => onlyIf (s.live && s.fnState vf == 1) s fun s => s.detachEnd vf c due

def execVfAttach (c : Nat) (s : State) : Res :=
  runCmd c s (fun x => x.isAdmin 0x21) fun x s =>
    s.withParam x [(0, 1)] fun b =>
      let vf := leAt b 0 1
      if vf = 0 then s.malformed c
      else if s.fnState vf ≠ 2 then s.adminEnd c stConflict
      else (s.setFnState vf 0).adminEnd c stOk

end Sys2Proof.Machine
end

