-- ==== Sys2Proof/Machine/Pods.lean ====
section
/-! DEFINITION. Pod collections (R74, R96 to R99, R504 to R518, R520, R624 to R627): what the queen does with a create, search, insert
or delete, and what a node does with a part of one. -/
namespace Sys2Proof.Machine

/-! ## Partial results (R96, R97) -/

def pieceSize : Nat := 1398098

def PartialBytes (p : PartialResult) : List Byte :=
  toLe 8 p.qid ++ toLe 4 p.epoch ++ toLe 4 p.entries.length ++ toLe 8 p.scanned ++ toLe 4 p.listsProbed ++
    toLe 4 (p.status * 65536 + p.piece * 8 + b2n p.rrFallback * 4 + b2n p.widened * 2 + b2n p.filtered) ++
    p.entries.flatMap fun e => runEntry true ktF32 (e.2, e.1)

/-- The partial results of a local search: its best K, or every match in pieces; none with `ST_SCALE_SKEW` (R57, R99). -/
def State.partialsOf (s : State) (b : QueryBody) (epoch : Nat) (f : Found) (skew : Bool := false) : List PartialResult :=
  let every := b.k == everyMatch
  let best := if skew then [] else if every then f.hits.take b.e else f.hits.take b.k
  let n := if every then Nat.max 1 (ceilDiv best.length pieceSize) else 1
  (List.range n).map fun i =>
    { qid := b.qid, src := s.nodeId, epoch := epoch, scanned := if skew then 0 else if every then f.hits.length else f.scanned, listsProbed := f.probed.length,
      status := if skew then stScaleSkew else stOk, piece := i, rrFallback := f.fallback, widened := f.widened, filtered := !b.terms.isEmpty,
      entries := ((best.drop (i * pieceSize)).take (if every then pieceSize else best.length)).map fun h => (h.2, h.1) }

/-- Entries of partial results, merged without duplicates (R99). -/
def mergeParts (ps : List PartialResult) : List (F32 × Nat) := pairUnion ktF32 false true (ps.flatMap fun p => p.entries.map fun e => (e.2, e.1))

/-- Every piece that a node's first one announces has come (R97). -/
def partsWhole (b : QueryBody) (ps : List PartialResult) (node : Nat) : Bool :=
  let own := ps.filter fun p => p.src == node
  match own.head? with
  | none => false
  | some p => if b.k = everyMatch then decide (Nat.max 1 (ceilDiv (Nat.min p.scanned b.e) pieceSize) ≤ own.length) else true

/-- TOTAL of an every-match search: the match counts of the nodes less the duplicates that the merge removes (R97). -/
def everyTotal (ps : List PartialResult) : Nat :=
  sumBy (·.scanned) (ps.filter fun p => p.piece == 0) - (sumBy (·.entries.length) ps - (mergeParts ps).length)

/-! ## Searching a pod collection (R512, R515) -/

def State.newQid (s : State) : State := { s with fab := { s.fab with nextQid := s.fab.nextQid + 1 } }
def State.addQuery (s : State) (q : QueryCtx) : State := { s with fab := { s.fab with queries := s.fab.queries ++ [q] } }
def State.dropQuery (s : State) (qid : Nat) : State := { s with fab := { s.fab with queries := s.fab.queries.filter fun q => q.qid != qid } }

/-- Buckets of the collection are being rebuilt, for which its searches wait (R626). -/
def State.rebuildingColl (s : State) (h : Nat) : Bool := s.fab.rebuilding.any fun e => e.coll == h

/-- The part of a query that this node computes, with what it leaves behind: for the command `cmd` of this node, or for a query of
another. Updates whose completion is not posted at this moment it may see or not (R75). A mismatch, of stored tags or met twice in
block `skew`, ends it (R57, R136 to R138). -/
def State.ownParts (s : State) (c : Coll) (cmd : Nat) (b : QueryBody) (skew : Option Nat) : State × List PartialResult :=
  let miss : Miss := match s.cmd? cmd with
    | some x => x.mayMiss
    | none => fun u => s.cmds.any fun y => y.id == u && y.isUpdate
  let f := s.localSearch miss c b
  let twice := match skew with
    | some k => some ((s.noteSkew c.tenant cmd c.handle k false).noteSkew c.tenant cmd c.handle k true)
    | none => s.twiceSkewed c.tenant cmd c f
  match twice with
  | some s1 => (s1.drew (2 ^ 128), s.partialsOf b b.epoch f true)
  | none => (s.afterSearch c b f, s.partialsOf b b.epoch f)

/-- Route a query: the parts of the queen's own buckets at once, a QUERY to every other holder (R506, R512). -/
def State.routeQuery (s : State) (c : Coll) (cmd : Nat) (b : QueryBody) : State :=
  let nodes := s.queryNodes c.handle
  let body := { b with epoch := s.fab.routeEpoch }
  let qid := s.fab.nextQid
  let (s1, own) := if nodes.contains s.nodeId then s.ownParts c cmd body none else (s, [])
  let others := nodes.filter (· != s.nodeId)
  others.foldl (fun s n => s.say tyQuery b.cls n qid stOk)
    (s1.newQid.addQuery { qid := qid, cmd := cmd, body := body, owing := others, parts := own })

/-- The result of a merged query as its command delivers it (R99). -/
def Cmd.mergedResult (x : Cmd) (q : QueryCtx) : Result :=
  let ps := q.parts
  { k := q.body.k, dev := bit (x.a 0x14 4) 10, rbuf := x.a 0x20 8, rlen := x.a 0x28 4, hits := mergeParts ps, scanned := sumBy (·.scanned) ps,
    probed := sumBy (·.listsProbed) ps, total := if q.body.k = everyMatch then some (everyTotal ps) else none,
    filtered := ps.any (·.filtered), widened := ps.any (·.widened), reranked := q.body.rrMode != 0, fallback := ps.any (·.rrFallback),
    skew := ps.any fun p => p.status == stScaleSkew, epoch := q.body.epoch }

/-- A remote queen returns its merged result to the originating one in the same format, an every-match one with its match count
(R97, R515). -/
def State.returnParts (s : State) (q : QueryCtx) : State :=
  let f : Found := { probed := [], hits := mergeParts q.parts, scanned := sumBy (·.scanned) q.parts, widened := q.parts.any (·.widened),
                     fallback := q.parts.any (·.rrFallback) }
  let skew := q.parts.any fun p => p.status == stScaleSkew
  (s.partialsOf q.body q.body.epoch f skew).foldl (fun s p =>
    s.post tyPartial q.body.cls q.body.src q.body.qid stOk (PartialBytes { p with
      qid := q.body.qid, scanned := if q.body.k = everyMatch && !skew then everyTotal q.parts else p.scanned
      listsProbed := sumBy (·.listsProbed) q.parts, filtered := q.parts.any (·.filtered) })) s

/-- Deliver a query that nobody owes a part of. -/
def State.settleQuery (s : State) (qid : Nat) : State :=
  match s.fab.queries.find? fun q => q.qid == qid with
  | none => s
  | some q =>
    if !q.owing.isEmpty then s
    else if q.cmd = 0 then (s.dropQuery qid).returnParts q
    else match s.cmd? q.cmd with
      | none => s.dropQuery qid
      | some x =>
        if x.phase == .admitted && x.names.any s.objLost then (s.dropQuery qid).stopCmd x.id stLost
        else if x.phase == .admitted then (s.dropQuery qid).deliver x (x.mergedResult q) (mergeParts q.parts).length else s.dropQuery qid

/-- The query of a `vr.search`, then `k`; the command ends where an input cannot be read. -/
def State.withQuery (s : State) (x : Cmd) (c : Coll) (k : QueryBody → State) : State :=
  let qf := x.sFlag 4 3
  let qdev := x.sFlag 9 9 == 1
  let tdev := x.sFlag 11 11 == 1
  match s.input x qdev (x.a 0x18 8) (c.dim * elemBytes qf), (if x.sFlag 2 1 = 2 then s.input x tdev (x.a 0x58 8) (x.a 0x60 4) else .ok []) with
  | .error e, _ => e
  | _, .error e => e
  | .ok q, .ok text => k (x.queryBody (readElems qf c.dim q) text)

/-- A search of a pod collection at its queen; while its parts are owed it has nothing to do. -/
def State.podSearch (s : State) (x : Cmd) (c : Coll) (b0 : QueryBody) : State :=
  if s.rebuildingColl c.handle then s
  else
    let b := { b0 with src := s.nodeId, qid := s.fab.nextQid, lists := s.chooseLists c b0 }
    (((s.drew 1).updCmd x.id fun y => { y with started := true }).routeQuery c x.id b).settleQuery s.fab.nextQid

def execVrSearch (c : Nat) (s : State) : Res :=
  runVr c 0x110 s fun x s =>
    match s.coll? x (x.a 0 8) with
    | none => s.fail c stBadHandle
    | some o =>
      if x.started then s
      else if !x.searchOk o then s.malformed c
      else s.withQuery x o fun b => if o.pod.isSome ∧ s.role = 2 then s.podSearch x o b else s.searchHere x o b

/-! ## Parts of an update at a node -/

/-- What applying one change comes to; a flash-homed list or a full partition is waited for. -/
inductive Applied where
  | wait
  | done (s : State) (status : Nat)

/-- Insert one entry in its lists, with its record programmed and covered, and commit it (R21, R508, R513). -/
def State.applyInsert (s : State) (c : Coll) (places : List (Nat × List Nat)) (lid attr : Nat) (data : List Byte) : Applied :=
  let add (s : State) (loc : Word) : State := (s.addEntries c places lid attr loc 0).commitAll c (places.map (·.1))
  if !s.listsReady c places then .wait
  else if (s.room c.tenant (places.length * entryBytes c.sub c.attrb)).isNone || !s.vectorRoom 1 then .done s stQuota
  else if c.recfmt = 0 then .done (add s noLoc) stOk
  else match s.partFor c.tenant c.cls with
    | none => .done s stQuota
    | some p => match s.program p (c.record lid data) with
      | .wait => .wait
      | .exhausted => .done (s.turnReadOnly p) stMediaExhausted
      | .ok s1 loc => .done (add (s1.coverBlock (loc.toNat / 2 ^ 39)) loc) stOk

/-- Delete one local ID: `ST_NOT_FOUND` where it is not live here. -/
def State.applyDelete (s : State) (c : Coll) (lid : Nat) : Applied :=
  if !c.isLive lid then .done s stNotFound
  else if (c.listsOf lid).any fun l => !s.resident (.fineList c.handle l) then .wait
  else .done (s.updColl c.handle fun o => o.bury lid 0) stOk

/-- The changes of a part in order, with the first status that is not `ST_OK`. -/
def State.applyItems (s : State) (h : Nat) (st : Nat) : List UpdateItem → Applied
  | [] => .done s st
  | i :: r =>
    match s.colls.find? fun c => c.handle == h with
    | none => .done s stBadHandle
    | some c =>
      let a := match i with
        | .insert l lid attr codes rec => s.applyInsert c [(l, codes)] lid attr rec
        | .delete lid => s.applyDelete c lid
      match a with
      | .wait => .wait
      | .done s1 e => s1.applyItems h (if st = stOk then e else st) r

/-- Drop every entry and record of a bucket that this node no longer holds (R516). -/
def State.dropBucket (s : State) (c : Coll) (bucket : Nat) : State :=
  let gone (e : Entry) : Bool := bucketOf e.lid == bucket
  let s1 := (c.lists.flatMap fun l => (l.2.entries.filter gone).map (·.lid)).eraseDups.foldl (fun s lid => s.discard c lid) s
  let s2 := c.lists.foldl (fun s l => s.updUnit (.fineList c.handle l.1) fun u => { u with bytes := c.listSize (l.2.entries.filter fun e => !gone e).length }) s1
  s2.updColl c.handle fun o => { o with lists := o.lists.map fun l =>
    (l.1, l.2.rewrite (l.2.entries.filter fun e => !gone e) (l.2.segs.take (segCount c.sub c.attrb (l.2.entries.filter fun e => !gone e).length))) }

/-! ## Creation (R505, R507, R508, R624) -/

/-- A free choice of the pod of a bucket: 0 for this one, i + 1 for that of the queen `far[i]` (R510). -/
def State.podOf (s : State) (far : List Nat) (b : Nat) : Nat := s.draw (4096 + b) % (far.length + 1)

/-- The node of a shard: the remote pod's queen, or the node of this pod that the placement engine chooses. -/
def State.shardNode (s : State) (near far : List Nat) (pod i : Nat) : Nat :=
  if pod = 0 then near.getD (i % Nat.max 1 near.length) s.nodeId else far.getD (pod - 1) s.nodeId

/-- The choice of a node for every bucket, and for every parity shard of a coded collection: 14 buckets of a group and its two parity
shards on 16 distinct nodes of this pod, or all at one remote queen (R510, R624). -/
def State.assignBuckets (s : State) (h : Nat) (near far : List Nat) (code : Bool) : List ShardEntry :=
  let data := (List.range 4096).map fun b =>
    if code then ShardEntry.mk h b (s.shardNode near far (s.podOf far (b / 14)) (s.draw (b / 14) + b % 14))
    else ShardEntry.mk h b (s.shardNode near far (s.podOf far b) (s.draw b))
  let parity (g i : Nat) : ShardEntry := ShardEntry.mk h (4096 + 2 * g + i) (s.shardNode near far (s.podOf far g) (s.draw g + 14 + i))
  if code then data ++ (List.range 293).flatMap fun g => [parity g 0, parity g 1] else data

def State.addUpdate (s : State) (u : UpdateCtx) : State := { s with fab := { s.fab with updates := s.fab.updates ++ [u] } }
def State.dropUpdate (s : State) (uid : Nat) : State := { s with fab := { s.fab with updates := s.fab.updates.filter fun u => u.uid != uid } }

/-- Undo a create: the collection, its units and its shards go. -/
def State.undoCreate (s : State) (c : Coll) : State :=
  (({ s.dropUnits c.handle with colls := s.colls.filter fun y => y.handle != c.handle } : State).forgetShards c)

/-- Every node has created its part: the handle is delivered (R38). -/
def State.podCreated (s : State) (x : Cmd) (c : Coll) : State :=
  let dev := bit (x.a 0x10 4) 26
  match s.spaceWr x.fn dev (x.a 0x30 8) (toLe 8 c.handle) with
  | none => (s.undoCreate c).outputFail x dev
  | some s1 => s1.finish x.id stOk 0 0

/-- Create a pod collection over nodes of this pod and remote queens: the map is published, and the other nodes make their parts. -/
def State.createPod (s : State) (x : Cmd) (code realm : Bool) (near far : List Nat) : State :=
  s.createColl x (some (code, realm)) fun c s =>
    let m := s.assignBuckets c.handle near far code
    let others := ((m.map (·.node)).eraseDups).filter (· != s.nodeId)
    let uid := s.fab.nextQid
    let s1 := (s.drew 8192).publish (s.fab.shards ++ m)
    if others.isEmpty then s1.podCreated x c
    else others.foldl (fun s n => s.say tyUpdate x.cls n uid stOk)
      ((s1.newQid.addUpdate { uid := uid, cmd := x.id, coll := c.handle, lid := none, isDelete := false, owing := others, status := stOk, src := 0, ref := 0 }).updCmd x.id
        fun y => { y with started := true })

def orSelf (s : State) (l : List Nat) : List Nat := if l.isEmpty then [s.nodeId] else l

def execVrCreate (c : Nat) (s : State) : Res :=
  runCmd c s (fun x => x.vr == 0x101) fun x s =>
    if x.started then s
    else if s.role = 1 then s.fail c stDenied
    else if !x.createOk [] then s.malformed c
    else if s.role = 2 then s.createPod x false false (orSelf s s.workers) []
    else s.createColl x none fun _ s => s.finish c stOk 0 0

/-- The nodes of the pod that WIDTH asks for: every one, or a free choice of so many workers. -/
def State.widthNodes (s : State) (width : Nat) : List Nat :=
  if width = 0 then s.nodeId :: s.workers
  else
    let k := s.draw 0 % Nat.max 1 s.workers.length
    orSelf s ((s.workers.drop k ++ s.workers.take k).take width)

def execVrPodCreate (c : Nat) (s : State) : Res :=
  runCmd c s (fun x => x.vr == 0x160) fun x s =>
    let f := x.a 0x40 4
    let near := s.widthNodes (x.a 0x44 4)
    if x.started then s
    else if s.role ≠ 2 then s.fail c stDenied
    else if !x.createOk [(0x40, 8)] || field f 31 9 != 0 || field f 7 1 != 0 || decide (256 < x.a 0x44 4) then s.malformed c
    else if bit f 0 ∧ near.length < 16 then s.fail c stDenied
    else (s.drew 1).createPod x (bit f 0) (bit f 8) near (if bit f 8 then s.remoteQueens else [])

/-! ## Inserts (R509, R513, R520) -/

/-- The queen's local IDs of a collection. -/
def State.idState (s : State) (h : Nat) : Nat × Nat × Option Nat := Map.getD s.fab.idBlocks h (0, 0, none)
def State.setIds (s : State) (h : Nat) (x : Nat × Nat × Option Nat) : State := { s with fab := { s.fab with idBlocks := Map.put s.fab.idBlocks h x } }

/-- Undo a vector wherever a part of it was written: the tombstone here, and an UPDATE that deletes it to the other nodes of its
bucket. -/
def State.undoVector (s : State) (c : Coll) (cls lid : Nat) : State :=
  ((s.updateNodes c.handle (bucketOf lid)).filter (· != s.nodeId)).foldl (fun s n => s.say tyUpdate cls n lid stOk)
    (s.updColl c.handle fun o => o.bury lid 0)

/-- Undo the vectors that an insert has placed, the one in progress among them, and end it with `ST_QUOTA` (R508). -/
def State.undoInsert (s : State) (x : Cmd) (c : Coll) (lids : List Nat) : State :=
  (lids.foldl (fun s lid => s.undoVector c x.cls lid) s).fail x.id stQuota

/-- The other nodes' parts of a vector have all been reported: the queen's own part is then committed, or every part is undone (R64). -/
def State.insertDecided (s : State) (x : Cmd) (c : Coll) (lid status : Nat) : State :=
  match x.work with
  | .insert ids st (some n) =>
    if status = stQuota then s.undoInsert x c (ids.filterMap (s.lidOf c) ++ [lid])
    else if status ≠ stOk then ((s.dropCommitting x).undoVector c x.cls lid).inserted x ids st noId status
    else if n.due.isEmpty then s.inserted x ids st (s.gidOf c lid) stOk
    else s
  | _ => s

/-- Send a part of an update to the other nodes, or decide it at once where there are none. -/
def State.sendUpdate (s : State) (x : Cmd) (coll lid : Nat) (isDelete : Bool) (status : Nat) (others : List Nat) (decide_ : State → State) : State :=
  if others.isEmpty then decide_ s
  else
    let uid := s.fab.nextQid
    others.foldl (fun s n => s.say tyUpdate x.cls n uid stOk)
      (s.newQid.addUpdate { uid := uid, cmd := x.id, coll := coll, lid := some lid, isDelete := isDelete, owing := others, status := status, src := 0, ref := 0 })

/-- Ask the deputy to record a block of IDs (R520); a pod without one needs no record. -/
def State.recordBlock (s : State) (c : Coll) (next known : Nat) (pending : Option Nat) : State :=
  if s.fab.deputy = 0 then s.setIds c.handle (next, next / 65536 + 1, none)
  else if pending.isSome then s
  else (s.setIds c.handle (next, known, some (next / 65536))).say tyData 1 s.fab.deputy (next / 65536) stOk

/-- Write the queen's own part of a vector, beyond the committed lengths: the record's location and the lists that hold it. -/
def State.writeOwn (s : State) (c : Coll) (cmd lid : Nat) (places : List (Nat × List Nat)) (v : NewVec) : Applied :=
  if !s.listsReady c places then .wait
  else if c.recfmt = 0 then .done (s.addEntries c places lid v.attr noLoc cmd) stOk
  else match s.partFor c.tenant (c.classFor cmd) with
    | none => .done s stQuota
    | some p => match s.program p (c.record lid v.record) with
      | .wait => .wait
      | .exhausted => .done (s.turnReadOnly p) stMediaExhausted
      | .ok s1 loc => .done (s1.addEntries c places lid v.attr loc cmd) stOk

/-- Location of the record that the newest entry of a local ID names. -/
def Coll.locOf (c : Coll) (lid : Nat) : Word :=
  ((c.lists.flatMap (·.2.entries)).find? fun e => e.lid == lid).elim noLoc (·.loc)

def State.podInsertOne (s : State) (x : Cmd) (c : Coll) (ids : List Nat) (st : Nat) (v : NewVec) : State :=
  let (next, known, pending) := s.idState c.handle
  if 2 ^ 40 ≤ next then s.inserted x ids st noId stIdExhausted
  else if known ≤ next / 65536 then s.recordBlock c next known pending
  else
    let nodes := s.updateNodes c.handle (bucketOf next)
    let places := c.place s.free v.elems
    let s1 := (s.setIds c.handle (next + 1, known, pending)).drew (2 ^ 128)
    let mine := nodes.contains s.nodeId
    match (if mine then s1.writeOwn c x.id next places v else .done s1 stOk) with
    | .wait => s
    | .done s2 e =>
      let n : Committing := ⟨next, ((s2.colls.find? fun o => o.handle == c.handle).map (·.locOf next)).getD noLoc,
        if mine && e == stOk then places.map (·.1) else []⟩
      let y := { x with work := .insert ids st (some n) }
      (s2.updCmd x.id fun z => { z with work := y.work }).sendUpdate y c.handle next false e (nodes.filter (· != s.nodeId)) fun s =>
        s.insertDecided y c next e

/-- The checks of a pod insert before any vector is written: those of R62 on the vectors whose buckets the queen itself holds. -/
def State.podBegin (s : State) (x : Cmd) (c : Coll) : State :=
  match s.payIdx x c with
  | .error e => e
  | .ok idx =>
    let first := (s.idState c.handle).1
    let mine := (List.range (x.a 8 4)).filter fun i => (s.updateNodes c.handle (bucketOf (first + i))).contains s.nodeId
    let bytes := if c.recfmt = 0 then 0
      else sumBy (fun i => roundUp (c.recordBase + (idx.getD (i + 1) 0 - idx.getD i 0)) 512) mine
    if !payOk idx then s.malformed x.id
    else if !mine.isEmpty && (!s.flashTakes c x.id bytes || !s.vectorRoom mine.length) then s.fail x.id stQuota
    else s.withRoom x (mine.length * c.copies * entryBytes c.sub c.attrb) fun s =>
      s.updCmd x.id fun y => { y with started := true, work := .insert [] stOk none }

def State.podInsert (s : State) (x : Cmd) (c : Coll) : State :=
  match x.work with
  | .insert ids st now =>
    if s.fab.updates.any fun u => u.cmd == x.id then s
    else match now with
      | some n => s.commitStep x c ids st n fun s => s.inserted x ids st (s.gidOf c n.lid) stOk
      | none =>
        if x.a 8 4 ≤ ids.length then s.insertStep x c ids st
        else match s.newVec x c ids.length with
          | .error e => e
          | .ok v => s.podInsertOne x c ids st v
  | _ => if !x.insertOk c then s.malformed x.id else s.podBegin x c

def execVrInsert (c : Nat) (s : State) : Res :=
  runVr c 0x111 s fun x s =>
    match s.coll? x (x.a 0 8) with
    | none => s.fail c stBadHandle
    | some o => if o.pod.isSome ∧ s.role = 2 then s.podInsert x o else s.insertHere x o

/-! ## Deletes -/

/-- An ID of a delete is decided. -/
def State.deleted (s : State) (x : Cmd) (outs : List Byte) (b : Byte) : State :=
  (s.updCmd x.id fun y => { y with started := true, work := .delete (outs ++ [b]) }).raiseProgress x.id
    (10000 * (outs.length + 1) / x.a 8 4) (outs.length + 1)

/-- The nodes of an ID's bucket have all reported: the queen sets its own tombstones, and the ID was deleted where any node held it. -/
def State.deleteDecided (s : State) (x : Cmd) (c : Coll) (lid status : Nat) : State :=
  match x.work with
  | .delete outs => (s.updColl c.handle fun o => o.bury lid x.id).deleted x outs (if status = stOk then 0 else 1)
  | _ => s

/-- Delete one ID of a pod collection; a delete of the same ID in flight is waited for, so that one of the two reports it (R67). -/
def State.podDeleteOne (s : State) (x : Cmd) (c : Coll) (outs : List Byte) (lid : Nat) : State :=
  let nodes := s.updateNodes c.handle (bucketOf lid)
  let here := nodes.contains s.nodeId && c.isLive lid
  if s.fab.updates.any (fun u => u.coll == c.handle && u.lid == some lid) ||
      (here && (c.listsOf lid).any fun l => !s.resident (.fineList c.handle l)) then s
  else
    let y := { x with work := .delete outs }
    let e := if here then stOk else stNotFound
    (s.updCmd x.id fun z => { z with started := true, work := .delete outs }).sendUpdate y c.handle lid true e (nodes.filter (· != s.nodeId))
      fun s => s.deleteDecided y c lid e

def State.podDelete (s : State) (x : Cmd) (c : Coll) (outs : List Byte) : State :=
  if s.fab.updates.any fun u => u.cmd == x.id then s
  else if x.a 8 4 ≤ outs.length then s.deleteStep x c outs
  else match s.input x (x.iFlag 0) (x.a 0x10 8 + 8 * outs.length) 8 with
    | .error e => e
    | .ok b => match s.lidOf c (leNat b) with
      | none => s.deleted x outs 1
      | some lid => s.podDeleteOne x c outs lid

def execVrDelete (c : Nat) (s : State) : Res :=
  runVr c 0x112 s fun x s =>
    match s.coll? x (x.a 0 8) with
    | none => s.fail c stBadHandle
    | some o =>
      if o.pod.isSome ∧ s.role = 2 then
        match x.work with
        | .delete outs => s.podDelete x o outs
        | _ => if !x.deleteOk then s.malformed c else s.podDelete x o []
      else s.deleteHere x o

/-! ## `vr.fab.config` (R504) -/

/-- One entry of TABLE, none where it breaks the layout. -/
def fabEntry (self : Nat) (e : List Byte) : Option NodeEntry :=
  let n := leAt e 0 4
  let k := leAt e 4 4
  if n < 2 ^ 20 ∧ 1 ≤ k ∧ k ≤ 8 ∧ leAt e 8 8 = 0 ∧ (queenOf n = queenOf self ∨ n % 256 = 0) then
    some { node := n, addrs := (List.range k).map fun a => BitVec.ofNat 128 (leAt e (0x10 + 16 * a) 16) }
  else none

/-- The deputy: a free choice among the workers, none without one (R519). -/
def State.nameDeputy (s : State) : State :=
  if s.workers.contains s.fab.deputy then s
  else ({ s with fab := { s.fab with deputy := s.workers.getD (s.draw 0 % Nat.max 1 s.workers.length) 0 } } : State).drew 1

def execVrFabConfig (c : Nat) (s : State) : Res :=
  runCmd c s (fun x => x.vr == 0x161) fun x s =>
    let dev := bit (x.a 0xC 4) 0
    let n := x.a 8 4
    if x.fn ≠ 0 then s.fail c stDenied
    else if !(decide (1 ≤ n ∧ n ≤ 4351 ∧ x.a 0xC 4 < 2) && addrOk dev (x.a 0 8) && cleanBut x.args [(0, 16)]) then s.malformed c
    else match s.input x dev (x.a 0 8) (144 * n) with
      | .error e => e
      | .ok b =>
        match (List.range n).mapM fun i => fabEntry s.nodeId ((b.drop (144 * i)).take 144) with
        | none => s.malformed c
        | some t => (({ s with fab := { s.fab with nodes := t } } : State).nameDeputy).finish c stOk 0 0

end Sys2Proof.Machine
end

