-- ==== Sys2Proof/Machine/Fabric.lean ====
section
/-! DEFINITION. The messages between the nodes of a pod, as a worker, the deputy and the queen take them (R99, R503, R511 to R520, R626,
R627). The payload formats belong to the Varelm image (R497), so a row carries what its message says. -/
namespace Sys2Proof.Machine

/-! ## Queries and their partial results -/

/-- Serve a QUERY: the part of this node's buckets, or of its whole pod where this node is a queen (R512, R515). `skew` is the block in
which a fragment and its reissue met a tag mismatch, if one did (R138). -/
def State.serveQuery (s : State) (q : QueryBody) (skew : Option Nat) : State :=
  match s.colls.find? fun c => c.handle == q.coll && c.tenant == q.tenant && c.pod.isSome with
  | none =>
    (s.partialsOf q q.epoch ⟨[], [], 0, false, false⟩).foldl (fun s p => s.post tyPartial q.cls q.src q.qid stOk (PartialBytes p)) s
  | some c =>
    if s.role = 2 then ((s.drew 1).routeQuery c 0 q).settleQuery s.fab.nextQid
    else
      let r := s.ownParts c 0 q skew
      r.2.foldl (fun s p => s.post tyPartial q.cls q.src q.qid stOk (PartialBytes p)) r.1

/-- A QUERY arrives (R517). A query of another pod's queen is not under this pod's epochs. -/
def execQuery (q : ServedQuery) (s : State) : Res :=
  onlyIf (s.active && s.role != 0 && s.member q.body.src) s fun s =>
    if s.role = 1 && !s.epochOk q.body.epoch then s.sayStale q.body.cls q.body.src q.body.qid else s.serveQuery q.body q.skew

/-- A PARTIAL arrives: merged once every node that owes one has sent it; one for a finished query is discarded (R99, R627). -/
def execPartialMsg (p : PartialResult) (s : State) : Res :=
  match s.fab.queries.find? fun q => q.qid == p.qid with
  | none => .next s
  | some q => onlyIf (s.live && s.role == 2 && q.owing.contains p.src) s fun s =>
    let parts := q.parts ++ [p]
    let owing := if partsWhole q.body parts p.src then q.owing.filter (· != p.src) else q.owing
    ({ s with fab := { s.fab with queries := s.fab.queries.map fun c =>
        if c.qid = q.qid then { c with parts := parts, owing := owing } else c } } : State).settleQuery q.qid

/-! ## Updates -/

def itemLid : UpdateItem → Nat
  | .insert _ lid _ _ _ => lid
  | .delete lid => lid

def itemIsDelete : UpdateItem → Bool
  | .insert .. => false
  | .delete _ => true

/-- This node is a queen, and the sender one of another pod: what it sends goes by this pod's map, not by its epochs (R510, R515). -/
def State.relays (s : State) (src : Nat) : Bool := s.role == 2 && queenOf src != queenOf s.nodeId

/-- Pass an update of a realm collection on to the nodes that this pod's map names, and report once they all have (R510, R513). -/
def State.relayUpdate (s : State) (uid src coll : Nat) (items : List UpdateItem) : State :=
  let nodes (i : UpdateItem) : List Nat := s.updateNodes coll (bucketOf (itemLid i))
  let mine := items.filter fun i => (nodes i).contains s.nodeId
  let others := ((items.flatMap nodes).eraseDups).filter (· != s.nodeId)
  let del := items.all itemIsDelete
  match s.applyItems coll stOk mine with
  | .wait => s
  | .done s1 e =>
    let st := if mine.isEmpty && del then stNotFound else e
    if others.isEmpty then s1.say tyData 1 src uid st
    else others.foldl (fun s n => s.say tyUpdate 1 n s1.fab.nextQid stOk)
      (s1.newQid.addUpdate { uid := s1.fab.nextQid, cmd := 0, coll := coll, lid := none, isDelete := del, owing := others, status := st, src := src, ref := uid })

/-- An UPDATE part arrives: it is committed and its status reported, or its epoch is stale (R513, R516, R517). -/
def execUpdate (uid src epoch tenant coll : Nat) (items : List UpdateItem) (s : State) : Res :=
  onlyIf (s.active && s.role != 0 && s.member src) s fun s =>
    if !s.relays src && !s.epochOk epoch then s.sayStale 1 src uid
    else if !s.colls.any fun c => c.handle == coll && c.tenant == tenant then s.say tyData 1 src uid stBadHandle
    else if s.relays src then s.relayUpdate uid src coll items
    else match s.applyItems coll stOk items with
      | .wait => s
      | .done s1 e => s1.say tyData 1 src uid e

/-- A vector whose insert has ended meanwhile is undone: its ID was never returned (R64). -/
def State.undoOrphan (s : State) (u : UpdateCtx) (c : Coll) : State :=
  if u.isDelete then s else u.lid.elim s fun lid => s.undoVector c 1 lid

/-- An update whose nodes have all reported (R508, R513). -/
def State.settleUpdate (s : State) (u : UpdateCtx) : State :=
  let s1 := s.dropUpdate u.uid
  if u.cmd = 0 then s1.say tyData 1 u.src u.ref u.status
  else match s1.cmd? u.cmd, s1.colls.find? fun c => c.handle == u.coll with
  | none, some c => s1.undoOrphan u c
  | some x, some c =>
    if x.phase != .admitted then s1.undoOrphan u c
    else match u.lid with
      | none => if u.status = stOk then s1.podCreated x c else (s1.undoCreate c).fail x.id u.status
      | some lid => if u.isDelete then s1.deleteDecided x c lid u.status else s1.insertDecided x c lid u.status
  | _, _ => s1

/-- The status of an update once one more part has reported: the first failure of an insert; a delete succeeds where any node held
the vector. -/
def UpdateCtx.note (u : UpdateCtx) (node status : Nat) : UpdateCtx :=
  { u with owing := u.owing.filter (· != node),
           status := if u.isDelete then (if status = stOk then stOk else u.status) else if u.status = stOk then status else u.status }

def execUpdateReport (uid node status : Nat) (s : State) : Res :=
  match s.fab.updates.find? fun u => u.uid == uid with
  | none => .next s
  | some u => onlyIf (s.live && s.role == 2 && u.owing.contains node) s fun s =>
    let v := u.note node status
    let s1 : State := { s with fab := { s.fab with updates := s.fab.updates.map fun w => if w.uid = uid then v else w } }
    if v.owing.isEmpty then s1.settleUpdate v else s1

/-- Route a query again under the epoch that the queen routes by. -/
def State.rerouteQuery (s : State) (q : QueryCtx) : State :=
  match s.colls.find? fun c => c.handle == q.body.coll with
  | none => s.dropQuery q.qid
  | some c =>
    let s1 := (s.dropQuery q.qid).routeQuery c q.cmd (if q.cmd = 0 then q.body else { q.body with qid := s.fab.nextQid })
    s1.settleQuery s.fab.nextQid

/-- Route an update again: what has been reported stands. -/
def State.rerouteUpdate (s : State) (u : UpdateCtx) (node : Nat) : State :=
  let nodes := match u.lid with
    | none => u.owing
    | some lid => (s.updateNodes u.coll (bucketOf lid)).filter (· != s.nodeId)
  let owing := ((u.owing.filter (· != node)) ++ (nodes.filter fun n => n == node || !u.owing.contains n)).eraseDups
  owing.foldl (fun s n => s.say tyUpdate 1 n u.uid stOk)
    { s with fab := { s.fab with updates := s.fab.updates.map fun w => if w.uid = u.uid then { w with owing := owing } else w } }

/-- `ST_STALE_EPOCH` comes back: the map is sent again to a node whose epoch is not the queen's, and the command is routed again
(R517). -/
def execStaleEpochReturn (qid node nodeEpoch : Nat) (s : State) : Res :=
  let resend (s : State) : State := if nodeEpoch = s.fld oFabEpoch 31 0 then s else s.say tyMap 1 node (s.fld oFabEpoch 31 0) stOk
  match s.fab.queries.find? fun q => q.qid == qid && q.owing.contains node with
  | some q => onlyIf (s.live && s.role == 2) s fun s => (resend s).rerouteQuery q
  | none => match s.fab.updates.find? fun u => u.uid == qid && u.owing.contains node with
    | some u => onlyIf (s.live && s.role == 2) s fun s => (resend s).rerouteUpdate u node
    | none => .next s

/-- The deputy has recorded a block of local IDs (R520). -/
def execIdBlockAcknowledgement (coll block : Nat) (s : State) : Res :=
  let (next, known, pending) := s.idState coll
  onlyIf (s.live && s.role == 2 && pending == some block) s fun s => s.setIds coll (next, Nat.max known (block + 1), none)

/-! ## Maps and epochs -/

/-- A MAP of a queen that this worker does not ignore: it adopts the map and its epoch, keeps what it has lost for 20 ms, and
acknowledges (R511, R516, R519). -/
def State.takeMap (s : State) (src epoch : Nat) (nodes : List NodeEntry) (shards : List ShardEntry) (deputy : Nat) : State :=
  let mine (m : List ShardEntry) : List ShardEntry := m.filter fun e => e.node == s.nodeId
  let old := s.fab.queen.filter (· != src)
  let s1 := s.adopt (epoch % 2 ^ 32)
  (({ s1 with fab := { s1.fab with
      nodes := nodes, shards := shards, routeShards := shards, deputy := deputy, hasMap := true, queen := some src
      ignored := s1.fab.ignored ++ old.toList
      keeping := s1.fab.keeping ++ keptBy (mine s.fab.shards) (mine shards) (s.clock + oldEpochPs) } } : State).setFld oFabNode 21 21
    (b2n (deputy == s.nodeId))).say tyData 1 (queenOf s.nodeId) epoch stOk

def execMap (src epoch : Nat) (nodes : List NodeEntry) (shards : List ShardEntry) (deputy : Nat) (s : State) : Res :=
  onlyIf (s.live && s.role == 1 && !s.fab.ignored.contains src) s fun s => s.takeMap src epoch nodes shards deputy

/-- An acknowledgement of the epoch in force; after the last the queen routes under it (R511, R519). -/
def execMapAcknowledgement (node epoch : Nat) (s : State) : Res :=
  onlyIf (s.live && s.role == 2 && epoch == s.fld oFabEpoch 31 0 && s.fab.ackOwing.contains node) s fun s =>
    ({ s with fab := { s.fab with ackOwing := s.fab.ackOwing.filter (· != node) } } : State).routeNow

/-- A JOIN from a node of the pod table is answered with a MAP (R503). -/
def execJoin (src : Nat) (s : State) : Res :=
  onlyIf (s.live && s.role == 2 && s.member src && queenOf src == queenOf s.nodeId && src != s.nodeId) s fun s =>
    (({ s with fab := { s.fab with lostNodes := s.fab.lostNodes.filter (· != src)
                                   handledLost := s.fab.handledLost.filter (· != src) } } : State).nameDeputy).say tyMap 1 src (s.fld oFabEpoch 31 0) stOk

/-- A worker without a MAP sends JOIN on every port in service, again after 10 ms (R503). -/
def execJoinRepeat (s : State) : Res :=
  onlyIf (s.live && s.role == 1 && !s.fab.hasMap) s fun s =>
    let s1 : State := { s with clock := s.clock + 10 * 10 ^ 9 }
    s.upHalves.foldl (fun s _ => s.say tyJoin 1 (queenOf s.nodeId) s.nodeId stOk) s1

/-! ## Heartbeats and the loss of the queen (R519, R520) -/

def execHeartbeat (src : Nat) (s : State) : Res :=
  onlyIf (s.live && s.role == 1 && !s.fab.ignored.contains src) s fun s => { s with fab := { s.fab with lastHeartbeat := s.clock } }

/-- Every 1 ms the queen sends HEARTBEAT to every worker on every port. -/
def execHeartbeatSend (s : State) : Res :=
  onlyIf (s.live && s.role == 2) s fun s =>
    let s1 : State := { s with clock := (s.clock / 10 ^ 9 + 1) * 10 ^ 9 }
    s.workers.foldl (fun s n => s.upHalves.foldl (fun s _ => s.say tyHeartbeat 1 n (s.fld oFabEpoch 31 0) stOk) s) s1

/-- The number that stands for a lost queen in the map once its node ID is another's. -/
def formerQueen : Nat := 2 ^ 20

/-- The map after a takeover: the new queen's buckets under its new ID, the old one's under a number of no node. -/
def takeoverMap (old queen : Nat) (m : List ShardEntry) : List ShardEntry :=
  m.map fun e => if e.node = queen then { e with node := formerQueen } else if e.node = old then { e with node := queen } else e

/-- Pod collections start again at the first block after the highest one recorded, block 0 where none was; the new deputy is told
(R520). -/
def State.restartIds (s : State) : State :=
  (s.colls.filter fun c => c.pod.isSome).foldl (fun t c =>
    let b := (s.idState c.handle).2.1
    t.setIds c.handle (b * 65536, b, none)) s

/-- The deputy takes the queen's place. -/
def State.takeOver (s : State) : State :=
  let old := s.nodeId
  let q := queenOf old
  let s1 := ((({ s with clock := Nat.max s.clock (s.fab.lastHeartbeat + 10 * 10 ^ 9) } : State).setFld oFabNode 19 0 q).setFld oFabNode 23 22 2).setFld
    oFabNode 21 21 0
  let s2 : State := { s1 with fab := { s1.fab with
    nodes := s1.fab.nodes.filter (fun e => e.node != old), shards := takeoverMap old q s1.fab.shards, deputy := 0,
    lostNodes := s1.fab.lostNodes ++ [formerQueen] } }
  let s3 := (s2.nameDeputy).restartIds
  let s4 := s3.adopt ((s.fld oFabEpoch 31 0 + 1) % 2 ^ 32)
  let s5 : State := { s4 with fab := { s4.fab with ackOwing := s4.workers } }
  (s5.sendMaps.routeNow.logEvent evQueenTakeover 0 [q, (s.fld oFabEpoch 31 0 + 1) % 2 ^ 32]).recover

def execHeartbeatTimeout (s : State) : Res := onlyIf (s.live && s.role == 1 && s.fld oFabNode 21 21 == 1) s State.takeOver

/-! ## Lost nodes (R514, R626, R627) -/

/-- A node owes a part of a query or an update. -/
def State.owes (s : State) (node : Nat) : Bool :=
  s.fab.queries.any (fun q => q.owing.contains node) || s.fab.updates.any fun u => u.owing.contains node

/-- A worker misses the 5 ms bound: it is held to be lost. -/
def execWorkerTimeout (node : Nat) (s : State) : Res :=
  onlyIf (s.live && s.role == 2 && s.owes node && !s.fab.lostNodes.contains node) s fun s =>
    { s with fab := { s.fab with lostNodes := s.fab.lostNodes ++ [node] } }

/-- Members of a code group: data buckets and parity shards with their nodes. -/
def groupMembers (m : List ShardEntry) (coll g : Nat) : List ShardEntry := m.filter fun e => e.coll == coll && groupOf e.bucket == g

def State.isCoded (s : State) (coll : Nat) : Bool := (s.colls.find? fun c => c.handle == coll).any fun c => c.pod.any (·.1)

/-- Members of a group that are lost: on lost nodes, or with a rebuild in progress. -/
def State.groupLosses (s : State) (coll g : Nat) : Nat :=
  ((groupMembers s.fab.shards coll g).filter fun e =>
    s.fab.lostNodes.contains e.node || s.fab.rebuilding.any fun r => r.coll == coll && r.bucket == e.bucket).length

/-- Collections that a lost node takes with it: uncoded ones with a bucket on it, coded ones with a third member lost. -/
def State.fatalTo (s : State) (node : Nat) : List Nat :=
  ((s.fab.shards.filter fun e => e.node == node && (!s.isCoded e.coll || decide (2 < s.groupLosses e.coll (groupOf e.bucket)))).map (·.coll)).eraseDups

/-- Members to rebuild. -/
def State.toRebuild (s : State) (node : Nat) : List ShardEntry :=
  s.fab.shards.filter fun e => e.node == node && s.isCoded e.coll && !(s.fatalTo node).contains e.coll

/-- Nodes of the pod that are not lost. -/
def State.survivors (s : State) : List Nat := s.nodeId :: s.workers

/-- The queen's choice for one member: a surviving node outside its group, or any where every survivor is in it. -/
def State.goodAssign (s : State) (e a : ShardEntry) : Bool :=
  let inGroup (n : Nat) : Bool := (groupMembers s.fab.shards e.coll (groupOf e.bucket)).any fun m => m.node == n
  a.coll == e.coll && a.bucket == e.bucket && s.survivors.contains a.node && (!inGroup a.node || s.survivors.all inGroup)

/-- A collection with a lost bucket: later commands end with `ST_LOST`, and so do those in flight (R224). -/
def State.loseColl (s : State) (h : Nat) : State :=
  let s1 := (s.updUnit (.idMap h 0) fun u => { u with lost := true }).logEvent evUnitLost (((s.colls.find? fun c => c.handle == h).map (·.tenant)).getD 0) [h]
  ((s1.cmds.filter fun x => x.phase == .admitted && x.names.contains h && !x.unstoppable).map (·.id)).foldl (fun s c => s.stopCmd c stLost)
    { s1 with fab := { s1.fab with shards := s1.fab.shards.filter fun e => e.coll != h } }

/-- Searches that waited for the node begin again; its parts of updates are made good by the rebuild (R625, R626). -/
def State.dropOwing (s : State) (node : Nat) : State :=
  let qs := s.fab.queries.filter fun q => q.owing.contains node
  let s1 := qs.foldl (fun s q => (s.dropQuery q.qid).updCmd q.cmd fun x => { x with started := false }) s
  (s1.fab.updates.filter fun u => u.owing.contains node).foldl (fun s u =>
    let v := { u with owing := u.owing.filter (· != node) }
    let s2 : State := { s with fab := { s.fab with updates := s.fab.updates.map fun w => if w.uid = u.uid then v else w } }
    if v.owing.isEmpty then s2.settleUpdate v else s2) s1

def execNodeLost (node : Nat) (assign : List ShardEntry) (s : State) : Res :=
  let due := s.toRebuild node
  onlyIf (s.live && s.role == 2 && s.fab.lostNodes.contains node && !s.fab.handledLost.contains node && due.length == assign.length &&
      (due.zip assign).all fun p => s.goodAssign p.1 p.2) s fun s =>
    let s1 := (s.logEvent evNodeLost 0 [node, s.fld oFabEpoch 31 0])
    let s2 := (s.fatalTo node).foldl State.loseColl s1
    (({ s2 with fab := { s2.fab with
        handledLost := s2.fab.handledLost ++ [node], rebuilding := s2.fab.rebuilding ++ assign
        ackOwing := s2.fab.ackOwing.filter (· != node) } } : State).nameDeputy.dropOwing node).routeNow

/-- A rebuild completes: the node that did it records it, and the queen publishes the bucket there (R626). -/
def execBucketRebuilt (coll bucket node : Nat) (s : State) : Res :=
  let idx := ((s.colls.find? fun c => c.handle == coll).map (·.index)).getD 0
  let note (s : State) : State := if node = s.nodeId then s.logEvent evBucketRebuilt 0 [idx, bucket, node] else s
  if s.role = 2 then
    onlyIf (s.live && s.fab.rebuilding.contains ⟨coll, bucket, node⟩) s fun s =>
      (note { s with fab := { s.fab with rebuilding := s.fab.rebuilding.filter fun e => e != ⟨coll, bucket, node⟩ } }).publish
        (s.fab.shards.map fun e => if e.coll = coll ∧ e.bucket = bucket then { e with node := node } else e)
  else onlyIf (s.live && s.role == 1 && node == s.nodeId) s note

/-! ## Re-sharding (R516, R518) -/

/-- The queen starts moving a bucket; one that its old holder still keeps waits. -/
def execReshard (coll bucket node : Nat) (s : State) : Res :=
  match s.fab.shards.find? fun e => e.coll == coll && e.bucket == bucket with
  | none => .next s
  | some e => onlyIf (s.live && s.role == 2 && s.survivors.contains node && e.node != node &&
      !s.fab.reshards.any (fun r => r.coll == coll && r.bucket == bucket) && !s.fab.keeping.any (fun k => k.1 == coll && k.2.1 == bucket) &&
      !s.fab.rebuilding.any (fun r => r.coll == coll && r.bucket == bucket)) s fun s =>
    { s with fab := { s.fab with reshards := s.fab.reshards ++ [{ coll := coll, bucket := bucket, src := e.node, dst := node }] } }

/-- The copy is complete: the queen publishes the map with the bucket at its new holder. -/
def execBucketCopyComplete (coll bucket : Nat) (s : State) : Res :=
  match s.fab.reshards.find? fun r => r.coll == coll && r.bucket == bucket with
  | none => .next s
  | some r => onlyIf (s.live && s.role == 2) s fun s =>
    ({ s with fab := { s.fab with reshards := s.fab.reshards.filter fun x => !(x.coll == coll && x.bucket == bucket) } } : State).publish
      (s.fab.shards.map fun e => if e.coll = coll ∧ e.bucket = bucket then { e with node := r.dst } else e)

/-- 20 ms after it adopted the epoch the old holder releases the bucket. -/
def execBucketRelease (coll bucket : Nat) (s : State) : Res :=
  match s.fab.keeping.find? fun k => k.1 == coll && k.2.1 == bucket with
  | none => .next s
  | some k => onlyIf s.live s fun s =>
    let s1 : State := { s with clock := Nat.max s.clock k.2.2, fab := { s.fab with keeping := s.fab.keeping.filter fun x => x != k } }
    if (holdersIn s.fab.shards coll bucket).contains s.nodeId then s1
    else match s.colls.find? fun c => c.handle == coll with
      | none => s1
      | some c => s1.dropBucket c bucket

end Sys2Proof.Machine
end

