-- ==== Sys2Proof/Machine/Placement.lean ====
section
/-! DEFINITION. Moves of placement units, and what parks them (R196 to R224, R482). -/
namespace Sys2Proof.Machine

/-! ## Where a unit may go -/

/-- The row of R197, as R692 numbers it. -/
def unitKind : UnitId → Nat
  | .fineList _ _ => 0
  | .listSegment _ _ _ => 0
  | .centroids _ _ => 1
  | .idMap _ _ => 2
  | .dense _ _ => 4
  | .expert _ _ _ => 5
  | .kvBlock _ _ _ => 6
  | .summaries _ _ => 7
  | .grammarMasks _ => 8
  | .alloc _ _ => 9

/-- The unit of R197 that a move works on: the list, for one of its segments. -/
def wholeUnit : UnitId → UnitId
  | .listSegment h l _ => .fineList h l
  | u => u

/-- A move of the unit is in progress (R206). -/
def State.onMove (s : State) (u : UnitId) : Bool := s.moves.any fun m => !m.switched && wholeUnit m.uid == wholeUnit u

/-- The hub tier is out of use: a pool has failed since reset (R201). -/
def State.hubOff (s : State) : Bool := s.fld oCisPoolst 7 0 != 0xFF

/-- Bytes of the units that moves in progress bring to a tier. -/
def State.inbound (s : State) (p : Move → PUnit → Bool) : Nat :=
  sumBy (fun m => if m.switched then 0 else (s.unit? m.uid).elim 0 fun u => if p m u then u.bytes else 0) s.moves

/-- The unit may live in the hub tier (R198), which is in use and has room for it beside `more` bytes. -/
def State.hubTakes (s : State) (u : PUnit) (more : Nat) : Bool :=
  (match u.uid with
   | .centroids _ _ => s.unitClass u.uid == 0 && (s.unitColl u.uid).isSome
   | _ => false) && decide (u.bytes ≤ mib) && !s.hubOff && decide (s.hubUsed + more + u.bytes ≤ s.hubSize)

/-- The tier is one of the unit's, moved as R197 says (R198, R209), and has room. A well segment may also go to another domain of its own
stack (R147). -/
def State.destOk (s : State) (u : PUnit) (dest : Home) : Bool :=
  match dest with
  | .flash => softKind u.uid && wholeUnit u.uid == u.uid
  | .hub => s.hubTakes u (s.inbound fun m _ => m.dest == .hub)
  | .stack n => decide (n < 12) &&
      match u.uid with
      | .fineList h l => u.home == .flash && (s.colls.find? fun c => c.handle == h).all fun c => s.stackTakes c l n
      | .listSegment h l _ => u.home != .flash && (s.colls.find? fun c => c.handle == h).all fun c => s.stackTakes c l n
      | .alloc t b => u.home != dest || s.allocs.any fun m => m.tenant == t && m.base == b && m.wellSeg
      | _ => u.home != dest

/-- The move reserve takes the destination (R194, R205). -/
def State.reserveRoom (s : State) (n : Nat) : Bool := decide (s.inbound (fun m _ => m.dest != .flash) + n ≤ 8192 * mib)

/-- A heat half-life in device time. -/
def State.halfLife (s : State) : Nat := 2 ^ s.fld oPlcCtrl 4 0 * 10 ^ 9

/-- The spacing of R216 since an earlier move the other way. -/
def State.spaced (s : State) (t : Option Nat) : Bool := t.all fun t => decide (t + s.halfLife ≤ s.clock)

/-! ## Demotion (R211, R213, R214) -/

/-- Bytes that demotions in progress will free. -/
def State.leaving (s : State) (p : PUnit → Bool) : Nat := s.inbound fun m u => m.dest == .flash && u.home != .flash && p u

/-- Bytes of flash-homed units that demand moves bring to stack memory, and that all moves do. -/
def State.demanded (s : State) (p : PUnit → Bool) : Nat := s.inbound fun m u => m.demand.isSome && u.home == .flash && p u
def State.arriving (s : State) (p : PUnit → Bool) : Nat := s.inbound fun m u => m.dest != .flash && u.home == .flash && p u

/-- Commands that wait for so many bytes of room (R213). -/
def State.roomWaits (s : State) (p : Cmd → Bool) : List Nat :=
  ((s.cmds.filter fun c => c.inFlight && p c).map (·.needRoom)).filter (0 < ·)

/-- `use` bytes, with what waits for room, do not fit in `cap` once the demotions in progress are through. -/
def overFull (cap free use : Nat) (waits : List Nat) : Bool := decide (cap + free < use + waits.foldl Nat.max 0)

/-- A tenant must free stack memory: a command or a demand move waits for room, or its quota was lowered below its use. -/
def State.mustFree (s : State) (t : Nat) : Bool :=
  overFull (s.stackQuota t) (s.leaving (·.tenant == t)) (s.stackUse t + s.demanded (·.tenant == t)) (s.roomWaits (·.fn == t))

/-- The chip itself is short (R212, R214). -/
def State.chipShort (s : State) : Bool :=
  overFull s.chipCap (s.leaving fun _ => true) (s.chipUse + s.demanded fun _ => true) (s.roomWaits fun _ => true)

/-- Two units of one collection or memory. -/
def sameObject (u v : UnitId) : Bool := !unitIsAlloc u && !unitIsAlloc v && unitHandle u == unitHandle v

/-- A unit's collection or memory is above its BUDGET (R211). -/
def State.overBudget (s : State) (u : UnitId) : Bool :=
  s.unitBudget u != 0 && overFull (s.unitBudget u) (s.leaving fun x => sameObject x.uid u)
    (s.objStack (unitHandle u) + s.demanded fun x => sameObject x.uid u) []

/-- A demotion that is not in progress yet, and of an object that stays above its protected bytes without it (R215). -/
def State.mayDemote (s : State) (u : PUnit) : Bool :=
  s.demotable u && !s.onMove u.uid && (s.unitClass u.uid != 0 || s.unitBudget u.uid == 0 || s.overBudget u.uid)

/-- Step of R214 in which a unit is demoted. -/
def State.demoteStep (s : State) (u : UnitId) : Nat :=
  if s.overBudget u then 0 else 4 - s.unitClass u

/-- No unit of the scope comes before this one in the order of R214. -/
def State.coldest (s : State) (u : PUnit) (scope : PUnit → Bool) : Bool :=
  s.units.all fun x => !(scope x && s.mayDemote x) || decide (s.demoteStep u.uid < s.demoteStep x.uid) ||
    (s.demoteStep u.uid == s.demoteStep x.uid && decide (u.heat ≤ x.heat))

/-- Stack memory must be freed by demotions in the order of R214 among units of which this one is one. -/
def State.mustYield (s : State) (u : PUnit) : Bool := s.overBudget u.uid || s.mustFree u.tenant || s.chipShort

/-- The demotion that R211 or R214 requires next. -/
def State.dueDemotion (s : State) (u : PUnit) : Bool :=
  (s.overBudget u.uid && s.coldest u fun x => sameObject x.uid u.uid) || (s.mustFree u.tenant && s.coldest u (·.tenant == u.tenant)) ||
    (s.chipShort && s.coldest u fun _ => true)

/-! ## Promotion (R211, R216, R223) -/

/-- Heat of the coldest stack-memory unit of the same or a higher class number. -/
def State.coldHeat (s : State) (cls : Nat) : Option Nat :=
  minBy (·) ((s.units.filter fun x => x.home != .flash && x.home != .hub && !x.lost && decide (cls ≤ s.unitClass x.uid)).map (·.heat))

/-- A promotion keeps the collection within its BUDGET, the tenant within its quota, with the inserts in progress and `others`, the
promotions beside it, and 1 % of the stack memory free. -/
def State.takesUnit (s : State) (u : PUnit) (others : (PUnit → Bool) → Nat) : Bool :=
  (s.unitBudget u.uid == 0 || decide (s.objStack (unitHandle u.uid) + others (fun x => sameObject x.uid u.uid) + u.bytes ≤ s.unitBudget u.uid)) &&
    decide (s.stackUse u.tenant + s.owed u.tenant + others (·.tenant == u.tenant) + u.bytes ≤ s.stackQuota u.tenant) &&
    decide (s.chipUse + others (fun _ => true) + u.bytes + s.chipCap / 100 ≤ s.chipCap)

/-- The conditions of R216; a unit whose return is due after parking needs no heat (R223). -/
def State.promotable (s : State) (u : PUnit) : Bool :=
  ((u.parked && (fixedKind u.uid || unitIsAlloc u.uid)) ||
    ((s.coldHeat (s.unitClass u.uid)).all (fun h => decide (2 * h ≤ u.heat)) && s.spaced u.demotedAt)) && s.takesUnit u s.arriving

/-- A demand move has room: within the quota, the chip and, while there is something left to demote, the BUDGET. -/
def State.demandRoom (s : State) (u : PUnit) : Bool :=
  decide (s.stackUse u.tenant + u.bytes ≤ s.stackQuota u.tenant) && decide (s.chipUse + u.bytes ≤ s.chipCap) &&
    (s.unitBudget u.uid == 0 || decide (s.objStack (unitHandle u.uid) + u.bytes ≤ s.unitBudget u.uid) ||
      !s.units.any fun x => sameObject x.uid u.uid && s.demotable x)

/-! ## Moves -/

/-- A well operation that has reached no final state works on the allocation (R147). -/
def State.wellOn (s : State) (u : UnitId) : Bool :=
  match u with
  | .alloc t b => s.wells.any fun w => w.tenant == t && [leAt w.desc 8 8, leAt w.desc 0x18 8].any fun p =>
      (s.allocAt t p).any fun a => a.base == b
  | _ => false

def State.addMove (s : State) (u : UnitId) (dest : Home) (demand : Option (Nat × Option Nat)) : State :=
  { s with nextMove := s.nextMove + 1, moves := s.moves ++
      [{ id := s.nextMove, uid := u, dest := dest, demand := demand, late := false, switched := false, readers := [] }] }

/-- The unit lies in a failed resource: the hub tier without a pool, a domain whose well is out of service, or a stack whose spare
channel is in use, where any channel may be the next to fail (R185, R201, R618). -/
def State.onFailed (s : State) (u : PUnit) : Bool :=
  (u.home == .hub && s.hubOff) ||
    (match u.home with
     | .stack n => bit (s.fld oSafCap 47 36) n
     | _ => false) ||
    match u.uid with
    | .alloc t b => s.allocs.any fun m => m.tenant == t && m.base == b && m.wellSeg && !(s.wellsIn m.stack).contains m.well
    | .listSegment h l k => (s.listSeg h l k).any fun g => !(s.wellsIn g.2.stack).contains g.2.well
    | _ => false

/-- A background move that FREEZE and BG_SHARE do not hold back: it makes room that a command or a demand move waits for, or clears a
failed resource (R217). -/
def State.urgent (s : State) (u : PUnit) (dest : Home) : Bool :=
  if dest = .flash then
    s.dueDemotion u && (!(s.roomWaits fun c => c.fn == u.tenant || s.chipShort).isEmpty || decide (0 < s.demanded fun x => x.tenant == u.tenant || s.chipShort))
  else u.home != .flash && dest != .hub && s.onFailed u

/-- A drop of the unit's collection was admitted (R206). -/
def State.dropped (s : State) (u : UnitId) : Bool := (s.unitColl u).any (·.dying.isSome)

/-- The device is parked, or PARK is at work: nothing leaves flash until RESUME (R222, R223). -/
def State.stayParked (s : State) : Bool := s.power.parked || s.power.parking.isSome

/-- The placement engine may start this background move. -/
def State.mayMove (s : State) (u : PUnit) (dest : Home) : Bool :=
  !u.lost && !s.stayParked && !s.dropped u.uid && !s.onMove u.uid && s.destOk u dest && !s.wellOn u.uid &&
    (dest == .flash || s.reserveRoom u.bytes) &&
    (s.urgent u dest || (s.fld oPlcCtrl 11 11 == 0 && s.fld oPlcCtrl 15 12 != 0)) &&
    match dest with
    | .flash => s.mayDemote u && (s.dueDemotion u || (!s.mustYield u && s.spaced u.promotedAt))
    | _ => u.home != .flash || s.promotable u

def execBackgroundMove (u : UnitId) (dest : Home) (s : State) : Res :=
  match s.unit? u with
  | none => .next s
  | some x => onlyIf (s.active && s.mayMove x dest) s fun s => s.addMove u dest none

/-- The command works on the unit's object, or needs the tenant's allocations (R223). -/
def State.needsUnit (x : Cmd) (u : UnitId) : Bool :=
  (match u with
   | .alloc t _ => t == x.fn
   | _ => x.names.contains (unitHandle u)) ||
  (match x.work with
   | .generate g => unitHandle u == g.mem && !unitIsAlloc u
   | _ => false)

/-- Only a retrieved block or a selected expert of a `vr.generate` carries a deadline, SLACK after the work that does not need it
(R250, R254): an instant that the step's own timing fixes, so it is an operand. -/
def State.deadlineOk (s : State) (y : Cmd) (u : UnitId) (deadline : Option Nat) : Bool :=
  let slack := field (y.a 0x50 4) 31 16
  let carries := slack != 0xFFFF && match y.work, u with
    | .generate g, .kvBlock _ _ b => g.group.any fun l => l.contains b
    | .generate _, .expert _ _ _ => true
    | _, _ => false
  match deadline with
  | none => !carries
  | some d => carries && decide (s.clock + (if slack = 0 then 50 else slack) * 1000000 ≤ d)

/-- A late unit is late for the token that its command is computing. -/
def Cmd.noteLate (y : Cmd) (u : UnitId) : Cmd :=
  match y.work with
  | .generate g => { y with work := .generate { g with late := g.late ++ [u] } }
  | _ => y

/-- A list that is changed with no command: its automatic compaction is due, or an UPDATE of another node may wait for it (R72, R219). -/
def State.needsList (s : State) (u : UnitId) : Bool :=
  match u with
  | .fineList h l => s.colls.any fun c => c.handle == h && c.dying.isNone && (c.pod.isSome || (c.compactAt != 0 && decide (c.compactAt ≤ (c.list l).share)))
  | _ => false

/-- The unit is one that a demand move may ask for: by an admitted command that needs it, or by none, `c` = 0, for R219. -/
def State.mayDemand (s : State) (c : Nat) (u : UnitId) (deadline : Option Nat) (tenant : Nat) : Bool :=
  match s.cmd? c with
  | none => c == 0 && s.needsList u && deadline.isNone
  | some y => y.phase == .admitted && State.needsUnit y u && tenant == y.fn && s.deadlineOk y u deadline

/-- A demand move of a flash-homed unit (R219 to R223). Where the tenant lacks room, the engine makes it before the switch. -/
def execDemandMove (c : Nat) (u : UnitId) (stack : Nat) (deadline : Option Nat) (s : State) : Res :=
  match s.unit? u with
  | none => .next s
  | some x => onlyIf (s.active && x.home == .flash && !x.lost && s.mayDemand c u deadline x.tenant && !s.onMove u && s.destOk x (.stack stack)) s
      fun s => s.addMove u (.stack stack) (some (c, deadline))

def State.dropMove (s : State) (m : Nat) : State := { s with moves := s.moves.filter fun x => x.id != m }

/-- A move is abandoned: its source stays the home (R207). -/
def State.abandon (s : State) (m : Move) : State :=
  let h := match m.uid with
    | .alloc _ b => b
    | u => unitHandle u
  ((s.dropMove m.id).wrapAdd oPlcMoved 63 48 1).logEvent evMoveAbandon (((s.unit? m.uid).map PUnit.tenant).getD 0) [h, unitKind m.uid]

/-- Range-table entries of an allocation (R169). -/
def State.rangesOf (s : State) (u : UnitId) : List Range :=
  match u with
  | .alloc t b => s.ranges.filter fun r => r.tenant == t && (s.allocAt t r.base).any fun a => a.base == b
  | _ => []

/-- The source returns no uncorrectable fault (R207). -/
def State.sourceGood (s : State) (u : PUnit) : Bool :=
  !u.lost && match u.uid with
    | .alloc t b => u.home == .flash || s.poison.all fun l => l / 2 ^ 58 != t || !(s.allocAt t (l % 2 ^ 58 * 64)).any fun a => a.base == b
    | _ => true

/-- The destination can be written: a partition that is not read-only has the room, the range table of the other stack has the entries,
or the hub tier is in use and takes the tensor (R169, R198, R207, R228, R437). -/
def State.destWritable (s : State) (u : PUnit) (dest : Home) : Bool :=
  match dest with
  | .flash => (s.unitPart u.tenant u.uid).any fun p =>
      !p.readOnly && !p.dropping && decide (s.partValid p.tenant p.pid + u.bytes ≤ p.user)
  | .stack n => decide (s.rangesUsed n + (if u.home = dest then 0 else (s.rangesOf u.uid).length) ≤ 16384)
  | .hub => s.hubTakes u 0

/-- The move may still switch: no demotion of a unit that R215 protects by now, and no promotion past BUDGET or quota (R211, R215,
R216). -/
def State.stillDue (s : State) (m : Move) (u : PUnit) : Bool :=
  match m.dest with
  | .flash => u.home == .flash || s.demotable u
  | .hub => s.unitClass u.uid == 0
  | .stack _ => u.home != .flash || m.demand.isSome || s.takesUnit u fun _ => 0

/-- Another domain of a stack for a segment that leaves `old`: a free choice (R147, R208). -/
def State.otherWell (s : State) (st old k : Nat) : Nat :=
  let on := (s.wellsIn st).filter (· != old)
  on.getD (s.draw k % Nat.max 1 on.length) old

/-- A segment in a domain of the stack given. -/
def State.reseg (s : State) (n k : Nat) (g : Seg) : Seg := ⟨n, if g.stack = n then s.otherWell n g.well k else s.anyWell n k⟩

/-- The segments of a list change place, each by its position in the chain. -/
def Coll.setSegs (c : Coll) (l : Nat) (f : Nat → Seg → Seg) : Coll :=
  { c with lists := Map.put c.lists l { c.list l with segs := (c.list l).segs.zipIdx.map fun p => f p.2 p.1 } }

/-- An allocation or a list is in another stack: its segments in domains that the placement engine chooses, an allocation with its
range-table entries (R147, R199, R222). -/
def State.resettle (s : State) (u : UnitId) (dest : Home) : State :=
  match u, dest with
  | .alloc t b, .stack n =>
    let moved := s.rangesOf u
    ({ s with
      allocs := s.allocs.map fun a => if a.tenant = t ∧ a.base = b then { a with stack := n, well := (s.reseg n 0 ⟨a.stack, a.well⟩).well } else a
      ranges := s.ranges.map fun r => if moved.contains r then { r with stack := n } else r } : State).notePeak n |>.drew 1
  | .fineList h l, .stack n =>
    (s.updColl h fun c => c.setSegs l fun i g => s.reseg n i g).drew (2 ^ 16)
  | .listSegment h l k, .stack n =>
    ((s.updColl h fun c => c.setSegs l fun i g => if i = k then s.reseg n 0 g else g).drew 1).updUnit (.fineList h l) fun x =>
      if k = 0 then { x with home := dest } else x
  | _, _ => s

/-! ## Uncorrectable lines (R619) -/

/-- The unit is a bucket of a pod collection with CODE = 1, which the pod rebuilds (R619). -/
def State.codedUnit (s : State) (u : UnitId) : Bool := (s.unitColl u).any fun c => c.pod.any (·.1)

/-- What an uncorrectable line of a unit costs (R619). -/
def State.loseLine (s : State) (u : UnitId) (line : Nat) : State :=
  match u with
  | .alloc t _ => { s with poison := if s.poison.contains (t * 2 ^ 58 + line) then s.poison else s.poison ++ [t * 2 ^ 58 + line] }
  | u => if s.codedUnit u then s else s.updUnit (wholeUnit u) fun x => { x with lost := true }

/-- The stack of a unit; a free choice for data that no unit holds. -/
def State.stackOf (s : State) (u : Option UnitId) : Nat :=
  match (u.bind s.unit?).map PUnit.home with
  | some (.stack n) => n
  | _ => s.draw 2 % 12

/-- An uncorrectable sealed line: poisoned, counted and recorded. Channel and physical address are free values. -/
def State.stackUe (s : State) (u : Option UnitId) (line : Nat) : State :=
  let t := ((u.bind s.unit?).map PUnit.tenant).getD 0
  let s1 := ((s.drew 3).satAdd oSafMem 63 32 1).logEvent evStackUe t [s.stackOf u, s.draw 0 % 32, s.draw 1 % 2 ^ 40 * 64]
  match u with
  | some v => s1.loseLine v line
  | none => s1

/-! ## The switch -/

/-- Count a move (R231). -/
def State.countMove (s : State) (n : Nat) : State :=
  ({ s with movedBytes := s.movedBytes + n }.wrapAdd oPlcMoves 31 0 1).setFld oPlcMoved 47 0 ((s.movedBytes + n) / mib % 2 ^ 48)

/-- Switch the home in one step (R202). -/
def State.switchMove (s : State) (m : Move) (u : PUnit) : State :=
  let part := if m.dest = .flash then (s.unitPart u.tenant u.uid).map fun p => (p.tenant, p.pid) else none
  let readers := (s.cmds.filter fun c => c.phase == .admitted && State.needsUnit c (wholeUnit m.uid)).map (·.id)
  let s1 := s.updUnit m.uid fun x =>
    { x with home := m.dest, part := part, parked := false,
             promotedAt := if m.dest != .flash && x.home == .flash then some s.clock else x.promotedAt,
             demotedAt := if m.dest == .flash then some s.clock else x.demotedAt }
  { (s1.countMove u.bytes).resettle m.uid m.dest with
    moves := s1.moves.map fun x => if x.id = m.id then { x with switched := true, readers := readers } else x }

/-- A demand move has missed its deadline: the requesting fragment takes the cheaper path (R220, R221). -/
def State.turnLate (s : State) (m : Move) : State :=
  (({ s with moves := s.moves.map fun x => if x.id = m.id then { x with late := true } else x } : State).updCmd
    ((m.demand.map (·.1)).getD 0) fun y => y.noteLate m.uid).wrapAdd oPlcMoves 63 32 1

/-- The deadline of a demand move has passed. -/
def State.pastDue (s : State) (m : Move) : Bool := !m.late && (m.demand.bind (·.2)).any fun d => decide (d < s.clock)

/-- An uncorrectable data fault of the source: the unit is handled as R619 says for stack memory; of the other tiers it is lost. -/
def State.sourceFault (s : State) (u : PUnit) (line : Nat) : State :=
  match u.home with
  | .stack _ => s.stackUe (some (wholeUnit u.uid)) line
  | _ => s.loseLine (wholeUnit u.uid) line

/-- The copy of a move is complete, or has failed as `fault` says (R202, R207). A demand move whose tenant has no room yet waits with its
switch; a background move that R211, R215 or R216 no longer allows ends without one (DESIGN CHOICE, assumption 41). -/
def State.endCopy (s : State) (m : Move) (u : PUnit) (fault : Option MoveFault) : State :=
  match fault with
  | some .destination => s.abandon m
  | some (.source line) => (s.abandon m).sourceFault u line
  | none =>
    if !s.sourceGood u || !s.destWritable u m.dest then (if m.dest = .hub ∧ s.unitClass u.uid ≠ 0 then s.dropMove m.id else s.abandon m)
    else if !s.stillDue m u then s.dropMove m.id
    else if m.demand.isSome && !(s.demandRoom u && s.reserveRoom 0) then s
    else s.switchMove m u

def execMoveSwitch (e : CopyEnd) (s : State) : Res :=
  match s.moves.find? fun x => x.id == e.move with
  | none => .next s
  | some v => onlyIf (s.active && !v.switched && !s.wellOn v.uid) s fun s =>
    match s.unit? v.uid with
    | none => s.dropMove e.move
    | some u => if s.pastDue v then (s.turnLate v).endCopy { v with late := true } u e.fault else s.endCopy v u e.fault

/-- None of the commands is in flight any more. -/
def State.noneOf (s : State) (ids : List Nat) : Bool := !s.cmds.any fun c => c.inFlight && ids.contains c.id

def execMoveSourceRelease (m : Nat) (s : State) : Res :=
  match s.moves.find? fun x => x.id == m with
  | none => .next s
  | some v => onlyIf (s.live && v.switched && s.noneOf v.readers && !s.wellOn v.uid) s fun s =>
    { s with moves := s.moves.filter fun x => x.id != m }

/-- A demand move that has not switched by its deadline is late (R220). -/
def execDeadlineExpiry (m : Nat) (s : State) : Res :=
  match s.moves.find? fun x => x.id == m with
  | none => .next s
  | some v => match v.demand.bind (·.2) with
    | none => .next s
    | some d => onlyIf (s.live && !v.switched && !v.late) s fun s => { s.turnLate v with clock := Nat.max s.clock d }

/-- The placement engine changes some staging sets for load: a free choice (R210). -/
def State.restage (s : State) : State :=
  ({ s with colls := s.colls.zipIdx.map fun c =>
      if s.draw (2 * c.2) % 2 = 0 then c.1 else { c.1 with staging := s.newStaging (s.draw (2 * c.2 + 1)) } } : State).drew (2 * s.colls.length)

/-- Heat halves (R208); at the same instant staging sets may change (assumption 27). -/
def execHeatHalfLife (s : State) : Res :=
  onlyIf s.active s fun s =>
    { s.restage with clock := (s.clock / s.halfLife + 1) * s.halfLife, units := s.units.map fun u => { u with heat := u.heat / 2 } }

/-- The old range of a compacted list goes once every search admitted before its switch has finished (R70). -/
def execRangeRelease (r : Nat) (s : State) : Res :=
  match s.oldRanges.find? fun x => x.id == r with
  | none => .next s
  | some v => onlyIf (s.live && s.noneOf v.readers) s fun s => { s with oldRanges := s.oldRanges.filter fun x => x.id != r }

/-! ## Parking (R222, R223, R482) -/

/-- Sealing of the inner-only lines that the inner code cannot correct, as parking stores them. -/
def State.parkPoison (s : State) (u : UnitId) (cmd : Nat) : State :=
  match u with
  | .alloc t b =>
    match s.allocs.find? fun a => a.tenant == t && a.base == b with
    | none => s
    | some a => (s.poison.filter fun l => decide (l / 2 ^ 58 = t ∧ b ≤ l % 2 ^ 58 * 64 ∧ l % 2 ^ 58 * 64 < b + a.size) &&
        s.innerOnly t (l % 2 ^ 58 * 64)).foldl
      (fun s _ => (s.drew 1).logEvent evSealPoison t [a.stack, s.draw 0 % 2 ^ 40 * 64, s.cmdData cmd]) s
  | _ => s

/-- Park one unit in the system partition. -/
def State.parkUnit (s : State) (x : Cmd) (u : PUnit) : State :=
  let s1 := (s.parkPoison u.uid x.id).updUnit u.uid fun v => { v with home := .flash, parked := true, part := some (0, 0) }
  let s2 := { s1 with moves := s1.moves.filter fun m => m.uid != u.uid }
  let rest := sumBy (·.bytes) (s2.units.filter fun v => v.home != .flash && !v.lost)
  let pos := x.pos + u.bytes
  (s2.countMove u.bytes).raiseProgress x.id (pos * 10000 / Nat.max 1 (pos + rest)) pos

/-- Park the next unit on which no well works, or complete (R222). Moves that would leave flash are cancelled. -/
def State.parkStep (s : State) (x : Cmd) : State :=
  let s : State := { s with moves := s.moves.filter fun m => m.switched || m.dest == .flash }
  if s.units.all fun u => u.home == .flash || u.lost then
    { s with power := { s.power with parked := true, parking := none } }.endCmd x.id stOk 0 0 x.pos 10000
  else match s.units.find? fun u => u.home != .flash && !u.lost && !s.wellOn u.uid with
    | none => s
    | some u => if (s.part? 0 0).any fun p => !p.readOnly then s.parkUnit x u else s

def execPark (c : Nat) (s : State) : Res :=
  runCmd c s (fun x => x.opc == 7 && x.fn == 0 && x.u 0x10 2 == 0x10) fun x s =>
    if s.power.parked then s.endCmd c stOk 0 0 x.pos 10000 else s.parkStep x

def execResume (c : Nat) (s : State) : Res :=
  runCmd c s (fun x => x.opc == 7 && x.fn == 0 && x.u 0x10 2 == 0x11) fun _ s =>
    { s with power := { s.power with parked := false } }.endCmd c stOk 0 0 0 10000

end Sys2Proof.Machine
end

