-- ==== Sys2Proof/Machine/Faults.lean ====
section
/-! DEFINITION. Faults of the hub, the clocks, the supplies, the links, the stacks and the pools (R201, R394, R395, R606 to R622,
R634, R636). -/
namespace Sys2Proof.Machine

/-! ## Halt (R622) -/

/-- The device halts: EV_HALT carries SEV 3, which raises the in-band interrupt to the board controller at every setting of ALERT. -/
def State.halt (s : State) (cause : Nat) : State := (s.setFld oSafStatus 0 0 1).logEvent evHalt 0 [cause]

/-! ## Restarting commands (R394, R395, R621) -/

/-- A command starts again from its first phase. What it has committed stays, and the programs that record their commits outside
the pool keep their place. -/
def State.restartCmd (s : State) (c : Nat) : State :=
  match s.cmd? c with
  | none => s
  | some x =>
    let inner := (s.frags.filter fun f => f.cmd == c).map (·.id)
    let s1 := (s.dropFrags fun f => f.cmd == c).stopWells c
    { s1 with
      cmds := (s1.cmds.filter fun y => !(y.parent.any fun f => inner.contains f)).map fun y =>
        if y.id = c then { y with started := y.opc != 1 && y.started, argBase := 0, needRoom := 0 } else y
      allocs := s1.allocs.filter fun m => !(x.argBase != 0 && m.tenant == x.fn && m.base == x.argBase)
      dev := if x.argBase = 0 then s1.dev else Mem.clear s1.dev (devKey x.fn x.argBase) (roundUp x.args.length 65536)
      fab := { s1.fab with queries := s1.fab.queries.filter fun q => q.cmd != c } }

/-- A record moves to a free slot of an eligible pool; with none free it waits for one. -/
def State.moveSlot (s : State) (c : Nat) : State := (s.updCmd c fun y => { y with slot := none }).reseat

/-- Commands whose records lay in a pool. -/
def State.inPool (s : State) (n : Nat) : List Nat :=
  (s.cmds.filter fun c => c.phase == .admitted && (c.slot.map (·.1)) == some n).map (·.id)

/-- The hub tier turns off at the first pool failure since reset (R201). -/
def State.hubTierOff (s : State) (n : Nat) : State := if s.hubOff then s else (s.logEvent evHubTierOff 0 [n])

/-- A pool goes out of service until reset (R394, R395, R549). -/
def State.failPool (s : State) (n : Nat) : State :=
  let mirror := bit (s.fld oCisPoolst 7 0) ((n + 4) % 8)
  let held := s.inPool n
  let s1 := ((s.hubTierOff n).setFld oCisPoolst n n 0).setFld oCisPoolst (8 + n) (8 + n) 1
  let s2 := (s1.logEvent evPoolFail 0 [n]).recover
  if mirror then (held.foldl (fun s c => (s.restartCmd c).moveSlot c) s2).syncPool n
  else held.foldl (fun s c => s.stopCmd c stHwFault) s2

def execPoolFail (n : Nat) (s : State) : Res :=
  onlyIf (s.live && decide (n < 8) && bit (s.fld oCisPoolst 7 0) n) s fun s => s.failPool n

/-! ## Lockstep and watchdogs (R607, R612, R613, R621, R622) -/

/-- Engines as R630 numbers them. -/
def engineNo : Engine → Nat
  | .cluster => 0
  | .sch => 1
  | .hq => 2
  | .hbmc => 3
  | .flc => 4
  | .fab => 5
  | .gate => 6
  | .mc => 7

/-- Instances of each kind of engine; the GATE engines are one for each port half (assumption 25). -/
def engineCount : Engine → Nat
  | .cluster => 544
  | .hbmc => 12
  | .flc => 32
  | .fab => 8
  | .gate => 16
  | _ => 1

/-- Unswitched moves that an engine carries: those of an HBMC's stack, or those to or from flash. -/
def State.engineMoves (s : State) (e : Engine) (inst : Nat) : List Move :=
  s.moves.filter fun m => !m.switched &&
    (let src := (s.unit? m.uid).map (·.home)
     match e with
     | .hbmc => m.dest == .stack inst || src == some (.stack inst)
     | .flc => m.dest == .flash || src == some .flash
     | _ => false)

/-- The restart of a hub engine (R621). -/
def State.restartEngine (s : State) (e : Engine) (inst : Nat) : State :=
  match e with
  | .sch => ((s.cmds.filter fun c => c.phase == .admitted && c.parent.isNone).map (·.id)).foldl State.restartCmd s
  | _ => (s.engineMoves e inst).foldl State.abandon s

/-- The instance mismatched within the last second. -/
def State.again (s : State) (e : Engine) (inst : Nat) : Bool :=
  s.power.lockstepAt.any fun (x, i, t) => x == e && i == inst && decide (s.clock ≤ t + 10 ^ 12)

def State.noteLockstep (s : State) (e : Engine) (inst : Nat) : State :=
  let old := s.power.lockstepAt.filter fun (x, i, _) => !(x == e && i == inst)
  ({ s with power := { s.power with lockstepAt := old ++ [(e, inst, s.clock)] } } : State).satAdd oSafDiag 47 32 1
    |>.logEvent evLockstep 0 [engineNo e, inst]

/-- `mcState` tells that the MC, restarting, finds an uncorrectable error in its own state (R622). -/
def execLockstepMismatch (e : Engine) (inst : Nat) (mcState : Bool) (s : State) : Res :=
  onlyIf (s.live && decide (inst < engineCount e)) s fun s =>
    let s1 := s.noteLockstep e inst
    if e = .cluster then s1.stopPhys inst 1
    else if e = .mc ∧ mcState = true then s1.halt 3
    else if s.again e inst then s1.halt 0 else s1.restartEngine e inst

def execWatchdog (e : Engine) (inst : Nat) (s : State) : Res :=
  onlyIf (s.live && decide (inst < engineCount e)) s fun s =>
    let s1 := (s.satAdd oSafDiag 31 16 1).logEvent evWatchdog 0 [engineNo e, inst]
    if e = .cluster then s1.stopPhys inst 3 else s1

/-! ## Clocks and supplies (R611, R613, R622, R634, R636) -/

/-- Retire clusters together: those that serve no logical number first, so that none of them is taken as a spare. -/
def State.retireAll (s : State) (ps : List Nat) (cause : Nat) : State :=
  let idle := ps.filter fun p => (s.logicalOf p).isNone
  let busy := ps.filter fun p => (s.logicalOf p).isSome
  (idle ++ busy).foldl (fun s p => s.retirePhys p cause) s

/-- Physical clusters of clock-and-power domain `d` of a die (R613). -/
def domainClusters (die d : Nat) : List Nat := (List.range 17).map fun i => die * physPerDie + 17 * d + i

/-- Physical clusters of a die. -/
def dieClusters (die : Nat) : List Nat := (List.range physPerDie).map fun i => die * physPerDie + i

/-- A clock off by more than 2 %: for the cluster-domain PLLs, of domain `domain` mod 8 of die `domain` / 8. A reference clock outside its
limits is a tamper event too, and every clock but the cluster-domain PLLs serves the hub. -/
def execClockFault (clock domain : Nat) (s : State) : Res :=
  onlyIf (s.awake && s.fld oSafStatus 0 0 == 0 && decide (clock < 6 ∧ domain < 32)) s fun s =>
    let s1 := ((s.satAdd oSafDiag 15 8 1).setFld oClkStatus (8 + clock) (8 + clock) 1).logEvent evClock 0 [clock]
    if clock = 4 then s1.retireAll (domainClusters (domain / 8) (domain % 8)) 5
    else
      let s2 := s1.halt 1
      if s.sensing && decide (clock < 3) then s2.tamperEvent 2 false else s2

/-- Monitored window of a rail in mV (R634). -/
def railWindow (rail : Nat) : Nat × Nat :=
  if rail = 0 ∨ rail = 5 then (713, 788)
  else if rail ≤ 4 then (684, 756)
  else if rail = 6 then (998, 1103)
  else if rail = 7 then (380, 420)
  else if rail = 8 then (808, 893)
  else (1140, 1260)

/-- The clusters that a faulted rail of a cluster die takes: one domain, or with `domain` = 8 the whole die. -/
def railClusters (rail domain : Nat) : List Nat := if domain < 8 then domainClusters (rail - 1) domain else dieClusters (rail - 1)

def execSupplyFault (rail mv domain : Nat) (s : State) : Res :=
  let (lo, hi) := railWindow rail
  onlyIf (s.awake && s.fld oSafStatus 0 0 == 0 && decide (rail < 10 ∧ domain ≤ 8) && (decide (mv < lo) || decide (hi < mv))) s fun s =>
    let s1 := (s.satAdd oSafDiag 7 0 1).logEvent evSupply 0 [rail, mv]
    let hub := rail == 0 || rail == 5
    let s2 := if hub then s1.halt 2 else if 1 ≤ rail ∧ rail ≤ 4 then s1.retireAll (railClusters rail domain) 6 else s1
    if s.sensing then s2.tamperEvent 1 (!hub) else s2

/-! ## Links (R608, R609) -/

/-- Links: bridge 0 to 3 of CD0 to CD3, neighbour 4 to 7 of the ring, and the others of the meshes on the dies. -/
def linkPair (link : Nat) : Nat := if link < 4 then link + 4 * 256 else (link - 4) + (link - 3) % 4 * 256

/-- A flit with a CRC error is sent again; `retries` counts the errors since the link last trained. -/
def execFlitCrcError (link : Nat) (s : State) : Res :=
  onlyIf s.live s fun s =>
    { s with power := { s.power with retries := Map.put s.power.retries link (Map.getD s.power.retries link 0 + 1) } }

/-- Kind and die pair of a failed link's record: for a link within a die the manual gives none, and both are free values. -/
def State.linkWords (s : State) (link : Nat) : Nat × Nat :=
  if link < 8 then (link / 4, linkPair link) else (s.draw 0 % 2, s.draw 1 % 65536)

/-- A link retrains after eight retries of one flit have failed. -/
def State.retrain (s : State) (link lanes : Nat) : State :=
  let kept := if Config.linkLanes link ≤ 2 * lanes then lanes else 0
  let (kind, pair) := s.linkWords link
  let p := s.power
  let s1 := ({ s with power := { p with retries := Map.del p.retries link, lanes := Map.put p.lanes link kept } } : State).drew
    (if link < 8 then 0 else 2)
  let s2 := s1.logEvent evLinkFail 0 [kind, pair, kept]
  if kept = 0 ∧ link < 4 then s2.retireAll (dieClusters link) 7 else s2

/-- Running fragments of tenant code whose inputs or outputs the failed flit carried are reissued. -/
def State.loseCarried (s : State) (carried : List Nat) : State :=
  ((s.frags.filter fun f => f.phase == .running && !f.isVarelm && carried.contains f.id).map (·.id)).foldl State.loseRun s

def execLinkRetrain (link lanes : Nat) (carried : List Nat) (s : State) : Res :=
  onlyIf (s.live && decide (9 ≤ Map.getD s.power.retries link 0 ∧ lanes ≤ Config.linkLanes link)) s fun s =>
    (s.loseCarried carried).retrain link lanes

/-! ## Stack memory (R610, R617 to R620) -/

/-- Lines of stack memory, the metadata area with them: 8 check bytes to each 64. -/
def stackLines : Nat := 857088 * mib / 64 / 8 * 9

/-- One line of a patrol pass; the last begins a new pass (R610, R633). -/
def State.patrolStep (s : State) : State :=
  let n := s.power.patrolled + 1
  if n = stackLines then
    ({ s with power := { s.power with patrolled := 0, fullPass := s.power.passStart, passStart := s.clock } } : State).satAdd oSafPatrol 63 32 1
  else { s with power := { s.power with patrolled := n } }

/-- The line is one of an inner-only range, which patrol covers with the inner code alone (R179). -/
def State.innerLine (s : State) (u : Option UnitId) (line : Nat) : Bool :=
  match u with
  | some (.alloc t _) => s.innerOnly t (line * 64)
  | _ => false

/-- A patrolled line lies in the unit: within the allocation, or anywhere in a unit that has no device-space address. -/
def State.lineIn (s : State) (u : Option UnitId) (line : Nat) : Bool :=
  match u with
  | none => true
  | some (.alloc t b) => s.allocs.any fun m => m.tenant == t && m.base == b && decide (b ≤ line * 64 ∧ line * 64 < b + m.size)
  | some v => (s.unit? v).any fun x => x.home != .flash && x.home != .hub

/-- One patrolled line with `bad` bad symbols (R168): up to 4 are corrected and written back unless a write intervened (R610). Of an
inner-only line more than the inner code corrects are uncorrectable, and nothing is counted or recorded (R178, R179). -/
def execPatrolScrub (u : Option UnitId) (line bad : Nat) (raced : Bool) (s : State) : Res :=
  onlyIf (s.live && s.fld oPwrState 2 2 == 1 && s.lineIn u line) s fun s =>
    let s1 := s.patrolStep
    if bad = 0 then s1
    else if s.innerLine u line then (if bad ≤ 4 then s1 else match u with
      | some v => s1.loseLine v line
      | none => s1)
    else if bad ≤ 4 then (if raced then s1 else s1.satAdd oSafMem 31 0 1)
    else s1.stackUe u line

/-- The copy onto the spare channel is complete (R617, R144). -/
def execChannelSpare (stack channel : Nat) (s : State) : Res :=
  onlyIf (s.live && decide (stack < 12 ∧ channel < 32) && !bit (s.fld oSafCap 47 36) stack) s fun s =>
    ((s.spareWells stack channel).setFld oSafCap (36 + stack) (36 + stack) 1).logEvent evChannelSpare 0 [stack, channel]

/-- A segment lies in a domain of the channel. -/
def State.onChannel (s : State) (stack channel : Nat) : Bool :=
  s.allocs.any (fun m => m.wellSeg && m.stack == stack && m.well / 16 == channel) ||
    s.colls.any fun c => c.lists.any fun l => s.resident (.fineList c.handle l.1) && l.2.segs.any fun g => g.stack == stack && g.well / 16 == channel

/-- A channel beyond the spare is retired once its units have moved off (R618). -/
def execChannelRetire (stack channel : Nat) (s : State) : Res :=
  onlyIf (s.live && decide (stack < 12 ∧ channel < 32) && bit (s.fld oSafCap 47 36) stack && !s.power.chRetired.contains (stack, channel) &&
      decide (2304 ≤ s.fld oPlcCap 31 0) && !s.onChannel stack channel) s fun s =>
    ((((({ s with power := { s.power with chRetired := s.power.chRetired ++ [(stack, channel)] } } : State).setFld oSafCap (48 + stack)
      (48 + stack) 1).setFld oPlcCap 31 0 (s.fld oPlcCap 31 0 - 2304)).setFld oSafStatus 2 2 1)).recountWells stack (s.wellsIn stack).length

end Sys2Proof.Machine
end

