-- ==== Sys2Proof/Machine/Flash.lean ====
section
/-! DEFINITION. What the FLCs do on their own: folding, collection, wear levelling, patrol, read-back, failures, erases and
recovery, and the relocation notices at the index (R418 to R438). -/
namespace Sys2Proof.Machine

/-! ## Relocations -/

/-- The oldest buffer block of a partition that a fold may take (R418, R427). -/
def State.oldestBuffer (s : State) (t pid : Nat) : Option Block :=
  minBy (·.order) ((s.blocksOf t pid).filter fun b => b.oneBit && b.st == .verified)

def execFold (tenant pid dest : Nat) (s : State) : Res :=
  match s.part? tenant pid, s.oldestBuffer tenant pid with
  | some p, some b =>
    onlyIf (s.active && !p.density && s.destFits b.id dest false b.valid) s fun s => s.relocate b.id dest 0 false
  | _, _ => .next s

/-- The victim of a collection (R428). -/
def State.gcVictim (s : State) (p : Part) : Option Block :=
  minBy (fun b => b.valid * 2 ^ 64 + b.erases) ((s.blocksOf p.tenant p.pid).filter fun b => b.oneBit == p.density && b.st == .verified)

/-- FREE blocks are below 2 % of the partition's blocks. -/
def State.gcDue (s : State) (t pid : Nat) : Bool :=
  let bs := s.blocksOf t pid
  decide ((bs.filter fun b => b.st == .free).length * 50 < bs.length)

def execGarbageCollection (tenant pid dest : Nat) (s : State) : Res :=
  match s.part? tenant pid with
  | none => .next s
  | some p => match s.gcVictim p with
    | none => .next s
    | some b =>
      onlyIf (s.active && s.gcDue tenant pid && s.destFits b.id dest p.density b.valid) s fun s => s.relocate b.id dest 1 p.density

/-- The die's erase counts differ by more than 10 % of the rated cycles and this is its coldest VERIFIED block (R431). A block of the die that
no partition has held yet has never been erased. -/
def State.wearDue (s : State) (b : Block) : Bool :=
  let die := s.flash.blocks.filter fun x => dieOf x.id == dieOf b.id
  let hi := die.foldl (fun m x => Nat.max m x.erases) 0
  let lo := if die.length < s.flash.geom.blocksPerDie then 0 else die.foldl (fun m x => Nat.min m x.erases) hi
  decide (s.flash.geom.rated < 10 * (hi - lo)) && die.all fun x => x.st != .verified || decide (b.erases ≤ x.erases)

def execWearLevelling (block dest : Nat) (s : State) : Res :=
  match s.block? block with
  | none => .next s
  | some b =>
    onlyIf (s.active && b.st == .verified && (b.refresh || s.wearDue b) && s.destFits block dest b.oneBit b.valid) s fun s =>
      s.relocate block dest (if b.refresh then 2 else 3) b.oneBit

/-! ## Read-back, failures and erases -/

/-- Sources whose records were copied to a block, apart from those already acknowledged. -/
def State.sourcesOf (s : State) (dest : Nat) : List Nat :=
  (s.flash.blocks.filter fun b => b.target == some dest && (b.st == .victim || (b.st == .retired && b.recs.any (·.valid)))).map (·.id)

/-- A block is closed and read back: it verifies and the notices of what was copied to it are posted, or a page fails, its
records are rewritten to `failed` and it is retired (R420, R422). -/
def execBlockClose (block : Nat) (failed : Option Nat) (s : State) : Res :=
  match s.block? block with
  | none => .next s
  | some b =>
    match failed with
    | none => onlyIf (s.active && b.st == .opened && !s.isParity block) s fun s =>
        (s.sourcesOf block).foldl (fun s x => s.postNotices x block) ((s.leaveGroup block).updBlock block fun y => { y with st := .verified })
    | some d => onlyIf (s.active && b.st == .opened && !s.isParity block && s.destFits block d b.oneBit b.valid) s fun s =>
        let s1 := s.setBlocks (s.flash.blocks.map fun x => if x.target = some block then { x with target := some d } else x)
        match b.part with
        | none => s
        | some (t, pid) => ((s1.retireBlock block 3).updPart t pid fun q => { q with rebuilt := q.rebuilt + 1 }).relocate block d 4 b.oneBit

/-- Records of a failed block that a source still holds. -/
def State.stillAt (s : State) (block : Nat) (r : Rec) : Bool :=
  (s.sourcesOf block).any fun x => ((s.block? x).map (·.recs)).getD [] |>.any fun y =>
    y.tenant == r.tenant && y.coll == r.coll && y.lid == r.lid

/-- A parity block whose program fails is retired, and a FREE block of no member's die takes its place: its pages are programmed again
(R419, R432). -/
def State.replaceParity (s : State) (block dest : Nat) : State :=
  match (s.block? block).bind (·.group), s.block? block, s.block? dest with
  | some g, some b, some d =>
    if d.st == .free && d.part == b.part && (s.group? g).any (fun y => y.members.all fun m => dieOf m != dieOf dest) then
      let s1 := s.updBlock dest fun x => { x with st := .opened, oneBit := true, group := some g, used := b.used }
      let s2 := s1.updGroup g fun y => { y with parity := y.parity.map fun p => if p = block then dest else p }
      let s3 := (s2.updBlock block fun x => { x with group := none, used := 0 }).retireBlock block 1
      match b.part with
      | none => s3
      | some (t, pid) => s3.updPart t pid fun q => { q with pfail := q.pfail + 1, mediaw := q.mediaw + b.used * 512 }
    else s
  | _, _, _ => s

/-- Pages that records touch. -/
def pagesOf (l : List Rec) : Nat :=
  (l.flatMap fun r =>
    let u := field r.loc.toNat 38 27 * 32 + field r.loc.toNat 26 22
    (List.range ((u + ceilDiv r.bytes.length 512 - 1) / 32 + 1 - u / 32)).map (· + u / 32)).eraseDups.length

/-- A program failure retires the block. Copies restart on `dest` from their source, or from the parity group where the source
fails too; what neither can read is lost. Records that commands wrote are rebuilt from parity (R421, R429, R430). REBUILT and UNCORR of
the health log count the pages rebuilt and the records that no read gave (R439). -/
def execProgramFailure (block dest : Nat) (sourceOk parityOk : Bool) (s : State) : Res :=
  match s.block? block with
  | none => .next s
  | some b =>
    if s.isParity block then onlyIf (s.active && b.st == .opened) s fun s => s.replaceParity block dest
    else onlyIf (s.active && b.st == .opened && s.destFits block dest b.oneBit b.valid) s fun s =>
      match b.part with
      | none => s
      | some (t, pid) =>
        let parityOk := parityOk && b.group.isSome
        let copies := b.recs.filter fun r => r.valid && s.stillAt block r
        let own := b.recs.filter fun r => r.valid && !s.stillAt block r
        let lost := (if sourceOk || parityOk then [] else copies) ++ (if parityOk then [] else own)
        let rebuilt := (own ++ if sourceOk then [] else copies).filter fun r => !lost.contains r
        let s1 := (s.retireBlock block 1).updPart t pid fun q =>
          { q with pfail := q.pfail + 1, rebuilt := q.rebuilt + pagesOf rebuilt, uncorr := q.uncorr + lost.length }
        let s2 := lost.foldl State.loseRec s1
        let srcs := s.sourcesOf block
        let s3 := s2.setBlocks (s2.flash.blocks.map fun x => if x.target = some block then { x with target := some dest } else x)
        let s4 := (copies.filter fun r => !lost.contains r).foldl (fun s r => (s.writeRec dest b.oneBit r).1) s3
        let s5 := s4.updBlock block fun x => { x with recs := x.recs.filter fun r => own.contains r }
        if own.any fun r => !lost.contains r then s5.relocate block dest 4 b.oneBit
        else if b.oneBit then srcs.foldl (fun s x => s.postNotices x dest) (s5.coverBlock dest) else s5

/-- A PENDING block may be erased (R426). -/
def State.erasable (s : State) (b : Block) : Bool :=
  b.st == .pending && !s.flash.notices.any (fun n => n.block == b.id) && s.noneOf b.readers &&
    (b.cause > 1 || (b.target.bind s.block?).all fun d => d.oneBit || d.st != .opened)

/-- A PENDING block is erased and returns to FREE; one whose erase fails is retired (R426, R432). -/
def execBlockErase (block : Nat) (failed : Bool) (s : State) : Res :=
  match s.block? block with
  | none => .next s
  | some b =>
    onlyIf (s.active && s.erasable b) s fun s =>
      if failed then
        let s1 := s.retireBlock block 2
        match b.part with
        | none => s1
        | some (t, pid) => s1.updPart t pid fun q => { q with efail := q.efail + 1 }
      else
        let s1 := (s.updBlock block Block.erased).wrapAdd oFlcCnt 31 0 1
        match b.part with
        | some (t, pid) => if b.oneBit then s1.resizeBuf t pid else s1
        | none => s1

/-! ## Patrol and recovery -/

/-- Blocks that hold programmed pages. -/
def Block.programmed (b : Block) : Bool := b.st != .unalloc && b.st != .free && b.st != .retired

/-- The record touches the page. -/
def Rec.onPage (r : Rec) (page : Nat) : Bool :=
  let first := field r.loc.toNat 38 27
  decide (first ≤ page ∧ page * 32 < first * 32 + field r.loc.toNat 26 22 + ceilDiv r.bytes.length 512)

/-- A full patrol pass ends and the next begins (R433, R633). -/
def State.notePatrol (s : State) (block : Nat) : State :=
  let done := block :: s.flash.patrolled
  if (s.flash.blocks.filter Block.programmed).all fun b => done.contains b.id then
    { s with flash := { s.flash with patrolled := [], fullPass := s.flash.passStart, passStart := s.clock } }
  else { s with flash := { s.flash with patrolled := done } }

/-- The patrol read of one block (R431, R433). -/
def execFlashPatrol (block : Nat) (r : PatrolResult) (s : State) : Res :=
  match s.block? block with
  | none => .next s
  | some b =>
    onlyIf (s.active && b.programmed && !s.flash.patrolled.contains block) s fun s =>
      let upd (f : Part → Part) (s : State) : State := match b.part with
        | none => s
        | some (t, pid) => s.updPart t pid f
      s.notePatrol block |> fun s => match r with
        | .clean => s
        | .corrected => upd (fun q => { q with corr := q.corr + 1 }) s
        | .aboveThreshold => (upd (fun q => { q with corr := q.corr + 1 }) s).updBlock block fun x => { x with refresh := true }
        | .uncorrectable page =>
          if b.st = .opened ∨ b.st = .closed then upd (fun q => { q with rebuilt := q.rebuilt + 1 }) s
          else (b.recs.filter fun x => x.valid && x.onPage page).foldl State.loseRec (upd (fun q => { q with uncorr := q.uncorr + 1 }) s)

/-- After power loss with blocks open: folds and collections restart from their sources, whose copies are discarded, and pages that parity
does not yet cover, whose program was never completed, are discarded (R21, R438). -/
def execOpenBlockRecovery (s : State) : Res :=
  onlyIf (s.live && s.flash.recovering) s fun s =>
    let victims := s.flash.blocks.filter fun b => b.st == .victim
    let copied (b : Block) (r : Rec) : Bool :=
      victims.any fun v => v.target == some b.id && v.recs.any fun x => x.tenant == r.tenant && x.coll == r.coll && x.lid == r.lid
    let fix (b : Block) : Block :=
      if b.st = .victim then { b with st := .verified, target := none } else { b with recs := b.recs.filter fun r => !copied b r && (s.recCovered r.loc || s.stillAt b.id r) }
    { s with flash := { s.flash with blocks := s.flash.blocks.map fix, recovering := false } }

/-! ## Notices at the index (R423 to R425) -/

/-- Fine lists of a collection with an entry of the local ID that still holds a location. -/
def Coll.listsAt (c : Coll) (lid : Nat) (loc : Word) : List Nat :=
  (c.lists.filter fun l => l.2.entries.any fun e => e.lid == lid && e.loc == loc).map (·.1)

/-- Write NEW in every entry of the local ID in a list that holds OLD. -/
def Coll.applyNotice (c : Coll) (n : Notice) (l : Nat) : Coll :=
  { c with lists := c.lists.map fun p => if p.1 = l then
      (p.1, { p.2 with entries := p.2.entries.map fun e => if e.lid = n.lid ∧ e.loc = n.old then { e with loc := n.new } else e }) else p }

/-- The collection of a notice, unless it was dropped. -/
def State.noticeColl (s : State) (n : Notice) : Option Coll := s.colls.find? fun c => c.tenant == n.tenant && c.index == n.coll

/-- Acknowledge a notice: commands admitted now hold the source block. -/
def State.ackNotice (s : State) (n : Notice) : State :=
  let readers := (s.cmds.filter fun c => c.phase == .admitted).map (·.id)
  let s1 := { s with flash := { s.flash with notices := s.flash.notices.filter fun x => x.id != n.id } }
  let s2 := (s1.updBlock n.block fun b => { b with readers := readers }).wrapAdd oFlcCnt 63 32 1
  match (s.block? n.block).bind (·.part) with
  | none => s2
  | some (t, pid) => s2.updPart t pid fun q => { q with noticesOut := q.noticesOut - 1 }

/-- The list's home is flash. -/
def State.listOnFlash (s : State) (h l : Nat) : Bool := (s.unit? (.fineList h l)).any fun u => u.home == .flash

/-- Apply a notice to the lists that `ok` selects; it is acknowledged once no list waits, else queued (R424). -/
def State.applyNotice (s : State) (n : Notice) (ok : Nat → Nat → Bool) : State :=
  match s.noticeColl n with
  | none => s.ackNotice n
  | some c =>
    let ls := c.listsAt n.lid n.old
    let now := ls.filter (ok c.handle)
    let s1 := s.updColl c.handle fun c => now.foldl (fun c l => c.applyNotice n l) c
    if now.length = ls.length then s1.ackNotice n
    else { s1 with flash := { s1.flash with notices := s1.flash.notices.map fun x => if x.id = n.id then { x with queued := true } else x } }

def execRelocationNotice (n : Nat) (s : State) : Res :=
  match s.flash.notices.find? fun x => x.id == n with
  | none => .next s
  | some v => onlyIf (s.active && !v.queued) s fun s => s.applyNotice v fun h l => !s.listOnFlash h l

/-- Queued notices of a list. -/
def State.queuedFor (s : State) (c : Coll) (l : Nat) : List Notice :=
  s.flash.notices.filter fun n => n.queued && n.tenant == c.tenant && n.coll == c.index && (c.listsAt n.lid n.old).contains l

/-- A PENDING block of the notices' partition is needed to keep it writable: it has no FREE block. -/
def State.needsPending (s : State) (n : Notice) : Bool :=
  match (s.block? n.block).bind (·.part) with
  | none => false
  | some (t, pid) => !(s.blocksOf t pid).any fun b => b.st == .free

/-- A flash-homed list moves with its queued notices applied (R424). -/
def execNoticeQueueMove (handle list : Nat) (dest : Home) (s : State) : Res :=
  match s.colls.find? (fun c => c.handle == handle), s.unit? (.fineList handle list) with
  | some c, some u =>
    let q := s.queuedFor c list
    onlyIf (s.active && u.home == .flash && !s.onMove u.uid && !s.stayParked &&
        (decide (256 ≤ q.length) || q.any s.needsPending) &&
        (dest == .flash || (s.destOk u dest && s.reserveRoom u.bytes && s.takesUnit u s.arriving))) s fun s =>
      q.foldl (fun s n => s.applyNotice n fun h l => (h == handle && l == list) || !s.listOnFlash h l)
        (s.addMove (.fineList handle list) dest none)
  | _, _ => .next s

end Sys2Proof.Machine
end

