-- ==== Sys2Proof/Machine/FragInstr.lean ====
section
/-! DEFINITION. The instructions that build a fragment's commit (R303, R307, R371, R372). -/
namespace Sys2Proof.Machine

/-- The commit-overflow exception with the posts and log entries held so far (R379). -/
def Ictx.overflow (c : Ictx) : Eff := .exc xCommit 0 0 (c.frag.logs.length % 65536 * 65536 + c.frag.posts.length % 65536)

/-- The descriptor is copied when the instruction retires. -/
def execFragPost (t : Tid) (s : State) : Res :=
  runInsn 0x78 (fun w => onlyUses w usesA)
    (fun c s =>
      let o := c.ga.toNat
      if !c.inArea o 64 then .exc xCistern o 0 0
      else if 64 ≤ c.frag.posts.length then c.overflow
      else .done (s.updFrag c.t.frag fun f => { f with posts := f.posts ++ [c.cisRd s o 64] })) t s

/-- Distinct 64-byte lines of a log. -/
def logLines (l : List LogEntry) : List Nat :=
  l.foldl (fun acc e => if acc.contains (e.addr / 64) then acc else acc ++ [e.addr / 64]) []

/-- One log entry: alignment, translation and limits (R303), then held until the commit. -/
def logOp (opc : Nat) (isAdd : Bool) (t : Tid) (s : State) : Res :=
  runInsn opc (fun w => onlyUses w (usesA ||| usesB))
    (fun c s =>
      let a := c.ga.toNat
      let l := c.frag.logs ++ [{ isAdd := isAdd, addr := a, value := c.gb }]
      firstExc [(a % 8 != 0, .exc xAlign a 0 0),
          (decide (2 ^ 63 ≤ a) || !s.devWritable c.tenant a 8, .exc xTranslation a 0 0),
          (decide (256 < l.length ∨ 16 < (logLines l).length), c.overflow)]
        (.done (s.updFrag c.t.frag fun f => { f with logs := l }))) t s

def execFragLogSt (t : Tid) (s : State) : Res := logOp 0x79 false t s
def execFragLogAdd (t : Tid) (s : State) : Res := logOp 0x7A true t s

def execFragStatus (t : Tid) (s : State) : Res :=
  runInsn 0x7B (fun w => onlyUses w usesA)
    (fun c s =>
      if 65536 ≤ c.ga.toNat then badOperand
      else .done (s.updFrag c.t.frag fun f => { f with status := some c.ga.toNat })) t s

def execFragProg (t : Tid) (s : State) : Res :=
  runInsn 0x7C (fun w => onlyUses w (usesA ||| usesB))
    (fun c s => .done (s.updFrag c.t.frag fun f => { f with prog2 := some (c.ga.toNat, c.gb.toNat) })) t s

/-- The thread ends (R303). -/
def execFragEnd (t : Tid) (s : State) : Res :=
  runInsn 0x7D (fun w => onlyUses w 0) (fun _ s => .pause s .ended) t s

end Sys2Proof.Machine
end

