-- ==== Sys2Proof/Machine/Attention.lean ====
section
/-! DEFINITION. What an agent memory holds and what a step reads of it: key/value blocks, summaries and block indexes (R244 to R246),
retrieval (R247, R248), and attention over the retrieved blocks, the window and the sink (R131, R249, R253). `k` numbers free values. -/
namespace Sys2Proof.Machine

def bf32 (l : List (BitVec 16)) : List Nat := l.map fun b => cvtF fBf16 fF32 b.toNat
def toBf (l : List Nat) : List (BitVec 16) := l.map fun x => BitVec.ofNat 16 (cvtF fF32 fBf16 x)
def toF16 (l : List Nat) : List (BitVec 16) := l.map fun x => BitVec.ofNat 16 (cvtF fF32 fF16 x)

/-- The FP32 mean of vectors, element by element; the sums' order is free. -/
def meanOf (k n : Nat) (rows : List (List Nat)) : List Nat :=
  (List.range n).map fun j => fF32.div (fF32.sum (k + j) (rows.map fun r => fF32.val (r.getD j 0))) (fF32.ofInt rows.length)

/-! ## Heads (R142, R235) -/

/-- The FP32 outputs of a projection for BF16 activations: integer weights meet activations quantised for the token to int8, or to int4
where the image asks (R123). -/
def project (k : Nat) (o : Model) (tensor : Nat) (x : List (BitVec 16)) : List F32 :=
  match o.tensors[tensor]? with
  | none => []
  | some t =>
    let four := (o.img.tensors[tensor]?).any (·.act4)
    let a := if four then quantGroup (bf32 x) (-8) 7 else quantGroup (bf32 x) (-128) 127
    (List.range t.rows).map fun r =>
      if t.fmt ≤ 1 then BitVec.ofNat 32 (t.product (k + r) r a) else Config.floatProduct (k + r) o.raw tensor r x

/-- The vector of one head of a layer at a position: role 0 a query, 1 a key, 2 a value. -/
def headOf (k : Nat) (o : Model) (toks : List Nat) (pos layer role head : Nat) : List Nat :=
  let p := o.img.projections.getD layer (0, 0, 0)
  let t := if role = 0 then p.1 else if role = 1 then p.2.1 else p.2.2
  let v := Config.headVector k o.raw layer role head pos (project k o t (Config.activations k o.raw toks pos layer))
  (List.range o.img.headDim).map fun j => (v.getD j 0).toNat

/-- Keys and values of a token, in BF16, by layer and KV head (R245). -/
def tokenKv (k : Nat) (o : Model) (toks : List Nat) (pos : Nat) : List (List (BitVec 16)) :=
  (List.range o.img.layers).flatMap fun l => (List.range (2 * o.img.kvHeads)).map fun i =>
    toBf (headOf (k + 2 ^ 40 * (l + 1)) o toks pos l (1 + i % 2) (i / 2))

/-! ## Blocks and summaries (R244, R245) -/

/-- Vectors `i` of the 64 tokens of a block. -/
def ofRow (toks : List (List (List (BitVec 16)))) (i : Nat) : List (List (BitVec 16)) := toks.map fun t => t.getD i []

/-- The quantised tensor of one layer of a block: 2H rows of 64 × d int4 codes, token-major, each with one scale entry (R244). -/
def blockTensor (m : Config.ModelImage) (toks : List (List (List (BitVec 16)))) (layer gen : Nat) : QTensor :=
  let rows := (List.range (2 * m.kvHeads)).map fun i =>
    quantGroup ((ofRow toks (2 * m.kvHeads * layer + i)).flatMap bf32) (-8) 7
  QTensor.written
    { fmt := 0, rows := 2 * m.kvHeads, cols := 64 * m.headDim, chan := true, sparse := false, codes := rows.flatMap fun g => packInt4 g.codes,
      positions := [], scales := rows.map QGroup.entry, gen := 0, tags := [] } gen

/-- A block's summary: for each key and value vector the FP32 mean over the 64 tokens, as FP16 (R245). -/
def blockSummary (k : Nat) (m : Config.ModelImage) (toks : List (List (List (BitVec 16)))) : List (List (BitVec 16)) :=
  (List.range (2 * m.kvHeads * m.layers)).map fun i => toF16 (meanOf (k + 4096 * i) m.headDim ((ofRow toks i).map bf32))

/-! ## Block indexes (R246) -/

/-- Coarse centroids of a block index. -/
def coarseCount (n : Nat) : Nat :=
  let r := isqrt n
  Nat.min 512 (if r * r = n then r else r + 1)

/-- A list of vectors in the shape that is asked for. -/
def shaped (n w : Nat) (l : List (List (BitVec 16))) : List (List (BitVec 16)) :=
  (List.range n).map fun i => (List.range w).map fun j => (l.getD i []).getD j 0

/-- The summary key of a block for one index. -/
def summaryKey (m : Config.ModelImage) (sums : List (List (List (BitVec 16)))) (ix b : Nat) : List (BitVec 16) :=
  (sums.getD b []).getD (2 * ix) (List.replicate m.headDim 0)

/-- Append one block's entry to the list of its nearest coarse centroid (R246), by the IP distance. -/
def BlockIndex.enter (x : BlockIndex) (k d b : Nat) (key : List (BitVec 16)) : BlockIndex :=
  let v := bits16 key
  let l := (rankBy (fun i => centroidDist mIP (k + 1024 * i) v (x.coarse.getD i [])) (List.range x.coarse.length)).headD 0
  let e : Entry :=
    { codes := encode4 (k + 2 ^ 20) (d / 4) x.book (residual v (x.coarse.getD l [])), lid := b, attr := 0, tomb := false,
      loc := 0xFFFFFFFFFFFFFFFF, ins := 0, del := 0 }
  { x with lists := x.lists.zipIdx.map fun p =>
      if p.2 = l then
        let f := p.1.append (2 ^ 64) ⟨0, 0⟩ e
        { f with committed := f.entries.length }
      else p.1 }

/-- An index clustered anew over the summary keys of blocks 0 to n − 1: its lists are rewritten whole (R134, R246). -/
def clustered (k : Nat) (m : Config.ModelImage) (old : BlockIndex) (keys : List (List (BitVec 16))) : BlockIndex :=
  let c := coarseCount keys.length
  let d := m.headDim
  let book := Config.indexBooks k keys
  let gen (i : Nat) : Nat := match old.lists[i]? with
    | some f => (f.gen + 1) % 256
    | none => Config.freeNat (k + 1 + i) % 256
  let empty : BlockIndex :=
    { coarse := shaped c d (Config.indexCentroids k keys)
      book := (List.range (d / 4)).map fun j => shaped 16 4 (book.getD j [])
      lists := (List.range c).map fun i => ⟨[], 0, gen i, [], [], []⟩ }
  keys.zipIdx.foldl (fun x p => x.enter (k + 2 ^ 30 + 2 ^ 24 * p.2) d p.2 p.1) empty

/-- The index after a block was added: a first clustering where it has none. -/
def BlockIndex.add (x : BlockIndex) (k : Nat) (m : Config.ModelImage) (sums : List (List (List (BitVec 16)))) (ix b : Nat) : BlockIndex :=
  if x.coarse.isEmpty then clustered k m x ((List.range (b + 1)).map (summaryKey m sums ix))
  else x.enter k m.headDim b (summaryKey m sums ix b)

/-- A stored tag of the index that differs from its scale entry (R136). -/
def BlockIndex.skew (x : BlockIndex) : Option Nat :=
  x.lists.findSome? fun f => (List.range f.tags.length).find? fun j => (f.tags.getD j 0).toNat != field (f.scales.getD j 0).toNat 31 24

/-! ## Appending a token (R244, R245, R261) -/

/-- The memory after one token more; the 64th of a block quantises it, forms its summary and enters it in the indexes, in one step. -/
def AgentMem.append (a : AgentMem) (k : Nat) (m : Config.ModelImage) (tok : Nat) (kv : List (List (BitVec 16))) : AgentMem :=
  let opened := a.opened ++ [kv]
  if opened.length < 64 then { a with tokens := a.tokens ++ [tok], opened := opened }
  else
    let b := a.blocks.length
    let sums := a.sums ++ [blockSummary k m opened]
    { a with
      tokens := a.tokens ++ [tok]
      opened := []
      blocks := a.blocks ++ [(List.range m.layers).map fun l => blockTensor m opened l (Config.freeNat (k + 2 ^ 50 + l))]
      sums := sums
      indexes := (List.range (m.layers * m.kvHeads)).map fun i =>
        (a.indexes.getD i ⟨[], [], []⟩).add (k + 2 ^ 51 * (i + 1)) m sums i b }

/-! ## Retrieval (R247, R248) -/

/-- First position of the window of position `p`. -/
def windowStart (p : Nat) : Nat := p - 4095

/-- Blocks that may be retrieved at position `p` when `full` blocks are full. -/
def candidates (p full : Nat) : List Nat := (List.range full).filter fun b => decide (0 < b ∧ 64 * b < windowStart p)

/-- The retrieval query of a KV head: the FP32 mean over its query heads (R248), and over the tokens of a prompt group (R259). -/
def retrievalQuery (k : Nat) (o : Model) (toks : List Nat) (at_ : List Nat) (layer head : Nat) : List Nat :=
  let per := o.img.qHeads / Nat.max 1 o.img.kvHeads
  meanOf k o.img.headDim (at_.map fun p => meanOf (k + 4096 * (p + 1)) o.img.headDim ((List.range per).map fun i =>
    headOf (k + 2 ^ 40 * (layer + 1)) o (toks.take p) p layer 0 (head * per + i)))

/-- Candidates that one list of an index scores, through the tables of the query (R131, R246). -/
def BlockIndex.scan (x : BlockIndex) (k d : Nat) (q : List Nat) (cand : List Nat) (u8 : Bool) (l : Nat) : List (F32 × Nat) :=
  let f := x.coarse.getD l []
  let dd := subDists mIP (k + 2 ^ 38) (d / 4) x.book q f
  let f32 := constTerm mIP (k + 2 ^ 20 * (l + 1)) q f
  let live := ((x.lists[l]?).elim [] fun y => y.entries.take y.committed).filter fun e => cand.contains e.lid
  live.map fun e => (BitVec.ofNat 32 (scanDist u8 (k + 2 ^ 30 + e.lid * 2 ^ 13) dd f32 e.codes), e.lid)

/-- Probe coarse lists in order until `need` candidates are scored or every list is probed. -/
def BlockIndex.probe (x : BlockIndex) (k d need : Nat) (q cand : List Nat) (u8 : Bool) : List Nat → List (F32 × Nat) → List (F32 × Nat)
  | [], found => found
  | l :: r, found => if need ≤ found.length then found else x.probe k d need q cand u8 r (found ++ x.scan k d q cand u8 l)

/-- The T best candidates of one index (R248): the scan's best 2T, rescored in FP32 against their summary keys as −q·k̄. -/
def retrieve (k : Nat) (m : Config.ModelImage) (x : BlockIndex) (sums : List (List (List (BitVec 16)))) (ix t : Nat) (q cand : List Nat) :
    List Nat :=
  if cand.length ≤ t then cand
  else
    let order := rankBy (fun i => centroidDist mIP (k + 1024 * i) q (x.coarse.getD i [])) (List.range x.coarse.length)
    let found := x.probe k m.headDim (4 * t) q cand (Config.freeNat k % 2 == 0) order []
    let two := ((sortBy (pairBefore ktF32 false) found).take (2 * t)).map (·.2)
    ((sortBy (pairBefore ktF32 false) (two.map fun b =>
      (BitVec.ofNat 32 (neg32 (dotSum (k + 2 ^ 60 + b) q (bits16 (summaryKey m sums ix b)))), b))).take t).map (·.2)

/-! ## Attention (R131, R247, R249, R253) -/

/-- Positions that a head attends to: sink, window, and the blocks retrieved for it that are not replaced. -/
def attendedAt (p : Nat) (blocks : List Nat) : List Nat :=
  let w := windowStart p
  let sink := (List.range 64).filter fun i => decide (i < w)
  let got := blocks.flatMap fun b => ((List.range 64).map fun i => 64 * b + i).filter fun i => decide (64 ≤ i ∧ i < w)
  sink ++ got ++ (List.range (p + 1 - w)).map fun i => w + i

/-- Positions of a block that R247 would have attended (R253). -/
def blockShare (p b : Nat) : Nat := (((List.range 64).map fun i => 64 * b + i).filter fun i => decide (64 ≤ i ∧ i < windowStart p)).length

/-- One entry of an attended set: its logit, and its value vector in FP32; for a position of a full block that is v − z, with the block's
number and its scale s. -/
structure Attended where
  logit : Nat
  value : List Nat
  block : Option (Nat × Nat)
  deriving DecidableEq, Repr

/-- √d in FP32. -/
def rootDim (d : Nat) : Nat := fF32.roundSqrt false d 1

/-- The entry of position `i` of full block `b`: the logit by an int16 table of the query quantised to int8 (R131, R133). -/
def quantEntry (d : Nat) (q : QGroup) (t : QTensor) (head b i : Nat) : Attended :=
  let e := t.entry (2 * head) 0
  let ev := t.entry (2 * head + 1) 0
  let raws := (List.range d).map fun j => some (t.stored (2 * head) (i * d + j))
  let dot := fF32.ofVal (scaledPart (tablePartial 0 q.codes q.zp (entryZp e) raws) q.scale (entryScale e))
  ⟨fF32.div dot (rootDim d), (List.range d).map fun j => fF32.ofInt (intCode 0 (t.stored (2 * head + 1) (i * d + j)) - entryZp ev),
    some (b, entryScale ev)⟩

/-- The entry of a position that is held in BF16. -/
def openEntry (k d : Nat) (q : List Nat) (key value : List (BitVec 16)) : Attended := ⟨fF32.div (dotSum k q (bf32 key)) (rootDim d), bf32 value, none⟩

/-- The one entry that stands for a late block: q·k̄/√d + ln n, with the block's mean value (R253). -/
def summaryEntry (k d n : Nat) (q : List Nat) (key value : List (BitVec 16)) : Attended :=
  ⟨fF32.add (fF32.div (dotSum k q (bits16 key)) (rootDim d)) (Config.logCount n).toNat, bits16 value, none⟩

/-- The attention output of one query head: the weighted sum of the values under the softmax of the logits, formed in FP32; within a
block it is s · Σ p (v − z) (R249). -/
def attend (k d : Nat) (es : List Attended) : List F32 :=
  let ps := es.zip (Config.softmax 0x3F800000#32 (es.map fun e => BitVec.ofNat 32 e.logit))
  let term (j : Nat) (e : Attended × F32) : FVal := fF32.val (fF32.mul (e.1.value.getD j 0) e.2.toNat)
  let blocks := (es.filterMap (·.block)).eraseDups
  (List.range d).map fun j => BitVec.ofNat 32 (fF32.sum (k + j) (((ps.filter fun e => e.1.block.isNone).map (term j)) ++ blocks.map fun b =>
    fF32.val (fF32.ofVal (scaleV b.2 (fF32.val (fF32.sum (k + 4096 * (b.1 + 1) + j) ((ps.filter fun e => e.1.block == some b).map (term j))))))))

/-- The attention output of query head `qh` of a layer for the token at `p`, whose own keys and values are `own`: `kept` are those of tokens
that are held but not appended. -/
def AgentMem.attention (a : AgentMem) (k : Nat) (o : Model) (toks : List Nat) (p layer qh : Nat) (kept : List (List (List (BitVec 16))))
    (own : List (List (BitVec 16))) (blocks late : List Nat) : List F32 :=
  let m := o.img
  let d := m.headDim
  let per := m.qHeads / Nat.max 1 m.kvHeads
  let head := qh / Nat.max 1 per
  let q (i : Nat) : List Nat := headOf (k + 2 ^ 40 * (layer + 1)) o toks p layer 0 i
  -- one scale for the queries of a KV head
  let all := quantGroup ((List.range per).flatMap fun i => q (head * per + i)) (-128) 127
  let qq : QGroup := { all with codes := (all.codes.drop (qh % Nat.max 1 per * d)).take d }
  let row := 2 * m.kvHeads * layer + 2 * head
  let rest := a.opened ++ kept ++ [own]
  let entry (i : Nat) : Attended := match a.blocks[i / 64]? with
    | some b => quantEntry d qq (b.getD layer ⟨0, 0, 0, true, false, [], [], [], 0, []⟩) head (i / 64) (i % 64)
    | none =>
      let kv := rest.getD (i - 64 * a.blocks.length) []
      openEntry (k + i) d (q qh) (kv.getD row []) (kv.getD (row + 1) [])
  let sums (b : Nat) : Attended :=
    summaryEntry (k + 2 ^ 30 + b) d (blockShare p b) (q qh) ((a.sums.getD b []).getD row []) ((a.sums.getD b []).getD (row + 1) [])
  attend (k + 2 ^ 61) d ((attendedAt p (blocks.filter fun b => !late.contains b)).map entry ++ late.map sums)

/-! ## Experts (R238) -/

/-- Experts of a layer by descending score, ties to the lower number. -/
def rankExperts (scores : List F32) (n : Nat) : List Nat :=
  (sortBy (fun a b : FVal × Nat => ltV b.1 a.1) ((List.range n).map fun e => (fF32.val (scores.getD e 0).toNat, e))).map (·.2)

/-- Gate weights of the selected experts: the softmax of their scores over the selected set (R238). -/
def gateWeights (scores : List F32) (sel : List Nat) : List F32 :=
  let w := Config.softmax 0x3F800000#32 (sel.map fun e => scores.getD e 0)
  (List.range sel.length).map fun i => w.getD i 0

end Sys2Proof.Machine
end

