-- ==== Sys2Proof/Machine/Models.lean ====
section
/-! DEFINITION. The model programs but for `vr.generate`: embeddings, agent memories, model shapes and re-clustering (R233 to
R246). -/
namespace Sys2Proof.Machine

/-! ## `vr.embed` (R239, R240) -/

def Cmd.embedOk (x : Cmd) : Bool :=
  decide (1 ≤ x.a 8 4 ∧ x.a 8 4 ≤ 4096 ∧ x.af 0xC 2 1 ≤ 2) && x.af 0xC 31 7 == 0 && x.af 0xC 0 0 == 0 &&
    addrOk (bit (x.a 0xC 4) 4) (x.a 0x10 8) && addrOk (bit (x.a 0xC 4) 4) (x.a 0x18 8) && addrOk (bit (x.a 0xC 4) 5) (x.a 0x20 8) &&
    addrOk (bit (x.a 0xC 4) 6) (x.a 0x28 8) && cleanBut x.args [(0, 0x30)]

/-- Tokens that an embedding model runs on. -/
def embedTokens (m : Config.ModelImage) (text : List Byte) : List Nat :=
  if text.isEmpty then startToken m ++ endToken m else (tokenise m text).take m.inputLen

/-- One vector from the last layer's outputs: their FP32 mean, the first one or the last one, as POOL states (R237, R240). -/
def pooled (k : Nat) (m : Config.ModelImage) (rows : List (List F32)) : List Nat :=
  let row (r : List F32) : List Nat := (List.range m.embDim).map fun j => (r.getD j 0).toNat
  if m.pool = 0 then meanOf k m.embDim (rows.map row) else row (if m.pool = 1 then rows.headD [] else rows.getLastD [])

/-- The vector of a text: the pooled output, scaled to unit length as R688 scales one where NORM asks for it. -/
def State.embedding (s : State) (i : Nat) (o : Model) (norm : Bool) (text : List Byte) : List Nat :=
  let k := s.free + 2 ^ 40 * (i + 1)
  let x := pooled (k + 1) o.img (Config.lastLayer k o.raw (embedTokens o.img text))
  if norm then normalise x else x

/-- Offsets of TIDX that rise. -/
def namesRising : List Nat → Bool
  | a :: b :: r => decide (a ≤ b) && namesRising (b :: r)
  | _ => true

/-- The texts of TEXT and TIDX, or the state in which a failed read leaves the command; offsets that fall give empty texts. -/
def State.embedTexts (s : State) (x : Cmd) : Except State (List (List Byte)) :=
  let dev := bit (x.a 0xC 4) 4
  let n := x.a 8 4
  match s.input x dev (x.a 0x18 8) (4 * (n + 1)) with
  | .error e => .error e
  | .ok b =>
    let idx := (List.range (n + 1)).map fun i => leAt b (4 * i) 4
    s.inputs x ((List.range n).map fun i => (dev, x.a 0x10 8 + idx.getD i 0, idx.getD (i + 1) 0 - idx.getD i 0))

/-- A write to OUT or REPORT fails: the rows already written stay, the `rest` bytes of OUT and REPORT are unpredictable. -/
def State.embedFail (s : State) (x : Cmd) (dev : Bool) (a rest : Nat) : State :=
  let s1 := (s.blur x.fn (bit (x.a 0xC 4) 5) a rest).blur x.fn (bit (x.a 0xC 4) 6) (x.a 0x28 8) 8
  ({ s1 with out := if dev then s1.out else { s1.out with aer := s1.out.aer ++ [x.fn] } } : State).fail x.id stBadAddress

/-- Write the rows, then REPORT. -/
def State.embedOut (s : State) (x : Cmd) (cut : Nat) : Nat → List (List Byte) → State
  | a, [] => match s.spaceWr x.fn (bit (x.a 0xC 4) 6) (x.a 0x28 8) (toLe 4 cut ++ toLe 4 0) with
    | none => s.embedFail x (bit (x.a 0xC 4) 6) a 0
    | some s1 => s1.finish x.id stOk 0 0
  | a, r :: rs => match s.spaceWr x.fn (bit (x.a 0xC 4) 5) a r with
    | none => s.embedFail x (bit (x.a 0xC 4) 5) a (r.length + sumBy (·.length) rs)
    | some s1 => s1.embedOut x cut (a + r.length) rs

def execVrEmbed (c : Nat) (s : State) : Res :=
  runVr c 0x130 s fun x s =>
    match s.model? x (x.a 0 8) with
    | none => s.fail c stBadHandle
    | some o =>
      if !x.embedOk then s.malformed c
      else match s.embedTexts x with
        | .error e => e
        | .ok ts =>
          match o.tensors.findSome? QTensor.skew with
          | some k => (((s.noteSkew x.fn c o.handle k false).noteSkew x.fn c o.handle k true).drew 2).stopCmd c stScaleSkew
          | none =>
          let rows := ts.zipIdx.map fun t => writeElems (x.af 0xC 2 1) (s.embedding t.2 o (bit (x.a 0xC 4) 3) t.1)
          let cut := (ts.filter fun t => decide (o.img.inputLen < (tokenise o.img t).length)).length
          let dense := (List.range o.tensors.length).map fun i => UnitId.dense o.handle i
          (dense.foldl State.heatUnit (s.drew (2 ^ 128))).embedOut x cut (x.a 0x20 8) rows

/-! ## Agent memories (R242, R243, R246) -/

/-- Bytes of a key/value block of one layer: codes, scale entries and tags (R197, R244). -/
def blockBytes (m : Config.ModelImage) : Nat := 2 * m.kvHeads * (64 * m.headDim / 2 + 4 + 64 * m.headDim / 256)

/-- Bytes of the tensors of a memory of so many tokens that stay in stack memory: number 0 is its summaries with the open block in BF16,
the others its block indexes (R197, R245, R246). -/
def memTensor (m : Config.ModelImage) (tokens i : Nat) : Nat :=
  let vecs := 2 * m.kvHeads * m.layers * m.headDim
  if i = 0 then 2 * vecs * (tokens / 64 + tokens % 64) else (Config.indexBytes m.headDim (tokens / 64)).toNat

def memBytes (m : Config.ModelImage) (tokens : Nat) : Nat :=
  sumBy (memTensor m tokens) (List.range (m.layers * m.kvHeads + 1))

/-- A new memory and the units of its summaries and indexes. -/
def State.addMem (s : State) (o : Model) (h cap cls budget : Nat) (temp : Bool) : State :=
  ((List.range (o.img.layers * o.img.kvHeads + 1)).foldl (fun (s : State) i => (s.addUnit (.summaries h i) o.tenant s.anyStack (memTensor o.img 0 i)).drew 1)
    { s with mems := s.mems ++ [{ handle := h, tenant := o.tenant, model := o.handle, cap := cap, cls := cls, budget := budget, tokens := [],
                                  opened := [], blocks := [], sums := [],
                                  indexes := (List.range (o.img.layers * o.img.kvHeads)).map fun _ => ⟨[], [], []⟩, clustered := 0,
                                  temp := temp, dying := none }] }).tookHandle

def Cmd.memOk (x : Cmd) : Bool :=
  decide (1 ≤ x.a 8 4 ∧ x.a 8 4 ≤ 16777216) && x.af 0xC 31 3 == 0 && addrOk (bit (x.a 0xC 4) 2) (x.a 0x18 8) && cleanBut x.args [(0, 0x20)]

def execVrMemCreate (c : Nat) (s : State) : Res :=
  runCmd c s (fun x => x.vr == 0x132) fun x s =>
    match s.model? x (x.a 0 8) with
    | none => s.fail c stBadHandle
    | some o =>
      if !x.memOk then s.malformed c
      else s.withRoom x (memBytes o.img 0) fun s =>
        let h := s.newHandle
        match s.spaceWr x.fn (bit (x.a 0xC 4) 2) (x.a 0x18 8) (toLe 8 h) with
        | none => s.outputFail x (bit (x.a 0xC 4) 2)
        | some s1 => (s1.addMem o h (x.a 8 4) (x.af 0xC 1 0) (x.a 0x10 8) false).finish c stOk 0 0

/-- Once every earlier command that names it has completed, a memory goes (R243). -/
def execVrMemDrop (c : Nat) (s : State) : Res :=
  runCmd c s (fun x => x.vr == 0x133) fun x s =>
    if !cleanBut x.args [(0, 8)] then s.malformed c else (s.dropMem (x.a 0 8)).finish c stOk 0 0

/-- Full blocks of a memory. -/
def AgentMem.full (m : AgentMem) : Nat := m.blocks.length

/-- The first full block clusters the indexes (R246); after it a background fragment does once the full blocks have doubled. It writes
every index anew, and switches them in one step. -/
def execReClustering (handle : Nat) (s : State) : Res :=
  match s.mems.find? fun m => m.handle == handle with
  | none => .next s
  | some m => match s.models.find? fun o => o.handle == m.model with
    | none => .next s
    | some o => onlyIf (s.active && decide (0 < m.full ∧ 2 * Nat.max 1 m.clustered ≤ m.full)) s fun s =>
      (s.updMem handle fun m => { m with
        clustered := m.full
        indexes := m.indexes.zipIdx.map fun p =>
          clustered (s.free + 2 ^ 60 * (p.2 + 1)) o.img p.1 ((List.range m.full).map (summaryKey o.img m.sums p.2)) }).drew (2 ^ 128)

/-! ## `vr.model.info` (R237) -/

/-- Key/value bytes of one 64-token block in all layers (R244). -/
def kvBytes (m : Config.ModelImage) : Nat := m.layers * (m.kvHeads * 64 * m.headDim)

def modelReport (m : Config.ModelImage) : List Byte :=
  toLe 4 (m.layers * 65536 + (if m.kind = 0 then m.pool else 0) * 256 + m.kind) ++ toLe 4 m.width ++ toLe 4 (m.kvHeads * 65536 + m.qHeads) ++
    toLe 4 (m.experts * 65536 + m.headDim) ++ toLe 4 ((if m.kind = 2 then 0 else m.inputLen) * 65536 + m.active) ++ toLe 4 m.vocab.length ++
    toLe 4 (if m.kind = 0 then m.embDim else 0) ++ toLe 4 0 ++ toLe 8 (denseBytes m) ++ toLe 8 (expertBytes m) ++ toLe 8 (kvBytes m) ++ toLe 8 0

def execVrModelInfo (c : Nat) (s : State) : Res :=
  runCmd c s (fun x => x.vr == 0x134) fun x s =>
    let dev := bit (x.a 0x10 1) 0
    if !cleanBut x.args [(0, 17)] || decide (1 < x.a 0x10 1) || !addrOk dev (x.a 8 8) then s.malformed c
    else match s.model? x (x.a 0 8) with
      | none => s.fail c stBadHandle
      | some o => match s.spaceWr x.fn dev (x.a 8 8) (modelReport o.img) with
        | none => s.outputLost x dev (x.a 8 8) (modelReport o.img)
        | some s1 => s1.finish c stOk 0 0

end Sys2Proof.Machine
end

