-- ==== Sys2Proof/Machine/Generate.lean ====
section
/-! DEFINITION. `vr.generate` (R238, R247 to R263, R271, R275 to R292): its checks, then one token a step. -/
namespace Sys2Proof.Machine

/-! ## Experts (R252) -/

/-- What a layer runs in place of one selected expert: itself, a substitute, or itself after a wait (R252). -/
inductive ExpertUse where
  | own | substitute (e : Nat) | waited | wait
  deriving DecidableEq, Repr

def State.expertUse (s : State) (g : GenSt) (model layer active : Nat) (rank : List Nat) (e : Nat) : ExpertUse :=
  let u (e : Nat) : UnitId := .expert model layer e
  let here (e : Nat) : Bool := (s.unit? (u e)).all fun x => x.home != .flash
  if g.late.contains (u e) then
    match (rank.drop active).find? here with
    | some f => .substitute f
    | none => if here e then .waited else .wait
  else if here e then .own else .wait

/-! ## One token's plan -/

/-- Tokens before the one computed, and its position. -/
def State.genTokens (s : State) (g : GenSt) : List Nat := ((s.mems.find? fun m => m.handle == g.mem).elim [] (·.tokens)) ++ g.kept

def Cmd.topB (x : Cmd) : Nat := let t := field (x.a 0x50 4) 15 0; if t = 0 then 256 else t

/-- Positions of the group of 64 prompt tokens that the next token opens, which share one retrieval (R259); a generated token has its own. -/
def groupSpan (g : GenSt) (p : Nat) : List Nat :=
  if g.prompt.isEmpty then [p] else (List.range (Nat.min 64 g.prompt.length)).map fun i => p + i

/-- Rank the experts of the token and weigh the selected ones, and retrieve its blocks unless its group of 64 prompt tokens has its own
(R238, R248, R250, R259). -/
def State.planToken (s : State) (x : Cmd) (o : Model) (g : GenSt) : GenSt :=
  let toks := s.genTokens g
  let p := toks.length
  let m := o.img
  let scores (l : Nat) : List F32 := Config.expertScores s.free o.raw p l (Config.activations s.free o.raw toks p l)
  let rank := (List.range m.layers).map fun l => if m.experts = 0 then [] else rankExperts (scores l) m.experts
  let gates := rank.zipIdx.map fun r => gateWeights (scores r.2) (r.1.take m.active)
  let group :=
    if g.group.isEmpty then
      match s.mems.find? fun a => a.handle == g.mem with
      | none => List.replicate (m.layers * m.kvHeads) []
      | some a =>
        let cand := candidates p a.blocks.length
        (List.range (m.layers * m.kvHeads)).map fun i =>
          let k := s.free + 2 ^ 70 * (i + 1)
          retrieve k m (a.indexes.getD i ⟨[], [], []⟩) a.sums i x.topB
            (retrievalQuery k o (toks ++ g.prompt) (groupSpan g p) (i / m.kvHeads) (i % m.kvHeads)) cand
    else g.group
  { g with rank := rank, gates := gates, group := group, late := [] }

/-- The unit of a block is in stack memory, or still open. -/
def State.blockHere (s : State) (mem layer b : Nat) : Bool := (s.unit? (.kvBlock mem layer b)).all fun x => x.home != .flash

/-- Sink and window blocks, whose moves carry no deadline (R254). -/
def fixedBlocks (p : Nat) : List Nat := 0 :: ((List.range (p / 64 + 1)).filter fun b => decide (windowStart p < 64 * (b + 1)))

/-- Every layer's units are in place or late with something cheaper in place (R251 to R254); a grammar's masks are too. -/
def State.tokenReady (s : State) (x : Cmd) (o : Model) (g : GenSt) : Bool :=
  let m := o.img
  let p := (s.genTokens g).length
  (List.range m.layers).all (fun l => (fixedBlocks p).all (s.blockHere g.mem l) &&
    ((g.group.drop (l * m.kvHeads)).take m.kvHeads).all (fun bs => bs.all fun b => s.blockHere g.mem l b || g.late.contains (.kvBlock g.mem l b)) &&
    ((g.rank.getD l []).take m.active).all fun e => s.expertUse g o.handle l m.active (g.rank.getD l []) e != .wait) &&
  (x.a 0x30 8 == 0 || !g.prompt.isEmpty || (s.unit? (.grammarMasks (x.a 0x30 8))).all fun u => u.home != .flash)

/-- Late blocks of each layer and KV head. -/
def lateBlocks (g : GenSt) (kvHeads : Nat) : List (List Nat) :=
  g.group.zipIdx.map fun p => p.1.filter fun b => g.late.contains (.kvBlock g.mem (p.2 / Nat.max 1 kvHeads) b)

/-- Substitutions of a token: summary entries, experts replaced, and whether it waited (R252, R253, R262). -/
structure Subst where
  blocks : Nat
  experts : Nat
  waited : Bool
  deriving DecidableEq, Repr

def State.expertUses (s : State) (o : Model) (g : GenSt) : List (List ExpertUse) :=
  (List.range o.img.layers).map fun l => ((g.rank.getD l []).take o.img.active).map (s.expertUse g o.handle l o.img.active (g.rank.getD l []))

def State.substOf (s : State) (o : Model) (g : GenSt) : Subst :=
  let us := (s.expertUses o g).flatten
  { blocks := sumBy (·.length) (lateBlocks g o.img.kvHeads),
    experts := (us.filter fun u => match u with
      | .substitute _ => true
      | _ => false).length,
    waited := us.any (· == .waited) }

/-- Experts that run, by layer. -/
def State.expertsRun (s : State) (o : Model) (g : GenSt) : List (List Nat) :=
  (s.expertUses o g).zipIdx.map fun p => (p.1.zip ((g.rank.getD p.2 []).take o.img.active)).map fun q => match q.1 with
    | .substitute f => f
    | _ => q.2

/-- The logits of the token's step (R247, R252, R253, R259): the attention of every layer and query head over what the memory holds, and
the experts with their gate weights, which a substitute takes over. -/
def State.tokenLogits (s : State) (o : Model) (g : GenSt) (own : List (List (BitVec 16))) : List F32 :=
  let toks := s.genTokens g
  let p := toks.length
  let m := o.img
  let late := lateBlocks g m.kvHeads
  let att := (List.range m.layers).map fun l => (List.range m.qHeads).map fun qh =>
    let i := l * m.kvHeads + qh / Nat.max 1 (m.qHeads / Nat.max 1 m.kvHeads)
    match s.mems.find? fun a => a.handle == g.mem with
    | none => []
    | some a => a.attention (s.free + 2 ^ 80 * (l * 256 + qh + 1)) o toks p l qh g.keptKv own (g.group.getD i []) (late.getD i [])
  Config.logits s.free o.raw toks p att ((s.expertsRun o g).zipIdx.map fun r => r.1.zip (g.gates.getD r.2 []))

/-- Keys and values of the token at the next position. -/
def State.nextKv (s : State) (o : Model) (g : GenSt) (tok : Nat) : List (List (BitVec 16)) :=
  let toks := s.genTokens g
  tokenKv (s.free + 2 ^ 90) o (toks ++ [tok]) toks.length

/-- What a token read of a memory: the retrieved blocks that were not late, and the sink and window blocks. -/
def State.blocksRead (s : State) (o : Model) (g : GenSt) : List UnitId :=
  let p := (s.genTokens g).length
  ((g.group.zipIdx.flatMap fun r => r.1.map fun b => UnitId.kvBlock g.mem (r.2 / Nat.max 1 o.img.kvHeads) b).filter fun b => !g.late.contains b) ++
    ((List.range o.img.layers).flatMap fun l => (fixedBlocks p).map fun b => UnitId.kvBlock g.mem l b)

/-- Heat of what the token read, and the counts of `TEN.SUBST` (R208, R255, R257). -/
def State.chargeToken (s : State) (x : Cmd) (o : Model) (g : GenSt) (u : Subst) : State :=
  let experts := (s.expertsRun o g).zipIdx.flatMap fun p => p.1.map fun e => UnitId.expert o.handle p.2 e
  let dense := (List.range o.tensors.length).map fun i => UnitId.dense o.handle i
  let index := (List.range (o.img.layers * o.img.kvHeads + 1)).map fun i => UnitId.summaries g.mem i
  let masks := if x.a 0x30 8 = 0 ∨ !g.prompt.isEmpty then [] else [UnitId.grammarMasks (x.a 0x30 8)]
  let s1 := (s.blocksRead o g ++ experts ++ dense ++ index ++ masks).foldl State.heatUnit s
  (s1.satAdd (oTenSubst x.fn) 63 32 u.blocks).satAdd (oTenSubst x.fn) 31 0 u.experts

/-- A stored tag that differs from its scale entry in what the token reads: the handle and the code block (R136 to R138). -/
def State.tokenSkew (s : State) (o : Model) (g : GenSt) : Option (Nat × Nat) :=
  match o.tensors.findSome? QTensor.skew with
  | some k => some (o.handle, k)
  | none => (s.mems.find? fun a => a.handle == g.mem).bind fun a =>
    let read := g.group.flatten ++ fixedBlocks (s.genTokens g).length
    ((a.indexes.findSome? BlockIndex.skew).orElse fun _ =>
      (read.eraseDups.filterMap fun b => a.blocks[b]?).flatten.findSome? QTensor.skew).map fun k => (g.mem, k)

/-- Append one token to a memory; the 64th of a block makes its units, one for each layer (R244, R245, R261). -/
def State.appendToken (s : State) (o : Model) (mem tok : Nat) (kv : List (List (BitVec 16))) : State :=
  let s1 := s.updMem mem fun a => a.append s.free o.img tok kv
  let a := s1.mems.find? fun a => a.handle == mem
  let n := (a.map (·.blocks.length)).getD 0
  let s2 := (List.range (o.img.layers * o.img.kvHeads + 1)).foldl (fun s i => s.sizeUnit (.summaries mem i) (memTensor o.img (a.elim 0 (·.tokens.length)) i)) s1
  if ((a.map (·.opened.length)).getD 0) ≠ 0 then s2.drew (2 ^ 128)
  else ((List.range o.img.layers).foldl (fun s l => (s.addUnit (.kvBlock mem l (n - 1)) o.tenant s.anyStack (blockBytes o.img)).drew 1) s2).drew (2 ^ 128)

/-! ## The argument block -/

def Cmd.maxTok (x : Cmd) : Nat := x.a 0x1C 4
def Cmd.sampled (x : Cmd) : Bool := x.af 0x2C 7 6 == 1
def Cmd.nstop (x : Cmd) : Nat := x.af 0x40 4 0

/-- An FP32 field above 0 and at most `top`. -/
def posUpTo (v top : Nat) : Bool := ltV (fF32.val 0) (fF32.val v) && !ltV (fF32.val top) (fF32.val v) && !fF32.isNan v

def Cmd.genOk (x : Cmd) : Bool :=
  decide (x.a 0x18 4 ≤ 1048576 ∧ x.maxTok ≤ 65536 ∧ x.af 0x2C 7 6 ≤ 1 ∧ x.nstop ≤ 16 ∧ 64 + 152 * x.maxTok ≤ x.a 0x28 4) &&
    x.af 0x2C 31 9 == 0 && x.af 0x2C 1 0 == 0 && x.af 0x40 31 5 == 0 &&
    (!x.sampled || (posUpTo (x.a 0x44 4) 0x41800000 && posUpTo (x.a 0x48 4) 0x3F800000)) &&
    decide (16 ≤ x.topB ∧ x.topB ≤ 4096) && addrOk (x.genFlag 2) (x.a 0x10 8) && addrOk (x.genFlag 3) (x.a 0x20 8) &&
    addrOk (x.genFlag 4) (x.a 0x38 8) && addrOk (x.genFlag 5) (x.a 0x58 8) && cleanBut x.args [(0, 0x54), (0x58, 8)]

/-! ## Beginning (R260, R263) -/

/-- Stack bytes that the command's tokens may add to a memory of `len` tokens: key/value blocks and summaries. -/
def genBytes (m : Config.ModelImage) (len n : Nat) : Nat :=
  ((len + n) / 64 - len / 64) * m.layers * blockBytes m + (memBytes m (len + n) - memBytes m len)

/-- A unit of the command's objects is lost. -/
def State.genLost (s : State) (x : Cmd) (mem : Nat) : Bool := (mem :: x.names).any s.objLost

/-- Start with the first record position zeroed (R290). -/
def State.openGen (s : State) (x : Cmd) (g : GenSt) : State :=
  match s.spaceWr x.fn (x.genFlag 3) (x.a 0x20 8) [0, 0, 0, 0] with
  | none => s.genBad { x with work := .generate g } g (x.genFlag 3)
  | some s1 => s1.updCmd x.id fun y => { y with started := true, work := .generate g }

/-- An input that could not be read: a host access leaves the stream its END record alone; anything else as for other programs. -/
def State.genInput (s : State) (x : Cmd) (dev : Bool) (e : State) : State :=
  if dev then e
  else ({ s with out := { s.out with aer := s.out.aer ++ [x.fn] } } : State).openGen x (genStart (x.a 8 8) [] []) |>.stopCmd x.id stBadAddress

/-- The checks of R263 in their order, and the first state of the command. The quota check comes before IN is read (R25), so it takes a
token for each of its bytes (assumption 31). -/
def State.beginGen (s : State) (x : Cmd) (o : Model) : State :=
  let mem := s.mems.find? fun m => m.handle == x.a 8 8
  let len := (mem.map (·.tokens.length)).getD 0
  let start := if len = 0 then startToken o.img else []
  let most := start.length + x.a 0x18 4 + if x.genFlag 8 then x.maxTok else 0
  s.withRoom x (genBytes o.img len (Nat.min most (16777216 - len))) fun s =>
    if s.genLost x 0 then s.fail x.id stLost
    else match s.input x (x.genFlag 2) (x.a 0x10 8) (x.a 0x18 4) with
    | .error e => s.genInput x (x.genFlag 2) e
    | .ok text =>
      let prompt := start ++ tokenise o.img text
      match (if x.nstop = 0 then .ok [] else s.input x (x.genFlag 4) (x.a 0x38 8) (72 * x.nstop)) with
      | .error e => s.genInput x (x.genFlag 4) e
      | .ok b => match stopTable x.nstop b with
        | none => s.malformed x.id
        | some stops =>
          if x.a 8 8 ≠ 0 then s.openGen x (genStart (x.a 8 8) prompt stops)
          else
            let h := s.newHandle
            (s.addMem o h (Nat.min (prompt.length + x.maxTok) 16777216) x.cls 0 true).openGen x (genStart h prompt stops)

/-! ## One token -/

def State.setGen (s : State) (c : Nat) (g : GenSt) : State := s.updCmd c fun y => { y with work := .generate g }

/-- The memory has room for one more token (R249). -/
def State.memRoom (s : State) (mem : Nat) : Bool := (s.mems.find? fun m => m.handle == mem).any fun m => decide (m.tokens.length < m.cap)

/-- Append the next prompt token (R259, R261). -/
def State.promptToken (s : State) (x : Cmd) (o : Model) (g : GenSt) (tok : Nat) (rest : List Nat) : State :=
  let u := s.substOf o g
  let kv := s.nextKv o g tok
  let s1 := ((s.drew (2 ^ 128)).chargeToken x o g u).appendToken o g.mem tok kv
  s1.setGen x.id { g with
    prompt := rest, fed := g.fed + 1, group := if (g.fed + 1) % 64 = 0 ∨ rest.isEmpty then [] else g.group, rank := [], gates := [], late := [] }

/-- The metadata record of a generated token (R262). -/
def metaRecord (tok pos : Nat) (u : Subst) : List Byte :=
  toLe 4 (tok % 2 ^ 18) ++ toLe 4 (pos % 2 ^ 24) ++ toLe 4 (Nat.min u.blocks 0xFFFFFFFF) ++
    toLe 4 (Nat.min u.experts 0xFFFF * 65536 + b2n u.waited * 4 + b2n (u.blocks != 0) * 2 + b2n (u.experts != 0))

/-- The token that the sampler picks (R277, R278). -/
def Cmd.sampleToken (x : Cmd) (l : List F32) (adm : List Nat) (pos : Nat) : Nat :=
  if x.sampled then sampleTopP (x.a 0x44 4) (x.a 0x48 4) (x.a 0x4C 4) pos l adm else greedy l adm

/-- A token has been generated: how it ends generation, or the bytes that it releases (R279, R284 to R286, R291). -/
def State.afterToken (s : State) (x : Cmd) (g0 : GenSt) (s0 : State) (m : Config.ModelImage) (tok : Nat) (g : GenSt) : State :=
  if (m.vocab[tok]?).any (·.isEnd) then s.endGen x g stOk 1 0 g.text.length
  else match stopHit g.stops g.text (g.text.length - (tokenBytes m tok).length) with
    | some (start, i) => s.endGen x g stOk 2 i start
    | none =>
      if x.maxTok ≤ g.gen then s.endGen x g stOk 0 0 g.text.length
      else match s.release x g (g.text.length - heldBack g.stops g.text) with
        | none => s0.genBad x g0 (x.genFlag 3)
        | some (s1, g1) => (s1.setGen x.id g1).raiseProgress x.id (10000 * g1.gen / Nat.max 1 x.maxTok) g1.gen

/-- Generate one token (R259, R262, R275 to R282). -/
def State.generateToken (s : State) (x : Cmd) (o : Model) (g : GenSt) (st : Option Config.GramState) : State :=
  let m := o.img
  let u := s.substOf o g
  let p := (s.genTokens g).length
  let own := tokenKv (s.free + 2 ^ 91) o (s.genTokens g) p
  let tok := x.sampleToken (s.tokenLogits o g own) (admitted m st) p
  let kv := s.nextKv o g tok
  let commit := x.genFlag 8
  match s.spaceWr x.fn (x.genFlag 5) (x.a 0x58 8 + 16 * g.gen) (metaRecord tok p u) with
  | none => s.genBad x g (x.genFlag 5)
  | some s1 =>
    let s2 := (s1.drew (2 ^ 128)).chargeToken x o g u
    let s3 := if commit then s2.appendToken o g.mem tok kv else s2
    let g1 := { g with
      group := [], rank := [], gates := [], late := [], gen := g.gen + 1, kept := if commit then g.kept else g.kept ++ [tok],
      keptKv := if commit then g.keptKv else g.keptKv ++ [kv],
      gram := ((st.bind fun st => gramArc st tok).map (·.next)).getD g.gram, text := g.text ++ tokenBytes m tok }
    (s3.setGen x.id g1).afterToken x g s1 m tok g1

/-- The grammar's state: none without a grammar. -/
def State.gramState (s : State) (x : Cmd) (g : GenSt) : Option Config.GramState :=
  if x.a 0x30 8 = 0 then none else (s.grammars.find? fun m => m.handle == x.a 0x30 8).map fun m => gramAt m.img g.gram

/-- The next token of a command that has begun: its endings first, then its plan, then the token once its units are in place. -/
def State.genStep (s : State) (x : Cmd) (o : Model) (g : GenSt) : State :=
  let st := s.gramState x g
  if s.genLost x g.mem then s.failGen x g stLost
  else match s.tokenSkew o g with
  | some (h, k) => (((s.noteSkew x.fn x.id h k false).noteSkew x.fn x.id h k true).drew 2).failGen x g stScaleSkew
  | none => match g.prompt with
    | tok :: rest =>
      if !s.memRoom g.mem then s.failGen x g stMemoryFull
      else
        let g1 := if g.rank.isEmpty then s.planToken x o g else g
        let s1 := s.setGen x.id g1
        if s1.tokenReady x o g1 then s1.promptToken x o g1 tok rest else s1
    | [] =>
      if x.maxTok ≤ g.gen then s.endGen x g stOk 0 0 g.text.length
      else if (admitted o.img st).isEmpty then s.endGen x g stGrammarDead 3 0 g.text.length
      else if x.genFlag 8 && !s.memRoom g.mem then s.failGen x g stMemoryFull
      else
        let g1 := if g.rank.isEmpty then s.planToken x o g else g
        let s1 := s.setGen x.id g1
        if s1.tokenReady x o g1 then s1.generateToken x o g1 st else s1

def execVrGenerate (c : Nat) (s : State) : Res :=
  runCmd c s (fun x => x.vr == 0x131) fun x s =>
    match s.model? x (x.a 0 8) with
    | none => s.fail c stBadHandle
    | some o => match x.work with
      | .generate g => s.genStep x o g
      | _ => if !x.genOk then s.malformed c else s.beginGen x o

end Sys2Proof.Machine
end

