-- ==== Sys2Proof/Machine/Observe.lean ====
section
/-! DEFINITION. The class-0 bound and the observation of queues (R545 to R549). -/
namespace Sys2Proof.Machine

/-! ## The conditions of R545 -/

/-- Every class-0 fragment fits the reserve. -/
def State.reserveFits (s : State) : Bool :=
  let r (hi lo : Nat) : Nat := s.fld oSchC0res hi lo
  s.frags.all fun x => x.cls != 0 || x.isVarelm ||
    decide (x.nthreads ≤ r 5 0 ∧ x.cis ≤ r 13 8 ∧ x.pumps ≤ r 18 16 ∧ x.ports ≤ r 23 20 ∧ x.tiles ≤ r 25 24)

/-- The port halves with no gate cycle whose class-0 level has passed its limit. -/
def State.overHalves (s : State) : List Nat := (List.range 16).filter fun l => (s.gate l).exceeded && s.actLen l == 0

/-- Thread-cycles of a 100 µs window of which class 0 may take a quarter. -/
def State.windowCycles (s : State) : Nat := 64 * s.fld oSafCap 9 0 * 125000

/-- The condition that failed in the window, none when all held; `cycles` are the thread-cycles that class-0 fragments took, and
`fits` tells whether each fitted the reserve. -/
def State.windowFailure (s : State) (cycles : Nat) (fits : Bool) : Option Nat :=
  if s.windowCycles < 4 * cycles then some 0
  else if !fits then some 1
  else if s.overHalves.isEmpty then none else some 2

/-- Levels above their limit count once for each window. -/
def State.clearOver (s : State) : State :=
  s.overHalves.foldl (fun s l => s.setGate l { s.gate l with exceeded := decide (s.levelLimit l < s.levelNow l) }) s

/-- 100 µs in picoseconds. -/
def windowPs : Nat := 100 * 10 ^ 6

/-- A window ends at the next multiple of 100 µs of device time. -/
def execClass0Window (cycles : Nat) (fits : Bool) (s : State) : Res :=
  onlyIf s.live s fun s =>
    let start := s.clock / windowPs * windowPs
    let s1 : State := { s with clock := start + windowPs }
    let s2 : State := { s1 with sched := { s1.sched with overNoted := false } }
    match s.windowFailure cycles fits with
    | none => s2
    | some c => if s.sched.overNoted then s2.clearOver else s2.clearOver.noteOver false (start / 1000) c

/-! ## Waits (R546, R547) -/

/-- A condition of R545 fails now. The share of class 0 in a window that has not ended is a free value. -/
def State.failsNow (s : State) (l : Option Nat) : Bool :=
  !s.reserveFits || s.obsNow == 1 || s.obsNow == 2 || s.draw 0 % 2 == 1 ||
    match l with
    | some l => decide (s.levelLimit l < s.levelNow l) || (s.gate l).exceeded
    | none => false

/-- The window's one exceeded record. -/
def State.noteOverOnce (s : State) (cond : Nat) : State :=
  if s.sched.overNoted then s
  else ({ s with sched := { s.sched with overNoted := true } } : State).noteOver false (s.clock / windowPs * windowPs / 1000) cond

/-- A wait has reached its bound: a miss where the conditions hold, else it counts as exceeded (R547, R628). -/
def State.noteMiss (s : State) (tenant word waitNs : Nat) (l : Option Nat) : State :=
  let s1 := s.drew 1
  if s.failsNow l then s1.noteOverOnce (if !s.reserveFits then 1 else if s.draw 0 % 2 == 1 then 0 else 2)
  else ((s1.logEvent evClass0Miss tenant [word, waitNs]).satAdd oSchC0mon 47 32 1).setFld oSafStatus 1 1 1

/-- 40 µs in picoseconds, and 10 µs. -/
def fragBound : Nat := 40 * 10 ^ 6
def packetBound : Nat := 10 * 10 ^ 6

def State.fragMiss (s : State) (x : Frag) : State :=
  let s1 : State := { s with clock := Nat.max s.clock (x.waitFrom + fragBound) }
  (s1.noteMiss x.tenant (s.cmdData x.cmd) 40000 none).updFrag x.id fun y => { y with missed := true }

/-- Class-0 gate-open time that a packet has waited. -/
def State.packetWait (s : State) (l : Nat) (e : Nat × Nat × Packet) : Nat := s.openTotal l - e.2.1

def State.packetMiss (s : State) (l : Nat) (e : Nat × Nat × Packet) : State :=
  let s1 : State := { s with clock := s.clock + (packetBound - s.packetWait l e) }
  (s1.noteMiss 0 (2 ^ 56 + l) 10000 (some l)).setGate l { s.gate l with missed := (s.gate l).missed ++ [e] }

def execClass0WaitBound (w : Class0Wait) (s : State) : Res :=
  match w with
  | .fragment f =>
    match s.frag? f with
    | none => .next s
    | some x => onlyIf (s.live && x.cls == 0 && x.phase == .dispatchable && !x.missed) s fun s => s.fragMiss x
  | .packet l i =>
    match ((s.gate l).queue 0)[i]? with
    | none => .next s
    | some e => onlyIf (s.live && s.gateOpen l 0 && !(s.gate l).missed.contains e) s fun s => s.packetMiss l e

/-! ## Samples (R548, R549) -/

/-- Depth and sojourn in ns as a queue register's word; MODE is kept apart. -/
def queueWord (depth sojourn : Nat) : Word :=
  BitVec.ofNat 64 (Nat.min depth 0xFFFF * 2 ^ 32 + Nat.min sojourn 0xFFFFFFFF)

/-- The oldest waiting fragment of a tenant and class. -/
def State.oldest (s : State) (t c : Nat) : Option Frag :=
  minBy Frag.turn (s.frags.filter fun f => f.phase == .dispatchable && f.tenant == t && f.cls == c)

/-- Flows with a waiting fragment. -/
def State.waitingFlows (s : State) : List (Nat × Nat) :=
  ((s.frags.filter fun f => f.phase == .dispatchable).map fun f => (f.tenant, f.cls)).eraseDups

def State.sampleFlow (s : State) (p : Nat × Nat) : State :=
  s.setWord (oSchQs p.1 p.2) (queueWord (s.schDepth p.1 p.2) (((s.oldest p.1 p.2).map fun f => (s.clock - f.readyAt) / 1000).getD 0))

def State.sampleGate (s : State) (l c : Nat) : State :=
  let q := (s.gate l).queue c
  if q.isEmpty then s
  else s.setWord (oGateQs l c) (queueWord q.length ((q.head?.map fun e => (s.clock - e.1) / 1000).getD 0))

/-- Every queue is sampled at once; an empty one reads depth and sojourn 0. -/
def State.sampleQueues (s : State) : State :=
  let s1 : State := { s with regs := s.regs.filter fun e => !isQueueReg e.1 }
  let s2 := s.waitingFlows.foldl State.sampleFlow s1
  ((List.range 16).flatMap fun l => (List.range 4).map fun c => (l, c)).foldl (fun s p => s.sampleGate p.1 p.2) s2

/-- THREADS of every mapped cluster (R672). -/
def State.sampleThreads (s : State) : State :=
  s.logical.foldl (fun s e => s.setFld (oTelClu e.2) 19 13 (s.claimed e.1 Frag.nthreads)) s

/-- Every 1,024 cycles: THREADS always, and the queues where no high-water marks are kept. -/
def execQueueSample (s : State) : Res :=
  onlyIf s.live s fun s => if s.observing then s.sampleThreads else s.sampleThreads.sampleQueues

/-- The 100 ms of a recovery period end. -/
def execObservationPeriodEnd (s : State) : Res :=
  match s.power.recoveryUntil with
  | none => .next s
  | some t => onlyIf s.live s fun s =>
    ({ s with clock := Nat.max s.clock t, power := { s.power with recoveryUntil := none } } : State).syncObs

end Sys2Proof.Machine
end

