-- ==== Sys2Proof/Machine/Pumps.lean ====
section
/-! DEFINITION. Pumps and queue ports (R328 to R334, R371). -/
namespace Sys2Proof.Machine

/-! ## Descriptors (R329) -/

def pumpDesc (b : List Byte) : PumpDesc :=
  let f := leAt b 8 4
  { base := leAt b 0 8, port := field f 27 24, mode := field f 21 20, dims := field f 19 18, stream := bit f 17,
    idxw := bit f 16, esize := field f 12 10, ldepth := field f 3 0, buf := leAt b 0xC 4,
    count := (List.range 4).map fun i => leAt b (0x10 + 4 * i) 4,
    stride := (List.range 4).map fun i => toSigned 32 (leAt b (0x20 + 4 * i) 4), idx := leAt b 0x30 8 }

/-- Offset of the first reserved value of a pump descriptor (R329, R379). -/
def pumpBad (b : List Byte) : Option Nat :=
  let f := leAt b 8 4
  let d := pumpDesc b
  if d.mode = 3 ∨ d.ldepth < 4 ∨ 12 < d.ldepth ∨ field f 31 28 ≠ 0 ∨ field f 23 22 ≠ 0 ∨ field f 15 13 ≠ 0 ∨
      field f 9 4 ≠ 0 then some 8
  else if leAt b 0x38 8 ≠ 0 then some 0x38
  else none

def PumpDesc.size (d : PumpDesc) : Nat := 2 ^ d.esize
def PumpDesc.depth (d : PumpDesc) : Nat := 2 ^ d.ldepth
def PumpDesc.mailbox (d : PumpDesc) : Bool := d.mode == 2

/-- Elements of the stream: counts of unused dimensions are 1 (R330). -/
def PumpDesc.total (d : PumpDesc) : Nat :=
  if d.mode = 1 then d.count.getD 0 0
  else if d.mode = 0 then ((List.range 4).map fun i => if i ≤ d.dims then d.count.getD i 0 else 1).foldl (fun a b => a * b) 1
  else 0

/-- Address of element `j` of a strided pump, dimension 0 fastest (R330). -/
def PumpDesc.addrAt (d : PumpDesc) (j : Nat) : Nat :=
  let c (i : Nat) : Nat := if i ≤ d.dims then d.count.getD i 0 else 1
  let k (i : Nat) : Nat := [j % c 0, j / c 0 % c 1, j / c 0 / c 1 % c 2, j / c 0 / c 1 / c 2].getD i 0
  ofSigned 64 (((List.range 4).map fun i => ((k i : Nat) : Int) * d.stride.getD i 0).foldl (fun a b => a + b) (d.base : Int))

/-! ## Binding and starting -/

def wPump (w : Nat) : Nat := field w 2 0

/-- A pump's previous stream is cancelled: it stops and its port is unbound. -/
def Member.unbindPump (m : Member) (n : Nat) : Member :=
  { m with pumps := Map.del m.pumps n, ports := m.ports.filter fun e => e.2.pump != n }

def Member.unbindPort (m : Member) (p : Nat) : Member :=
  match Map.get? m.ports p with
  | none => m
  | some x => m.unbindPump x.pump

def Member.bind (m : Member) (n : Nat) (d : PumpDesc) : Member :=
  let m1 := (m.unbindPump n).unbindPort d.port
  { m1 with
    pumps := Map.put m1.pumps n { desc := d, running := false, next := 0 }
    ports := Map.put m1.ports d.port
      { pump := n, esize := d.esize, depth := d.depth, mailbox := d.mailbox, elems := [], ended := false } }

def execPumpSet (t : Tid) (s : State) : Res :=
  runInsn 0x74 (fun w => onlyUses w (usesA ||| usesSub 2 0))
    (fun c s =>
      let n := wPump c.w
      let o := c.ga.toNat
      if c.frag.pumps ≤ n then .exc xOperand 0 n 0xFFFFFFFF
      else if !c.inArea o 64 then .exc xCistern o 0 0
      else
        let b := c.cisRd s o 64
        let d := pumpDesc b
        match pumpBad b with
        | some f => .exc xOperand o n f
        | none =>
          if c.frag.ports ≤ d.port then .exc xOperand o n 8
          else
            let s1 := if d.buf % 64 ≠ 0 ∨ !c.inArea d.buf (d.depth * d.size) then s.malformed c.frag.cmd else s
            .done (s1.updMember c.t fun m => m.bind n d)) t s

/-- `pump.go` starts a bound pump; a stream of no elements has ended at once. On a pump bound by no `pump.set`, or that has
fetched its last element, nothing starts. -/
def execPumpGo (t : Tid) (s : State) : Res :=
  runInsn 0x75 (fun w => onlyUses w (usesSub 2 0))
    (fun c s =>
      let n := wPump c.w
      if c.frag.pumps ≤ n then .exc xOperand 0 n 0xFFFFFFFF
      else .done (s.updMember c.t fun m =>
        match Map.get? m.pumps n with
        | none => m
        | some p =>
          let m1 := { m with pumps := Map.put m.pumps n { p with running := p.running || p.next == 0 } }
          if p.desc.mailbox || decide (0 < p.desc.total) then m1
          else { m1 with ports := m1.ports.map fun e => if e.2.pump = n then (e.1, { e.2 with ended := true }) else e })) t s

/-! ## Fetching (R330, R331, R334) -/

/-- What a pump's read of an address comes to. -/
inductive PumpRead where
  | ok (s : State) (bs : List Byte) (inner : Bool)
  | poisoned
  | uncorrectable (hw : Bool)
  deriving DecidableEq, Repr

/-- One read of a pump: through the line cache, or past it with STREAM = 1. -/
def State.pumpRead (s : State) (x : Frag) (l : Nat) (stream : Bool) (a n : Nat) : PumpRead :=
  let t := x.tenant
  if isHost a then
    if s.hostRefused t (a - 2 ^ 63) n then .poisoned else .ok s (s.hostSeen x (a - 2 ^ 63) n) false
  else if !s.devMapped t a n then .poisoned
  else if stream then
    if s.poisoned t a n then .uncorrectable (s.uncorrectable t a n == .hwFault)
    else .ok (s.noteBreach t a n) (s.devRd t a n) ((linesOf a n).any fun ln => s.innerOnly t (ln * 64))
  else if s.badFill l t a n then .uncorrectable (s.uncorrectable t a n == .hwFault)
  else
    let s1 := (s.noteBreach t a n).fillRange l t a n
    .ok s1 (s1.cachedBytes l t a n) ((s1.cached l t a n).any (·.inner))

/-- Append an element to the pump's port, and end the stream after the last one. A pump stops after a poisoned element. -/
def State.deliverElem (s : State) (f m n : Nat) (e : Elem) (more : Bool) : State :=
  s.updMember ⟨f, m, 0⟩ fun x =>
    { x with
      ports := x.ports.map fun p =>
        if p.2.pump = n then (p.1, { p.2 with elems := p.2.elems ++ [e], ended := p.2.ended || !more }) else p
      pumps := match Map.get? x.pumps n with
        | none => x.pumps
        | some p => Map.put x.pumps n { p with next := p.next + 1, running := more } }

/-- Elements enter the run-ahead buffer of a pump in its fragment's cistern area (R329); which slot of the buffer an element
takes is a free value (assumption 8). -/
def State.bufferElems (s : State) (x : Frag) (m : Member) (d : PumpDesc) (es : List (List Byte)) : State :=
  if d.buf + d.depth * d.size ≤ x.cis * 65536 then
    es.foldl (fun s b =>
      ({ s with cis := s.cis.wrN (cisKey m.cluster (m.base + d.buf + s.draw 0 % d.depth * d.size)) (b.take d.size) } : State).drew 1) s
  else s

/-- Fetch the next element of a running pump. -/
def State.fetchElem (s : State) (x : Frag) (m : Member) (f mi n : Nat) (p : Pump) : State :=
  let d := p.desc
  let stop (a : Nat) (s : State) : State :=
    (s.deliverElem f mi n (.poisoned a p.next) true).updMember ⟨f, mi, 0⟩ fun y =>
      { y with pumps := Map.put y.pumps n { p with next := p.next + 1, running := false } }
  let bad (hw : Bool) (s : State) : State := if hw then s.fail x.cmd stHwFault else s.loseRun f
  let elem (a : Nat) (s : State) : State :=
    if a % d.size ≠ 0 then stop a s
    else match s.pumpRead x m.cluster d.stream a d.size with
      | .poisoned => stop a s
      | .uncorrectable hw => bad hw s
      | .ok s1 bs inner =>
        let s2 := if inner then s1.updFrag f fun y => { y with inner := true } else s1
        (s2.bufferElems x m d [bs]).deliverElem f mi n (.bytes bs (inner && !d.stream)) (decide (p.next + 1 < d.total))
  if d.mode = 0 then elem (d.addrAt p.next) s
  else
    let w := if d.idxw then 8 else 4
    let ia := (d.idx + w * p.next) % 2 ^ 64
    match s.pumpRead x m.cluster d.stream ia w with
    | .poisoned => stop ia s
    | .uncorrectable hw => bad hw s
    | .ok s1 bs inner =>
      elem (ofSigned 64 ((d.base : Int) + ((leNat bs : Nat) : Int) * d.stride.getD 0 0))
        (if inner then s1.updFrag f fun y => { y with inner := true } else s1)

def execPumpFetch (f m n : Nat) (s : State) : Res :=
  match s.frag? f with
  | none => .next s
  | some x =>
    match x.members[m]? with
    | none => .next s
    | some mb =>
      match Map.get? mb.pumps n with
      | none => .next s
      | some p =>
        let room := mb.ports.any fun e => e.2.pump == n && decide (e.2.elems.length < e.2.depth)
        onlyIf (s.active && !s.tripped && x.phase == .running && p.running && !p.desc.mailbox && decide (p.next < p.desc.total) &&
          room) s fun s => s.fetchElem x mb f m n p

/-! ## Queues (R332, R333) -/

def wPort (w : Nat) : Nat := field w 7 4

/-- The first poisoned element. -/
def firstPoison : List Elem → Option (Nat × Nat)
  | [] => none
  | .poisoned a n :: _ => some (a, n)
  | _ :: r => firstPoison r

def portBytes : Elem → List Byte
  | .bytes b _ => b
  | .poisoned _ _ => []

def elemInner : Elem → Bool
  | .bytes _ i => i
  | .poisoned _ _ => false

def badPort (w : Nat) : Eff := .exc xOperand 0 (wPort w) 0xFFFFFFFF

/-- Elements that fill a vector register. -/
def perVector (esize : Nat) : Nat := ceilDiv 128 (2 ^ esize)

def execQPop (t : Tid) (s : State) : Res :=
  runInsn 0x76 (fun w => (wX w == 0 || decide (wD w ≤ 31)) && onlyUses w (usesX ||| usesD ||| usesC ||| usesSub 7 4))
    (fun c s =>
      match c.port (wPort c.w) with
      | none => badPort c.w
      | some p =>
        let vec := wX c.w == 1
        if !vec && decide (3 < p.esize) then badPort c.w
        else
          let n := if vec then perVector p.esize else 1
          let take := p.elems.take n
          match firstPoison take with
          | some (a, i) => .exc xPump a p.pump i
          | none =>
            if take.length < n ∧ ¬ p.ended then .wait .wait
            else
              let s1 := c.putPort s c.t.mem (wPort c.w) { p with elems := p.elems.drop n }
              let x := leNat (take.flatMap portBytes)
              let s2 := if vec then c.putV s1 (BitVec.ofNat 1024 x)
                else if take.isEmpty then s1 else c.putG s1 (BitVec.ofNat 64 x)
              let s3 := s2.updThread c.t fun th => th.setG (wC c.w) (BitVec.ofNat 64 take.length)
              .done (c.noteInner (take.any elemInner) s3)) t s

/-- The elements that a push writes; bytes beyond a general register's eight are free values (assumption 8). -/
def Ictx.pushed (c : Ictx) (s : State) (esize : Nat) : List (List Byte) :=
  if wX c.w = 1 then chunks (2 ^ esize) 128 (toLe 128 (c.th.rv (wA c.w)).toNat)
  else [(List.range (2 ^ esize)).map fun i => if i < 8 then BitVec.ofNat 8 (c.ga.toNat / 256 ^ i) else BitVec.ofNat 8 (s.draw i)]

def execQPush (t : Tid) (s : State) : Res :=
  runInsn 0x77 (fun w => (wX w == 0 || decide (wA w ≤ 31)) && (field w 9 9 == 1 || field w 15 12 == 0) &&
      onlyUses w (usesX ||| usesA ||| usesSub 9 4 ||| usesSub 15 12))
    (fun c s =>
      let m := if field c.w 9 9 = 1 then field c.w 15 12 else c.t.mem
      let n := wPort c.w
      match c.frag.members[m]? with
      | none => badPort c.w
      | some mb =>
        match if n < c.frag.ports then Map.get? mb.ports n else none with
        | none => badPort c.w
        | some p =>
          if !p.mailbox || p.ended then badPort c.w
          else
            let es := c.pushed s p.esize
            if p.depth < p.elems.length + es.length then .wait .wait
            else
              let s1 := if wX c.w = 0 ∧ 3 < p.esize then s.drew (2 ^ p.esize) else s
              let s2 := match Map.get? mb.pumps p.pump with
                | some q => s1.bufferElems c.frag mb q.desc es
                | none => s1
              .done (c.putPort s2 m n { p with elems := p.elems ++ es.map (fun b => Elem.bytes b false), ended := field c.w 8 8 == 1 })) t s

end Sys2Proof.Machine
end

