-- ==== Sys2Proof/Machine/RegWrite.lean ====
section
/-! DEFINITION. Register writes: where a write lands, who may write, ranges, same-cycle precedence, effects, and the rows of the
registers whose writes do more than set fields (R7 to R10, R212, R215, R444, R445, R450, R532, R533, R543, R560 to R563, R573 to
R577, R583, R629, R642, R648, R660, R665, R673). -/
namespace Sys2Proof.Machine

/-! ## Where a write lands -/

/-- What a write reaches: a word of the PF's BAR 0, one of a function's HQ layout, a word of its MSI-X table, or nothing. -/
inductive Target where
  | word (o : Nat)
  | hq (fn o : Nat)
  | msix (fn o : Nat)
  | none
  deriving DecidableEq, Repr

/-- HQ layout offsets that hold queue registers or doorbells. -/
def isHqReg (o : Nat) : Bool := o == 0 || decide (0x4000 ≤ o ∧ o < 0x4800) || decide (0x8000 ≤ o ∧ o < 0x8200)

def targetOf (w : RegWrite) : Target :=
  let o := w.offset / 8 * 8
  if !accessOk w.offset w.size then .none
  else match w.bar, masterFn w.master with
    | 4, some fn => if o < msixTableEnd fn then .msix fn o else .none
    | 0, some 0 => if 0x200000 ≤ o ∧ o < 0x210000 then (if isHqReg (o - 0x200000) then .hq 0 (o - 0x200000) else .none) else .word o
    | 0, some t => if 0x1000 ≤ o ∧ o < 0x2000 then .word (oTen t + (o - 0x1000)) else if isHqReg o then .hq t o else .none
    | 0, none => if 0x200000 ≤ o ∧ o < 0x210000 then .none else .word o
    | _, _ => .none

/-- Bits of the word that the access covers, and its data in place. -/
def writeMask (w : RegWrite) : Word := if w.size = 8 then BitVec.allOnes 64 else if w.offset % 8 = 4 then 0xFFFFFFFF00000000 else 0xFFFFFFFF
def writeData (w : RegWrite) : Word := if w.size = 4 ∧ w.offset % 8 = 4 then w.value <<< 32 else w.value

/-- Bits that the access writes as 1. -/
def writeOnes (w : RegWrite) : Word := writeMask w &&& writeData w

/-- `old` with the covered bits replaced. -/
def merged (w : RegWrite) (old : Word) : Word := (old &&& ~~~ writeMask w) ||| writeOnes w

def accBits (o : Nat) (a : Acc) : Word := fieldBits (bar0Fields o) fun f => f.acc == a

/-- The write sets an RW field, or writes 1 to a WO or W1C bit (R576). -/
def touches (w : RegWrite) (o : Nat) : Bool :=
  writeMask w &&& accBits o .rw != 0 || writeOnes w &&& (accBits o .wo ||| accBits o .w1c) != 0

/-- The write sets 1 in bits `hi`:`lo` of the word. -/
def sets (w : RegWrite) (hi lo : Nat) : Bool := field (writeOnes w).toNat hi lo != 0

/-! ## Who may write (R573, R574, R576, R665) -/

/-- Tenant of a TEN.EXC2, whose VALID only its owner writes. -/
def excOwner (o : Nat) : Option Nat :=
  if oTen 0 ≤ o ∧ o < oTen 256 ∧ o % 0x1000 = 0x150 then some ((o - oTen 0) / 0x1000) else none

/-- The master's path reaches the device. -/
def State.pathUp (s : State) (m : Master) : Bool :=
  match m with
  | .bmc => s.sideband
  | .queen _ => s.live
  | .pf => s.hostUp
  | .vf t => s.hostUp && decide (1 ≤ t ∧ t < 256)

/-- A write that only the board controller may make. -/
def bmcOnly (w : RegWrite) (o : Nat) : Bool :=
  (o == oSysMgmt && writeMask w &&& 3 != 0) || (o == oSysRst && sets w 1 1) || (o == oPwrCtrl && sets w 1 1) ||
    (o == oLcsState && sets w 51 48)

/-- A management-plane write that is dropped with `ST_DENIED`. -/
def State.denied (s : State) (w : RegWrite) (o : Nat) : Bool :=
  match w.master with
  | .bmc => false
  | .queen n => s.role != 1 || s.fab.queen != some n || s.fld oSysMgmt 1 1 == 0 || bmcOnly w o
  | .pf => s.fld oSysMgmt 0 0 == 0 || bmcOnly w o
  | .vf _ => true

/-- A write of a tenant-plane word by its owner, or of a management-plane word by a management master; others are ignored. -/
def mayReach (w : RegWrite) (o : Nat) : Bool :=
  match excOwner o, w.master with
  | some t, m => masterFn m == some t
  | none, .vf _ => false
  | none, _ => true

/-! ## Ranges (R10) -/

/-- Sum of a field over the stored words that satisfy `p`. -/
def State.sumRegs (s : State) (p : Nat → Bool) (hi lo : Nat) : Nat :=
  sumBy (fun e => field e.2.toNat hi lo) (s.regs.filter fun e => p e.1)

/-- Sum of BURST over all tenants. -/
def State.burstSum (s : State) : Nat := s.sumRegs (fun o => decide (oSchTen 0 ≤ o ∧ o < oSchTen 256) && o % 16 == 0) 47 32
/-- Sum of the stack-memory quotas of tenants 1 to 255. -/
def State.stackQuotas (s : State) : Nat := s.sumRegs (fun o => decide (oTen 1 ≤ o ∧ o < oTen 256) && o % 0x1000 == 0x8) 31 0

def changes (old new hi lo : Nat) : Bool := field old hi lo != field new hi lo

/-- The node holds a bucket of a pod collection (R521). -/
def State.holdsBucket (s : State) : Bool := s.fab.shards.any fun e => e.node == s.nodeId

/-- Commands of a tenant in flight. -/
def State.tenantBusy (s : State) (t : Nat) : Bool := s.cmds.any fun c => c.fn == t && c.inFlight

/-- A write of the TEN window of a tenant from 1 on that R10 or R562 makes ineffective. -/
def State.tenBad (s : State) (t k mask old new : Nat) (erase : Bool) : Bool :=
  if k = 0 then
    (erase && (bit old 0 || bit new 0 || s.tenantBusy t)) || (bit new 0 && !bit old 0 && s.fuses.lcs != 2)
  else if k = 0x8 then
    outside mask new 47 32 0 32768 || outside mask new 31 0 0 (s.fld oPlcCap 31 0) ||
      decide (field old 31 0 < field new 31 0 ∧ s.fld oPlcCap 31 0 < s.stackQuotas - field old 31 0 + field new 31 0)
  else if k = 0x10 then outside mask new 31 0 0 1048576
  else if k = 0x18 then outside mask new 9 0 0 1000
  else false

/-- A write of SCH.TEN: RATE and BURST (R533), or the weights. -/
def State.schTenBad (s : State) (o mask old new : Nat) : Bool :=
  if o % 16 = 0 then
    outside mask new 31 0 0 100000000 ||
      (changes old new 47 0 && ((field new 47 32 == 0 && field new 31 0 != 0) ||
        decide (s.fld oSchCtrl 15 0 < s.burstSum - field old 47 32 + field new 47 32)))
  else outside mask new 47 32 1 65535 || outside mask new 31 16 1 65535 || outside mask new 15 0 1 65535

/-- Intervals of the pending list that are 0 (R543). -/
def State.emptyInterval (s : State) (l len : Nat) : Bool :=
  (List.range len).any fun i => s.fld (oGateEntry l (1 - s.fld (oGateCtrl l) 3 3) i) 31 0 == 0

/-- A write of GATE.CTRL. -/
def State.gateBad (s : State) (l mask new : Nat) (go : Bool) : Bool :=
  outside mask new 26 16 1 1024 ||
    (go && (s.fld (oGateCtrl l) 2 2 == 1 || s.emptyInterval l (field new 26 16) ||
      !(decide (1000 ≤ s.fld (oGateCycle l) 31 0 ∧ s.fld (oGateCycle l) 31 0 ≤ 1000000000))))

/-- A write of a gate entry: list and bank from its offset (R543, R558). -/
def State.entryBad (s : State) (o mask new : Nat) : Bool :=
  let k := (o - oGateEntry 0 0 0) / 0x4000
  k % 2 == s.fld (oGateCtrl (k / 2)) 3 3 || outside mask new 31 0 1 1000000000

/-- ROLE and the node number do not fit: number 0 belongs to the queen, 1 to 255 to workers (R502). -/
def nodeMisfit (new : Nat) : Bool :=
  (field new 23 22 == 2 && field new 7 0 != 0) || (field new 23 22 == 1 && field new 7 0 == 0)

/-- A write that R10 makes ineffective: `mask` are the bits that it covers, `old` and `new` the register's RW fields before and after,
`ones` the bits written as 1. -/
def State.rangeBad (s : State) (o mask old new ones : Nat) : Bool :=
  if oTen 0 ≤ o ∧ o < oTen 256 then s.tenBad ((o - oTen 0) / 0x1000) (o % 0x1000) mask old new (bit ones 8)
  else if o = oPwrCtrl then outside mask new 26 16 400 1300 || outside mask new 15 4 10 4095 || (bit ones 0 && !s.power.parked)
  else if o = oSchCtrl then outside mask new 15 0 0 8192 || (changes old new 15 0 && decide (field new 15 0 < s.burstSum))
  else if o = oSchC0res then
    outside mask new 41 32 0 512 || outside mask new 25 24 0 2 || outside mask new 23 20 0 8 || outside mask new 18 16 0 4 || outside mask new 13 8 0 48 ||
      outside mask new 5 0 0 32
  else if o = oSchCw then outside mask new 47 32 1 65535 || outside mask new 31 16 1 65535 || outside mask new 15 0 1 65535
  else if oSchTen 0 ≤ o ∧ o < oSchTen 256 then s.schTenBad o mask old new
  else if oGateCtrl 0 ≤ o ∧ o < oGateCtrl 16 then
    let l := (o - oGateCtrl 0) / 0x40
    if o % 0x40 = 0 then s.gateBad l mask new (bit ones 1)
    else if o % 0x40 = 8 then outside mask new 31 0 1000 1000000000
    else false
  else if oGateEntry 0 0 0 ≤ o ∧ o < oGateEntry 16 0 0 then s.entryBad o mask new
  else if o = oFabNode then outside mask new 23 22 0 2 || nodeMisfit new || (s.holdsBucket && (changes old new 23 22 || changes old new 19 0))
  else if oFabPort 0 ≤ o ∧ o < oFabPort 8 then bit old 0 && (changes old new 2 2 || changes old new 1 1)
  else if o = oFlcCtrl then outside mask new 11 8 1 15 || outside mask new 4 0 1 24
  else if o = oWellcCtrl then outside mask new 1 0 0 2
  else if o = oPlcCtrl then outside mask new 19 16 0 8 || outside mask new 4 0 0 22
  else if o = oPlcReserve then outside mask new 31 0 0 (s.fld oPlcCap 31 0)
  else false

/-! ## Effects -/

/-- What a write needs from outside the register file: network time at GO, and a new salt at ERASE. -/
structure WriteAux where
  networkTime : Nat
  salt : List Byte

/-- The first cycle start BASE + k · CYCLE that is not earlier than the write of GO, as a device time (R543). -/
def State.armAt (s : State) (l now : Nat) : Nat :=
  let base := (s.word (oGateBase l)).toNat
  let cycle := Nat.max 1 (s.fld (oGateCycle l) 31 0)
  s.clock + (base + ceilDiv (now - base) cycle * cycle - now) * 1000

/-- Arm the pending bank. -/
def State.go (s : State) (l now : Nat) : State :=
  (s.setFld (oGateCtrl l) 2 2 1).setGate l { s.gate l with armedAt := s.armAt l now }

/-- The bucket of a tenant is settled before RATE or BURST changes; a lower BURST caps it (R532, R533). -/
def State.settleTokens (s : State) (t newBurst : Nat) : State :=
  { s with sched := { s.sched with
      tokens := Map.put s.sched.tokens t (Nat.min (s.tokensNow t) (newBurst * 1000000000000))
      tokenAt := Map.put s.sched.tokenAt t s.clock } }

/-- What a write changes before its fields are set. -/
def State.beforeWrite (s : State) (o : Nat) (new : Word) : State :=
  if oSchTen 0 ≤ o ∧ o < oSchTen 256 ∧ o % 16 = 0 then s.settleTokens ((o - oSchTen 0) / 16) (field new.toNat 47 32)
  else if oGateCtrl 0 ≤ o ∧ o < oGateCtrl 16 ∧ o % 0x40 = 0 then s.settleGate ((o - oGateCtrl 0) / 0x40)
  else if oFabPort 0 ≤ o ∧ o < oFabPort 8 then s.settleGate (2 * ((o - oFabPort 0) / 8)) |>.settleGate (2 * ((o - oFabPort 0) / 8) + 1)
  else s

/-- What a write does beside setting its fields; `ones` are the bits written as 1, `mask` those covered. -/
def State.afterWrite (s : State) (aux : WriteAux) (o ones mask : Nat) : State :=
  if o = oEvtPtr then (if field mask 8 0 = 0 then s else { s with evtUnread := (s.fld oEvtPtr 24 16 + 512 - s.fld oEvtPtr 8 0) % 512 })
  else if o = oSchCtrl then s.syncObs
  else if oGateCtrl 0 ≤ o ∧ o < oGateCtrl 16 ∧ o % 0x40 = 0 then (if bit ones 1 then s.go ((o - oGateCtrl 0) / 0x40) aux.networkTime else s)
  else if oTen 0 ≤ o ∧ o < oTen 256 ∧ o % 0x1000 = 0 then (if bit ones 8 then s.eraseTenant ((o - oTen 0) / 0x1000) aux.salt else s)
  else if o = oLcsRoll then
    let s1 := if bit ones 0 then s.rollFw else s
    if bit ones 1 then s1.rollVarelm else s1
  else if o = oPwrCtrl then
    let s1 := if bit ones 0 then s.enterDormant else s
    if bit ones 1 then s1.wake else s1
  else if o = oSysRst then (if bit ones 1 then s.wholeReset .cold else if bit ones 0 then s.wholeReset .warm else s)
  else s

/-- Writes to EN, ERASE and the quotas of tenant 0 are ignored (R560, R563). -/
def ignoredWord (o : Nat) : Bool := [oTen 0, oTen 0 + 0x8, oTen 0 + 0x10, oTen 0 + 0x18].contains o

/-- A write to one word takes effect: RW bits are set, ones clear W1C bits, and the actions of WO fields follow. -/
def State.writeWord (s : State) (aux : WriteAux) (w : RegWrite) (o : Nat) : State :=
  let old := s.word o
  let ones := writeOnes w &&& (accBits o .rw ||| accBits o .wo)
  let rw := accBits o .rw
  let new := ((old &&& ~~~ rw) ||| (merged w old &&& rw)) &&& ~~~ (writeOnes w &&& accBits o .w1c)
  if ignoredWord o || s.rangeBad o (writeMask w).toNat old.toNat new.toNat ones.toNat then s
  else ((s.beforeWrite o new).setWord o new).afterWrite aux o ones.toNat (writeMask w).toNat

/-! ## Queue registers and MSI-X -/

/-- A doorbell pair or queue register of a function (R448 to R450, R660). -/
def State.writeHq (s : State) (w : RegWrite) (fn o : Nat) : State :=
  if 0x8000 ≤ o then
    let q := (o - 0x8000) / 8
    let s1 := if (writeMask w).toNat % 2 = 1 then s.ringSq fn q (field (writeData w).toNat 15 0) else s
    if bit (writeMask w).toNat 32 then s1.ringCq fn q (field (writeData w).toNat 47 32) else s1
  else if 0x4400 ≤ o then
    let q := (o - 0x4400) / 16
    if o % 16 = 0 then s.writeQbase fn o (s.cqEn fn q) (merged w (s.hqWord fn o)) else s.writeCqcfg fn q (writeMask w) (merged w (s.hqWord fn o))
  else if 0x4000 ≤ o then
    let q := (o - 0x4000) / 16
    if o % 16 = 0 then s.writeQbase fn o (s.sqEn fn q) (merged w (s.hqWord fn o)) else s.writeSqcfg fn q (writeMask w) (merged w (s.hqWord fn o))
  else s

/-- A message is due for an enabled completion queue of this vector (R454). -/
def State.dueSignal (s : State) (fn v q : Nat) : Bool :=
  s.cqEn fn q && s.hqFld fn (oCqCfg q) 30 30 == 1 && s.hqFld fn (oCqCfg q) 29 22 == v &&
    decide (1 ≤ (s.cqSt fn q).unsig ∧ Nat.max 1 (s.hqFld fn (oCqCfg q) 21 16) ≤ (s.cqSt fn q).unsig)

/-- An unmasked vector sends its pending message, and those that completion queues owe (R454; assumption 6). -/
def State.unmask (s : State) (fn v : Nat) : State :=
  let o := pbaBase fn + 8 * (v / 64)
  let s1 := if bit (s.bar4Word fn o).toNat (v % 64) then
      (s.setBar4 fn o (BitVec.ofNat 64 (setField (s.bar4Word fn o).toNat (v % 64) (v % 64) 0))).sendMsix fn v
    else s
  ((List.range 64).filter (s1.dueSignal fn v)).foldl (fun s q => s.cqSignal fn q) s1

/-- A write of an MSI-X table word: address, or data with the mask bit. -/
def State.writeMsix (s : State) (w : RegWrite) (fn o : Nat) : State :=
  let new := merged w (s.bar4Word fn o)
  if o % 16 = 0 then s.setBar4 fn o new
  else
    let s1 := s.setBar4 fn o (new &&& 0x1FFFFFFFF)
    if s.vecMasked fn (o / 16) && !s1.vecMasked fn (o / 16) then s1.unmask fn (o / 16) else s1

/-! ## One cycle of writes (R575 to R577) -/

/-- Write status of a master's write (R577). -/
def State.setWrst (s : State) (m : Master) (o status : Nat) : State :=
  match m with
  | .vf _ => s
  | m => { s with wrst := Map.put s.wrst (masterRank m) (BitVec.ofNat 64 (o * 2 ^ 32 + status)) }

/-- The response of a sideband or Scarab write carries its status. -/
def State.answer (s : State) (m : Master) (o status : Nat) : State :=
  match m with
  | .bmc => s.reply .mctp 2 status []
  | .queen n => s.say tyData 1 n o status
  | _ => s

/-- Offset of the register that a word belongs to: the 128-bit ones take two words (R660). -/
def regBase (o : Nat) : Nat :=
  if o = oFabQaddr + 8 then oFabQaddr
  else if oFabPaddr 0 0 ≤ o ∧ o < oFabPaddr 8 0 then o / 16 * 16
  else o

/-- A write that takes part in the precedence of R575: it reaches a management-plane word, touches a field of it and is not denied. -/
def State.standing (s : State) (w : RegWrite) : Bool :=
  match targetOf w with
  | .word o => s.pathUp w.master && mayReach w o && touches w o && (excOwner o).isNone && !s.denied w o
  | _ => false

/-- The master whose write of the same register in the same cycle wins over this one. -/
def State.winner (s : State) (ws : List RegWrite) (w : RegWrite) (o : Nat) : Option Master :=
  (minBy (fun v => masterRank v.master) (ws.filter fun v => s.standing v && match targetOf v with
    | .word p => regBase p == regBase o && decide (masterRank v.master < masterRank w.master)
    | _ => false)).map (·.master)

/-- One write to a word of the PF's BAR 0 among the writes of its cycle. -/
def State.oneWord (s0 : State) (ws : List RegWrite) (aux : WriteAux) (w : RegWrite) (o : Nat) (s : State) : State :=
  if !mayReach w o || !touches w o then s.answer w.master o stOk
  else if (excOwner o).isSome then s.writeWord aux w o
  else if s0.denied w o then (s.setWrst w.master (regBase o) stDenied).answer w.master (regBase o) stDenied
  else match s0.winner ws w o with
    | some m => ((s.logEvent evRegConflict 0 [regBase o, masterRank m, masterRank w.master]).setWrst w.master (regBase o) stConflict).answer
        w.master (regBase o) stConflict
    | none => ((s.setWrst w.master (regBase o) stOk).writeWord aux w o).answer w.master (regBase o) stOk

/-- A sideband write that is served from dormant entry on: WAKE alone (R642). -/
def isWake (w : RegWrite) : Bool :=
  w.master == .bmc && w.bar == 0 && accessOk w.offset w.size && w.offset / 8 * 8 == oPwrCtrl && sets w 1 1

/-- One write among those of its cycle; `s0` is the state before the cycle. -/
def State.oneWrite (s0 : State) (ws : List RegWrite) (aux : WriteAux) (s : State) (w : RegWrite) : State :=
  if s0.power.on && !s0.awake then (if isWake w && !s.awake then s.wake.reply .mctp 2 stOk [] else s)
  else if !s0.pathUp w.master then s
  else match targetOf w with
    | .word o => s0.oneWord ws aux w o s
    | .hq fn o => s.writeHq w fn o
    | .msix fn o => s.writeMsix w fn o
    | .none => s.answer w.master w.offset stOk

/-- A standing write that reaches Abaund's test registers, which the manual does not define (R673). -/
def State.testWrite (s : State) (w : RegWrite) : Option Nat :=
  match targetOf w with
  | .word o => if s.pathUp w.master && s.testReg o && (masterRank w.master != 4) && !s.denied w o then some o else none
  | _ => none

/-- The writes of one cycle. -/
def State.writeCycle (s : State) (ws : List RegWrite) (aux : WriteAux) : Res :=
  match ws.findSome? s.testWrite with
  | some o => .fault (.undefinedTestRegister o)
  | none => .next (ws.foldl (s.oneWrite ws aux) s)

/-- Network time and salt where the row does not carry them: free values. -/
def State.freeAux (s : State) : WriteAux := { networkTime := s.draw 0 % 2 ^ 64, salt := Config.randomBytes (s.free + 1) }

/-- Some write of the cycle uses a value of `freeAux`. -/
def usesAux (ws : List RegWrite) : Bool :=
  ws.any fun w => match targetOf w with
    | .word o => (decide (oGateCtrl 0 ≤ o ∧ o < oGateCtrl 16) && sets w 1 1) || (decide (oTen 0 ≤ o ∧ o < oTen 256) && sets w 8 8)
    | _ => false

/-- What a read of this cycle returns: the value held before the cycle (R662). -/
def State.readOf (s : State) (r : RegRead) : Nat :=
  let o := r.offset / 8 * 8
  if !accessOk r.offset r.size then 0
  else match r.bar, masterFn r.master with
    | 4, some fn => if o < pbaBase fn + 0x20 then accessPart (s.bar4Word fn o) r.offset r.size else 0
    | 2, some fn => accessPart (Map.getD s.pslot (fn * 2 ^ 13 + o) 0) r.offset r.size
    | 0, some 0 => s.bar0Read r.master r.offset r.size
    | 0, some t => accessPart (s.vfWord t o) r.offset r.size
    | 0, none => s.bar0Read r.master r.offset r.size
    | _, _ => 0

/-- The answers to the reads of a cycle, in the state `s0` before it. -/
def State.answerReads (s0 : State) (reads : List RegRead) (s : State) : State :=
  { s with out := { s.out with reads := s.out.reads ++ (reads.filter fun r => s0.pathUp r.master).map fun r => (r, s0.readOf r) } }

/-- A W1C bit that held 1 before the cycle and that the device sets again in it reads 1 afterwards, a write of 1 notwithstanding
(R662). A bit that held 0 is set by the row of the event that sets it. -/
def State.setAgain (s0 : State) (s : State) (b : Nat × Nat) : State :=
  if bit (accBits b.1 .w1c).toNat b.2 && bit (s0.word b.1).toNat b.2 then s.setFld b.1 b.2 b.2 1 else s

/-- The writes of one cycle, to registers with no row of their own or together with them, with the reads that meet them and the W1C
bits that the device sets again in that cycle (R662). -/
def execRegisterWrite (c : WriteCycle) (s : State) : Res :=
  match (if usesAux c.writes then s.drew 2 else s).writeCycle c.writes s.freeAux with
  | .next t => .next (s.answerReads c.reads (c.again.foldl s.setAgain t))
  | r => r

/-- A row of its own: one write that covers the register and sets the field. -/
def State.rowWrite (s : State) (w : RegWrite) (aux : WriteAux) (ok : Nat → Bool) : Res :=
  match targetOf w with
  | .word o => if ok o then s.writeCycle [w] aux else .next s
  | _ => .next s

def noAux : WriteAux := { networkTime := 0, salt := [] }

def execPlcCtrlHubtier (w : RegWrite) (s : State) : Res :=
  s.rowWrite w noAux fun o => o == oPlcCtrl && field (writeMask w).toNat 19 16 != 0

def execTenCtrlErase (w : RegWrite) (salt : List Byte) (s : State) : Res :=
  s.rowWrite w { noAux with salt := salt } fun o => decide (oTen 0 ≤ o ∧ o < oTen 256) && o % 0x1000 == 0 && sets w 8 8 && salt.length == 32

def execEvtPtrRd (w : RegWrite) (s : State) : Res :=
  s.rowWrite w noAux fun o => o == oEvtPtr && field (writeMask w).toNat 8 0 != 0

def execGateCtrlGo (w : RegWrite) (networkTime : Nat) (s : State) : Res :=
  s.rowWrite w { noAux with networkTime := networkTime } fun o =>
    decide (oGateCtrl 0 ≤ o ∧ o < oGateCtrl 16) && o % 0x40 == 0 && sets w 1 1 && decide (networkTime < 2 ^ 64)

def execLcsRollFw (w : RegWrite) (s : State) : Res := s.rowWrite w noAux fun o => o == oLcsRoll && sets w 0 0
def execLcsRollVarelm (w : RegWrite) (s : State) : Res := s.rowWrite w noAux fun o => o == oLcsRoll && sets w 1 1
def execSysRstCold (w : RegWrite) (s : State) : Res := s.rowWrite w noAux fun o => o == oSysRst && sets w 1 1
def execSysRstWarm (w : RegWrite) (s : State) : Res := s.rowWrite w noAux fun o => o == oSysRst && sets w 0 0
def execPwrCtrlDormant (w : RegWrite) (s : State) : Res := s.rowWrite w noAux fun o => o == oPwrCtrl && sets w 0 0
def execPwrCtrlWake (w : RegWrite) (s : State) : Res := s.rowWrite w noAux fun o => o == oPwrCtrl && sets w 1 1

/-- Message 0x02: a write at the board controller's precedence (R578). -/
def execMctpRegisterWrite (offset size : Nat) (value : Word) (s : State) : Res :=
  let w : RegWrite := { master := .bmc, bar := 0, offset := offset, size := size, value := value }
  if size ≠ 4 ∧ size ≠ 8 then .next s
  else (if usesAux [w] then s.drew 2 else s).writeCycle [w] s.freeAux

end Sys2Proof.Machine
end

