-- ==== Sys2Proof/Machine/Sort.lean ====
section
/-! DEFINITION. `vr.sort` (R100 to R104): stable sorts, merges and selections of fixed-length records. -/
namespace Sys2Proof.Machine

def Cmd.sortMode (x : Cmd) : Nat := x.af 0x18 1 0
def Cmd.sortType (x : Cmd) : Nat := x.af 0x18 3 2
def Cmd.sortDesc (x : Cmd) : Bool := x.af 0x18 4 4 == 1
def Cmd.sortDedup (x : Cmd) : Bool := x.af 0x18 5 5 == 1
def Cmd.sortIn (x : Cmd) : Bool := x.af 0x18 6 6 == 1
def Cmd.sortOut (x : Cmd) : Bool := x.af 0x18 7 7 == 1
def Cmd.sortCount (x : Cmd) : Bool := x.af 0x18 8 8 == 1
def Cmd.recLen (x : Cmd) : Nat := x.a 0x14 4
def Cmd.keyLen (x : Cmd) : Nat := x.af 0x1C 23 16
def Cmd.keyOff (x : Cmd) : Nat := x.af 0x1C 15 0

/-- An argument block within R100, R35 and R36. -/
def Cmd.sortOk (x : Cmd) : Bool :=
  let n := x.a 0x10 4
  decide (1 ≤ n ∧ 8 ≤ x.recLen ∧ x.recLen ≤ 4096 ∧ x.recLen % 8 = 0 ∧ x.sortMode ≤ 2 ∧ x.sortType ≤ 2) &&
    (x.sortMode != 1 || decide (2 ≤ n ∧ n ≤ 64)) && (x.sortMode != 2 || decide (1 ≤ x.a 0x20 4 ∧ x.a 0x20 4 ≤ 65536)) &&
    decide (x.keyLen ∈ [4, 8, 12, 16] ∧ x.keyOff % 4 = 0 ∧ x.keyOff + x.keyLen ≤ x.recLen) && (x.sortType != 2 || x.keyLen == 4) &&
    x.af 0x18 31 9 == 0 && x.af 0x1C 31 24 == 0 && addrOk x.sortIn (x.a 0 8) && addrOk x.sortOut (x.a 8 8) &&
    addrOk x.sortCount (x.a 0x28 8) && cleanBut x.args [(0, 0x24), (0x28, 8)]

/-- A record's key as a number that rises with the key (R101, R81). -/
def Cmd.sortKey (x : Cmd) (r : List Byte) : Nat :=
  let k := leAt r x.keyOff x.keyLen
  let w := 8 * x.keyLen
  if x.sortType = 0 then k else if x.sortType = 1 then (k + 2 ^ (w - 1)) % 2 ^ w else okey ktF32 k

/-- The order of records under DESC. -/
def Cmd.sortBefore (x : Cmd) (a b : List Byte) : Bool :=
  if x.sortDesc then decide (x.sortKey b < x.sortKey a) else decide (x.sortKey a < x.sortKey b)

/-- The first record of each key, of sorted records (R103). -/
def Cmd.firstOfKey (x : Cmd) : List (List Byte) → List (List Byte)
  | [] => []
  | [a] => [a]
  | a :: b :: r => if x.sortKey a = x.sortKey b then a :: (Cmd.firstOfKey x (b :: r)).drop 1 else a :: Cmd.firstOfKey x (b :: r)

/-- The records that the sort writes, in order (R102, R103). DESIGN CHOICE (assumption 40): with TOPN and DEDUP the later records of a key
are removed before the cut to NOUT. -/
def Cmd.sorted (x : Cmd) (rs : List (List Byte)) : List (List Byte) :=
  let s := sortBy x.sortBefore rs
  let d := if x.sortDedup then x.firstOfKey s else s
  if x.sortMode = 2 then d.take (x.a 0x20 4) else d

/-- The run is sorted already. -/
def Cmd.runSorted (x : Cmd) : List (List Byte) → Bool
  | a :: b :: r => !x.sortBefore b a && x.runSorted (b :: r)
  | _ => true

/-- Where the runs stand: address and records, or the state in which a failed read of the table leaves the command. -/
def State.sortRuns (s : State) (x : Cmd) : Except State (List (Nat × Nat)) :=
  if x.sortMode = 1 then
    match s.input x x.sortIn (x.a 0 8) (16 * x.a 0x10 4) with
    | .error e => .error e
    | .ok b => .ok ((List.range (x.a 0x10 4)).map fun i => (leAt b (16 * i) 8, leAt b (16 * i + 8) 8))
  else .ok [(x.a 0 8, x.a 0x10 4)]

/-- The runs' records, run by run. -/
def State.sortInput (s : State) (x : Cmd) (rs : List (Nat × Nat)) : Except State (List (List (List Byte))) :=
  match s.inputs x (rs.map fun r => (x.sortIn, r.1, r.2 * x.recLen)) with
  | .error e => .error e
  | .ok bs => .ok ((bs.zip rs).map fun p => (List.range p.2.2).map fun i => (p.1.drop (i * x.recLen)).take x.recLen)

/-- Well segments that gather the records of a device-space input: those of the runs of at least 16 KiB whose well is in service (R165,
R166). -/
def State.sortSegs (s : State) (x : Cmd) (rs : List (Nat × Nat)) : List Seg :=
  if !x.sortIn then []
  else rs.filterMap fun r => ((s.allocAt x.fn r.1).filter fun a => a.wellSeg && decide (16384 ≤ r.2 * x.recLen) &&
    (s.wellsIn a.stack).contains a.well).map fun a => ⟨a.stack, a.well⟩

/-- What is written to OUT: of an unsorted MERGE run, a free selection in a free order (R102). -/
def State.sortOutput (s : State) (x : Cmd) (runs : List (List (List Byte))) : List (List Byte) :=
  let all := runs.flatten
  if x.sortMode = 1 ∧ ¬ runs.all x.runSorted then
    (List.range (s.draw 0 % (all.length + 1))).map fun i => all.getD (s.draw (i + 1) % Nat.max 1 all.length) []
  else x.sorted all

/-- Records that the work is measured by (R693). -/
def Cmd.sortTarget (x : Cmd) (n : Nat) : Nat := if x.sortMode = 2 then Nat.min (x.a 0x20 4) n else n

/-- Write the records and OCOUNT, and end. -/
def State.sortDeliver (s : State) (x : Cmd) (n : Nat) (out : List (List Byte)) : State :=
  let work := n + x.sortTarget n
  let s1 := s.raiseProgress x.id (Nat.min 9999 (10000 * n / Nat.max 1 work)) 0
  match s1.spaceWr x.fn x.sortOut (x.a 8 8) out.flatten with
  | none => s1.outputFail x x.sortOut
  | some s2 =>
    let s3 := s2.raiseProgress x.id (Nat.min 9999 (10000 * (n + out.length) / Nat.max 1 work)) out.length
    match s3.spaceWr x.fn x.sortCount (x.a 0x28 8) (toLe 8 out.length) with
    | none => s3.outputFail x x.sortCount
    | some s4 => s4.finish x.id stOk out.length out.length

def execVrSort (c : Nat) (s : State) : Res :=
  runCmd c s (fun x => x.vr == 0x120) fun x s =>
    if !x.sortOk then s.malformed c
    else match s.sortRuns x with
      | .error e => e
      | .ok rs =>
        let n := sumBy (·.2) rs
        if rs.any fun r => decide (2 ^ 32 ≤ r.2) || !addrOk x.sortIn r.1 then s.malformed c
        else s.withRoom x (16 * n) fun s => match s.sortInput x rs with
          | .error e => e
          | .ok runs => ((s.drew (n + 1)).varelmWells (s.sortSegs x rs)).sortDeliver x n (s.sortOutput x runs)

end Sys2Proof.Machine
end

