-- ==== Sys2Proof/Machine/Dispatch.lean ====
section
/-! DEFINITION. One arm per command, each a call of its meaning. -/
namespace Sys2Proof.Machine

def exec (i : Instr) (s : State) : Host.Outcome State Fault Refusal :=
  match i with
  | .hqSqdb fn q value => Sys2Proof.Machine.execHqSqdb fn q value s
  | .hqCqdb fn q value => Sys2Proof.Machine.execHqCqdb fn q value s
  | .hqSqcfgEn fn q value => Sys2Proof.Machine.execHqSqcfgEn fn q value s
  | .hqCqcfgEn fn q value => Sys2Proof.Machine.execHqCqcfgEn fn q value s
  | .submissionFetch fn q => Sys2Proof.Machine.execSubmissionFetch fn q s
  | .admission c => Sys2Proof.Machine.execAdmission c s
  | .launch c => Sys2Proof.Machine.execLaunch c s
  | .copyIn c => Sys2Proof.Machine.execCopyIn c s
  | .copyOut c => Sys2Proof.Machine.execCopyOut c s
  | .loadImage c => Sys2Proof.Machine.execLoadImage c s
  | .queryProgress c => Sys2Proof.Machine.execQueryProgress c s
  | .abort c => Sys2Proof.Machine.execAbort c s
  | .partCreate c => Sys2Proof.Machine.execPartCreate c s
  | .partGrow c => Sys2Proof.Machine.execPartGrow c s
  | .partDrop c => Sys2Proof.Machine.execPartDrop c s
  | .park c => Sys2Proof.Machine.execPark c s
  | .resume c => Sys2Proof.Machine.execResume c s
  | .vfDetach c => Sys2Proof.Machine.execVfDetach c s
  | .vfDetachGrace vf => Sys2Proof.Machine.execVfDetachGrace vf s
  | .vfAttach c => Sys2Proof.Machine.execVfAttach c s
  | .vrCreate c => Sys2Proof.Machine.execVrCreate c s
  | .vrDrop c => Sys2Proof.Machine.execVrDrop c s
  | .vrSearch c => Sys2Proof.Machine.execVrSearch c s
  | .vrInsert c => Sys2Proof.Machine.execVrInsert c s
  | .vrDelete c => Sys2Proof.Machine.execVrDelete c s
  | .vrCompact c => Sys2Proof.Machine.execVrCompact c s
  | .vrRerank c => Sys2Proof.Machine.execVrRerank c s
  | .vrSort c => Sys2Proof.Machine.execVrSort c s
  | .vrPlace c => Sys2Proof.Machine.execVrPlace c s
  | .vrResidency c => Sys2Proof.Machine.execVrResidency c s
  | .vrEmbed c => Sys2Proof.Machine.execVrEmbed c s
  | .vrGenerate c => Sys2Proof.Machine.execVrGenerate c s
  | .vrMemCreate c => Sys2Proof.Machine.execVrMemCreate c s
  | .vrMemDrop c => Sys2Proof.Machine.execVrMemDrop c s
  | .vrModelInfo c => Sys2Proof.Machine.execVrModelInfo c s
  | .vrAlloc c => Sys2Proof.Machine.execVrAlloc c s
  | .vrFree c => Sys2Proof.Machine.execVrFree c s
  | .allocationReturn tenant base => Sys2Proof.Machine.execAllocationReturn tenant base s
  | .vrPartHealth c => Sys2Proof.Machine.execVrPartHealth c s
  | .vrPodCreate c => Sys2Proof.Machine.execVrPodCreate c s
  | .vrFabConfig c => Sys2Proof.Machine.execVrFabConfig c s
  | .commandComplete c => Sys2Proof.Machine.execCommandComplete c s
  | .completionEntry c => Sys2Proof.Machine.execCompletionEntry c s
  | .interruptTimer fn q => Sys2Proof.Machine.execInterruptTimer fn q s
  | .hostAccessFault c => Sys2Proof.Machine.execHostAccessFault c s
  | .functionLevelReset fn => Sys2Proof.Machine.execFunctionLevelReset fn s
  | .configRequest fn item => Sys2Proof.Machine.execConfigRequest fn item s
  | .fragmentDispatch f clusters => Sys2Proof.Machine.execFragmentDispatch f clusters s
  | .clusterWake l => Sys2Proof.Machine.execClusterWake l s
  | .fragmentCommit f => Sys2Proof.Machine.execFragmentCommit f s
  | .fragmentReissue f cause => Sys2Proof.Machine.execFragmentReissue f cause s
  | .add t => Sys2Proof.Machine.execAdd t s
  | .sub t => Sys2Proof.Machine.execSub t s
  | .mul t => Sys2Proof.Machine.execMul t s
  | .mulh t => Sys2Proof.Machine.execMulh t s
  | .mulhu t => Sys2Proof.Machine.execMulhu t s
  | .div t => Sys2Proof.Machine.execDiv t s
  | .divu t => Sys2Proof.Machine.execDivu t s
  | .rem t => Sys2Proof.Machine.execRem t s
  | .remu t => Sys2Proof.Machine.execRemu t s
  | .and t => Sys2Proof.Machine.execAnd t s
  | .or t => Sys2Proof.Machine.execOr t s
  | .xor t => Sys2Proof.Machine.execXor t s
  | .shl t => Sys2Proof.Machine.execShl t s
  | .shr t => Sys2Proof.Machine.execShr t s
  | .sra t => Sys2Proof.Machine.execSra t s
  | .slt t => Sys2Proof.Machine.execSlt t s
  | .sltu t => Sys2Proof.Machine.execSltu t s
  | .min t => Sys2Proof.Machine.execMin t s
  | .max t => Sys2Proof.Machine.execMax t s
  | .minu t => Sys2Proof.Machine.execMinu t s
  | .maxu t => Sys2Proof.Machine.execMaxu t s
  | .clz t => Sys2Proof.Machine.execClz t s
  | .popc t => Sys2Proof.Machine.execPopc t s
  | .sel t => Sys2Proof.Machine.execSel t s
  | .li t => Sys2Proof.Machine.execLi t s
  | .lhi t => Sys2Proof.Machine.execLhi t s
  | .srd t => Sys2Proof.Machine.execSrd t s
  | .swr t => Sys2Proof.Machine.execSwr t s
  | .beq t => Sys2Proof.Machine.execBeq t s
  | .bne t => Sys2Proof.Machine.execBne t s
  | .blt t => Sys2Proof.Machine.execBlt t s
  | .bge t => Sys2Proof.Machine.execBge t s
  | .bltu t => Sys2Proof.Machine.execBltu t s
  | .bgeu t => Sys2Proof.Machine.execBgeu t s
  | .jal t => Sys2Proof.Machine.execJal t s
  | .jalr t => Sys2Proof.Machine.execJalr t s
  | .trap t => Sys2Proof.Machine.execTrap t s
  | .ld t => Sys2Proof.Machine.execLd t s
  | .st t => Sys2Proof.Machine.execSt t s
  | .vld t => Sys2Proof.Machine.execVld t s
  | .vst t => Sys2Proof.Machine.execVst t s
  | .amoAdd t => Sys2Proof.Machine.execAmoAdd t s
  | .amoSwap t => Sys2Proof.Machine.execAmoSwap t s
  | .cflush t => Sys2Proof.Machine.execCflush t s
  | .cinv t => Sys2Proof.Machine.execCinv t s
  | .fenceAcq t => Sys2Proof.Machine.execFenceAcq t s
  | .fenceRel t => Sys2Proof.Machine.execFenceRel t s
  | .vadd t => Sys2Proof.Machine.execVadd t s
  | .vsub t => Sys2Proof.Machine.execVsub t s
  | .vmul t => Sys2Proof.Machine.execVmul t s
  | .vfma t => Sys2Proof.Machine.execVfma t s
  | .vmin t => Sys2Proof.Machine.execVmin t s
  | .vmax t => Sys2Proof.Machine.execVmax t s
  | .vand t => Sys2Proof.Machine.execVand t s
  | .vor t => Sys2Proof.Machine.execVor t s
  | .vxor t => Sys2Proof.Machine.execVxor t s
  | .vshl t => Sys2Proof.Machine.execVshl t s
  | .vshr t => Sys2Proof.Machine.execVshr t s
  | .vsra t => Sys2Proof.Machine.execVsra t s
  | .vcmp t => Sys2Proof.Machine.execVcmp t s
  | .vsel t => Sys2Proof.Machine.execVsel t s
  | .vcvt t => Sys2Proof.Machine.execVcvt t s
  | .vbcast t => Sys2Proof.Machine.execVbcast t s
  | .vext t => Sys2Proof.Machine.execVext t s
  | .vins t => Sys2Proof.Machine.execVins t s
  | .vperm t => Sys2Proof.Machine.execVperm t s
  | .vred t => Sys2Proof.Machine.execVred t s
  | .vexp t => Sys2Proof.Machine.execVexp t s
  | .vrcp t => Sys2Proof.Machine.execVrcp t s
  | .vrsqrt t => Sys2Proof.Machine.execVrsqrt t s
  | .mand t => Sys2Proof.Machine.execMand t s
  | .mor t => Sys2Proof.Machine.execMor t s
  | .mxor t => Sys2Proof.Machine.execMxor t s
  | .mnot t => Sys2Proof.Machine.execMnot t s
  | .mpop t => Sys2Proof.Machine.execMpop t s
  | .mfirst t => Sys2Proof.Machine.execMfirst t s
  | .mset t => Sys2Proof.Machine.execMset t s
  | .mget t => Sys2Proof.Machine.execMget t s
  | .tmma t => Sys2Proof.Machine.execTmma t s
  | .tmmaExecution l => Sys2Proof.Machine.execTmmaExecution l s
  | .tld t => Sys2Proof.Machine.execTld t s
  | .tst t => Sys2Proof.Machine.execTst t s
  | .tzero t => Sys2Proof.Machine.execTzero t s
  | .tmov t => Sys2Proof.Machine.execTmov t s
  | .lscan t => Sys2Proof.Machine.execLscan t s
  | .combOpen t => Sys2Proof.Machine.execCombOpen t s
  | .combTopkN t => Sys2Proof.Machine.execCombTopkN t s
  | .combTopkW t => Sys2Proof.Machine.execCombTopkW t s
  | .combBlockMerge l ctx => Sys2Proof.Machine.execCombBlockMerge l ctx s
  | .combClose t => Sys2Proof.Machine.execCombClose t s
  | .combMerge t => Sys2Proof.Machine.execCombMerge t s
  | .pumpSet t => Sys2Proof.Machine.execPumpSet t s
  | .pumpGo t => Sys2Proof.Machine.execPumpGo t s
  | .pumpFetch f m n => Sys2Proof.Machine.execPumpFetch f m n s
  | .qPop t => Sys2Proof.Machine.execQPop t s
  | .qPush t => Sys2Proof.Machine.execQPush t s
  | .fragPost t => Sys2Proof.Machine.execFragPost t s
  | .fragLogSt t => Sys2Proof.Machine.execFragLogSt t s
  | .fragLogAdd t => Sys2Proof.Machine.execFragLogAdd t s
  | .fragStatus t => Sys2Proof.Machine.execFragStatus t s
  | .fragProg t => Sys2Proof.Machine.execFragProg t s
  | .fragEnd t => Sys2Proof.Machine.execFragEnd t s
  | .wcall t => Sys2Proof.Machine.execWcall t s
  | .seal t => Sys2Proof.Machine.execSeal t s
  | .unseal t => Sys2Proof.Machine.execUnseal t s
  | .quant t => Sys2Proof.Machine.execQuant t s
  | .dequant t => Sys2Proof.Machine.execDequant t s
  | .statAmax t => Sys2Proof.Machine.execStatAmax t s
  | .statClip t => Sys2Proof.Machine.execStatClip t s
  | .wellInterval op units fault => Sys2Proof.Machine.execWellInterval op units fault s
  | .refresh stack channel bank => Sys2Proof.Machine.execRefresh stack channel bank s
  | .patrolScrub u line bad raced => Sys2Proof.Machine.execPatrolScrub u line bad raced s
  | .channelSpare stack channel => Sys2Proof.Machine.execChannelSpare stack channel s
  | .channelRetire stack channel => Sys2Proof.Machine.execChannelRetire stack channel s
  | .backgroundMove u dest => Sys2Proof.Machine.execBackgroundMove u dest s
  | .demandMove c u stack deadline => Sys2Proof.Machine.execDemandMove c u stack deadline s
  | .moveSwitch e => Sys2Proof.Machine.execMoveSwitch e s
  | .moveSourceRelease m => Sys2Proof.Machine.execMoveSourceRelease m s
  | .deadlineExpiry m => Sys2Proof.Machine.execDeadlineExpiry m s
  | .heatHalfLife => Sys2Proof.Machine.execHeatHalfLife s
  | .autoCompaction handle list => Sys2Proof.Machine.execAutoCompaction handle list s
  | .rangeRelease r => Sys2Proof.Machine.execRangeRelease r s
  | .reClustering handle => Sys2Proof.Machine.execReClustering handle s
  | .relocationNotice n => Sys2Proof.Machine.execRelocationNotice n s
  | .noticeQueueMove handle list dest => Sys2Proof.Machine.execNoticeQueueMove handle list dest s
  | .fold tenant pid dest => Sys2Proof.Machine.execFold tenant pid dest s
  | .garbageCollection tenant pid dest => Sys2Proof.Machine.execGarbageCollection tenant pid dest s
  | .wearLevelling block dest => Sys2Proof.Machine.execWearLevelling block dest s
  | .flashPatrol block r => Sys2Proof.Machine.execFlashPatrol block r s
  | .blockClose block failed => Sys2Proof.Machine.execBlockClose block failed s
  | .programFailure block dest sourceOk parityOk => Sys2Proof.Machine.execProgramFailure block dest sourceOk parityOk s
  | .blockErase block failed => Sys2Proof.Machine.execBlockErase block failed s
  | .openBlockRecovery => Sys2Proof.Machine.execOpenBlockRecovery s
  | .poolFail n => Sys2Proof.Machine.execPoolFail n s
  | .registerWrite c => Sys2Proof.Machine.execRegisterWrite c s
  | .plcCtrlHubtier w => Sys2Proof.Machine.execPlcCtrlHubtier w s
  | .tenCtrlErase w salt => Sys2Proof.Machine.execTenCtrlErase w salt s
  | .evtPtrRd w => Sys2Proof.Machine.execEvtPtrRd w s
  | .gateCtrlGo w networkTime => Sys2Proof.Machine.execGateCtrlGo w networkTime s
  | .lcsRollFw w => Sys2Proof.Machine.execLcsRollFw w s
  | .lcsRollVarelm w => Sys2Proof.Machine.execLcsRollVarelm w s
  | .sysRstCold w => Sys2Proof.Machine.execSysRstCold w s
  | .sysRstWarm w => Sys2Proof.Machine.execSysRstWarm w s
  | .pwrCtrlDormant w => Sys2Proof.Machine.execPwrCtrlDormant w s
  | .pwrCtrlWake w => Sys2Proof.Machine.execPwrCtrlWake w s
  | .mctpRegisterRead offset size => Sys2Proof.Machine.execMctpRegisterRead offset size s
  | .mctpRegisterWrite offset size value => Sys2Proof.Machine.execMctpRegisterWrite offset size value s
  | .attestationReport src nonce => Sys2Proof.Machine.execAttestationReport src nonce s
  | .certificateChain src => Sys2Proof.Machine.execCertificateChain src s
  | .lifeCycleChange src target token => Sys2Proof.Machine.execLifeCycleChange src target token s
  | .recoveryImage piece => Sys2Proof.Machine.execRecoveryImage piece s
  | .powerOn => Sys2Proof.Machine.execPowerOn s
  | .resetInput => Sys2Proof.Machine.execResetInput s
  | .pcieReset => Sys2Proof.Machine.execPcieReset s
  | .powerLoss => Sys2Proof.Machine.execPowerLoss s
  | .startUp info => Sys2Proof.Machine.execStartUp info s
  | .secureCisternWipe cause => Sys2Proof.Machine.execSecureCisternWipe cause s
  | .wipeComplete bad => Sys2Proof.Machine.execWipeComplete bad s
  | .tamper bit => Sys2Proof.Machine.execTamper bit s
  | .lockstepMismatch e inst mcState => Sys2Proof.Machine.execLockstepMismatch e inst mcState s
  | .clusterSelfTest phys pass => Sys2Proof.Machine.execClusterSelfTest phys pass s
  | .flitCrcError link => Sys2Proof.Machine.execFlitCrcError link s
  | .linkRetrain link lanes carried => Sys2Proof.Machine.execLinkRetrain link lanes carried s
  | .clockFault clock domain => Sys2Proof.Machine.execClockFault clock domain s
  | .supplyFault rail mv domain => Sys2Proof.Machine.execSupplyFault rail mv domain s
  | .watchdog e inst => Sys2Proof.Machine.execWatchdog e inst s
  | .temperatureSample temps => Sys2Proof.Machine.execTemperatureSample temps s
  | .throttleAdjust => Sys2Proof.Machine.execThrottleAdjust s
  | .powerWindow watts => Sys2Proof.Machine.execPowerWindow watts s
  | .clusterPowerGate l => Sys2Proof.Machine.execClusterPowerGate l s
  | .idleEntry => Sys2Proof.Machine.execIdleEntry s
  | .idleExit => Sys2Proof.Machine.execIdleExit s
  | .timeWindow => Sys2Proof.Machine.execTimeWindow s
  | .class0Window cycles fits => Sys2Proof.Machine.execClass0Window cycles fits s
  | .class0WaitBound w => Sys2Proof.Machine.execClass0WaitBound w s
  | .queueSample => Sys2Proof.Machine.execQueueSample s
  | .observationPeriodEnd => Sys2Proof.Machine.execObservationPeriodEnd s
  | .gateEntryExpiry l => Sys2Proof.Machine.execGateEntryExpiry l s
  | .gateCycleStart l => Sys2Proof.Machine.execGateCycleStart l s
  | .packetTransmit l => Sys2Proof.Machine.execPacketTransmit l s
  | .frameReceive port kind p => Sys2Proof.Machine.execFrameReceive port kind p s
  | .syncMessage valid offset => Sys2Proof.Machine.execSyncMessage valid offset s
  | .syncTimeout => Sys2Proof.Machine.execSyncTimeout s
  | .data msg src => Sys2Proof.Machine.execData msg src s
  | .sack peer cls held ce => Sys2Proof.Machine.execSack peer cls held ce s
  | .sackTimer peer cls => Sys2Proof.Machine.execSackTimer peer cls s
  | .retransmitTimeout peer cls psn => Sys2Proof.Machine.execRetransmitTimeout peer cls psn s
  | .windowRecovery peer => Sys2Proof.Machine.execWindowRecovery peer s
  | .query q => Sys2Proof.Machine.execQuery q s
  | .partialMsg p => Sys2Proof.Machine.execPartialMsg p s
  | .update uid src epoch tenant coll items => Sys2Proof.Machine.execUpdate uid src epoch tenant coll items s
  | .map src epoch nodes shards deputy => Sys2Proof.Machine.execMap src epoch nodes shards deputy s
  | .heartbeat src => Sys2Proof.Machine.execHeartbeat src s
  | .heartbeatSend => Sys2Proof.Machine.execHeartbeatSend s
  | .heartbeatTimeout => Sys2Proof.Machine.execHeartbeatTimeout s
  | .join src => Sys2Proof.Machine.execJoin src s
  | .joinRepeat => Sys2Proof.Machine.execJoinRepeat s
  | .workerTimeout node => Sys2Proof.Machine.execWorkerTimeout node s
  | .nodeLost node assign => Sys2Proof.Machine.execNodeLost node assign s
  | .bucketRebuilt coll bucket node => Sys2Proof.Machine.execBucketRebuilt coll bucket node s
  | .reshard coll bucket node => Sys2Proof.Machine.execReshard coll bucket node s
  | .bucketRelease coll bucket => Sys2Proof.Machine.execBucketRelease coll bucket s
  | .dormantEntryComplete => Sys2Proof.Machine.execDormantEntryComplete s
  | .bucketCopyComplete coll bucket => Sys2Proof.Machine.execBucketCopyComplete coll bucket s
  | .mapAcknowledgement node epoch => Sys2Proof.Machine.execMapAcknowledgement node epoch s
  | .updateReport uid node status => Sys2Proof.Machine.execUpdateReport uid node status s
  | .staleEpochReturn qid node nodeEpoch => Sys2Proof.Machine.execStaleEpochReturn qid node nodeEpoch s
  | .idBlockAcknowledgement coll block => Sys2Proof.Machine.execIdBlockAcknowledgement coll block s
  | .portLinkChange port half up => Sys2Proof.Machine.execPortLinkChange port half up s
  | .testModeEntry entered => Sys2Proof.Machine.execTestModeEntry entered s
  | .ideKmKeySet stream key => Sys2Proof.Machine.execIdeKmKeySet stream key s
  | .atsInvalidation fn base len present => Sys2Proof.Machine.execAtsInvalidation fn base len present s
  | .dieTemperatureReading temps => Sys2Proof.Machine.execDieTemperatureReading temps s

end Sys2Proof.Machine
end

