-- ==== Sys2Proof/Machine/Step.lean ====
section
/-! DEFINITION. One step of the block: the command at the front of the queue, or an idle step. -/
namespace Sys2Proof.Machine

/-- One step. With an empty queue the block idles for one cycle of the 1.25 GHz clock, 800 ps (DESIGN CHOICE, assumption 3). -/
def step (s : State) : Host.Outcome State Fault Refusal :=
  match s.pending with
  | [] => .next { s with clock := s.clock + 800 }
  | c :: r => exec c { s with pending := r }

/-- The state with the command that a table word spells at the front of its queue. No row of the table gives bits, so no word
spells one and the state is unchanged. -/
def State.withFetchWord (s : State) (nbits w : Nat) : State :=
  match Sys2Proof.decodeTableWord nbits w with
  | none => s
  | some c => { s with pending := c :: s.pending }

end Sys2Proof.Machine
end

