-- ==== Sys2Proof/Safety.lean ====
section
/-! DEFINITION. The terms in which statements about the block are written: what a step completes with, what it leaves unchanged,
and what a safe run is. -/
namespace Sys2Proof.Machine

/-- A command completes with the next state `t`. -/
def Gives (i : Instr) (s t : State) : Prop := exec i s = .next t

/-- A run of `n` steps that meets no fault and no refusal. -/
def Safe : Nat → State → Prop
  | 0, _ => True
  | n + 1, s => ∃ t, step s = .next t ∧ Safe n t

/-! ## Memory in one canonical form -/

/-- Keys rise and no listed byte is zero, in host memory, stack memory and the cisterns. -/
def MemCanonical (s : State) : Prop := s.dev.wf = true ∧ s.cis.wf = true ∧ s.out.hostMem.wf = true

/-- Every byte of host memory, of stack memory and of the cisterns reads as before. -/
def SameBytes (s s' : State) : Prop :=
  ∀ a, s'.dev.rd a = s.dev.rd a ∧ s'.cis.rd a = s.cis.rd a ∧ s'.out.hostMem.rd a = s.out.hostMem.rd a

/-! ## Threads -/

def State.member? (s : State) (f m : Nat) : Option Member := (s.frag? f).bind fun x => x.members[m]?
def State.thread? (s : State) (t : Tid) : Option Thread := (s.member? t.frag t.mem).bind fun m => m.threads[t.idx]?

/-- Thread `t` is at an instruction word with this opcode, and may take it. -/
abbrev At (s : State) (t : Tid) (opc : Nat) (c : Ictx) : Prop := s.insn t = some c ∧ wOpc c.w = opc

/-- A fragment but for its members, and a member but for its threads. -/
def Frag.bare (f : Frag) : Frag := { f with members := [] }
def Member.bare (m : Member) : Member := { m with threads := [] }

/-- Of the fragments only thread `t` has changed. -/
structure OnlyThreadOf (s s' : State) (t : Tid) (th' : Thread) : Prop where
  self : s'.thread? t = some th'
  others : ∀ u, u ≠ t → s'.thread? u = s.thread? u
  members : ∀ f m, (s'.member? f m).map Member.bare = (s.member? f m).map Member.bare
  frags : ∀ f, (s'.frag? f).map Frag.bare = (s.frag? f).map Frag.bare

/-- Thread `t` has become `th'`, and nothing else in the machine has changed: no other thread, register, memory byte, queue or
object. -/
structure OnlyThread (s s' : State) (t : Tid) (th' : Thread) : Prop where
  thread : OnlyThreadOf s s' t th'
  bytes : SameBytes s s'
  rest : { s' with frags := s.frags } = s

/-- The registers of a thread after it has written `v` to general register `d` and gone on with the next word: g0 still reads
zero, and every other register reads as before. -/
structure WroteG (th th' : Thread) (d : Nat) (v : Word) : Prop where
  g : ∀ n, th'.rg n = if n = 0 then 0 else if n = d then v else th.rg n
  v : ∀ n, th'.rv n = th.rv n
  m : ∀ n, th'.rm n = th.rm n
  pc : th'.pc = th.pc + 8
  st : th'.st = .ready

/-- As `WroteG`, for vector register `d`. -/
structure WroteV (th th' : Thread) (d : Nat) (x : BitVec 1024) : Prop where
  g : ∀ n, th'.rg n = th.rg n
  v : ∀ n, th'.rv n = if n = d then x else th.rv n
  m : ∀ n, th'.rm n = th.rm n
  pc : th'.pc = th.pc + 8
  st : th'.st = .ready

/-- As `WroteG`, for mask register `d`. -/
structure WroteM (th th' : Thread) (d : Nat) (x : BitVec 128) : Prop where
  g : ∀ n, th'.rg n = th.rg n
  v : ∀ n, th'.rv n = th.rv n
  m : ∀ n, th'.rm n = if n = d then x else th.rm n
  pc : th'.pc = th.pc + 8
  st : th'.st = .ready

/-- The second operand of a scalar instruction (R347, R348): gB, or the 36-bit immediate sign-extended. -/
def operandB (c : Ictx) : Word :=
  if wX c.w = 1 then (BitVec.ofNat 36 c.w).signExtend 64 else c.th.rg (wB c.w)

/-- The word uses no field that its format does not give it (R340). -/
abbrev aluWord (w : Nat) : Prop :=
  wTy w = 0 ∧ wMk w = 0 ∧ (wX w = 0 → wC w = 0 ∧ wSub w = 0)

/-- The thread's command is one of a queue and admitted, without an argument copy, of a tenant that exists. -/
structure Raisable (s : State) (c : Ictx) : Prop where
  tenant : c.frag.tenant < 256
  command : ∃ x, s.cmd? c.frag.cmd = some x ∧ x.phase = .admitted ∧ x.parent = none ∧ x.argBase = 0

/-- The thread has raised an exception that is not "unsealed output" (R308, R378, R379, R382): the record stands in the tenant's
registers where they held none, the command has ended with `ST_PROGRAM_FAULT`, its fragments are gone, and no byte of memory changed. -/
structure Raised (s s' : State) (c : Ictx) (t : Tid) (code addr detail : Nat) : Prop where
  command : ∃ x, s'.cmd? c.frag.cmd = some x ∧ x.phase = .ended ∧ x.status = 0x0302
  fragments : ∀ f ∈ s'.frags, f.cmd ≠ c.frag.cmd
  bytes : SameBytes s s'
  record : s.fld (oTenExc c.frag.tenant 2) 0 0 = 0 →
    s'.word (oTenExc c.frag.tenant 0) = BitVec.ofNat 64 addr ∧ s'.word (oTenExc c.frag.tenant 1) = BitVec.ofNat 64 c.w ∧
    s'.fld (oTenExc c.frag.tenant 2) 63 32 = c.th.pc % 2 ^ 32 ∧ s'.fld (oTenExc c.frag.tenant 2) 31 24 = code ∧
    s'.fld (oTenExc c.frag.tenant 2) 23 15 = c.mem.cluster % 512 ∧ s'.fld (oTenExc c.frag.tenant 2) 14 9 = t.idx % 64 ∧
    s'.fld (oTenExc c.frag.tenant 2) 0 0 = 1 ∧ s'.fld (oTenExc c.frag.tenant 3) 31 0 = detail
  kept : s.fld (oTenExc c.frag.tenant 2) 0 0 = 1 → ∀ i, i < 4 → s'.word (oTenExc c.frag.tenant i) = s.word (oTenExc c.frag.tenant i)

/-- OPC, row and result of the two-operand scalar instructions (R347, R348), divisions apart. -/
def aluRows : List (Nat × (Tid → Instr) × (Word → Word → Word)) :=
  [(0x01, .add, fun a b => a + b), (0x02, .sub, fun a b => a - b), (0x03, .mul, fun a b => a * b),
   (0x04, .mulh, fun a b => BitVec.ofInt 64 (a.toInt * b.toInt / 2 ^ 64)),
   (0x05, .mulhu, fun a b => BitVec.ofNat 64 (a.toNat * b.toNat / 2 ^ 64)),
   (0x0A, .and, fun a b => a &&& b), (0x0B, .or, fun a b => a ||| b), (0x0C, .xor, fun a b => a ^^^ b),
   (0x0D, .shl, fun a b => a <<< (b &&& 63#64).toNat), (0x0E, .shr, fun a b => a >>> (b &&& 63#64).toNat),
   (0x0F, .sra, fun a b => a.sshiftRight (b &&& 63#64).toNat),
   (0x10, .slt, fun a b => if a.toInt < b.toInt then 1 else 0), (0x11, .sltu, fun a b => if a.toNat < b.toNat then 1 else 0),
   (0x12, .min, fun a b => if a.toInt ≤ b.toInt then a else b), (0x13, .max, fun a b => if a.toInt ≤ b.toInt then b else a),
   (0x14, .minu, fun a b => if a.toNat ≤ b.toNat then a else b), (0x15, .maxu, fun a b => if a.toNat ≤ b.toNat then b else a)]

/-- OPC, row and result of the divisions (R348). -/
def divRows : List (Nat × (Tid → Instr) × (Word → Word → Word)) :=
  [(0x06, .div, fun a b => if b = 0 then -1#64 else if a = BitVec.intMin 64 ∧ b = -1#64 then a else BitVec.ofInt 64 (a.toInt.tdiv b.toInt)),
   (0x07, .divu, fun a b => if b = 0 then -1#64 else BitVec.ofNat 64 (a.toNat / b.toNat)),
   (0x08, .rem, fun a b => if b = 0 then a else if a = BitVec.intMin 64 ∧ b = -1#64 then 0
      else BitVec.ofInt 64 (a.toInt - a.toInt.tdiv b.toInt * b.toInt)),
   (0x09, .remu, fun a b => if b = 0 then a else BitVec.ofNat 64 (a.toNat % b.toNat))]

/-- OPC, row and condition of the branches (R349). -/
def branchRows : List (Nat × (Tid → Instr) × (Word → Word → Prop)) :=
  [(0x20, .beq, fun a b => a = b), (0x21, .bne, fun a b => a ≠ b), (0x22, .blt, fun a b => a.toInt < b.toInt),
   (0x23, .bge, fun a b => b.toInt ≤ a.toInt), (0x24, .bltu, fun a b => a.toNat < b.toNat), (0x25, .bgeu, fun a b => b.toNat ≤ a.toNat)]

/-- Lane `i` of the result of a masked vector instruction (R344): the new value where the lane is active, else zero with X = 1 and
the old lane with X = 0. -/
def maskedLane (c : Ictx) (w i new : Nat) : Nat :=
  if wMk c.w = 0 ∨ (c.th.rm (wMk c.w)).getLsbD i = true then new % 2 ^ w
  else if wX c.w = 1 then 0 else lane1 w (c.th.rv (wD c.w)) i

/-- An instruction has written vector register `d` with these lanes of width `w`, and FLAGS at most FPINV besides. -/
structure WroteLanes (s s' : State) (t : Tid) (th : Thread) (d w : Nat) (lane : Nat → Nat) (fp : Bool) : Prop where
  state : ∃ th' x, OnlyThreadOf s s' t th' ∧ SameBytes s s' ∧ { s' with frags := s.frags, free := s.free } = s ∧ WroteV th th' d x ∧
    (∀ i, i < 1024 / w → lane1 w x i = lane i) ∧ (th'.flags = th.flags ∨ fp = true ∧ th'.flags = th.flags ||| 8#64)

/-- OPC, row and lane result of the lane-by-lane instructions with two sources (R358 to R360): `ty` is TY, `a` and `b` the lanes. -/
def vecRows : List (Nat × (Tid → Instr) × (Nat → Nat → Nat → Nat)) :=
  [(0x40, .vadd, fun ty a b => if tyFloat ty then (tyFmt ty).add a b else a + b),
   (0x41, .vsub, fun ty a b => if tyFloat ty then (tyFmt ty).sub a b else a + (2 ^ tyWidth ty - b)),
   (0x42, .vmul, fun ty a b => if tyFloat ty then (tyFmt ty).mul a b else a * b),
   (0x44, .vmin, fun ty a b => if tyFloat ty then (tyFmt ty).minMax false a b else if laneInt ty a ≤ laneInt ty b then a else b),
   (0x45, .vmax, fun ty a b => if tyFloat ty then (tyFmt ty).minMax true a b else if laneInt ty a ≤ laneInt ty b then b else a),
   (0x46, .vand, fun _ a b => a &&& b), (0x47, .vor, fun _ a b => a ||| b), (0x48, .vxor, fun _ a b => a ^^^ b),
   (0x49, .vshl, fun ty a b => a <<< (b % tyWidth ty)), (0x4A, .vshr, fun ty a b => a >>> (b % tyWidth ty)),
   (0x4B, .vsra, fun ty a b => ((BitVec.ofNat (tyWidth ty) a).sshiftRight (b % tyWidth ty)).toNat)]

/-- OPC, row and result of the two-source mask instructions (R358). -/
def maskRows : List (Nat × (Tid → Instr) × (BitVec 128 → BitVec 128 → BitVec 128)) :=
  [(0x58, .mand, fun a b => a &&& b), (0x59, .mor, fun a b => a ||| b), (0x5A, .mxor, fun a b => a ^^^ b)]

/-- Element `i` of accumulator tile `n` of a thread's fragment and member. -/
def tileElem (s : State) (t : Tid) (n i : Nat) : F32 :=
  ((s.member? t.frag t.mem).map fun m => Map.getD (Map.getD m.tiles n ⟨false, []⟩).elems i (0 : F32)).getD 0

/-- Nothing but thread `t`, its fragment and its cluster's units has changed. -/
def OnlyFragAnd (s s' : State) (t : Tid) : Prop :=
  { s' with frags := s.frags, clusters := s.clusters } = s ∧ (∀ f, f ≠ t.frag → s'.frag? f = s.frag? f)

/-- Reading `n` bytes at `a` as a unit of the cluster gives `bs` and leaves state `s1` (R92). -/
def Reads (c : Ictx) (s : State) (a n : Nat) (s1 : State) (bs : List Byte) : Prop := ∀ k, c.readVia s a n k = k s1 bs

/-- Writing `bs` at `a` as a unit of the cluster leaves state `s1` (R92). -/
def Writes (c : Ictx) (s : State) (a : Nat) (bs : List Byte) (s1 : State) : Prop := ∀ k, c.writeVia s a bs k = k s1

/-- A scan keeps an entry of the cistern: the filter passes and its u8 table sum is at most THRESH (R369). -/
def scanKeeps (d : ScanDesc) (table : List Byte) (terms : List Nat) (e : List Byte) : Bool :=
  passes terms d.any (entryAttr e d.sub d.attrb) && decide (sumU8 d.sub table e ≤ d.thresh)

/-- Every entry of a tenant's range table covers whole granules (R169). -/
def RangesAligned (s : State) : Prop := ∀ r ∈ s.ranges, r.base % 4096 = 0 ∧ r.len % 4096 = 0

/-- Code bytes of the program that a fragment's threads run. -/
def imageSize (s : State) (c : Ictx) : Nat := (s.code c.frag.prog).length

/-! ## Commands of the host -/

/-- Command `x` of a queue, numbered `c`, does its work now: it is admitted and nothing that it waits for is in flight. -/
structure Runs (s : State) (c : Nat) (x : Cmd) : Prop where
  found : s.cmd? c = some x
  queued : x.parent = none
  ready : s.running c (fun _ => true) = true

/-- Command `c` has ended, and these are the fields of its final entry (R459, R460). -/
def Answered (s' : State) (c status count value bp : Nat) : Prop :=
  ∃ y, s'.cmd? c = some y ∧ y.phase = .ended ∧ y.status = status ∧ y.count = count ∧ y.value = value ∧ y.finalBp = bp

/-- A `vr.insert` that has written a vector and not yet committed it to every list (R63, R64). -/
def Cmd.midCommit (x : Cmd) : Bool := match x.work with
  | .insert _ _ (some _) => true
  | _ => false

/-- The command is a `vr.generate`: a failed write of its stream turns its status into `ST_BAD_ADDRESS` (R287). -/
def Cmd.maybeGen (x : Cmd) : Bool := x.vr == 0x131 || match x.work with
  | .generate _ => true
  | _ => false

/-- Command `c` has ended so, its fragments are gone (R306, R310), and beside what the end of a command touches nothing has changed. -/
structure EndsWith (s s' : State) (c : Nat) (x : Cmd) (status count value bp : Nat) : Prop where
  entry : Answered s' c status count value bp
  others : ∀ d z, d ≠ c → s.cmd? d = some z → z.parent = none → s'.cmd? d = some z
  frags : s'.frags = s.frags.filter fun f => f.cmd != c
  noArgs : x.argBase = 0 → s'.dev = s.dev ∧ s'.allocs = s.allocs
  colls : x.midCommit = false → s'.colls = s.colls
  rest : { s' with cmds := s.cmds, frags := s.frags, sched := s.sched, wells := s.wells, allocs := s.allocs, dev := s.dev,
                   pslot := s.pslot, colls := s.colls } = s

/-- Command `c` is still at work, at this position. -/
def AtWork (s' : State) (c : Nat) (work : Work) : Prop := ∃ y, s'.cmd? c = some y ∧ y.phase = .admitted ∧ y.work = work

/-- `n` bytes of a function's host memory. -/
def State.hostBytes (s : State) (fn a n : Nat) : List Byte := s.out.hostMem.rdN (hostKey fn a) n

/-- `n` bytes at an address of a function in the space that a space bit selects (R35). -/
def State.spaceBytes (s : State) (fn : Nat) (dev : Bool) (a n : Nat) : List Byte := if dev then s.devRd fn a n else s.hostBytes fn a n

/-- A write of `n` bytes there succeeds. -/
def State.canWrite (s : State) (fn : Nat) (dev : Bool) (a n : Nat) : Bool := if dev then s.devWritable fn a n else !s.hostRefused fn a n

/-- The 32-byte parameter block of an ADMIN action is readable, with no poisoned line, and uses these fields alone. -/
structure Param (s : State) (x : Cmd) (fields : List (Nat × Nat)) (b : List Byte) : Prop where
  addr : addrOk x.adminDev (x.u 0x18 8) = true
  read : s.spaceRd x.fn x.adminDev (x.u 0x18 8) 32 = some b
  sound : x.adminDev = true → s.poisoned x.fn (x.u 0x18 8) 32 = false
  clean : cleanBut b fields = true

/-- One event record has been written: its words at the ring's WR (R629), the sequence number and the pointer one further. -/
structure Logged (s s' : State) (code tenant : Nat) (data : List Nat) : Prop where
  words : ∃ nt time, ∀ i, i < 8 → s'.word (oEvtRing (s.fld oEvtPtr 24 16) + 8 * i) =
    BitVec.ofNat 64 ((eventWords code tenant nt (s.evtSeq + 1) time data).getD i 0)
  seq : s'.evtSeq = s.evtSeq + 1
  wr : s'.fld oEvtPtr 24 16 = (s.fld oEvtPtr 24 16 + 1) % 512

/-- A whole write of an 8-byte register by the board controller. -/
def bmcWrite (o : Nat) (v : Word) : RegWrite := { master := .bmc, bar := 0, offset := o, size := 8, value := v }

/-- What a reset of the whole device leaves empty (R647, R648). -/
structure Emptied (s' : State) : Prop where
  cmds : s'.cmds = []
  frags : s'.frags = []
  queues : s'.hq = []
  slots : s'.pslot = []
  moves : s'.moves = []
  wells : s'.wells = []
  cisterns : s'.cis = []
  state : s'.fld oPwrState 1 0 = 3
  notReady : s'.fld oPwrState 2 2 = 0

/-- Every valid record of a block has a valid copy in `dest`. -/
def CopiedTo (s' : State) (b : Block) (dest : Nat) : Prop :=
  ∃ d, s'.block? dest = some d ∧ ∀ r ∈ b.recs, r.valid = true →
    ∃ x ∈ d.recs, x.tenant = r.tenant ∧ x.coll = r.coll ∧ x.lid = r.lid ∧ x.bytes = r.bytes ∧ x.valid = true

/-- A block has been relocated (R422): its valid records lie in `dest` too, and a one-bit destination has their notices posted. -/
structure Relocated (s s' : State) (b : Block) (dest : Nat) (oneBit : Bool) : Prop where
  source : ∃ b', s'.block? b.id = some b' ∧ b'.target = some dest ∧ b'.st = if oneBit then .pending else .victim
  copies : CopiedTo s' b dest
  notices : oneBit = true → ∀ r ∈ b.recs, r.valid = true →
    ∃ n ∈ s'.flash.notices, n.old = r.loc ∧ n.lid = r.lid ∧ n.coll = r.coll ∧ n.tenant = r.tenant ∧ n.block = b.id ∧ n.queued = false
  bytes : SameBytes s s'

/-- A counter field that stops at its largest value has gone up by one. -/
def Counted (s s' : State) (o hi lo : Nat) : Prop := s'.fld o hi lo = Nat.min (s.fld o hi lo + 1) (2 ^ (hi + 1 - lo) - 1)

/-- A counter field that wraps has gone up by one. -/
def CountedUp (s s' : State) (o hi lo : Nat) : Prop := s'.fld o hi lo = (s.fld o hi lo + 1) % 2 ^ (hi + 1 - lo)

end Sys2Proof.Machine
end

