-- ==== Sys2Proof/Certificates/Slice0/Obligations.lean ====
section
/-! DEFINITION. The statements for the provers, from the numbered rules of the spec. -/
open Sys2Proof Sys2Proof.Machine

/-! ## Scalar instructions -/

/-- R348 (with R340, R345): every scalar instruction writes its result of gA and b to gD, goes on with the next word, and changes nothing
else; a division sets the sticky DIVZ exactly when b is zero; `srd` reads a special register (CYCLE is a free value, log 8), and `swr` (whose operands log 9 places) clears the
FLAGS bits that are 1 in gA. A word with an unused field set raises the illegal-instruction exception. -/
def Obligations.ScalarInstructions : Prop :=
  (∀ row ∈ aluRows, ∀ s t c, At s t row.1 c → aluWord c.w →
    ∃ s' th', exec (row.2.1 t) s = .next s' ∧ OnlyThread s s' t th' ∧ th'.flags = c.th.flags ∧
      WroteG c.th th' (wD c.w) (row.2.2 (c.th.rg (wA c.w)) (operandB c))) ∧
  (∀ row ∈ divRows, ∀ s t c, At s t row.1 c → aluWord c.w →
    ∃ s' th', exec (row.2.1 t) s = .next s' ∧ OnlyThread s s' t th' ∧
      WroteG c.th th' (wD c.w) (row.2.2 (c.th.rg (wA c.w)) (operandB c)) ∧
      th'.flags = if operandB c = 0 then c.th.flags ||| 1#64 else c.th.flags) ∧
  (∀ row ∈ aluRows ++ divRows, ∀ s t c, At s t row.1 c → ¬ aluWord c.w → Raisable s c →
    ∃ s', exec (row.2.1 t) s = .next s' ∧ Raised s s' c t 0x01 0 0) ∧
  (∀ s t c, wTy c.w = 0 → wMk c.w = 0 → wX c.w = 0 →
    (At s t 0x16 c → wB c.w = 0 → wC c.w = 0 → wSub c.w = 0 →
      ∃ s' th' v, exec (.clz t) s = .next s' ∧ OnlyThread s s' t th' ∧ th'.flags = c.th.flags ∧ WroteG c.th th' (wD c.w) v ∧
        v.toNat ≤ 64 ∧ (∀ i, i < v.toNat → (c.th.rg (wA c.w)).getMsbD i = false) ∧
        (v.toNat < 64 → (c.th.rg (wA c.w)).getMsbD v.toNat = true)) ∧
    (At s t 0x17 c → wB c.w = 0 → wC c.w = 0 → wSub c.w = 0 →
      ∃ s' th', exec (.popc t) s = .next s' ∧ OnlyThread s s' t th' ∧ th'.flags = c.th.flags ∧
        WroteG c.th th' (wD c.w) (BitVec.ofNat 64 ((List.range 64).filter (c.th.rg (wA c.w)).getLsbD).length)) ∧
    (At s t 0x18 c → wSub c.w = 0 →
      ∃ s' th', exec (.sel t) s = .next s' ∧ OnlyThread s s' t th' ∧ th'.flags = c.th.flags ∧
        WroteG c.th th' (wD c.w) (if c.th.rg (wC c.w) ≠ 0 then c.th.rg (wA c.w) else c.th.rg (wB c.w))) ∧
    (At s t 0x19 c →
      ∃ s' th', exec (.li t) s = .next s' ∧ OnlyThread s s' t th' ∧ th'.flags = c.th.flags ∧
        WroteG c.th th' (wD c.w) ((BitVec.ofNat 42 c.w).signExtend 64)) ∧
    (At s t 0x1A c → field c.w 41 22 = 0 →
      ∃ s' th', exec (.lhi t) s = .next s' ∧ OnlyThread s s' t th' ∧ th'.flags = c.th.flags ∧
        WroteG c.th th' (wD c.w) (BitVec.ofNat 22 c.w ++ BitVec.setWidth 42 (c.th.rg (wD c.w))))) ∧
  (∀ s t c, wTy c.w = 0 → wMk c.w = 0 → wX c.w = 0 → field c.w 35 0 = 0 →
    (At s t 0x1B c → wA c.w ≤ 3 →
      ∃ s' th' v, exec (.srd t) s = .next s' ∧ OnlyThreadOf s s' t th' ∧ { s' with frags := s.frags, free := s.free } = s ∧
        th'.flags = c.th.flags ∧ WroteG c.th th' (wD c.w) v ∧ (wA c.w = 0 → v = c.th.flags) ∧
        (wA c.w = 2 → v = BitVec.ofNat 64 (c.frag.tenant * 2 ^ 11 + c.frag.cls * 2 ^ 9 + c.mem.cluster)) ∧
        (wA c.w = 3 → v = BitVec.ofNat 64 (c.frag.logs.length * 2 ^ 8 + c.frag.posts.length))) ∧
    (At s t 0x1C c → wD c.w ≤ 3 →
      ∃ s' th', exec (.swr t) s = .next s' ∧ OnlyThread s s' t th' ∧ WroteG c.th th' 0 0 ∧
        ∀ i, i < 64 → th'.flags.getLsbD i =
          (c.th.flags.getLsbD i && !(decide (wD c.w = 0 ∧ i < 5) && (c.th.rg (wA c.w)).getLsbD i))))

/-- R349: a taken branch, `jal` and `jalr` go to their target when it is a multiple of 8 inside the program image, and raise the alignment or the
translation exception else; a branch not taken goes on with the next word; `jal` and `jalr` write PC + 8 to gD, and `jalr` forms its
target from the old gA. Nothing else changes. -/
def Obligations.BranchesAndJumps : Prop :=
  (∀ row ∈ branchRows, ∀ s t c, At s t row.1 c → wTy c.w = 0 → wMk c.w = 0 → wX c.w = 0 → wD c.w = 0 →
    (¬ row.2.2 (c.th.rg (wA c.w)) (c.th.rg (wB c.w)) →
      ∃ s', exec (row.2.1 t) s = .next s' ∧ OnlyThread s s' t { c.th with st := .ready, pc := c.th.pc + 8 }) ∧
    (∀ target : Nat, row.2.2 (c.th.rg (wA c.w)) (c.th.rg (wB c.w)) → target < 2 ^ 64 →
      ((c.th.pc : Int) + 8 * (BitVec.ofNat 30 c.w).toInt - target) % 2 ^ 64 = 0 →
      (target % 8 = 0 → target < imageSize s c →
        ∃ s', exec (row.2.1 t) s = .next s' ∧ OnlyThread s s' t { c.th with st := .ready, pc := target }) ∧
      (target % 8 ≠ 0 → Raisable s c → ∃ s', exec (row.2.1 t) s = .next s' ∧ Raised s s' c t 0x03 target 0) ∧
      (target % 8 = 0 → imageSize s c ≤ target → Raisable s c → ∃ s', exec (row.2.1 t) s = .next s' ∧ Raised s s' c t 0x04 target 0))) ∧
  (∀ s t c i (target : Nat), wTy c.w = 0 → wMk c.w = 0 → wX c.w = 0 → target < 2 ^ 64 →
    (At s t 0x26 c ∧ i = Instr.jal t ∧ ((c.th.pc : Int) + 8 * (BitVec.ofNat 42 c.w).toInt - target) % 2 ^ 64 = 0 ∨
      At s t 0x27 c ∧ i = Instr.jalr t ∧ target = (c.th.rg (wA c.w) + (BitVec.ofNat 36 c.w).signExtend 64).toNat) →
    (target % 8 = 0 → target < imageSize s c →
      ∃ s' th', exec i s = .next s' ∧ OnlyThread s s' t th' ∧ th'.flags = c.th.flags ∧ th'.pc = target ∧
        WroteG c.th { th' with pc := c.th.pc + 8 } (wD c.w) (BitVec.ofNat 64 (c.th.pc + 8))) ∧
    (target % 8 ≠ 0 → Raisable s c → ∃ s', exec i s = .next s' ∧ Raised s s' c t 0x03 target 0) ∧
    (target % 8 = 0 → imageSize s c ≤ target → Raisable s c → ∃ s', exec i s = .next s' ∧ Raised s s' c t 0x04 target 0))

/-- R350 (with R308, R378, R379, R382): `trap` raises exception 0x0B with the code of IMM 15:0 as DETAIL, and a `trap` with a bit of IMM 35:16 set the
illegal-instruction exception. -/
def Obligations.TrapException : Prop :=
  ∀ s t c, At s t 0x2F c → wTy c.w = 0 → wMk c.w = 0 → wX c.w = 0 → wD c.w = 0 → wA c.w = 0 → Raisable s c →
    ∃ s', exec (.trap t) s = .next s' ∧
      (field c.w 35 16 = 0 → Raised s s' c t 0x0B 0 (field c.w 15 0)) ∧ (field c.w 35 16 ≠ 0 → Raised s s' c t 0x01 0 0)

/-! ## Memory instructions -/

/-- R352 to R355 with X = 1: a load from the fragment's cistern area puts the bytes at the offset, extended as TY says, into gD or
the 128 bytes into vD; a store writes exactly its bytes (for `vst` under a mask those of active lanes) and leaves every other byte of
every memory as it was. -/
def Obligations.CisternLoadStore : Prop :=
  ∀ s t c, wX c.w = 1 → s.cis.wf = true →
    (At s t 0x30 c → 2 ≤ wTy c.w → wTy c.w ≤ 9 → wMk c.w = 0 → wB c.w = 0 → c.cisOff % (tyWidth (wTy c.w) / 8) = 0 →
      c.cisOff + tyWidth (wTy c.w) / 8 ≤ c.frag.cis * 65536 →
      ∃ s' th', exec (.ld t) s = .next s' ∧ OnlyThread s s' t th' ∧ th'.flags = c.th.flags ∧
        WroteG c.th th' (wD c.w)
          (if wTy c.w ≤ 5 then (BitVec.ofNat (tyWidth (wTy c.w)) (leNat (c.cisRd s c.cisOff (tyWidth (wTy c.w) / 8)))).signExtend 64
           else BitVec.ofNat 64 (leNat (c.cisRd s c.cisOff (tyWidth (wTy c.w) / 8))))) ∧
    (At s t 0x32 c → wTy c.w = 0 → wMk c.w = 0 → wB c.w = 0 → wD c.w ≤ 31 → c.cisOff % 64 = 0 → c.cisOff + 128 ≤ c.frag.cis * 65536 →
      ∃ s' th', exec (.vld t) s = .next s' ∧ OnlyThread s s' t th' ∧ th'.flags = c.th.flags ∧
        WroteV c.th th' (wD c.w) (BitVec.ofNat 1024 (leNat (c.cisRd s c.cisOff 128)))) ∧
    (At s t 0x31 c → 2 ≤ wTy c.w → wTy c.w ≤ 5 → wMk c.w = 0 → wD c.w = 0 → c.cisOff % (tyWidth (wTy c.w) / 8) = 0 →
      c.cisOff + tyWidth (wTy c.w) / 8 ≤ c.frag.cis * 65536 →
      ∃ s', exec (.st t) s = .next s' ∧ OnlyThreadOf s s' t { c.th with st := .ready, pc := c.th.pc + 8 } ∧
        { s' with frags := s.frags, cis := s.cis } = s ∧
        (∀ a, (a < cisKey c.mem.cluster (c.mem.base + c.cisOff) ∨
            cisKey c.mem.cluster (c.mem.base + c.cisOff) + tyWidth (wTy c.w) / 8 ≤ a) → s'.cis.rd a = s.cis.rd a) ∧
        ∀ i, i < tyWidth (wTy c.w) / 8 →
          s'.cis.rd (cisKey c.mem.cluster (c.mem.base + c.cisOff) + i) = BitVec.ofNat 8 ((c.th.rg (wB c.w)).toNat / 256 ^ i)) ∧
    (At s t 0x33 c → (wMk c.w = 0 → wTy c.w = 0) → (wMk c.w ≠ 0 → 2 ≤ wTy c.w ∧ wTy c.w ≤ 9) → wB c.w = 0 → wD c.w ≤ 31 →
      c.cisOff % 64 = 0 → c.cisOff + 128 ≤ c.frag.cis * 65536 →
      ∃ s', exec (.vst t) s = .next s' ∧ OnlyThreadOf s s' t { c.th with st := .ready, pc := c.th.pc + 8 } ∧
        { s' with frags := s.frags, cis := s.cis } = s ∧
        (∀ a, (a < cisKey c.mem.cluster (c.mem.base + c.cisOff) ∨ cisKey c.mem.cluster (c.mem.base + c.cisOff) + 128 ≤ a) →
          s'.cis.rd a = s.cis.rd a) ∧
        ∀ i, i < 128 → s'.cis.rd (cisKey c.mem.cluster (c.mem.base + c.cisOff) + i) =
          if wMk c.w = 0 ∨ (c.th.rm (wMk c.w)).getLsbD (i * 8 / tyWidth (wTy c.w)) = true then
            BitVec.ofNat 8 ((c.th.rv (wD c.w)).toNat / 256 ^ i)
          else s.cis.rd (cisKey c.mem.cluster (c.mem.base + c.cisOff) + i))

/-- R313, R323, R352 with X = 0: a load of mapped device space with no uncorrectable line reads the line that the cluster's cache holds,
or fills it from stack memory, and changes no byte of memory while the cache has room; a store to the host window inside an output
range is held with the fragment and writes no memory before the commit. -/
def Obligations.DeviceLoadAndHostStore : Prop :=
  ∀ s t c, wX c.w = 0 → wMk c.w = 0 →
    (At s t 0x30 c → 2 ≤ wTy c.w → wTy c.w ≤ 9 → wB c.w = 0 → c.vaddr < 2 ^ 63 → c.vaddr % (tyWidth (wTy c.w) / 8) = 0 →
      s.devMapped c.frag.tenant c.vaddr (tyWidth (wTy c.w) / 8) = true →
      s.badFill c.mem.cluster c.frag.tenant c.vaddr (tyWidth (wTy c.w) / 8) = false →
      ∀ line : List Byte,
      (((s.cluster c.mem.cluster).lines.find? fun x => x.isAt c.frag.tenant (c.vaddr / 64)).map (·.data) = some line ∨
        ((s.cluster c.mem.cluster).lines.find? fun x => x.isAt c.frag.tenant (c.vaddr / 64)) = none ∧
          (s.cluster c.mem.cluster).lines.length < 1024 ∧ line = s.devRd c.frag.tenant (c.vaddr / 64 * 64) 64) →
      ∃ s' th', exec (.ld t) s = .next s' ∧ s'.thread? t = some th' ∧ SameBytes s s' ∧ s'.regs = s.regs ∧
        WroteG c.th th' (wD c.w) (extend (wTy c.w) (leNat ((line.drop (c.vaddr % 64)).take (tyWidth (wTy c.w) / 8))))) ∧
    (At s t 0x31 c → 2 ≤ wTy c.w → wTy c.w ≤ 5 → wD c.w = 0 → 2 ^ 63 ≤ c.vaddr → c.vaddr % (tyWidth (wTy c.w) / 8) = 0 →
      s.hostRefused c.frag.tenant (c.vaddr - 2 ^ 63) (tyWidth (wTy c.w) / 8) = false →
      (∀ i, i < tyWidth (wTy c.w) / 8 → c.mayStore s (c.vaddr + i) = true) →
      c.frag.held.length + tyWidth (wTy c.w) / 8 ≤ 2 ^ 30 →
      ∃ s' f', exec (.st t) s = .next s' ∧ s'.thread? t = some { c.th with st := .ready, pc := c.th.pc + 8 } ∧
        { s' with frags := s.frags } = s ∧ s'.frag? t.frag = some f' ∧
        (∀ i, i < tyWidth (wTy c.w) / 8 →
          (c.vaddr - 2 ^ 63 + i, BitVec.ofNat 8 ((c.th.rg (wB c.w)).toNat / 256 ^ i)) ∈ f'.held) ∧
        ∀ h ∈ c.frag.held, (h.1 < c.vaddr - 2 ^ 63 ∨ c.vaddr - 2 ^ 63 + tyWidth (wTy c.w) / 8 ≤ h.1) → h ∈ f'.held)

/-- R327, R356 with X = 1: `amo.add` and `amo.swap` return the old word in gD (sign-extended for .i32, raw for .f32) and write the sum or
gB in its place; every other byte stays. -/
def Obligations.CisternAtomics : Prop :=
  ∀ s t c n, wX c.w = 1 → wMk c.w = 0 → n = (if wTy c.w = 5 then 8 else 4) → s.cis.wf = true → c.cisOff % n = 0 →
    c.cisOff + n ≤ c.frag.cis * 65536 →
    ∀ old b new, old = leNat (c.cisRd s c.cisOff n) → b = (c.th.rg (wB c.w)).toNat →
    ∀ i, ((i = Instr.amoAdd t ∧ At s t 0x34 c ∧ wTy c.w ∈ [4, 5, 14] ∧ new = if wTy c.w = 14 then fF32.add old (b % 2 ^ 32) else old + b) ∨
        (i = Instr.amoSwap t ∧ At s t 0x35 c ∧ wTy c.w ∈ [4, 5] ∧ new = b)) →
      ∃ s' th', exec i s = .next s' ∧ OnlyThreadOf s s' t th' ∧ { s' with frags := s.frags, cis := s.cis } = s ∧
        WroteG c.th th' (wD c.w) (if wTy c.w = 4 then (BitVec.ofNat 32 old).signExtend 64 else BitVec.ofNat 64 old) ∧
        (wTy c.w ≠ 14 → th'.flags = c.th.flags) ∧
        (∀ a, (a < cisKey c.mem.cluster (c.mem.base + c.cisOff) ∨ cisKey c.mem.cluster (c.mem.base + c.cisOff) + n ≤ a) →
          s'.cis.rd a = s.cis.rd a) ∧
        ∀ k, k < n → s'.cis.rd (cisKey c.mem.cluster (c.mem.base + c.cisOff) + k) = BitVec.ofNat 8 (new / 256 ^ k)

/-- R323, R326, R357: `cflush` leaves no dirty line in its range and `cinv` no line at all; neither touches a line outside it or raises
an exception. The fences retire and change nothing else. -/
def Obligations.MaintenanceAndFences : Prop :=
  ∀ s t c, onlyUses c.w (usesA ||| usesB) = true →
    (At s t 0x38 c →
      ∃ s', exec (.cflush t) s = .next s' ∧ s'.thread? t = some { c.th with st := .ready, pc := c.th.pc + 8 } ∧
        s'.cis = s.cis ∧ s'.regs = s.regs ∧
        (∀ x ∈ (s'.cluster c.mem.cluster).lines, c.inRange s x = true → x.dirty = 0) ∧
        ((s'.cluster c.mem.cluster).lines.filter fun x => !c.inRange s x) =
          (s.cluster c.mem.cluster).lines.filter fun x => !c.inRange s x) ∧
    (At s t 0x39 c →
      ∃ s', exec (.cinv t) s = .next s' ∧ s'.thread? t = some { c.th with st := .ready, pc := c.th.pc + 8 } ∧ SameBytes s s' ∧
        s'.regs = s.regs ∧ (s'.cluster c.mem.cluster).lines = (s.cluster c.mem.cluster).lines.filter fun x => !c.inRange s x) ∧
    (At s t 0x3A c → onlyUses c.w 0 = true →
      ∃ s', exec (.fenceAcq t) s = .next s' ∧ OnlyThread s s' t { c.th with st := .ready, pc := c.th.pc + 8 }) ∧
    (At s t 0x3B c → onlyUses c.w 0 = true →
      ∃ s', exec (.fenceRel t) s = .next s' ∧ OnlyThread s s' t { c.th with st := .ready, pc := c.th.pc + 8 })

/-! ## Vector and mask instructions -/

/-- R344, R358 to R360: the two-source lane instructions write f(A, B) to every active lane of vD, zero or the old lane elsewhere; the
bitwise and shift forms take integer types only, and only a floating-point form can set FPINV. -/
def Obligations.VectorLanewise : Prop :=
  ∀ row ∈ vecRows, ∀ s t c, At s t row.1 c → onlyUses c.w (usesTy ||| usesMk ||| usesX ||| usesD ||| usesA ||| usesB) = true →
    wD c.w ≤ 31 → wA c.w ≤ 31 → wB c.w ≤ 31 → (2 ≤ wTy c.w ∧ wTy c.w ≤ 9 ∨ row.1 ≤ 0x45 ∧ 12 ≤ wTy c.w ∧ wTy c.w ≤ 14) →
    ∃ s', exec (row.2.1 t) s = .next s' ∧
      WroteLanes s s' t c.th (wD c.w) (tyWidth (wTy c.w))
        (fun i => maskedLane c (tyWidth (wTy c.w)) i (row.2.2 (wTy c.w) (lane1 (tyWidth (wTy c.w)) (c.th.rv (wA c.w)) i)
          (lane1 (tyWidth (wTy c.w)) (c.th.rv (wB c.w)) i)))
        (decide (12 ≤ wTy c.w))

/-- R358, R360: `vfma` rounds A · B + C once; `vexp`, `vrcp` and `vrsqrt` take .f32 only. A NaN lane gives the quiet NaN, `vrcp` of ±0 is
±∞, `vexp` of −∞ is +0, `vrsqrt` of a value below 0 is NaN and sets FPINV. -/
def Obligations.VectorFunctions : Prop :=
  ∀ s t c, wD c.w ≤ 31 → wA c.w ≤ 31 →
    (At s t 0x43 c → onlyUses c.w (usesTy ||| usesMk ||| usesX ||| usesD ||| usesA ||| usesB ||| usesC) = true → wB c.w ≤ 31 →
      wC c.w ≤ 31 → 12 ≤ wTy c.w → wTy c.w ≤ 14 →
      ∃ s', exec (.vfma t) s = .next s' ∧
        WroteLanes s s' t c.th (wD c.w) (tyWidth (wTy c.w)) (fun i => maskedLane c (tyWidth (wTy c.w)) i
          ((tyFmt (wTy c.w)).fma (lane1 (tyWidth (wTy c.w)) (c.th.rv (wA c.w)) i) (lane1 (tyWidth (wTy c.w)) (c.th.rv (wB c.w)) i)
            (lane1 (tyWidth (wTy c.w)) (c.th.rv (wC c.w)) i))) true) ∧
    (onlyUses c.w (usesTy ||| usesMk ||| usesX ||| usesD ||| usesA) = true → wTy c.w = 14 →
      ∀ row ∈ [(0x54, Instr.vexp t), (0x55, Instr.vrcp t), (0x56, Instr.vrsqrt t)], At s t row.1 c →
        ∃ s' th', exec row.2 s = .next s' ∧ OnlyThreadOf s s' t th' ∧ SameBytes s s' ∧ WroteV c.th th' (wD c.w) (th'.rv (wD c.w)) ∧
          ∀ i, i < 32 →
            (¬ c.active i = true → lane1 32 (th'.rv (wD c.w)) i = if wX c.w = 1 then 0 else lane1 32 (c.th.rv (wD c.w)) i) ∧
            (c.active i = true →
              (fF32.isNan (lane1 32 (c.th.rv (wA c.w)) i) = true → lane1 32 (th'.rv (wD c.w)) i = 0x7FC00000) ∧
              (row.1 = 0x54 → lane1 32 (c.th.rv (wA c.w)) i = 0xFF800000 → lane1 32 (th'.rv (wD c.w)) i = 0) ∧
              (row.1 = 0x55 → lane1 32 (c.th.rv (wA c.w)) i = 0 → lane1 32 (th'.rv (wD c.w)) i = 0x7F800000) ∧
              (row.1 = 0x55 → lane1 32 (c.th.rv (wA c.w)) i = 0x80000000 → lane1 32 (th'.rv (wD c.w)) i = 0xFF800000) ∧
              (row.1 = 0x56 → 0x80000000 < lane1 32 (c.th.rv (wA c.w)) i → lane1 32 (c.th.rv (wA c.w)) i ≤ 0xFF800000 →
                lane1 32 (th'.rv (wD c.w)) i = 0x7FC00000 ∧ th'.flags = c.th.flags ||| 8#64)))

/-- R358: `vcmp` writes one mask bit per active lane, zero elsewhere; `vsel` chooses by mC; `vbcast`, `vperm`, `vins` and `vext` move lanes
and registers. -/
def Obligations.VectorCompareAndMove : Prop :=
  ∀ s t c, (2 ≤ wTy c.w ∧ wTy c.w ≤ 9 ∨ 12 ≤ wTy c.w ∧ wTy c.w ≤ 14) →
    (At s t 0x4C c → onlyUses c.w (usesTy ||| usesMk ||| usesD ||| usesA ||| usesB ||| usesSub 1 0) = true → wD c.w ≤ 7 → wA c.w ≤ 31 →
      wB c.w ≤ 31 →
      ∃ s' th' x, exec (.vcmp t) s = .next s' ∧ OnlyThread s s' t th' ∧ th'.flags = c.th.flags ∧ WroteM c.th th' (wD c.w) x ∧
        ∀ i, i < 128 → x.getLsbD i = (decide (i < 1024 / tyWidth (wTy c.w)) && c.active i &&
          laneCond (wTy c.w) (field c.w 1 0) (lane1 (tyWidth (wTy c.w)) (c.th.rv (wA c.w)) i)
            (lane1 (tyWidth (wTy c.w)) (c.th.rv (wB c.w)) i))) ∧
    (At s t 0x4D c → onlyUses c.w (usesTy ||| usesMk ||| usesX ||| usesD ||| usesA ||| usesB ||| usesC) = true → wD c.w ≤ 31 →
      wA c.w ≤ 31 → wB c.w ≤ 31 → wC c.w ≤ 7 →
      ∃ s', exec (.vsel t) s = .next s' ∧ WroteLanes s s' t c.th (wD c.w) (tyWidth (wTy c.w))
        (fun i => maskedLane c (tyWidth (wTy c.w)) i (if (c.th.rm (wC c.w)).getLsbD i = true
          then lane1 (tyWidth (wTy c.w)) (c.th.rv (wA c.w)) i else lane1 (tyWidth (wTy c.w)) (c.th.rv (wB c.w)) i)) false) ∧
    (At s t 0x4F c → onlyUses c.w (usesTy ||| usesMk ||| usesX ||| usesD ||| usesA) = true → wD c.w ≤ 31 →
      ∃ s', exec (.vbcast t) s = .next s' ∧ WroteLanes s s' t c.th (wD c.w) (tyWidth (wTy c.w))
        (fun i => maskedLane c (tyWidth (wTy c.w)) i (c.th.rg (wA c.w)).toNat) false) ∧
    (At s t 0x50 c → onlyUses c.w (usesTy ||| usesD ||| usesA ||| usesB) = true → wA c.w ≤ 31 →
      ∃ s' th', exec (.vext t) s = .next s' ∧ OnlyThread s s' t th' ∧ th'.flags = c.th.flags ∧
        WroteG c.th th' (wD c.w) (if wTy c.w ≤ 5
          then (BitVec.ofNat (tyWidth (wTy c.w))
            (lane1 (tyWidth (wTy c.w)) (c.th.rv (wA c.w)) ((c.th.rg (wB c.w)).toNat % (1024 / tyWidth (wTy c.w))))).signExtend 64
          else BitVec.ofNat 64 (lane1 (tyWidth (wTy c.w)) (c.th.rv (wA c.w)) ((c.th.rg (wB c.w)).toNat % (1024 / tyWidth (wTy c.w)))))) ∧
    (At s t 0x51 c → onlyUses c.w (usesTy ||| usesD ||| usesA ||| usesB) = true → wD c.w ≤ 31 →
      ∃ s', exec (.vins t) s = .next s' ∧ WroteLanes s s' t c.th (wD c.w) (tyWidth (wTy c.w))
        (fun i => if i = (c.th.rg (wB c.w)).toNat % (1024 / tyWidth (wTy c.w)) then (c.th.rg (wA c.w)).toNat % 2 ^ tyWidth (wTy c.w)
          else lane1 (tyWidth (wTy c.w)) (c.th.rv (wD c.w)) i) false) ∧
    (At s t 0x52 c → onlyUses c.w (usesTy ||| usesMk ||| usesX ||| usesD ||| usesA ||| usesB) = true → wD c.w ≤ 31 → wA c.w ≤ 31 →
      wB c.w ≤ 31 →
      ∃ s', exec (.vperm t) s = .next s' ∧ WroteLanes s s' t c.th (wD c.w) (tyWidth (wTy c.w))
        (fun i => maskedLane c (tyWidth (wTy c.w)) i (lane1 (tyWidth (wTy c.w)) (c.th.rv (wA c.w))
          (lane1 (tyWidth (wTy c.w)) (c.th.rv (wB c.w)) i % (1024 / tyWidth (wTy c.w))))) false)

/-- R361: `vcvt` between integer types of different widths extends by the source's signedness into all lanes, or saturates into lanes
P · n to P · n + n − 1 and sets SAT exactly where an active lane saturates. R359: an integer `vred` of no active lane gives 0, the type's
largest or its smallest value. -/
def Obligations.VectorConvertAndReduce : Prop :=
  ∀ s t c, wD c.w ≤ 31 → wA c.w ≤ 31 → 2 ≤ wTy c.w → wTy c.w ≤ 9 →
    (At s t 0x4E c → onlyUses c.w (usesTy ||| usesMk ||| usesX ||| usesD ||| usesA ||| usesC ||| usesSub 2 0) = true → 2 ≤ wC c.w →
      wC c.w ≤ 9 → wMk c.w = 0 →
      (tyWidth (wC c.w) < tyWidth (wTy c.w) → field c.w 2 0 < tyWidth (wTy c.w) / tyWidth (wC c.w) →
        ∃ s', exec (.vcvt t) s = .next s' ∧ WroteLanes s s' t c.th (wD c.w) (tyWidth (wTy c.w))
          (fun i => ofSigned (tyWidth (wTy c.w)) (laneInt (wC c.w)
            (lane1 (tyWidth (wC c.w)) (c.th.rv (wA c.w)) (field c.w 2 0 * (1024 / tyWidth (wTy c.w)) + i)))) false) ∧
      (tyWidth (wTy c.w) < tyWidth (wC c.w) → field c.w 2 0 < tyWidth (wC c.w) / tyWidth (wTy c.w) →
        ∃ s' th' x, exec (.vcvt t) s = .next s' ∧ OnlyThreadOf s s' t th' ∧ SameBytes s s' ∧ WroteV c.th th' (wD c.w) x ∧
          (∀ i, i < 1024 / tyWidth (wTy c.w) →
            (i < field c.w 2 0 * (1024 / tyWidth (wC c.w)) ∨ (field c.w 2 0 + 1) * (1024 / tyWidth (wC c.w)) ≤ i) →
            lane1 (tyWidth (wTy c.w)) x i = lane1 (tyWidth (wTy c.w)) (c.th.rv (wD c.w)) i) ∧
          (∀ i, i < 1024 / tyWidth (wC c.w) →
            lane1 (tyWidth (wTy c.w)) x (field c.w 2 0 * (1024 / tyWidth (wC c.w)) + i) =
              ofSigned (tyWidth (wTy c.w)) (clampI (intMin (wTy c.w)) (intMax (wTy c.w))
                (laneInt (wC c.w) (lane1 (tyWidth (wC c.w)) (c.th.rv (wA c.w)) i)))) ∧
          (th'.flags = if ∃ i, i < 1024 / tyWidth (wC c.w) ∧
              (laneInt (wC c.w) (lane1 (tyWidth (wC c.w)) (c.th.rv (wA c.w)) i) < intMin (wTy c.w) ∨
                intMax (wTy c.w) < laneInt (wC c.w) (lane1 (tyWidth (wC c.w)) (c.th.rv (wA c.w)) i))
            then c.th.flags ||| 2#64 else c.th.flags))) ∧
    (At s t 0x53 c → onlyUses c.w (usesTy ||| usesMk ||| usesD ||| usesA ||| usesSub 1 0) = true → field c.w 1 0 ≤ 2 →
      ∃ s' th' x, exec (.vred t) s = .next s' ∧ OnlyThreadOf s s' t th' ∧ SameBytes s s' ∧ th'.flags = c.th.flags ∧
        WroteV c.th th' (wD c.w) x ∧ (∀ i, 0 < i → i < 1024 / tyWidth (wTy c.w) → lane1 (tyWidth (wTy c.w)) x i = 0) ∧
        ((∀ i, i < 1024 / tyWidth (wTy c.w) → c.active i = false) → lane1 (tyWidth (wTy c.w)) x 0 =
          if field c.w 1 0 = 0 then 0 else ofSigned (tyWidth (wTy c.w)) (if field c.w 1 0 = 1 then intMax (wTy c.w) else intMin (wTy c.w))) ∧
        (field c.w 1 0 = 0 → lane1 (tyWidth (wTy c.w)) x 0 =
          sumBy (fun i => if c.active i then lane1 (tyWidth (wTy c.w)) (c.th.rv (wA c.w)) i else 0)
            (List.range (1024 / tyWidth (wTy c.w))) % 2 ^ tyWidth (wTy c.w)))

/-- R358: the mask instructions act on all 128 bits; `mpop` counts ones, `mfirst` finds the lowest, `mset` and `mget` move halves. -/
def Obligations.MaskInstructions : Prop :=
  ∀ s t c, wTy c.w = 0 → wMk c.w = 0 → wX c.w = 0 → wC c.w = 0 →
    (∀ row ∈ maskRows, At s t row.1 c → wSub c.w = 0 → wD c.w ≤ 7 → wA c.w ≤ 7 → wB c.w ≤ 7 →
      ∃ s' th', exec (row.2.1 t) s = .next s' ∧ OnlyThread s s' t th' ∧ th'.flags = c.th.flags ∧
        WroteM c.th th' (wD c.w) (row.2.2 (c.th.rm (wA c.w)) (c.th.rm (wB c.w)))) ∧
    (At s t 0x5B c → wB c.w = 0 → wSub c.w = 0 → wD c.w ≤ 7 → wA c.w ≤ 7 →
      ∃ s' th', exec (.mnot t) s = .next s' ∧ OnlyThread s s' t th' ∧ th'.flags = c.th.flags ∧
        WroteM c.th th' (wD c.w) (~~~(c.th.rm (wA c.w)))) ∧
    (At s t 0x5C c → wB c.w = 0 → wSub c.w = 0 → wA c.w ≤ 7 →
      ∃ s' th', exec (.mpop t) s = .next s' ∧ OnlyThread s s' t th' ∧ th'.flags = c.th.flags ∧
        WroteG c.th th' (wD c.w) (BitVec.ofNat 64 ((List.range 128).filter (c.th.rm (wA c.w)).getLsbD).length)) ∧
    (At s t 0x5D c → wB c.w = 0 → wSub c.w = 0 → wA c.w ≤ 7 →
      ∃ s' th' v, exec (.mfirst t) s = .next s' ∧ OnlyThread s s' t th' ∧ th'.flags = c.th.flags ∧ WroteG c.th th' (wD c.w) v ∧
        v.toNat ≤ 128 ∧ (∀ i, i < v.toNat → (c.th.rm (wA c.w)).getLsbD i = false) ∧
        (v.toNat < 128 → (c.th.rm (wA c.w)).getLsbD v.toNat = true)) ∧
    (At s t 0x5E c → wSub c.w = 0 → wD c.w ≤ 7 →
      ∃ s' th', exec (.mset t) s = .next s' ∧ OnlyThread s s' t th' ∧ th'.flags = c.th.flags ∧
        WroteM c.th th' (wD c.w) (c.th.rg (wB c.w) ++ c.th.rg (wA c.w))) ∧
    (At s t 0x5F c → wB c.w = 0 → field c.w 23 1 = 0 → wA c.w ≤ 7 →
      ∃ s' th', exec (.mget t) s = .next s' ∧ OnlyThread s s' t th' ∧ th'.flags = c.th.flags ∧
        WroteG c.th th' (wD c.w) ((c.th.rm (wA c.w)).extractLsb' (64 * field c.w 0 0) 64))

/-! ## Tensor unit, comb, scan -/

/-- R367 (and R365 of `tzero`): on a claimed tile, `tzero`, `tld`, `tst` and `tmov` make a tile of zeros of the type, read a tile from 16 KiB
of cistern, write it back in the same layout, and copy 32 elements of a row into the lanes of vD; while a tensor instruction on the
tile is outstanding they wait. -/
def Obligations.TileInstructions : Prop :=
  ∀ s t c, wMk c.w = 0 → wX c.w = 0 →
    (At s t 0x63 c → onlyUses c.w (usesTy ||| usesD) = true → (wTy c.w = 4 ∨ wTy c.w = 14) → wD c.w < c.frag.tiles →
      s.tileBusy c (wD c.w) = false →
      ∃ s', exec (.tzero t) s = .next s' ∧ { s' with frags := s.frags } = s ∧ s'.thread? t = some { c.th with st := .ready, pc := c.th.pc + 8 } ∧ (∀ i, tileElem s' t (wD c.w) i = 0) ∧
        (s'.member? t.frag t.mem).map (fun m => (Map.getD m.tiles (wD c.w) ⟨false, []⟩).isInt) = some (wTy c.w == 4)) ∧
    (At s t 0x61 c → onlyUses c.w (usesTy ||| usesD ||| usesA) = true → (wTy c.w = 4 ∨ wTy c.w = 14) → wD c.w < c.frag.tiles →
      s.tileBusy c (wD c.w) = false → (c.th.rg (wA c.w)).toNat + 16384 ≤ c.frag.cis * 65536 →
      ∃ s', exec (.tld t) s = .next s' ∧ { s' with frags := s.frags } = s ∧ s'.thread? t = some { c.th with st := .ready, pc := c.th.pc + 8 } ∧
        (∀ i, i < 4096 → tileElem s' t (wD c.w) i = BitVec.ofNat 32 (leNat (c.cisRd s ((c.th.rg (wA c.w)).toNat + 4 * i) 4))) ∧
        (s'.member? t.frag t.mem).map (fun m => (Map.getD m.tiles (wD c.w) ⟨false, []⟩).isInt) = some (wTy c.w == 4)) ∧
    (At s t 0x62 c → onlyUses c.w (usesA ||| usesB) = true → wA c.w < c.frag.tiles → s.tileBusy c (wA c.w) = false →
      (c.th.rg (wB c.w)).toNat + 16384 ≤ c.frag.cis * 65536 → s.cis.wf = true →
      ∃ s', exec (.tst t) s = .next s' ∧ { s' with frags := s.frags, cis := s.cis } = s ∧
        OnlyThreadOf s s' t { c.th with st := .ready, pc := c.th.pc + 8 } ∧
        (∀ i, i < 4096 → leNat (c.cisRd s' ((c.th.rg (wB c.w)).toNat + 4 * i) 4) = (tileElem s t (wA c.w) i).toNat) ∧
        ∀ a, (a < cisKey c.mem.cluster (c.mem.base + (c.th.rg (wB c.w)).toNat) ∨
          cisKey c.mem.cluster (c.mem.base + (c.th.rg (wB c.w)).toNat) + 16384 ≤ a) → s'.cis.rd a = s.cis.rd a) ∧
    (At s t 0x64 c → onlyUses c.w (usesD ||| usesA ||| usesB ||| usesSub 0 0) = true → wD c.w ≤ 31 → wA c.w < c.frag.tiles →
      s.tileBusy c (wA c.w) = false →
      ∃ s' th' x, exec (.tmov t) s = .next s' ∧ OnlyThread s s' t th' ∧ th'.flags = c.th.flags ∧ WroteV c.th th' (wD c.w) x ∧
        ∀ i, i < 32 → lane1 32 x i =
          (tileElem s t (wA c.w) (64 * ((c.th.rg (wB c.w)).toNat % 64) + 32 * field c.w 0 0 + i)).toNat) ∧
    (∀ i n, (At s t 0x63 c ∧ onlyUses c.w (usesTy ||| usesD) = true ∧ (wTy c.w = 4 ∨ wTy c.w = 14) ∧ i = Instr.tzero t ∧ n = wD c.w ∨
        At s t 0x61 c ∧ onlyUses c.w (usesTy ||| usesD ||| usesA) = true ∧ (wTy c.w = 4 ∨ wTy c.w = 14) ∧ i = .tld t ∧ n = wD c.w ∨
        At s t 0x62 c ∧ onlyUses c.w (usesA ||| usesB) = true ∧ i = .tst t ∧ n = wA c.w ∨
        At s t 0x64 c ∧ onlyUses c.w (usesD ||| usesA ||| usesB ||| usesSub 0 0) = true ∧ wD c.w ≤ 31 ∧ i = .tmov t ∧ n = wA c.w) →
      n < c.frag.tiles → s.tileBusy c n = true →
      ∃ s', exec i s = .next s' ∧ OnlyThread s s' t { c.th with st := .wait })

/-- R362 to R366: `tmma` retires when the tensor unit has accepted it with its descriptor; the unit executes the cluster's operations in
issue order, and with unscaled dense int8 operands sets each tile element to the exact dot product, added to the old element with ACC, and
saturated to int32. -/
def Obligations.TensorMultiply : Prop :=
  (∀ s t c b d, At s t 0x60 c → onlyUses c.w (usesTy ||| usesD ||| usesA) = true → wD c.w < c.frag.tiles →
    (c.th.rg (wA c.w)).toNat + 64 ≤ c.frag.cis * 65536 → b = c.cisRd s (c.th.rg (wA c.w)).toNat 64 → d = tdesc b →
    tdescBad b (wTy c.w) = none → (d.acc = true → s.tileInt c (wD c.w) = (decide (wTy c.w ≤ 2) && !d.scaled)) →
    (d.ranges (wTy c.w)).all (fun r => c.inArea r.1 r.2) = true →
    (d.scaled = true → (scalesAt (c.cisRd s) d.ascale (scaleCount d.agran d.k)).all (zpOk d.aty) = true ∧
      (scalesAt (c.cisRd s) d.wscale (scaleCount d.wgran d.k)).all (zpOk (wTy c.w)) = true) →
    ∃ s' op, exec (.tmma t) s = .next s' ∧ (s'.cluster c.mem.cluster).tensor = (s.cluster c.mem.cluster).tensor ++ [op] ∧
      op.frag = t.frag ∧ op.mem = t.mem ∧ op.tile = wD c.w ∧ op.ty = wTy c.w ∧ op.desc = b ∧ SameBytes s s' ∧
      s'.thread? t = some { c.th with st := .ready, pc := c.th.pc + 8 }) ∧
  (∀ s l o rest f m d, (s.cluster l).tensor = o :: rest → s.active = true → s.tripped = false → s.frag? o.frag = some f →
    f.phase = .running → f.members[o.mem]? = some m → m.cluster = l → d = tdesc o.desc → o.ty = 2 → d.aty = 2 → d.scaled = false →
    d.sparse = false →
    ∃ s', exec (.tmmaExecution l) s = .next s' ∧ (s'.cluster l).tensor = rest ∧ SameBytes s s' ∧
      ∀ i j, i < 64 → j < 64 → tileElem s' ⟨o.frag, o.mem, o.thread⟩ o.tile (64 * i + j) =
        BitVec.ofInt 32 (clampI (-2147483648) 2147483647
          (((List.range d.k).map fun k =>
            toSigned 8 (leNat (s.cis.rdN (cisKey l (m.base + (d.act + i * d.astride) + k)) 1)) *
              toSigned 8 (leNat (s.cis.rdN (cisKey l (m.base + (d.wgt + j * d.wstride) + k)) 1))).sum +
            if d.acc then (Map.getD (Map.getD m.tiles o.tile ⟨true, []⟩).elems (64 * i + j) (0 : F32)).toInt else 0)))

/-- R84 to R90: `comb.open` opens an empty context, `comb.topk.n` and `comb.topk.w` count every valid pair and keep it while the run has
room, a block of 256 survivors is merged so that the run is in pair order and holds the least K, `comb.close` writes the run and the
counts and closes the context. -/
def Obligations.CombContexts : Prop :=
  (∀ s t c b, At s t 0x6C c → onlyUses c.w (usesA ||| usesSub 1 0) = true → (c.th.rg (wA c.w)).toNat + 32 ≤ c.frag.cis * 65536 →
    b = c.cisRd s (c.th.rg (wA c.w)).toNat 32 → 1 ≤ leAt b 0 4 → leAt b 0 4 ≤ 65536 → field (leAt b 4 4) 5 4 ≠ 3 →
    field (leAt b 4 4) 31 8 = 0 → field (leAt b 4 4) 2 0 = 0 → leAt b 0x1C 4 = 0 → leAt b 8 4 % 64 = 0 →
    c.inArea (leAt b 8 4) (runAreaBytes (bit (leAt b 4 4) 3) (leAt b 0 4)) = true → c.combFull s (field c.w 1 0) = false →
    s.overlapping c.mem.cluster (field c.w 1 0) (c.mem.base + leAt b 8 4) (runAreaBytes (bit (leAt b 4 4) 3) (leAt b 0 4)) = [] →
    ∃ s' k, exec (.combOpen t) s = .next s' ∧ SameBytes s s' ∧ Map.get? (s'.cluster c.mem.cluster).ctx (field c.w 1 0) = some k ∧
      k.tenant = c.frag.tenant ∧ k.frag = t.frag ∧ k.k = leAt b 0 4 ∧ k.dedup = bit (leAt b 4 4) 7 ∧ k.desc = bit (leAt b 4 4) 6 ∧
      k.ktype = field (leAt b 4 4) 5 4 ∧ k.wide = bit (leAt b 4 4) 3 ∧ k.run = [] ∧ k.block = [] ∧ k.pushed = 0 ∧ k.astray = false ∧
      ∀ n, n ≠ field c.w 1 0 → Map.get? (s'.cluster c.mem.cluster).ctx n = Map.get? (s.cluster c.mem.cluster).ctx n) ∧
  (∀ s t c k, onlyUses c.w (usesMk ||| usesA ||| usesSub 1 0) = true → c.combCtx s (field c.w 1 0) = some k → k.block.length < 256 →
    k.dedup = false → k.run.length < k.k →
    (At s t 0x6D c → wA c.w ≤ 28 → k.wide = false →
      ∃ s', exec (.combTopkN t) s = .next s' ∧ SameBytes s s' ∧ Map.get? (s'.cluster c.mem.cluster).ctx (field c.w 1 0) =
        some { k with
          pushed := k.pushed + ((List.range 64).filter c.active).length
          block := k.block ++ ((List.range 64).filter c.active).map fun i =>
            (BitVec.ofNat 32 (lane1 32 (c.th.rv (wA c.w + i / 32)) (i % 32)), lane1 32 (c.th.rv (wA c.w + 2 + i / 32)) (i % 32)) }) ∧
    (At s t 0x6E c → wA c.w ≤ 29 → k.wide = true →
      ∃ s', exec (.combTopkW t) s = .next s' ∧ SameBytes s s' ∧ Map.get? (s'.cluster c.mem.cluster).ctx (field c.w 1 0) =
        some { k with
          pushed := k.pushed + ((List.range 32).filter c.active).length
          block := k.block ++ ((List.range 32).filter c.active).map fun i =>
            (BitVec.ofNat 32 (lane1 32 (c.th.rv (wA c.w)) i), lane1 64 (c.th.rv (wA c.w + 1 + i / 16)) (i % 16)) })) ∧
  (∀ s l n k, s.active = true → Map.get? (s.cluster l).ctx n = some k → 256 ≤ k.block.length →
    ∃ s' k' rest, exec (.combBlockMerge l n) s = .next s' ∧ SameBytes s s' ∧ Map.get? (s'.cluster l).ctx n = some k' ∧
      k'.block = k.block.drop 256 ∧ k'.run.length = Nat.min k.k (k.run.length + 256) ∧
      (k'.run ++ rest).Perm (k.run ++ k.block.take 256) ∧ k'.run.Pairwise (fun a b => pairBefore k.ktype k.desc b a = false) ∧
      ∀ a ∈ k'.run, ∀ b ∈ rest, pairBefore k.ktype k.desc b a = false) ∧
  (∀ s t c k, At s t 0x6F c → onlyUses c.w (usesSub 1 0) = true → c.combCtx s (field c.w 1 0) = some k → Map.rising (s.cluster c.mem.cluster).ctx = true →
    k.block.length < 256 → k.astray = false → c.mem.base ≤ k.area → k.area + runAreaBytes k.wide k.k ≤ c.mem.base + c.frag.cis * 65536 →
    c.mem.base ≤ k.descAt → k.descAt + 32 ≤ c.mem.base + c.frag.cis * 65536 →
    ∃ s' run, exec (.combClose t) s = .next s' ∧
      Map.get? (s'.cluster c.mem.cluster).ctx (field c.w 1 0) = none ∧
      run = (sortBy (pairBefore k.ktype k.desc) (k.run ++ k.block)).take k.k ∧
      s'.cis = (s.cis.wrN (cisKey c.mem.cluster k.area) (run.flatMap (runEntry k.wide k.ktype))).wrN
        (cisKey c.mem.cluster (k.descAt + 0xC)) (toLe 4 run.length ++ toLe 8 k.pushed ++ toLe 4 k.dups))

/-- R92 to R94: `comb.merge` of two runs in pair order writes the first K pairs of their union, one pair per tag with DEDUP, and the
counts of pairs written and of duplicates. -/
def Obligations.CombMerge : Prop :=
  ∀ s t c b f s1 s2 s3 s4 list r1 r2 out u, At s t 0x70 c → onlyUses c.w usesA = true → (c.th.rg (wA c.w)).toNat + 64 ≤ c.frag.cis * 65536 →
    b = c.cisRd s (c.th.rg (wA c.w)).toNat 64 → f = leAt b 4 4 → leAt b 8 4 = 2 → 1 ≤ leAt b 0 4 → leAt b 0 4 ≤ 65536 → field f 5 4 ≠ 3 →
    field f 31 8 = 0 → field f 2 0 = 0 → leAt b 0xC 4 = 0 → (b.drop 0x28).all (· == 0) = true →
    Reads c s (leAt b 0x10 8) 32 s1 list → leAt list 12 4 = 0 → leAt list 28 4 = 0 →
    Reads c s1 (leAt list 0 8) (leAt list 8 4 * runEntrySize (bit f 3)) s2 r1 →
    Reads c s2 (leAt list 16 8) (leAt list 24 4 * runEntrySize (bit f 3)) s3 r2 →
    sortedRun (field f 5 4) (bit f 6) (bit f 7) (runPairs (bit f 3) (leAt list 8 4) r1) = true →
    sortedRun (field f 5 4) (bit f 6) (bit f 7) (runPairs (bit f 3) (leAt list 24 4) r2) = true →
    u = pairUnion (field f 5 4) (bit f 6) (bit f 7) (runPairs (bit f 3) (leAt list 8 4) r1 ++ runPairs (bit f 3) (leAt list 24 4) r2) →
    out = (u.take (leAt b 0 4)).flatMap (runEntry (bit f 3) (field f 5 4)) → Writes c s3 (leAt b 0x18 8) out s4 →
    ∃ s', exec (.combMerge t) s = .next s' ∧ s'.cis = s4.cis.wrN (cisKey c.mem.cluster (c.mem.base + ((c.th.rg (wA c.w)).toNat + 0x20)))
        (toLe 4 (Nat.min (leAt b 0 4) u.length) ++ toLe 4 (leAt list 8 4 + leAt list 24 4 - u.length)) ∧
      s'.dev = s4.dev ∧ s'.out = s4.out ∧ s'.regs = s4.regs

/-- R368, R369: `lscan` over entries of the cistern with u8 tables, no drop bitmap and records to OUT writes one record per kept entry in
order while OUT holds them, then COUNT and POS, and no other byte. -/
def Obligations.LookupScan : Prop :=
  ∀ s t c b d kept, At s t 0x68 c → wTy c.w = 1 → onlyUses c.w (usesTy ||| usesA) = true →
    (c.th.rg (wA c.w)).toNat + 64 ≤ c.frag.cis * 65536 → b = c.cisRd s (c.th.rg (wA c.w)).toNat 64 → d = scanDesc b → scanBad b = none →
    d.dst = false → d.src = false → d.fp16 = false → d.aux = 0xFFFFFFFF → c.th.scanAt = none → d.ebytes = entryBytes d.sub d.attrb →
    d.sub % 8 = 0 → d.tbl % 64 = 0 → d.ranges.all (fun r => c.inArea r.1 r.2) = true →
    (∀ i, i < d.fterms → termOk d.attrb (leNat (c.cisRd s (d.tbl + d.tableBytes + 8 * i) 8)) = true) →
    kept = ((List.range d.n).filter fun i => scanKeeps d (c.cisRd s d.tbl d.tableBytes)
      ((List.range d.fterms).map fun k => leNat (c.cisRd s (d.tbl + d.tableBytes + 8 * k) 8)) (c.cisRd s (d.inp + i * d.ebytes) d.ebytes)) →
    kept.length ≤ d.outMax →
    ∃ s', exec (.lscan t) s = .next s' ∧ OnlyThreadOf s s' t { c.th with st := .ready, pc := c.th.pc + 8 } ∧
      s'.dev = s.dev ∧ s'.out = s.out ∧ s'.regs = s.regs ∧
      s'.cis = (s.cis.wrN (cisKey c.mem.cluster (c.mem.base + d.out)) (kept.flatMap fun i =>
          toLe 4 ((d.slot0 + i) % 2 ^ 32) ++ toLe 4 (sumU8 d.sub (c.cisRd s d.tbl d.tableBytes) (c.cisRd s (d.inp + i * d.ebytes) d.ebytes)))).wrN
        (cisKey c.mem.cluster (c.mem.base + ((c.th.rg (wA c.w)).toNat + 0x24))) (toLe 4 kept.length ++ toLe 4 d.n)

/-! ## Pumps and queues -/

/-- R328 to R333: `pump.set` binds a claimed pump to an empty port, `pump.go` starts it, a fetch of a strided streaming pump appends the
next element and ends the stream after the last, `q.pop` takes the oldest element into gD with the count in gC, `q.push` appends an
element to a mailbox port; in the cistern only the pump's run-ahead buffer takes what a fetch or a push delivers. -/
def Obligations.PumpsAndQueues : Prop :=
  (∀ s t c b n, At s t 0x74 c → onlyUses c.w (usesA ||| usesSub 2 0) = true → n = field c.w 2 0 → n < c.frag.pumps →
    (c.th.rg (wA c.w)).toNat + 64 ≤ c.frag.cis * 65536 → b = c.cisRd s (c.th.rg (wA c.w)).toNat 64 → pumpBad b = none →
    (pumpDesc b).port < c.frag.ports → (pumpDesc b).buf % 64 = 0 → c.inArea (pumpDesc b).buf ((pumpDesc b).depth * (pumpDesc b).size) = true →
    ∃ s' m p q, exec (.pumpSet t) s = .next s' ∧ { s' with frags := s.frags } = s ∧ s'.member? t.frag t.mem = some m ∧
      Map.get? m.pumps n = some p ∧ p.desc = pumpDesc b ∧ p.running = false ∧ p.next = 0 ∧
      Map.get? m.ports (pumpDesc b).port = some q ∧ q.pump = n ∧ q.elems = [] ∧ q.ended = false ∧ q.esize = (pumpDesc b).esize ∧
      q.depth = 2 ^ (pumpDesc b).ldepth) ∧
  (∀ s t c n p, At s t 0x75 c → onlyUses c.w (usesSub 2 0) = true → n = field c.w 2 0 → n < c.frag.pumps →
    Map.get? c.mem.pumps n = some p →
    ∃ s' m, exec (.pumpGo t) s = .next s' ∧ { s' with frags := s.frags } = s ∧ s'.member? t.frag t.mem = some m ∧
      Map.get? m.pumps n = some { p with running := p.running || p.next == 0 }) ∧
  (∀ s f m n x mb p k q, s.active = true → s.tripped = false → s.frag? f = some x → x.phase = .running → x.members[m]? = some mb →
    Map.get? mb.pumps n = some p → p.running = true → p.desc.mode = 0 → p.desc.stream = true → p.next < p.desc.total →
    Map.get? mb.ports k = some q → q.pump = n → q.elems.length < q.depth →
    p.desc.addrAt p.next < 2 ^ 63 → p.desc.addrAt p.next % p.desc.size = 0 →
    s.devMapped x.tenant (p.desc.addrAt p.next) p.desc.size = true → s.poisoned x.tenant (p.desc.addrAt p.next) p.desc.size = false →
    s.wellWrites x.tenant (p.desc.addrAt p.next) p.desc.size = false →
    ∃ s' mb' q', exec (.pumpFetch f m n) s = .next s' ∧ { s' with frags := s.frags, cis := s.cis, free := s.free } = s ∧
      (∀ a, (a < cisKey mb.cluster (mb.base + p.desc.buf) ∨ cisKey mb.cluster (mb.base + p.desc.buf) + p.desc.depth * p.desc.size ≤ a) →
        s'.cis.rd a = s.cis.rd a) ∧ s'.member? f m = some mb' ∧
      Map.get? mb'.pumps n = some { p with next := p.next + 1, running := decide (p.next + 1 < p.desc.total) } ∧
      Map.get? mb'.ports k = some q' ∧ q'.ended = (q.ended || decide (p.desc.total ≤ p.next + 1)) ∧
      q'.elems = q.elems ++ [.bytes (s.devRd x.tenant (p.desc.addrAt p.next) p.desc.size) false]) ∧
  (∀ s t c q bs inner rest, At s t 0x76 c → onlyUses c.w (usesX ||| usesD ||| usesC ||| usesSub 7 4) = true → wX c.w = 0 →
    wD c.w ≠ wC c.w → field c.w 7 4 < c.frag.ports → Map.get? c.mem.ports (field c.w 7 4) = some q → q.esize ≤ 3 →
    q.elems = .bytes bs inner :: rest →
    ∃ s' th' m q', exec (.qPop t) s = .next s' ∧ { s' with frags := s.frags } = s ∧ s'.thread? t = some th' ∧ th'.pc = c.th.pc + 8 ∧
      (∀ n, th'.rg n = if n = 0 then 0 else if n = wC c.w then 1 else if n = wD c.w then BitVec.ofNat 64 (leNat bs) else c.th.rg n) ∧
      s'.member? t.frag t.mem = some m ∧ Map.get? m.ports (field c.w 7 4) = some q' ∧ q'.elems = rest) ∧
  (∀ s t c q, At s t 0x77 c → onlyUses c.w (usesX ||| usesA ||| usesSub 9 4 ||| usesSub 15 12) = true → wX c.w = 0 → field c.w 9 9 = 0 →
    field c.w 15 12 = 0 → field c.w 7 4 < c.frag.ports → Map.get? c.mem.ports (field c.w 7 4) = some q → q.mailbox = true → q.ended = false →
    q.esize ≤ 3 → q.elems.length < q.depth →
    ∃ s' m q', exec (.qPush t) s = .next s' ∧ { s' with frags := s.frags, cis := s.cis, free := s.free } = s ∧
      (∀ a, (∀ p, Map.get? c.mem.pumps q.pump = some p → a < cisKey c.mem.cluster (c.mem.base + p.desc.buf) ∨
        cisKey c.mem.cluster (c.mem.base + p.desc.buf) + p.desc.depth * p.desc.size ≤ a) → s'.cis.rd a = s.cis.rd a) ∧
      s'.member? t.frag t.mem = some m ∧
      Map.get? m.ports (field c.w 7 4) = some q' ∧ q'.ended = (field c.w 8 8 == 1) ∧
      q'.elems = q.elems ++ [.bytes (toLe (2 ^ q.esize) (c.th.rg (wA c.w)).toNat) false])

/-! ## Fragment building, wells, quantisation -/

/-- R303, R307, R371, R372: the instructions that build a fragment's commit add one post or log entry, or set its status, its progress pair
or the end of its thread, and change nothing outside the fragment. -/
def Obligations.FragmentBuilding : Prop :=
  ∀ s t c,
    (At s t 0x78 c → onlyUses c.w usesA = true → (c.th.rg (wA c.w)).toNat + 64 ≤ c.frag.cis * 65536 → c.frag.posts.length < 64 →
      ∃ s' f, exec (.fragPost t) s = .next s' ∧ { s' with frags := s.frags } = s ∧ s'.frag? t.frag = some f ∧
        f.posts = c.frag.posts ++ [c.cisRd s (c.th.rg (wA c.w)).toNat 64] ∧ f.logs = c.frag.logs ∧ f.status = c.frag.status) ∧
    (∀ row ∈ [(0x79, false, Instr.fragLogSt t), (0x7A, true, Instr.fragLogAdd t)], At s t row.1 c → onlyUses c.w (usesA ||| usesB) = true →
      (c.th.rg (wA c.w)).toNat % 8 = 0 → (c.th.rg (wA c.w)).toNat < 2 ^ 63 →
      s.devWritable c.frag.tenant (c.th.rg (wA c.w)).toNat 8 = true → c.frag.logs.length < 256 →
      (logLines (c.frag.logs ++ [⟨row.2.1, (c.th.rg (wA c.w)).toNat, c.th.rg (wB c.w)⟩])).length ≤ 16 →
      ∃ s' f, exec row.2.2 s = .next s' ∧ { s' with frags := s.frags } = s ∧ s'.frag? t.frag = some f ∧ f.posts = c.frag.posts ∧
        f.logs = c.frag.logs ++ [⟨row.2.1, (c.th.rg (wA c.w)).toNat, c.th.rg (wB c.w)⟩]) ∧
    (At s t 0x7B c → onlyUses c.w usesA = true → (c.th.rg (wA c.w)).toNat < 2 ^ 16 →
      ∃ s' f, exec (.fragStatus t) s = .next s' ∧ { s' with frags := s.frags } = s ∧ s'.frag? t.frag = some f ∧
        f.status = some (c.th.rg (wA c.w)).toNat ∧ f.logs = c.frag.logs ∧ f.posts = c.frag.posts) ∧
    (At s t 0x7C c → onlyUses c.w (usesA ||| usesB) = true →
      ∃ s' f, exec (.fragProg t) s = .next s' ∧ { s' with frags := s.frags } = s ∧ s'.frag? t.frag = some f ∧
        f.prog2 = some ((c.th.rg (wA c.w)).toNat, (c.th.rg (wB c.w)).toNat) ∧ f.status = c.frag.status) ∧
    (At s t 0x7D c → onlyUses c.w 0 = true →
      ∃ s', exec (.fragEnd t) s = .next s' ∧ OnlyThread s s' t { c.th with st := .ended })

/-- R149, R155, R156, R169, R172, R374: after `seal` of whole granules no byte of them is inner-only, and after `unseal` every byte is; neither changes a
byte of memory. An accepted `wcall` queues its operation with WST = QUEUED; an interval of a COPY moves 32-byte units, counts them and is
done after the last. A refresh is counted for its bank. -/
def Obligations.SealsAndWells : Prop :=
  (∀ s t c a n m, onlyUses c.w (usesD ||| usesA ||| usesB) = true → a = (c.th.rg (wA c.w)).toNat → n = (c.th.rg (wB c.w)).toNat →
    a % 4096 = 0 → n % 4096 = 0 →
    (At s t 0x81 c → n = 0 → ∃ s' th', exec (.seal t) s = .next s' ∧ OnlyThread s s' t th' ∧ WroteG c.th th' (wD c.w) 0) ∧
    (At s t 0x82 c → n = 0 → ∃ s' th', exec (.unseal t) s = .next s' ∧ OnlyThread s s' t th' ∧ WroteG c.th th' (wD c.w) 0) ∧
    (At s t 0x82 c → 0 < n → s.segmentOf c.frag.tenant a n = some m → c.inTurn s m = true → RangesAligned s → s.rangesUsed m.stack + n / 4096 ≤ 16384 →
      ∃ s' th', exec (.unseal t) s = .next s' ∧ OnlyThreadOf s s' t th' ∧ WroteG c.th th' (wD c.w) 0 ∧ SameBytes s s' ∧
        (∀ i, i < n → s'.innerOnly c.frag.tenant (a + i) = true) ∧
        ∀ u b, (u ≠ c.frag.tenant ∨ b < a ∨ a + n ≤ b) → s'.innerOnly u b = s.innerOnly u b) ∧
    (At s t 0x81 c → 0 < n → s.segmentOf c.frag.tenant a n = some m → c.inTurn s m = true → RangesAligned s → s.wellWrites c.frag.tenant a n = false →
      (s.ranges.filter fun r => r.stack == m.stack).length + s.ranges.length ≤ 16384 → s.badInner c.frag.tenant a n = [] →
      ∃ s' th', exec (.seal t) s = .next s' ∧ OnlyThreadOf s s' t th' ∧ WroteG c.th th' (wD c.w) 0 ∧ SameBytes s s' ∧
        (∀ i, i < n → s'.innerOnly c.frag.tenant (a + i) = false) ∧
        ∀ u b, (u ≠ c.frag.tenant ∨ b < a ∨ a + n ≤ b) → s'.innerOnly u b = s.innerOnly u b)) ∧
  (∀ s t c b d m m2, At s t 0x80 c → onlyUses c.w usesA = true → (c.th.rg (wA c.w)).toNat + 64 ≤ c.frag.cis * 65536 →
    b = c.cisRd s (c.th.rg (wA c.w)).toNat 64 → d = wellDesc b → s.wellRangeBad c.frag.tenant d = none →
    s.segmentOf c.frag.tenant d.inp d.inlen = some m → s.segmentOf c.frag.tenant d.out d.outlen = some m2 →
    s.moving c.frag.tenant m.base = false → s.moving c.frag.tenant m2.base = false → (c.th.rg (wA c.w)).toNat % 64 = 0 →
    wellUnchecked b = false → s.wellTablesBad c.frag.tenant d = false → c.inTurn s m = true → s.wellUp m = true → s.wellUp m2 = true →
    ∃ s' w, exec (.wcall t) s = .next s' ∧ s'.wells = s.wells ++ [w] ∧ w.desc = b ∧ w.st = .queued ∧ w.pos = 0 ∧ w.count = 0 ∧
      w.tenant = c.frag.tenant ∧ w.frag = t.frag ∧ w.stack = m.stack ∧ s'.dev = s.dev ∧ s'.regs = s.regs ∧
      s'.thread? t = some { c.th with st := .ready, pc := c.th.pc + 8, queuedAt := none } ∧
      s'.cis = s.cis.wr (cisKey c.mem.cluster (c.mem.base + ((c.th.rg (wA c.w)).toNat + 0x3F))) (BitVec.ofNat 8 (leAt b 0x3F 1 % 16))) ∧
  (∀ s op units w d, s.live = true → s.tripped = false → s.wells.find? (fun x => x.id == op) = some w → d = wellDesc w.desc →
    s.nextOp w = true → w.usedWells.all (fun k => (s.wellsIn (k / 512)).contains (k % 512)) = true → w.stop = false → w.breach = false →
    s.poisoned w.tenant d.inp 32 = false → d.op = 5 → d.inlen = 32 →
    d.outlen = 32 → w.pos = 0 → 1 ≤ units → 32 ≤ d.dur → s.dev.wf = true → d.out + 32 ≤ 2 ^ 64 →
    ∃ s', exec (.wellInterval op units none) s = .next s' ∧
      s'.devRd w.tenant d.out 32 = s.devRd w.tenant d.inp 32 ∧ (∀ x ∈ s'.wells, x.id ≠ op) ∧
      s'.fld oWellcCnt 31 0 = (s.fld oWellcCnt 31 0 + w.usedWells.length) % 2 ^ 32 ∧
      ∀ a, (a < devKey w.tenant d.out ∨ devKey w.tenant d.out + 32 ≤ a) → s'.dev.rd a = s.dev.rd a) ∧
  (∀ s stack channel bank, s.awake = true → stack < 12 → channel < 32 → bank < 32 →
    ∃ s', exec (.refresh stack channel bank) s = .next s' ∧ SameBytes s s' ∧ s'.regs = s.regs ∧
      Map.getD s'.power.refreshes ((stack * 32 + channel) * 32 + bank) 0 =
        Map.getD s.power.refreshes ((stack * 32 + channel) * 32 + bank) 0 + 1)


/-- R125 to R130, R375 to R377: `quant` gives z for a NaN (with NANQ) and for a zero scale, and for an inactive lane; `dequant` gives
s · (q − z); the statistics update the slot of each active lane's channel and no other byte. -/
def Obligations.QuantAndStatistics : Prop :=
  (∀ s t c e, At s t 0x88 c → onlyUses c.w (usesTy ||| usesMk ||| usesD ||| usesA ||| usesB) = true → wD c.w ≤ 31 → wA c.w ≤ 31 →
    wTy c.w ∈ [1, 2] → e = (c.th.rg (wB c.w)).toNat → e < 2 ^ 32 →
    ∃ s' th' x, exec (.quant t) s = .next s' ∧ OnlyThreadOf s s' t th' ∧ SameBytes s s' ∧ WroteV c.th th' (wD c.w) x ∧
      (∀ i, 32 ≤ i → i < 1024 / tyWidth (wTy c.w) → lane1 (tyWidth (wTy c.w)) x i = 0) ∧
      (∀ i, i < 32 → (c.active i = false ∨ fF32.isNan (lane1 32 (c.th.rv (wA c.w)) i) = true ∨ e % 2 ^ 15 = 0) →
        lane1 (tyWidth (wTy c.w)) x i = ofSigned (tyWidth (wTy c.w)) (toSigned 8 (field e 23 16))) ∧
      ((∃ i, i < 32 ∧ c.active i = true ∧ fF32.isNan (lane1 32 (c.th.rv (wA c.w)) i) = true) → th'.flags.getLsbD 2 = true)) ∧
  (∀ s t c e, At s t 0x89 c → onlyUses c.w (usesTy ||| usesMk ||| usesX ||| usesD ||| usesA ||| usesB ||| usesSub 6 0) = true →
    wD c.w ≤ 31 → wA c.w ≤ 31 → wTy c.w ∈ [1, 2] → field c.w 3 0 = 14 → field c.w 6 4 ≤ (if wTy c.w = 1 then 7 else 3) →
    e = (c.th.rg (wB c.w)).toNat →
    ∃ s' th' x, exec (.dequant t) s = .next s' ∧ OnlyThread s s' t th' ∧ WroteV c.th th' (wD c.w) x ∧ (field e 14 10 ≠ 31 → th'.flags = c.th.flags) ∧
      ∀ i, i < 32 → c.active i = true → lane1 32 x i =
        cvtF fF32 fF32 (dequantise (toSigned (tyWidth (wTy c.w)) (lane1 (tyWidth (wTy c.w)) (c.th.rv (wA c.w)) (32 * field c.w 6 4 + i)))
          (e % 65536) (toSigned 8 (field e 23 16))) % 2 ^ 32) ∧
  (∀ s t c d, onlyUses c.w (usesTy ||| usesMk ||| usesA ||| usesB) = true → wA c.w ≤ 31 → wTy c.w = 14 →
    (c.th.rg (wB c.w)).toNat + 16 ≤ c.frag.cis * 65536 → d = statDesc (c.cisRd s (c.th.rg (wB c.w)).toNat 16) → d.nch = 1 → d.ch0 = 0 →
    fieldAt (c.cisRd s (c.th.rg (wB c.w)).toNat 16) 8 31 26 = 0 → fieldAt (c.cisRd s (c.th.rg (wB c.w)).toNat 16) 0xC 31 24 = 0 →
    d.slots % 64 = 0 → c.inArea d.slots 8 = true → c.inArea d.scales 4 = true → c.active 0 = true →
    (At s t 0x8A c → ∃ s', exec (.statAmax t) s = .next s' ∧
      OnlyThreadOf s s' t { c.th with st := .ready, pc := c.th.pc + 8 } ∧ { s' with frags := s.frags, cis := s.cis } = s ∧
      s'.cis = s.cis.wrN (cisKey c.mem.cluster (c.mem.base + d.slots)) (toLe 8 (amaxSlot (leNat (c.cisRd s d.slots 8))
        (cvtF fF32 fF32 (lane1 32 (c.th.rv (wA c.w)) 0))))) ∧
    (At s t 0x8B c → ∃ s', exec (.statClip t) s = .next s' ∧
      OnlyThreadOf s s' t { c.th with st := .ready, pc := c.th.pc + 8 } ∧ { s' with frags := s.frags, cis := s.cis } = s.drew 64 ∧
      s'.cis = s.cis.wrN (cisKey c.mem.cluster (c.mem.base + d.slots)) (toLe 8 (clipSlot s.free d.tfmt (leNat (c.cisRd s d.scales 4))
        (leNat (c.cisRd s d.slots 8)) (cvtF fF32 fF32 (lane1 32 (c.th.rv (wA c.w)) 0))))))

/-! ## Host queues -/

/-- R448 to R451: a doorbell of an enabled queue with a value up to QSIZE becomes the tail or head and nothing else changes; a disabled queue or a
larger value leaves the queue and writes EV_DOORBELL. A write that sets EN of a disabled queue with a size of at least 1 (and, for a submission
queue, an enabled completion queue) enables it, empty, with the fields as written; a completion queue starts with phase 1. -/
def Obligations.DoorbellsAndEnables : Prop :=
  (∀ s fn q (v : BitVec 32), s.hostUp = true → fn < 256 → q < 64 → s.fnState fn = 0 →
    (s.sqEn fn q = true → v.toNat % 65536 ≤ s.hqFld fn (oSqCfg q) 15 0 →
      ∃ s', exec (.hqSqdb fn q v) s = .next s' ∧ (s'.sqSt fn q).tail = v.toNat % 65536 ∧ { s' with sq := s.sq } = s ∧
        ∀ g p, g < 256 → p < 64 → (g, p) ≠ (fn, q) → s'.sqSt g p = s.sqSt g p) ∧
    (s.cqEn fn q = true → v.toNat % 65536 ≤ s.hqFld fn (oCqCfg q) 15 0 →
      ∃ s', exec (.hqCqdb fn q v) s = .next s' ∧ s'.cqSt fn q = { s.cqSt fn q with head := v.toNat % 65536 } ∧ { s' with cq := s.cq } = s ∧
        ∀ g p, g < 256 → p < 64 → (g, p) ≠ (fn, q) → s'.cqSt g p = s.cqSt g p) ∧
    ((s.sqEn fn q = false ∨ s.hqFld fn (oSqCfg q) 15 0 < v.toNat % 65536) →
      ∃ s', exec (.hqSqdb fn q v) s = .next s' ∧ s'.sq = s.sq ∧ Logged s s' evDoorbell fn [fn, hqBase fn + (0x8000 + 8 * q), v.toNat % 65536]) ∧
    ((s.cqEn fn q = false ∨ s.hqFld fn (oCqCfg q) 15 0 < v.toNat % 65536) →
      ∃ s', exec (.hqCqdb fn q v) s = .next s' ∧ s'.cq = s.cq ∧ Logged s s' evDoorbell fn [fn, hqBase fn + (0x8004 + 8 * q), v.toNat % 65536])) ∧
  (∀ s fn q (v : Word), s.hostUp = true → fn < 256 → q < 64 → bit v.toNat 31 = true → 1 ≤ field v.toNat 15 0 →
    (s.sqEn fn q = false → s.cqEn fn (field v.toNat 21 16) = true →
      ∃ s', exec (.hqSqcfgEn fn q v) s = .next s' ∧ s'.sqEn fn q = true ∧ s'.hqFld fn (oSqCfg q) 15 0 = field v.toNat 15 0 ∧
        s'.cqOf fn q = field v.toNat 21 16 ∧ s'.sqClass fn q = field v.toNat 23 22 ∧ s'.hqFld fn (oSqCfg q) 30 30 = 0 ∧
        s'.sqHead fn q = 0 ∧ (s'.sqSt fn q).tail = 0 ∧ { s' with hq := s.hq, sq := s.sq } = s) ∧
    (s.cqEn fn q = false → field v.toNat 29 22 < vectorCount fn →
      ∃ s', exec (.hqCqcfgEn fn q v) s = .next s' ∧ s'.cqEn fn q = true ∧ s'.hqFld fn (oCqCfg q) 15 0 = field v.toNat 15 0 ∧
        s'.hqFld fn (oCqCfg q) 29 22 = field v.toNat 29 22 ∧ s'.hqFld fn (oCqCfg q) 21 16 = field v.toNat 21 16 ∧
        s'.hqFld fn (oCqCfg q) 47 32 = field v.toNat 47 32 ∧ s'.cqTail fn q = 0 ∧ s'.cqSt fn q = ⟨0, true, 0, none⟩ ∧
        { s' with hq := s.hq, cq := s.cq } = s))


/-- R452, R464, R471: HQ copies the 128-byte entry at HEAD and advances HEAD by one; SCH admits the entry that is its turn, with a free record
slot of the pool with the most, and a well-formed copy needs no more. -/
def Obligations.FetchAndAdmit : Prop :=
  (∀ s fn q c0, s.hostUp = true → s.nextFetch = some (fn, q, c0) →
    s.hostRefused fn ((s.hqWord fn (oSqBase q)).toNat + 128 * s.sqHead fn q) 128 = false → (∀ y ∈ s.cmds, y.id ≠ s.nextCmd) →
    ∃ s' x, exec (.submissionFetch fn q) s = .next s' ∧ s'.cmds = s.cmds ++ [x] ∧ s'.cmd? s.nextCmd = some x ∧ x.fn = fn ∧ x.sq = q ∧
      x.phase = .fetched ∧ x.cls = s.sqClass fn q ∧
      x.entry = s.hostBytes fn ((s.hqWord fn (oSqBase q)).toNat + 128 * s.sqHead fn q) 128 ∧ x.cmdid = leAt x.entry 2 2 ∧
      s'.sqHead fn q = (if s.sqHead fn q = s.hqFld fn (oSqCfg q) 15 0 then 0 else (s.sqHead fn q + 1) % 65536) ∧
      SameBytes s s' ∧ s'.regs = s.regs) ∧
  (∀ s fn q c0, s.hostUp = true → s.nextFetch = some (fn, q, c0) →
    s.hostRefused fn ((s.hqWord fn (oSqBase q)).toNat + 128 * s.sqHead fn q) 128 = true →
    ∃ s', exec (.submissionFetch fn q) s = .next s' ∧ s'.sqEn fn q = false ∧ s'.hqFld fn (oSqCfg q) 30 30 = 1 ∧ s'.cmds = s.cmds ∧
      Logged s s' evQueueFault fn [fn, q, 0]) ∧
  (∀ s x n, s.active = true → s.fld oLcsState 33 33 = 0 → s.nextAdmit = some x → s.cmd? x.id = some x → x.badEntry = false →
    (x.opc = 2 ∨ x.opc = 3) → s.bestPool = some n →
    ∃ s' y, exec (.admission x.id) s = .next s' ∧ s'.cmd? x.id = some y ∧ y.phase = .admitted ∧ y.slot = some (n, s.slotIn n) ∧
      y.seq = s.nextSeq ∧ y.admittedAt = s.clock ∧ y.entry = x.entry ∧ y.bp = x.bp ∧ y.cls = s.admitClass x ∧ s'.nextSeq = s.nextSeq + 1 ∧
      SameBytes s s')

/-! ## Host commands -/

/-- R465 to R467: a piece of a copy moves its bytes between host memory and device space and advances the position; the last piece ends the
command with `ST_OK` and COUNT and VALUE equal to its length; no line cache and no other byte of device space changes. A range that is not
mapped ends it with `ST_BAD_ADDRESS` before anything is moved, an inner-only line ends COPY_OUT with `ST_UNSEALED`, and an uncorrectable line
with `ST_HW_FAULT` and the bytes moved so far as COUNT. -/
def Obligations.Copies : Prop :=
  ∀ s c x, Runs s c x → x.copyOk = true → x.pos < x.copyLen → x.argBase = 0 →
    (x.opc = 2 → (x.started = true ∨ s.devWritable x.fn x.copyDev x.copyLen = true) →
      s.hostRefused x.fn (x.copyHost + x.pos) x.piece = false →
      ∃ s' y, exec (.copyIn c) s = .next s' ∧ s'.devRd x.fn (x.copyDev + x.pos) x.piece = s.hostBytes x.fn (x.copyHost + x.pos) x.piece ∧
        (∀ k, (k < devKey x.fn (x.copyDev + x.pos) ∨ devKey x.fn (x.copyDev + x.pos) + x.piece ≤ k) → s'.dev.rd k = s.dev.rd k) ∧
        (x.pstep = 0 → s'.out = s.out) ∧ s'.clusters = s.clusters ∧ s'.allocs = s.allocs ∧ s'.cis = s.cis ∧
        s'.cmd? c = some y ∧ y.pos = x.pos + x.piece ∧
        (x.pos + x.piece < x.copyLen → y.phase = .admitted ∧ y.bp = (x.pos + x.piece) * 10000 / x.copyLen) ∧
        (x.pos + x.piece = x.copyLen → Answered s' c stOk x.copyLen x.copyLen 10000)) ∧
    (x.opc = 3 → (x.started = true ∨ s.devMapped x.fn x.copyDev x.copyLen = true) → s.anyInner x.fn x.copyDev x.copyLen = false →
      s.poisoned x.fn (x.copyDev + x.pos) x.piece = false → s.hostRefused x.fn (x.copyHost + x.pos) x.piece = false →
      ∃ s' y, exec (.copyOut c) s = .next s' ∧ s'.dev = s.dev ∧ s'.clusters = s.clusters ∧ s'.allocs = s.allocs ∧ s'.cis = s.cis ∧
        s'.cmd? c = some y ∧ y.pos = x.pos + x.piece ∧
        (x.pstep = 0 → s'.hostBytes x.fn (x.copyHost + x.pos) x.piece = s.devRd x.fn (x.copyDev + x.pos) x.piece ∧
          ∀ k, (k < hostKey x.fn (x.copyHost + x.pos) ∨ hostKey x.fn (x.copyHost + x.pos) + x.piece ≤ k) → s'.out.hostMem.rd k = s.out.hostMem.rd k) ∧
        (x.pos + x.piece < x.copyLen → y.phase = .admitted ∧ y.bp = (x.pos + x.piece) * 10000 / x.copyLen) ∧
        (x.pos + x.piece = x.copyLen → Answered s' c stOk x.copyLen x.copyLen 10000)) ∧
    (x.opc = 2 → x.started = false → s.devWritable x.fn x.copyDev x.copyLen = false →
      ∃ s', exec (.copyIn c) s = .next s' ∧ EndsWith s s' c x stBadAddress 0 0 10000) ∧
    (x.opc = 3 → x.started = false → s.devMapped x.fn x.copyDev x.copyLen = false →
      ∃ s', exec (.copyOut c) s = .next s' ∧ EndsWith s s' c x stBadAddress 0 0 10000) ∧
    (x.opc = 3 → (x.started = true ∨ s.devMapped x.fn x.copyDev x.copyLen = true) → s.anyInner x.fn x.copyDev x.copyLen = true →
      (∀ g, x.work ≠ .generate g) →
      ∃ s', exec (.copyOut c) s = .next s' ∧ Answered s' c stUnsealed x.pos x.pos 10000 ∧ s'.dev = s.dev ∧ s'.out = s.out) ∧
    (x.opc = 3 → (x.started = true ∨ s.devMapped x.fn x.copyDev x.copyLen = true) → s.anyInner x.fn x.copyDev x.copyLen = false →
      s.poisoned x.fn (x.copyDev + x.pos) x.piece = true → (∀ g, x.work ≠ .generate g) →
      ∃ s', exec (.copyOut c) s = .next s' ∧ Answered s' c stHwFault x.pos x.pos 10000 ∧ s'.dev = s.dev ∧ s'.out = s.out)

/-- R470, R476, R477: QUERY_PROGRESS answers the position and share of its target; ABORT stops its target with `ST_ABORTED` and then waits for
the target's final entry; both end with `ST_NOT_FOUND` where they name none. -/
def Obligations.QueryAndAbort : Prop :=
  ∀ s c x, Runs s c x → x.targetOk = true →
    (x.opc = 5 → s.target? x = none → ∃ s', exec (.queryProgress c) s = .next s' ∧ EndsWith s s' c x stNotFound 0 0 0) ∧
    (∀ y, x.opc = 5 → s.target? x = some y → ∃ s', exec (.queryProgress c) s = .next s' ∧ EndsWith s s' c x stOk 0 y.pos y.bp) ∧
    (x.opc = 6 → x.started = false → s.target? x = none → ∃ s', exec (.abort c) s = .next s' ∧ EndsWith s s' c x stNotFound 0 0 10000) ∧
    (∀ y, x.opc = 6 → x.started = false → s.target? x = some y → s.cmd? y.id = some y → y.opc ≠ 5 → y.opc ≠ 6 → y.abortProof = false →
      y.phase ≠ .ended → (∀ u ∈ s.fab.updates, u.cmd ≠ y.id) →
      ∃ s' z v, exec (.abort c) s = .next s' ∧ s'.cmd? y.id = some v ∧ v.phase = .ended ∧ (v.status = stAborted ∨ v.status = stBadAddress) ∧
        ((∀ g, y.work ≠ .generate g) → y.vr ≠ 0x131 → v.status = stAborted) ∧
        s'.cmd? c = some z ∧ z.phase = .admitted ∧ z.started = true ∧ z.waits = [y.id] ∧
        z.status = (if v.status = stAborted then stOk else stNotFound) ∧ ∀ f ∈ s'.frags, f.cmd ≠ y.id) ∧
    (∀ y, x.opc = 6 → x.started = false → s.target? x = some y → y.opc ≠ 5 → y.opc ≠ 6 → (∀ u ∈ s.fab.updates, u.cmd ≠ y.id) →
      (y.abortProof = true ∨ y.phase = .ended) → s.cmd? y.id = some y → (y.phase = .ended → y.status ≠ stAborted) →
      ∃ s' z, exec (.abort c) s = .next s' ∧ s'.cmd? y.id = some y ∧ s'.cmd? c = some z ∧ z.phase = .admitted ∧ z.waits = [y.id] ∧
        z.status = stNotFound ∧ SameBytes s s') ∧
    (x.opc = 6 → x.started = true → (∀ y ∈ s.cmds, y.id ∉ x.waits) →
      ∃ s', exec (.abort c) s = .next s' ∧ EndsWith s s' c x x.status 0 0 10000)

/-- R302, R462: LAUNCH of a tenant program makes one root fragment with the shape and claims of its entry and ARG at a read-only copy of the
argument block. -/
def Obligations.LaunchProgram : Prop :=
  ∀ s c x p e, Runs s c x → MemCanonical s → x.opc = 1 → x.varelm = false → x.started = false → s.prog? x (x.u 0x18 8) = some p →
    p.entries[x.u 0x10 4]? = some e →
    ∃ s' f y, exec (.launch c) s = .next s' ∧ f ∈ s'.frags ∧ s'.frags.length = s.frags.length + 1 ∧ f.id = s.nextFrag ∧ f.cmd = c ∧
      f.tenant = x.fn ∧ f.cls = x.cls ∧ f.phase = .dispatchable ∧ f.prog = x.u 0x18 8 ∧ f.df 0 31 0 = e.1 % 2 ^ 32 ∧
      f.nthreads = field e.2.2 6 0 ∧ f.gang = field e.2.2 23 20 + 1 ∧ f.cis = field e.2.1 6 0 ∧ f.pumps = field e.2.1 20 17 ∧
      f.ports = field e.2.1 25 21 ∧ f.tiles = field e.2.1 28 26 ∧ s'.cmd? c = some y ∧ y.started = true ∧ y.phase = .admitted ∧
      (x.args.length = 0 → leAt f.desc 0x10 8 = 0 ∧ s'.dev = s.dev ∧ s'.allocs = s.allocs) ∧
      (0 < x.args.length → s'.devRd x.fn (leAt f.desc 0x10 8) x.args.length = x.args ∧ s'.out = s.out ∧ s'.cis = s.cis)

/-- R463, R468, R469, R479, R619: LOAD_IMAGE of a program image that R463 accepts answers the handle of a new program with its entries and code; of
an accepted model or grammar that of a new model or grammar; one that is not accepted ends with `ST_BAD_IMAGE`, one without room under the quota
with `ST_QUOTA`, one with a poisoned line with `ST_HW_FAULT`; a release takes the program away, and of an unknown handle ends with
`ST_BAD_HANDLE`; a function other than the PF may not load a Varelm library. -/
def Obligations.LoadImage : Prop :=
  ∀ s c x, Runs s c x → x.opc = 4 →
    (∀ b, x.loadOk = true → x.imgRelease = false → x.imgKind ≠ 3 → s.spaceRd x.fn x.imgDev (x.u 0x10 8) x.imgLen = some b →
      (x.imgDev = true → s.poisoned x.fn (x.u 0x10 8) x.imgLen = false) →
      (∀ es code, x.imgKind = 0 → parseProg b = some (es, code) → s.room x.fn b.length = some true →
        ∃ s' p, exec (.loadImage c) s = .next s' ∧ s'.progs = s.progs ++ [p] ∧ p.entries = es ∧ p.code = code ∧ p.tenant = x.fn ∧ p.dying = none ∧
          Answered s' c stOk x.imgLen p.handle 10000) ∧
      (∀ m, x.imgKind = 1 → (Config.parseModel b).filter modelOk = some m → s.room x.fn (denseBytes m) = some true →
        ∃ s' q, exec (.loadImage c) s = .next s' ∧ s'.models = s.models ++ [q] ∧ q.img = m ∧ q.tenant = x.fn ∧ q.dying = none ∧
          Answered s' c stOk x.imgLen q.handle 10000) ∧
      (∀ g, x.imgKind = 2 → (Config.parseGrammar b).filter gramOk = some g → s.room x.fn (16 * g.states.length + g.poolBytes) = some true →
        ∃ s' q, exec (.loadImage c) s = .next s' ∧ s'.grammars = s.grammars ++ [q] ∧ q.img = g ∧ q.tenant = x.fn ∧ q.dying = none ∧
          Answered s' c stOk x.imgLen q.handle 10000) ∧
      (((x.imgKind = 0 ∧ parseProg b = none) ∨ (x.imgKind = 1 ∧ (Config.parseModel b).filter modelOk = none) ∨
          (x.imgKind = 2 ∧ (Config.parseGrammar b).filter gramOk = none)) →
        ∃ s', exec (.loadImage c) s = .next s' ∧ EndsWith s s' c x stBadImage x.imgLen 0 10000) ∧
      (∀ p, x.imgKind = 0 → parseProg b = some p → s.room x.fn b.length = none →
        ∃ s', exec (.loadImage c) s = .next s' ∧ EndsWith s s' c x stQuota x.imgLen 0 10000)) ∧
    (∀ b, x.loadOk = true → x.imgRelease = false → (x.imgKind = 3 → x.fn = 0) → x.imgDev = true →
      s.spaceRd x.fn x.imgDev (x.u 0x10 8) x.imgLen = some b → s.poisoned x.fn (x.u 0x10 8) x.imgLen = true →
      ∃ s', exec (.loadImage c) s = .next s' ∧ EndsWith s s' c x stHwFault 0 0 10000) ∧
    (x.loadOk = true → x.imgRelease = true → x.imgKind = 0 → s.imageLive x (x.u 0x28 8) = true →
      ∃ s', exec (.loadImage c) s = .next s' ∧ (∀ p ∈ s'.progs, p.handle ≠ x.u 0x28 8) ∧
        (∀ p, p.handle ≠ x.u 0x28 8 → (p ∈ s'.progs ↔ p ∈ s.progs)) ∧ Answered s' c stOk 0 0 10000) ∧
    (x.loadOk = true → x.imgRelease = true → (x.imgKind = 3 → x.fn = 0) → s.imageLive x (x.u 0x28 8) = false →
      ∃ s', exec (.loadImage c) s = .next s' ∧ EndsWith s s' c x stBadHandle 0 0 10000) ∧
    (x.imgKind = 3 → x.fn ≠ 0 → ∃ s', exec (.loadImage c) s = .next s' ∧ EndsWith s s' c x stDenied 0 0 10000)

/-! ## Administration -/

/-- R407, R410, R439, R481: PART_CREATE and PART_GROW take as many unallocated blocks as their raw capacity needs where quota and flash suffice,
else end with `ST_QUOTA` and change nothing; a tenant and PID in use, or a class that another partition of the tenant serves, conflict;
PART_DROP marks the partition and then removes it with its blocks; of a partition that does not exist the actions end with `ST_BAD_HANDLE`;
the health log goes to its buffer; a temperature reading raises TMAX of the partitions on its die. -/
def Obligations.Partitions : Prop :=
  (∀ s c x b r n, Runs s c x → x.isAdmin 1 = true → Param s x [(0, 2), (4, 2), (8, 8), (0x12, 2), (0x14, 4)] b → partOk b = true → r = partReq b →
    n = s.rawBlocks (s.rawBytes r.density (r.cap * 10 ^ 9) r.op (r.buf * gib)) →
    (((s.part? r.tenant r.pid).isSome = true ∨ ∃ p ∈ s.parts, p.tenant = r.tenant ∧ p.classes &&& r.classes ≠ 0) →
      ∃ s', exec (.partCreate c) s = .next s' ∧ EndsWith s s' c x stConflict 0 0 10000) ∧
    (s.part? r.tenant r.pid = none → (∀ p ∈ s.parts, p.tenant = r.tenant → p.classes &&& r.classes = 0) →
      (s.partFits r.tenant r.cap n = true →
        ∃ s' p, exec (.partCreate c) s = .next s' ∧ s'.parts = s.parts ++ [p] ∧ p.tenant = r.tenant ∧ p.pid = r.pid ∧ p.capGb = r.cap ∧
          p.density = r.density ∧ p.kind = r.kind ∧ p.op = r.op ∧ p.classes = r.classes ∧ p.bufGib = r.buf ∧ p.readOnly = false ∧
          p.dropping = false ∧ (s.unalloc.take n).length = n ∧
          (∀ i ∈ s.unalloc.take n, ∃ k, s'.block? i = some k ∧ k.part = some (r.tenant, r.pid) ∧ k.st = .free) ∧ s'.units = s.units ∧
          Answered s' c stOk 0 0 10000) ∧
      (s.partFits r.tenant r.cap n = false → ∃ s', exec (.partCreate c) s = .next s' ∧ EndsWith s s' c x stQuota 0 0 10000))) ∧
  (∀ s c x b, Runs s c x → x.isAdmin 2 = true → Param s x [(0, 2), (8, 8)] b → leAt b 1 1 ≠ 0 → leAt b 0 1 ≤ 7 → 1 ≤ leAt b 8 8 →
    leAt b 8 8 ≤ 131072 →
    (s.part? (leAt b 1 1) (leAt b 0 1) = none → ∃ s', exec (.partGrow c) s = .next s' ∧ EndsWith s s' c x stBadHandle 0 0 10000) ∧
    (∀ p n, s.part? (leAt b 1 1) (leAt b 0 1) = some p → n = s.rawBlocks (s.rawBytes p.density (leAt b 8 8 * 10 ^ 9) p.op 0) →
      (s.partFits (leAt b 1 1) (leAt b 8 8) n = true →
        ∃ s' p', exec (.partGrow c) s = .next s' ∧ s'.part? (leAt b 1 1) (leAt b 0 1) = some p' ∧ p'.capGb = p.capGb + leAt b 8 8 ∧
          p'.readOnly = false ∧ { p' with capGb := p.capGb, readOnly := p.readOnly } = p ∧ (∀ i ∈ s.unalloc.take n, ∃ k, s'.block? i = some k ∧ k.part = some (leAt b 1 1, leAt b 0 1) ∧ k.st = .free) ∧
          s'.units = s.units ∧ Answered s' c stOk 0 0 10000) ∧
      (s.partFits (leAt b 1 1) (leAt b 8 8) n = false →
        ∃ s', exec (.partGrow c) s = .next s' ∧ EndsWith s s' c x stQuota 0 0 10000))) ∧
  (∀ s c x b, Runs s c x → x.isAdmin 3 = true → Param s x [(0, 2)] b → leAt b 1 1 ≠ 0 → leAt b 0 1 ≤ 7 →
    (s.part? (leAt b 1 1) (leAt b 0 1) = none → ∃ s', exec (.partDrop c) s = .next s' ∧ EndsWith s s' c x stBadHandle 0 0 10000) ∧
    (∀ p, s.part? (leAt b 1 1) (leAt b 0 1) = some p →
      (x.started = false → ∃ s' y, exec (.partDrop c) s = .next s' ∧ s'.part? (leAt b 1 1) (leAt b 0 1) = some { p with dropping := true } ∧
        s'.cmd? c = some y ∧ y.started = true ∧ y.phase = .admitted ∧ s'.flash = s.flash ∧ SameBytes s s') ∧
      (x.started = true → ∃ s', exec (.partDrop c) s = .next s' ∧ s'.part? (leAt b 1 1) (leAt b 0 1) = none ∧
        (∀ k ∈ s'.flash.blocks, k.part ≠ some (leAt b 1 1, leAt b 0 1)) ∧ Answered s' c stOk 0 0 10000))) ∧
  (∀ s c x p dev, Runs s c x → x.vr = 0x150 → cleanBut x.args [(0, 2), (8, 8), (16, 1)] = true → x.a 0 1 ≤ 7 → x.a 0x10 1 ≤ 1 →
    dev = bit (x.a 0x10 1) 0 → (x.fn ≠ 0 → x.a 1 1 = 0) → addrOk dev (x.a 8 8) = true → x.argBase = 0 →
    s.part? (if x.fn = 0 then x.a 1 1 else x.fn) (x.a 0 1) = some p → s.canWrite x.fn dev (x.a 8 8) 128 = true →
    ∃ s', exec (.vrPartHealth c) s = .next s' ∧ s'.spaceBytes x.fn dev (x.a 8 8) 128 = s.healthLog p ∧
      leAt (s.healthLog p) 0x08 8 = p.user % 2 ^ 64 ∧ leAt (s.healthLog p) 0x20 8 = sat64 p.hostw ∧ leAt (s.healthLog p) 0x28 8 = sat64 p.mediaw ∧
      leAt (s.healthLog p) 0x38 4 = sat32 p.uncorr ∧ leAt (s.healthLog p) 0x48 4 = sat32 p.retiredBlocks ∧
      Answered s' c stOk 0 0 10000 ∧ s'.parts = s.parts) ∧
  (∀ s d h, s.active = true →
    ∃ s', exec (.dieTemperatureReading [(d, h)]) s = .next s' ∧ { s' with parts := s.parts } = s ∧
      ∀ (i : Nat) p, s.parts[i]? = some p → ∃ p', s'.parts[i]? = some p' ∧
        if ∃ b ∈ s.blocksOf p.tenant p.pid, dieOf b.id = d then p'.tmax = max p.tmax h ∧ p'.t0 + p'.t1 + p'.t2 + p'.t3 = p.t0 + p.t1 + p.t2 + p.t3 + 1
        else p' = p)

/-- R222, R482, R484, R485: PARK moves every unit to flash, one a step, and then ends with the device parked; RESUME ends the parked state.
VF_DETACH starts the grace of a running VF, after which its state is 2 and the command ends; VF_ATTACH returns a detached VF to service; either
conflicts in the other states. -/
def Obligations.ParkAndDetach : Prop :=
  (∀ s c x, Runs s c x → x.opc = 7 → x.fn = 0 → x.u 0x10 2 = 0x10 → s.power.parked = false → (∀ u ∈ s.units, u.home = .flash ∨ u.lost = true) →
    ∃ s', exec (.park c) s = .next s' ∧ s'.power.parked = true ∧ s'.power.parking = none ∧ Answered s' c stOk 0 0 10000) ∧
  (∀ s c x u p, Runs s c x → x.opc = 7 → x.fn = 0 → x.u 0x10 2 = 0x10 → s.power.parked = false →
    s.units.find? (fun u => u.home != .flash && !u.lost && !s.wellOn u.uid) = some u → s.unit? u.uid = some u → s.part? 0 0 = some p → p.readOnly = false →
    ∃ s' v y, exec (.park c) s = .next s' ∧ s'.unit? u.uid = some v ∧ v.home = .flash ∧ v.parked = true ∧ v.part = some (0, 0) ∧
      v.bytes = u.bytes ∧ v.lost = false ∧ s'.cmd? c = some y ∧ y.phase = .admitted ∧ s'.dev = s.dev) ∧
  (∀ s c x, Runs s c x → x.opc = 7 → x.fn = 0 → x.u 0x10 2 = 0x11 →
    ∃ s', exec (.resume c) s = .next s' ∧ EndsWith { s with power := { s.power with parked := false } } s' c x stOk 0 0 10000) ∧
  (∀ s c x b, Runs s c x → x.isAdmin 0x20 = true → x.started = false → Param s x [(0, 1), (4, 4)] b → leAt b 0 1 ≠ 0 → leAt b 4 4 ≤ 4000 →
    (s.fnState (leAt b 0 1) = 0 → ∃ s' y, exec (.vfDetach c) s = .next s' ∧ s'.fnState (leAt b 0 1) = 1 ∧
      Map.get? s'.power.detaching (leAt b 0 1) = some (c, s.clock + leAt b 4 4 * 1000000) ∧ s'.cmd? c = some y ∧ y.started = true ∧
      y.phase = .admitted ∧ SameBytes s s') ∧
    (s.fnState (leAt b 0 1) ≠ 0 → ∃ s', exec (.vfDetach c) s = .next s' ∧ EndsWith s s' c x stConflict 0 0 10000)) ∧
  (∀ s vf c due x, s.live = true → s.fnState vf = 1 → Map.get? s.power.detaching vf = some (c, due) → Map.rising s.power.detaching = true →
    (∀ y ∈ s.cmds, y.fn ≠ vf) → s.cmd? c = some x → x.phase = .admitted → x.parent = none →
    ∃ s', exec (.vfDetachGrace vf) s = .next s' ∧ s'.fnState vf = 2 ∧ Map.get? s'.power.detaching vf = none ∧ s'.clock = Nat.max s.clock due ∧
      (∀ p ∈ s'.out.atsCache, p.1 ≠ vf) ∧ Answered s' c stOk 0 0 10000) ∧
  (∀ s c x b, Runs s c x → x.isAdmin 0x21 = true → Param s x [(0, 1)] b → leAt b 0 1 ≠ 0 →
    (s.fnState (leAt b 0 1) = 2 → ∃ s', exec (.vfAttach c) s = .next s' ∧ s'.fnState (leAt b 0 1) = 0 ∧ Answered s' c stOk 0 0 10000 ∧
      (x.argBase = 0 → SameBytes s s')) ∧
    (s.fnState (leAt b 0 1) ≠ 2 → ∃ s', exec (.vfAttach c) s = .next s' ∧ EndsWith s s' c x stConflict 0 0 10000))

/-! ## Collections -/

/-- R28, R38, R504, R505, R507: `vr.create` on a device of no pod makes an empty collection with the shape of its arguments and delivers its handle;
one that the class-0 reserve or the chip does not take ends with `ST_QUOTA`; a worker denies it; `vr.pod.create` on the queen of a pod of one
node publishes the collection's 4,096 buckets under the next epoch, and other roles deny it. -/
def Obligations.CreateCollections : Prop :=
  (∀ s c x co fi bo dev, Runs s c x → x.vr = 0x101 → x.started = false → s.role = 0 → x.createOk [] = true → dev = bit (x.a 0x10 4) 26 →
    s.reserveTakes 0 (x.a 0x16 1) (x.a 0x38 8) = true → s.chipHolds (x.a 0xC 4) = true →
    s.room x.fn (createBytes ⟨x.a 0 4, x.a 4 2, x.a 8 4, x.a 0xC 4, co, fi, bo⟩ (field (x.a 0x10 4) 15 8)) = some true →
    s.inputs x [(bit (x.a 0x10 4) 25, x.a 0x18 8, 2 * x.a 8 4 * x.a 0 4), (bit (x.a 0x10 4) 25, x.a 0x20 8, 2 * x.a 0xC 4 * x.a 0 4),
      (bit (x.a 0x10 4) 25, x.a 0x28 8, 32 * x.a 0 4)] = .ok [co, fi, bo] →
    x.argBase = 0 → x.midCommit = false → s.canWrite x.fn dev (x.a 0x30 8) 8 = true →
    ∃ s' o, exec (.vrCreate c) s = .next s' ∧ s'.colls = s.colls ++ [o] ∧ o.tenant = x.fn ∧ o.dim = x.a 0 4 ∧ o.sub = x.a 4 2 ∧ o.ncent = x.a 8 4 ∧
      o.nlists = x.a 0xC 4 ∧ o.metric = field (x.a 0x10 4) 7 0 ∧ o.attrb = field (x.a 0x10 4) 15 8 ∧ o.recfmt = field (x.a 0x10 4) 23 16 ∧
      o.spill = bit (x.a 0x10 4) 24 ∧ o.compactAt = x.a 0x14 2 ∧ o.cls = x.a 0x16 1 ∧ o.budget = x.a 0x38 8 ∧
      o.coarse = rows16 o.ncent o.dim co ∧ o.fine = rows16 o.nlists o.dim fi ∧
      (∀ l, l < o.nlists → (o.list l).entries = [] ∧ (o.list l).committed = 0) ∧ o.nextLid = 0 ∧ o.pod = none ∧ o.dying = none ∧
      s'.spaceBytes x.fn dev (x.a 0x30 8) 8 = toLe 8 o.handle ∧ (∀ l, l < x.a 0xC 4 → ∃ u ∈ s'.units, u.uid = .fineList o.handle l ∧ u.home ≠ .flash) ∧
      Answered s' c stOk 0 0 10000) ∧
  (∀ s c x, Runs s c x → x.vr = 0x101 → x.started = false → s.role = 0 → x.createOk [] = true →
    (s.reserveTakes 0 (x.a 0x16 1) (x.a 0x38 8) = false ∨ s.chipHolds (x.a 0xC 4) = false) →
    ∃ s', exec (.vrCreate c) s = .next s' ∧ EndsWith s s' c x stQuota 0 x.pos 10000) ∧
  (∀ s c x, Runs s c x → x.vr = 0x101 → x.started = false → s.role = 1 →
    ∃ s', exec (.vrCreate c) s = .next s' ∧ EndsWith s s' c x stDenied 0 x.pos 10000) ∧
  (∀ s c x, Runs s c x → x.vr = 0x160 → x.started = false → s.role ≠ 2 →
    ∃ s', exec (.vrPodCreate c) s = .next s' ∧ EndsWith s s' c x stDenied 0 x.pos 10000) ∧
  (∀ s c x co fi bo dev, Runs s c x → x.vr = 0x160 → x.started = false → s.role = 2 → s.fab.nodes = [] → x.createOk [(0x40, 8)] = true →
    x.a 0x40 4 = 0 → x.a 0x44 4 = 0 → dev = bit (x.a 0x10 4) 26 →
    s.reserveTakes 0 (x.a 0x16 1) (x.a 0x38 8) = true → s.chipHolds (x.a 0xC 4) = true →
    s.room x.fn (createBytes ⟨x.a 0 4, x.a 4 2, x.a 8 4, x.a 0xC 4, co, fi, bo⟩ (field (x.a 0x10 4) 15 8)) = some true →
    s.inputs x [(bit (x.a 0x10 4) 25, x.a 0x18 8, 2 * x.a 8 4 * x.a 0 4), (bit (x.a 0x10 4) 25, x.a 0x20 8, 2 * x.a 0xC 4 * x.a 0 4),
      (bit (x.a 0x10 4) 25, x.a 0x28 8, 32 * x.a 0 4)] = .ok [co, fi, bo] →
    x.argBase = 0 → x.midCommit = false → s.canWrite x.fn dev (x.a 0x30 8) 8 = true →
    ∃ s' o, exec (.vrPodCreate c) s = .next s' ∧ s'.colls = s.colls ++ [o] ∧ o.pod = some (false, false) ∧ o.nlists = x.a 0xC 4 ∧
      (∀ b, b < 4096 → ⟨o.handle, b, s.nodeId⟩ ∈ s'.fab.shards) ∧ (∀ e ∈ s.fab.shards, e ∈ s'.fab.shards) ∧
      s'.fld oFabEpoch 31 0 = (s.fld oFabEpoch 31 0 + 1) % 2 ^ 32 ∧ s'.spaceBytes x.fn dev (x.a 0x30 8) 8 = toLe 8 o.handle ∧
      Answered s' c stOk 0 0 10000)

/-- R39, R215, R226, R227: `vr.drop` takes the collection, its units and its records away; `vr.place` sets class and budget where the class-0
reserve takes it, and commands already admitted keep the class that they had, else it ends with `ST_QUOTA`; `vr.residency` writes the 64-byte
report, and without a live collection ends with `ST_BAD_HANDLE`. -/
def Obligations.DropPlaceResidency : Prop :=
  (∀ s c x o, Runs s c x → x.vr = 0x102 → cleanBut x.args [(0, 8)] = true → s.colls.find? (fun k => k.handle == x.a 0 8) = some o →
    ∃ s', exec (.vrDrop c) s = .next s' ∧ (∀ k ∈ s'.colls, k.handle ≠ x.a 0 8) ∧
      (∀ u ∈ s'.units, unitIsAlloc u.uid = true ∨ unitHandle u.uid ≠ x.a 0 8) ∧
      (∀ b ∈ s'.flash.blocks, ∀ r ∈ b.recs, r.tenant = o.tenant → r.coll = o.index → r.valid = false) ∧
      (∀ k, k.handle ≠ x.a 0 8 → (k ∈ s'.colls ↔ k ∈ s.colls)) ∧ Answered s' c stOk 0 0 10000) ∧
  (∀ s c x o, Runs s c x → x.vr = 0x103 → cleanBut x.args [(0, 8), (0xA, 1), (0x10, 8)] = true → x.a 0xA 1 ≤ 3 → x.midCommit = false →
    s.colls.find? (fun k => k.handle == x.a 0 8) = some o →
    (s.reserveTakes (x.a 0 8) (x.a 0xA 1) (x.a 0x10 8) = true →
      ∃ s' o', exec (.vrPlace c) s = .next s' ∧ s'.colls.find? (fun k => k.handle == x.a 0 8) = some o' ∧
        { o' with cls := o.cls, budget := o.budget, was := o.was } = o ∧ o'.cls = x.a 0xA 1 ∧ o'.budget = x.a 0x10 8 ∧
        (∀ y ∈ s.cmds, y.inFlight = true → y.id ≠ c → y.names.contains o.handle = true → o'.classFor y.id = o.classFor y.id) ∧
        (∀ d, (∀ y ∈ s.cmds, y.id ≠ d) → o'.classFor d = x.a 0xA 1) ∧ s'.units = s.units ∧ Answered s' c stOk 0 0 10000) ∧
    (s.reserveTakes (x.a 0 8) (x.a 0xA 1) (x.a 0x10 8) = false →
      ∃ s', exec (.vrPlace c) s = .next s' ∧ EndsWith s s' c x stQuota 0 x.pos 10000)) ∧
  (∀ s c x dev, Runs s c x → x.vr = 0x104 → cleanBut x.args [(0, 17)] = true → x.a 0x10 1 ≤ 1 → dev = bit (x.a 0x10 1) 0 →
    addrOk dev (x.a 8 8) = true →
    (∀ o, s.coll? x (x.a 0 8) = some o → s.canWrite x.fn dev (x.a 8 8) 64 = true → x.argBase = 0 → x.midCommit = false →
      ∃ s', exec (.vrResidency c) s = .next s' ∧ (s.residency o).length = 64 ∧ s'.spaceBytes x.fn dev (x.a 8 8) 64 = s.residency o ∧
        leAt (s.residency o) 0x28 8 = o.budget % 2 ^ 64 ∧ s'.colls = s.colls ∧ s'.units = s.units ∧ Answered s' c stOk 0 0 10000) ∧
    (s.coll? x (x.a 0 8) = none → ∃ s', exec (.vrResidency c) s = .next s' ∧ EndsWith s s' c x stBadHandle 0 x.pos 10000))

/-- R52, R82, R99: the entries of a search come in pair order of distance and global ID, and no global ID appears twice. -/
def Obligations.SearchOrder : Prop :=
  ∀ (s : State) (miss : Miss) (o : Coll) (b : QueryBody),
    ((s.localSearch miss o b).hits.Pairwise fun p q => pairBefore ktF32 false p q = true) ∧ ((s.localSearch miss o b).hits.map (·.2)).Nodup

/-- R43 to R57: `vr.search` on a collection of this node writes the result of phases 1 to 5 with its header and ends with the header's status, the
number of matches as COUNT, and the lists examined as VALUE. Without a live collection it ends with `ST_BAD_HANDLE`. -/
def Obligations.SearchResult : Prop :=
  (∀ s c x o q t b0 b f r dev, Runs s c x → x.vr = 0x110 → x.names.any s.objLost = false → x.started = false → s.coll? x (x.a 0 8) = some o →
    (o.pod = none ∨ s.role ≠ 2) → x.searchOk o = true →
    s.input x (x.sFlag 9 9 == 1) (x.a 0x18 8) (o.dim * elemBytes (x.sFlag 4 3)) = .ok q →
    (if x.sFlag 2 1 = 2 then s.input x (x.sFlag 11 11 == 1) (x.a 0x58 8) (x.a 0x60 4) else .ok []) = .ok t →
    b0 = x.queryBody (readElems (x.sFlag 4 3) o.dim q) t → b = { b0 with lists := s.chooseLists o b0 } → f = s.localSearch x.mayMiss o b →
    (∀ l ∈ f.probed, o.listSkew l = none) → r = x.resultOf b f (if s.role = 0 then 0 else s.fld oFabEpoch 31 0) →
    dev = bit (x.a 0x14 4) 10 → x.argBase = 0 → x.midCommit = false → (32 ≤ x.a 0x28 4 → s.canWrite x.fn dev (x.a 0x20 8) r.bytes.length = true) →
    ∃ s', exec (.vrSearch c) s = .next s' ∧ (32 ≤ x.a 0x28 4 → s'.spaceBytes x.fn dev (x.a 0x20 8) r.bytes.length = r.bytes) ∧
      Answered s' c r.status r.totalOf (if b.k = everyMatch then f.probed.getLastD 0 else f.probed.length) 10000 ∧
      (dev = false → s'.dev = s.dev) ∧ s'.colls = s.colls) ∧
  (∀ s c x, Runs s c x → x.vr = 0x110 → x.names.any s.objLost = false → s.coll? x (x.a 0 8) = none →
    ∃ s', exec (.vrSearch c) s = .next s' ∧ EndsWith s s' c x stBadHandle 0 x.pos 10000)

/-- R59, R60: `vr.rerank` orders its live candidates by the chosen score and delivers the K best. R100 to R104: `vr.sort` writes the records of its
runs in order of their keys, stably, or the first of each key, and answers how many it wrote. -/
def Obligations.RerankAndSort : Prop :=
  (∀ s c x o cb q t ids hits (r : Result) dev, Runs s c x → x.vr = 0x114 → x.names.any s.objLost = false → s.coll? x (x.a 0 8) = some o →
    x.rerankOk = true → s.input x (bit (x.a 0x10 4) 5) (x.a 0x20 8) (8 * x.a 8 4) = .ok cb →
    (if x.af 0x10 1 0 = 1 then s.input x (bit (x.a 0x10 4) 4) (x.a 0x18 8) (o.dim * elemBytes (x.af 0x10 3 2)) else .ok []) = .ok q →
    (if x.af 0x10 1 0 = 2 then s.input x (bit (x.a 0x10 4) 7) (x.a 0x38 8) (x.a 0x40 4) else .ok []) = .ok t →
    ids = ((List.range (x.a 8 4)).map fun i => leAt cb (8 * i) 8) →
    hits = s.rerankList x.mayMiss o (x.af 0x10 1 0) (forMetric o.metric (readElems (x.af 0x10 3 2) o.dim q)) (x.a 0x30 8) t ids →
    dev = bit (x.a 0x10 4) 6 →
    r = { k := x.a 0xC 4, dev := dev, rbuf := x.a 0x28 8, rlen := x.a 0x14 4, hits := hits, scanned := 0, probed := 0, total := none, filtered := false,
          widened := false, reranked := true, fallback := false, skew := false, epoch := if s.role = 0 then 0 else s.fld oFabEpoch 31 0 } →
    x.argBase = 0 → (32 ≤ x.a 0x14 4 → s.canWrite x.fn dev (x.a 0x28 8) r.bytes.length = true) →
    ∃ s', exec (.vrRerank c) s = .next s' ∧ (32 ≤ x.a 0x14 4 → s'.spaceBytes x.fn dev (x.a 0x28 8) r.bytes.length = r.bytes) ∧
      Answered s' c r.status r.totalOf 0 10000 ∧
      hits.Pairwise (fun p q => pairBefore ktF32 false p q = true) ∧ (∀ h ∈ hits, h.2 ∈ ids)) ∧
  (∀ s c x rs runs out, Runs s c x → x.vr = 0x120 → x.sortOk = true → x.pstep = 0 → s.sortRuns x = .ok rs →
    (∀ r ∈ rs, r.2 < 2 ^ 32 ∧ addrOk x.sortIn r.1 = true) → s.room x.fn (16 * sumBy (·.2) rs) = some true → s.sortInput x rs = .ok runs →
    (x.sortMode = 1 → runs.all x.runSorted = true) → out = x.sorted runs.flatten → x.argBase = 0 →
    s.canWrite x.fn x.sortOut (x.a 8 8) out.flatten.length = true → s.canWrite x.fn x.sortCount (x.a 0x28 8) 8 = true →
    (x.sortOut = x.sortCount → x.a 0x28 8 + 8 ≤ x.a 8 8 ∨ x.a 8 8 + out.flatten.length ≤ x.a 0x28 8) →
    ∃ s', exec (.vrSort c) s = .next s' ∧ s'.spaceBytes x.fn x.sortOut (x.a 8 8) out.flatten.length = out.flatten ∧
      s'.spaceBytes x.fn x.sortCount (x.a 0x28 8) 8 = toLe 8 out.length ∧ Answered s' c stOk out.length out.length 10000 ∧
      (out.Pairwise fun p q => x.sortBefore q p = false) ∧ (x.sortDedup = true → (out.map x.sortKey).Nodup) ∧
      (x.sortMode = 2 → out.length ≤ x.a 0x20 4) ∧ (x.sortDedup = false → x.sortMode ≠ 2 → out.Perm runs.flatten) ∧
      (x.sortDedup = false → x.sortMode ≠ 2 →
        ∀ k, (out.filter fun p => x.sortKey p == k) = runs.flatten.filter fun p => x.sortKey p == k))

/-- R61 to R64: `vr.insert` checks flash and stack memory, then writes one vector a step under the next local ID into the lists nearest to it, beyond
their committed lengths; each list then commits its entry in a step of its own, and with the last one the vector has its global ID; at the end
the global IDs are written. R65, R66: `vr.delete` sets the tombstone of every entry of a live ID, and notes an ID that is not live. -/
def Obligations.InsertAndDelete : Prop :=
  (∀ s c x o idx, Runs s c x → x.vr = 0x111 → x.names.any s.objLost = false → s.coll? x (x.a 0 8) = some o → (o.pod = none ∨ s.role ≠ 2) →
    x.work = .idle → x.insertOk o = true → s.payIdx x o = .ok idx → payOk idx = true →
    s.flashTakes o x.id (insertFlash o (x.a 8 4) idx) = true → s.vectorRoom (x.a 8 4) = true →
    s.room x.fn (x.a 8 4 * o.copies * entryBytes o.sub o.attrb) = some true →
    ∃ s', exec (.vrInsert c) s = .next s' ∧ AtWork s' c (.insert [] stOk none) ∧ s'.colls = s.colls ∧ SameBytes s s') ∧
  (∀ s c x o ids st v, Runs s c x → x.vr = 0x111 → x.names.any s.objLost = false → s.coll? x (x.a 0 8) = some o →
    s.colls.find? (fun k => k.handle == o.handle) = some o → (o.pod = none ∨ s.role ≠ 2) → x.work = .insert ids st none → ids.length < x.a 8 4 →
    o.recfmt = 0 → s.newVec x o ids.length = .ok v → o.nextLid < 2 ^ 40 → s.listsReady o (o.place s.free v.elems) = true →
    ∃ s' o', exec (.vrInsert c) s = .next s' ∧ s'.colls.find? (fun k => k.handle == o.handle) = some o' ∧ o'.nextLid = o.nextLid + 1 ∧
      (∀ p ∈ o.place s.free v.elems, (o'.list p.1).committed = (o.list p.1).committed ∧
        ∃ e, (o'.list p.1).entries = (o.list p.1).entries ++ [e] ∧ e.lid = o.nextLid ∧ e.codes = p.2 ∧ e.attr = v.attr ∧ e.tomb = false) ∧
      (∀ l, l ∉ (o.place s.free v.elems).map (·.1) → o'.list l = o.list l) ∧
      AtWork s' c (.insert ids st (some ⟨o.nextLid, noLoc, (o.place s.free v.elems).map (·.1)⟩))) ∧
  (∀ s c x o ids st n, Runs s c x → x.vr = 0x111 → x.names.any s.objLost = false → s.coll? x (x.a 0 8) = some o →
    s.colls.find? (fun k => k.handle == o.handle) = some o → (o.pod = none ∨ s.role ≠ 2) → x.work = .insert ids st (some n) →
    s.recCovered n.loc = true → n.due ≠ [] → (∀ l ∈ n.due, s.resident (.fineList o.handle l) = true) →
    ∃ s' o' l, exec (.vrInsert c) s = .next s' ∧ s'.colls.find? (fun k => k.handle == o.handle) = some o' ∧ l ∈ n.due ∧
      (o'.list l).entries = (o.list l).entries ∧ (o'.list l).committed = (o.list l).entries.length ∧ (∀ k, k ≠ l → o'.list k = o.list k) ∧
      AtWork s' c (if n.due.filter (· != l) = [] then .insert (ids ++ [s.gidOf o n.lid]) st none
        else .insert ids st (some { n with due := n.due.filter (· != l) }))) ∧
  (∀ s c x o ids st dev, Runs s c x → x.vr = 0x111 → x.names.any s.objLost = false → s.coll? x (x.a 0 8) = some o → (o.pod = none ∨ s.role ≠ 2) →
    x.work = .insert ids st none → ids.length = x.a 8 4 → dev = x.iFlag 7 → x.argBase = 0 →
    s.canWrite x.fn dev (x.a 0x30 8) (8 * ids.length) = true →
    ∃ s', exec (.vrInsert c) s = .next s' ∧ s'.spaceBytes x.fn dev (x.a 0x30 8) (8 * ids.length) = (ids.flatMap fun i => toLe 8 i) ∧
      Answered s' c st 0 ids.length 10000) ∧
  (∀ s c x o outs b, Runs s c x → x.vr = 0x112 → x.names.any s.objLost = false → s.coll? x (x.a 0 8) = some o →
    s.colls.find? (fun k => k.handle == o.handle) = some o → (o.pod = none ∨ s.role ≠ 2) →
    (x.work = .delete outs ∨ (x.work = .idle ∧ x.deleteOk = true ∧ outs = [])) → outs.length < x.a 8 4 →
    s.input x (x.iFlag 0) (x.a 0x10 8 + 8 * outs.length) 8 = .ok b →
    (∀ lid, s.lidOf o (leNat b) = some lid → o.isLive lid = true → (∀ l ∈ o.listsOf lid, s.resident (.fineList o.handle l) = true) →
      ∃ s' o', exec (.vrDelete c) s = .next s' ∧ s'.colls.find? (fun k => k.handle == o.handle) = some o' ∧ o'.isLive lid = false ∧
        (∀ l, ∀ e ∈ (o'.list l).entries, e.lid = lid → e.tomb = true) ∧ (∀ k, k ≠ lid → o'.liveEntries k = o.liveEntries k) ∧
        AtWork s' c (.delete (outs ++ [0]))) ∧
    ((s.lidOf o (leNat b)).all (fun lid => !o.isLive lid) = true →
      ∃ s', exec (.vrDelete c) s = .next s' ∧ s'.colls = s.colls ∧ AtWork s' c (.delete (outs ++ [1])))) ∧
  (∀ s c x o outs dev, Runs s c x → x.vr = 0x112 → x.names.any s.objLost = false → s.coll? x (x.a 0 8) = some o → (o.pod = none ∨ s.role ≠ 2) →
    x.work = .delete outs → outs.length = x.a 8 4 → dev = x.iFlag 1 → x.argBase = 0 → s.canWrite x.fn dev (x.a 0x18 8) outs.length = true →
    ∃ s', exec (.vrDelete c) s = .next s' ∧ s'.spaceBytes x.fn dev (x.a 0x18 8) outs.length = outs ∧ Answered s' c stOk 0 outs.length 10000)

/-- R69 to R72, R134: a compaction keeps a list's untombstoned entries in their order under the next generation, with tags and scale entries that
match it, and holds the old range for the searches that read it; `vr.compact` passes over a list that is below its share and at the end writes its
report; automatic compaction does the same once the tombstoned share has reached COMPACT_AT; the range is released when those searches have
finished. -/
def Obligations.Compaction : Prop :=
  (∀ s c x o n a b d e f, Runs s c x → x.vr = 0x113 → x.names.any s.objLost = false → s.coll? x (x.a 0 8) = some o →
    s.colls.find? (fun k => k.handle == o.handle) = some o → x.work = .compact n a b d e f →
    (n ≤ (x.compactSpan o).2 → (x.af 8 1 0 ≠ 0 ∨ x.a 0xC 4 ≤ (o.list n).share) → s.compactable o n = true →
      ∃ s' o', exec (.vrCompact c) s = .next s' ∧ s'.colls.find? (fun k => k.handle == o.handle) = some o' ∧
        (o'.list n).entries = (o.list n).entries.filter (fun e => !e.tomb) ∧ (o'.list n).committed = (o'.list n).entries.length ∧
        (o'.list n).gen = ((o.list n).gen + 1) % 256 ∧ o'.listSkew n = none ∧ (∀ l, l ≠ n → o'.list l = o.list l) ∧
        AtWork s' c (.compact (n + 1) (a + 1) (b + 1) (d + ((o.list n).entries.filter (·.tomb)).length) (e + o.freed n)
          (f + (s.orphans o n).length)) ∧
        ∃ r ∈ s'.oldRanges, r.handle = o.handle ∧ r.list = n ∧
          ∀ y ∈ s.cmds, y.phase = .admitted → y.vr = 0x110 → y.names.contains o.handle = true → y.id ∈ r.readers) ∧
    (n ≤ (x.compactSpan o).2 → x.af 8 1 0 = 0 → (o.list n).share < x.a 0xC 4 →
      ∃ s', exec (.vrCompact c) s = .next s' ∧ s'.colls = s.colls ∧ AtWork s' c (.compact (n + 1) (a + 1) b d e f)) ∧
    (∀ dev, (x.compactSpan o).2 < n → dev = bit (x.a 8 4) 2 → x.argBase = 0 → s.canWrite x.fn dev (x.a 0x18 8) 32 = true →
      ∃ s', exec (.vrCompact c) s = .next s' ∧ s'.spaceBytes x.fn dev (x.a 0x18 8) 32 = toLe 4 a ++ toLe 4 b ++ toLe 8 d ++ toLe 8 e ++ toLe 8 f ∧
        Answered s' c stOk 0 (x.compactSpan o).2 10000)) ∧
  (∀ s o h l, s.active = true → s.colls.find? (fun k => k.handle == h) = some o → o.dying = none → o.compactAt ≠ 0 → l < o.nlists →
    o.compactAt ≤ (o.list l).share → s.compactable o l = true →
    ∃ s' o', exec (.autoCompaction h l) s = .next s' ∧ s'.colls.find? (fun k => k.handle == h) = some o' ∧
      (o'.list l).entries = (o.list l).entries.filter (fun e => !e.tomb) ∧ (o'.list l).gen = ((o.list l).gen + 1) % 256 ∧
      o'.listSkew l = none ∧ (∀ k, k ≠ l → o'.list k = o.list k) ∧ s'.cmds = s.cmds) ∧
  (∀ s r v, s.live = true → s.oldRanges.find? (fun k => k.id == r) = some v → s.noneOf v.readers = true →
    ∃ s', exec (.rangeRelease r) s = .next s' ∧ (∀ k ∈ s'.oldRanges, k.id ≠ r) ∧ { s' with oldRanges := s.oldRanges } = s)

/-! ## Models, memories and allocations -/

/-- R237, R240, R242, R243, R246: `vr.embed` writes one vector for each text and its report; `vr.mem.create` makes an empty memory and delivers its
handle; `vr.mem.drop` takes it away; `vr.model.info` writes its 64-byte report, and without a live model ends with `ST_BAD_HANDLE`; re-clustering
enters every full block once in each index, which has as many lists as R246 says. -/
def Obligations.ModelPrograms : Prop :=
  (∀ s c x o ts rows d, Runs s c x → x.vr = 0x130 → x.names.any s.objLost = false → s.model? x (x.a 0 8) = some o → x.embedOk = true →
    s.embedTexts x = .ok ts → o.tensors.findSome? QTensor.skew = none →
    rows = (ts.zipIdx.map fun t => writeElems (x.af 0xC 2 1) (s.embedding t.2 o (bit (x.a 0xC 4) 3) t.1)) → d = bit (x.a 0xC 4) 5 →
    x.a 0x20 8 + rows.flatten.length ≤ 2 ^ 64 → x.argBase = 0 →
    (∀ (i : Nat) r, rows[i]? = some r → s.canWrite x.fn d (x.a 0x20 8 + (rows.take i).flatten.length) r.length = true) →
    s.canWrite x.fn (bit (x.a 0xC 4) 6) (x.a 0x28 8) 8 = true →
    (d = bit (x.a 0xC 4) 6 → x.a 0x28 8 + 8 ≤ x.a 0x20 8 ∨ x.a 0x20 8 + rows.flatten.length ≤ x.a 0x28 8) →
    ∃ s', exec (.vrEmbed c) s = .next s' ∧ s'.spaceBytes x.fn d (x.a 0x20 8) rows.flatten.length = rows.flatten ∧
      leAt (s'.spaceBytes x.fn (bit (x.a 0xC 4) 6) (x.a 0x28 8) 8) 0 4 =
        (ts.filter fun t => decide (o.img.inputLen < (tokenise o.img t).length)).length % 2 ^ 32 ∧ Answered s' c stOk 0 0 10000) ∧
  (∀ s c x o d, Runs s c x → x.vr = 0x132 → s.model? x (x.a 0 8) = some o → x.memOk = true → d = bit (x.a 0xC 4) 2 → x.argBase = 0 →
    s.room x.fn (memBytes o.img 0) = some true → s.canWrite x.fn d (x.a 0x18 8) 8 = true →
    ∃ s' m, exec (.vrMemCreate c) s = .next s' ∧ s'.mems = s.mems ++ [m] ∧ m.tenant = o.tenant ∧ m.model = o.handle ∧ m.cap = x.a 8 4 ∧ m.tokens = [] ∧
      m.blocks = [] ∧ m.cls = x.af 0xC 1 0 ∧ m.budget = x.a 0x10 8 ∧ m.temp = false ∧ s'.spaceBytes x.fn d (x.a 0x18 8) 8 = toLe 8 m.handle ∧
      Answered s' c stOk 0 0 10000) ∧
  (∀ s c x, Runs s c x → x.vr = 0x133 → cleanBut x.args [(0, 8)] = true →
    ∃ s', exec (.vrMemDrop c) s = .next s' ∧ s'.mems = s.mems.filter (fun m => m.handle != x.a 0 8) ∧
      (∀ u ∈ s'.units, unitIsAlloc u.uid = true ∨ unitHandle u.uid ≠ x.a 0 8) ∧ Answered s' c stOk 0 0 10000) ∧
  (∀ s c x d, Runs s c x → x.vr = 0x134 → cleanBut x.args [(0, 17)] = true → x.a 0x10 1 ≤ 1 → d = bit (x.a 0x10 1) 0 → addrOk d (x.a 8 8) = true →
    (∀ o, s.model? x (x.a 0 8) = some o → s.canWrite x.fn d (x.a 8 8) 64 = true → x.argBase = 0 →
      ∃ s', exec (.vrModelInfo c) s = .next s' ∧ s'.spaceBytes x.fn d (x.a 8 8) 64 = modelReport o.img ∧
        leAt (modelReport o.img) 4 4 = o.img.width % 2 ^ 32 ∧ leAt (modelReport o.img) 0x14 4 = o.img.vocab.length % 2 ^ 32 ∧
        leAt (modelReport o.img) 0x20 8 = denseBytes o.img % 2 ^ 64 ∧ Answered s' c stOk 0 0 10000) ∧
    (s.model? x (x.a 0 8) = none → ∃ s', exec (.vrModelInfo c) s = .next s' ∧ EndsWith s s' c x stBadHandle 0 x.pos 10000)) ∧
  (∀ s h m o, s.active = true → s.mems.find? (fun k => k.handle == h) = some m → s.models.find? (fun k => k.handle == m.model) = some o →
    0 < m.full → 2 * Nat.max 1 m.clustered ≤ m.full →
    ∃ s' m', exec (.reClustering h) s = .next s' ∧ s'.mems.find? (fun k => k.handle == h) = some m' ∧
      { m' with clustered := m.clustered, indexes := m.indexes } = m ∧ m'.clustered = m.full ∧ m'.indexes.length = m.indexes.length ∧
      (∀ ix ∈ m'.indexes, ix.lists.length = coarseCount m.full ∧
        ∀ b, b < m.full → (ix.lists.flatMap fun f => f.entries.map (·.lid)).count b = 1) ∧
      { s' with mems := s.mems, free := s.free } = s)

/-- R259 to R263, R289 to R292: `vr.generate` begins with the tokens of its text and the first record position zeroed, on the memory that it names
or on a temporary one, appends one prompt token a step to its memory, and after MAX_TOKENS ends with an END record and VALUE equal to the tokens
generated. -/
def Obligations.GenerateSteps : Prop :=
  ∀ s c x o dev, Runs s c x → x.vr = 0x131 → s.model? x (x.a 0 8) = some o → dev = x.genFlag 3 →
    (∀ text len start prompt, x.work = .idle → x.genOk = true →
      len = ((s.mems.find? fun k => k.handle == x.a 8 8).map (·.tokens.length)).getD 0 → start = (if len = 0 then startToken o.img else []) →
      s.room x.fn (genBytes o.img len (Nat.min (start.length + x.a 0x18 4 + if x.genFlag 8 then x.maxTok else 0) (16777216 - len))) = some true →
      s.genLost x 0 = false → s.input x (x.genFlag 2) (x.a 0x10 8) (x.a 0x18 4) = .ok text → x.nstop = 0 →
      prompt = start ++ tokenise o.img text → s.canWrite x.fn dev (x.a 0x20 8) 4 = true →
      (x.a 8 8 ≠ 0 →
        ∃ s', exec (.vrGenerate c) s = .next s' ∧ AtWork s' c (.generate (genStart (x.a 8 8) prompt [])) ∧
          s'.spaceBytes x.fn dev (x.a 0x20 8) 4 = [0, 0, 0, 0] ∧ s'.mems = s.mems) ∧
      (x.a 8 8 = 0 →
        ∃ s' m, exec (.vrGenerate c) s = .next s' ∧ s'.mems = s.mems ++ [m] ∧ m.temp = true ∧ m.tokens = [] ∧ m.model = o.handle ∧
          AtWork s' c (.generate (genStart m.handle prompt [])) ∧ s'.spaceBytes x.fn dev (x.a 0x20 8) 4 = [0, 0, 0, 0])) ∧
    (∀ g tok rest m, x.work = .generate g → g.prompt = tok :: rest → g.rank ≠ [] → s.genLost x g.mem = false → s.tokenSkew o g = none →
      s.mems.find? (fun k => k.handle == g.mem) = some m → m.tokens.length < m.cap → s.tokenReady x o g = true →
      ∃ s' m' g', exec (.vrGenerate c) s = .next s' ∧ s'.mems.find? (fun k => k.handle == g.mem) = some m' ∧ m'.tokens = m.tokens ++ [tok] ∧
        (m.opened.length + 1 < 64 → m'.blocks = m.blocks ∧ m'.opened.length = m.opened.length + 1) ∧
        (64 ≤ m.opened.length + 1 → m'.blocks.length = m.blocks.length + 1 ∧ m'.opened = []) ∧
        AtWork s' c (.generate g') ∧ g'.prompt = rest ∧ g'.fed = g.fed + 1 ∧ g'.gen = g.gen ∧ g'.text = g.text ∧ SameBytes s s') ∧
    (∀ g a, x.work = .generate g → g.prompt = [] → x.maxTok ≤ g.gen → s.genLost x g.mem = false → s.tokenSkew o g = none →
      g.text.length ≤ g.released → a = x.a 0x20 8 + g.out → x.argBase = 0 → a + 36 ≤ 2 ^ 64 →
      (∀ i n, i + n ≤ 36 → s.canWrite x.fn dev (a + i) n = true) →
      ∃ s', exec (.vrGenerate c) s = .next s' ∧ Answered s' c stOk 0 g.gen 10000 ∧
        leAt (s'.spaceBytes x.fn dev a 8) 0 4 = (g.seq + 1) % 2 ^ 32 ∧ leAt (s'.spaceBytes x.fn dev a 8) 4 4 = 16 * 65536 + 2)

/-- R317, R320 to R322: `vr.alloc` maps zeroed bytes at a new base, which it delivers; `vr.free` unmaps an allocation, and its memory returns, reading
zero, once every command admitted before has completed. -/
def Obligations.Allocations : Prop :=
  (∀ s c x d, Runs s c x → x.vr = 0x140 → x.argBase = 0 → x.allocOk = true → d = bit (x.a 8 4) 2 →
    (s.room x.fn (x.a 0 8) = some true → s.canWrite x.fn d (x.a 0x10 8) 8 = true → s.newBase x.fn (x.a 0 8) + x.a 0 8 ≤ 2 ^ 64 →
      ∃ s' a, exec (.vrAlloc c) s = .next s' ∧ s'.allocs = s.allocs ++ [a] ∧ a.tenant = x.fn ∧ a.size = x.a 0 8 ∧ a.mapped = true ∧
        a.readOnly = false ∧ a.freeing = none ∧ a.shared = (x.af 8 1 1 == 1) ∧ a.wellSeg = (x.af 8 0 0 == 1) ∧
        s'.spaceBytes x.fn d (x.a 0x10 8) 8 = toLe 8 a.base ∧ (∀ i, i < x.a 0 8 → s'.dev.rd (devKey x.fn a.base + i) = 0) ∧
        Answered s' c stOk 0 0 10000) ∧
    (s.room x.fn (x.a 0 8) = none → ∃ s', exec (.vrAlloc c) s = .next s' ∧ EndsWith s s' c x stQuota 0 x.pos 10000)) ∧
  (∀ s c x, Runs s c x → x.vr = 0x141 → x.argBase = 0 → cleanBut x.args [(0, 8)] = true →
    (s.liveAlloc x.fn (x.a 0 8) = true →
      ∃ s', exec (.vrFree c) s = .next s' ∧ (∀ m ∈ s'.allocs, m.tenant = x.fn → m.base = x.a 0 8 → m.mapped = false ∧ m.freeing.isSome = true) ∧
        (∀ m, (m.tenant ≠ x.fn ∨ m.base ≠ x.a 0 8) → (m ∈ s'.allocs ↔ m ∈ s.allocs)) ∧ SameBytes s s' ∧ Answered s' c stOk 0 0 10000) ∧
    (s.liveAlloc x.fn (x.a 0 8) = false → ∃ s', exec (.vrFree c) s = .next s' ∧ EndsWith s s' c x stBadHandle 0 x.pos 10000)) ∧
  (∀ s t b m readers, s.live = true → s.allocs.find? (fun m => m.tenant == t && m.base == b) = some m → m.freeing = some readers →
    (∀ y ∈ s.cmds, y.id ∈ readers → y.phase = .ended) →
    ∃ s', exec (.allocationReturn t b) s = .next s' ∧ (∀ a ∈ s'.allocs, a.tenant ≠ t ∨ a.base ≠ b) ∧ (∀ u ∈ s'.units, u.uid ≠ .alloc t b) ∧
      (∀ i, i < m.size → s'.dev.rd (devKey t b + i) = 0) ∧ s'.cmds = s.cmds ∧ s'.out = s.out ∧ s'.regs = s.regs)

/-! ## Completion and functions -/

/-- R306, R453, R454, R459, R486: a tenant program completes when its last fragment has committed; its 32-byte entry goes to TAIL, which advances,
and the command is gone; a disabled queue drops it; the timer sends the message that is due; a failed host access ends a command with
`ST_BAD_ADDRESS` and is logged under AER. -/
def Obligations.CompletionEntries : Prop :=
  (∀ s c x, s.live = true → s.cmd? c = some x → x.parent = none → x.phase = .admitted → x.opc = 1 → x.varelm = false → x.started = true →
    (∀ f ∈ s.frags, f.cmd ≠ c) → ∃ s', exec (.commandComplete c) s = .next s' ∧ EndsWith s s' c x x.status 0 x.pos 10000) ∧
  (∀ s c x q, s.awake = true → s.fld oSafStatus 0 0 = 0 → MemCanonical s → s.cmd? c = some x → x.phase = .ended → x.parent = none → x.cq = some q →
    s.cqEn x.fn q = true → 0 < s.cqFree x.fn q → s.hostRefused x.fn ((s.hqWord x.fn (oCqBase q)).toNat + 32 * s.cqTail x.fn q) 32 = false →
    ∃ s', exec (.completionEntry c) s = .next s' ∧ s'.cmd? c = none ∧ s'.cqTail x.fn q = (s.cqTail x.fn q + 1) % s.cqSize x.fn q ∧
      (s'.cqSt x.fn q).phase = (if (s.cqTail x.fn q + 1) % s.cqSize x.fn q = 0 then !(s.cqSt x.fn q).phase else (s.cqSt x.fn q).phase) ∧
      s'.hostBytes x.fn ((s.hqWord x.fn (oCqBase q)).toNat + 32 * s.cqTail x.fn q) 32 =
        cqEntry 0 x.sq x.cmdid x.status x.count x.value x.finalBp (s.cqSt x.fn q).phase (s.sqHead x.fn x.sq)) ∧
  (∀ s c x, s.awake = true → s.fld oSafStatus 0 0 = 0 → s.cmd? c = some x → x.phase = .ended → x.parent = none → (∀ q, x.cq = some q → s.cqEn x.fn q = false) →
    ∃ s', exec (.completionEntry c) s = .next s' ∧ s'.cmd? c = none ∧ s'.out = s.out ∧ s'.hq = s.hq) ∧
  (∀ s fn q t, s.live = true → (s.cqSt fn q).firstUnsig = some t → s.hqFld fn (oCqCfg q) 47 32 ≠ 0 → s.hqFld fn (oCqCfg q) 30 30 = 1 →
    s.vecMasked fn (s.hqFld fn (oCqCfg q) 29 22) = false →
    ∃ s', exec (.interruptTimer fn q) s = .next s' ∧ s'.out.msix = s.out.msix ++ [(fn, s.hqFld fn (oCqCfg q) 29 22)] ∧ (s'.cqSt fn q).unsig = 0 ∧
      (s'.cqSt fn q).firstUnsig = none ∧ s'.clock = Nat.max s.clock (t + s.hqFld fn (oCqCfg q) 47 32 * 1000000) ∧ s'.cmds = s.cmds ∧ SameBytes s s') ∧
  (∀ s c x, s.live = true → s.cmd? c = some x → x.parent = none → x.phase = .admitted → x.usesHost = true → x.work = .idle →
    ∃ s' y, exec (.hostAccessFault c) s = .next s' ∧ s'.cmd? c = some y ∧ y.phase = .ended ∧ y.status = stBadAddress ∧
      (s.out.aer ++ [x.fn]) <+: s'.out.aer ∧ (x.vr ≠ 0x131 → s'.out.aer = s.out.aer ++ [x.fn]) ∧ ∀ f ∈ s'.frags, f.cmd ≠ c)

/-- R479, R480: after a reset of a function its queues are disabled, its other queue registers, progress slots and MSI-X words hold their reset values
and of its commands only admitted drops and releases remain; a reset of the PF, or of the PCIe endpoint, does so to every function. -/
def Obligations.FunctionResets : Prop :=
  (∀ s fn, s.hostUp = true → fn < 256 →
    ∃ s', exec (.functionLevelReset fn) s = .next s' ∧ ((∀ x ∈ s.cmds, x.midCommit = false) → s'.colls = s.colls) ∧ s'.dev = s.dev ∧
      ∀ f, (f = fn ∨ fn = 0 ∧ f < 256) → (∀ q, q < 64 → s'.sqEn f q = false ∧ s'.cqEn f q = false) ∧
        (∀ y ∈ s'.cmds, y.fn = f → y.parent.isSome = true ∨ (y.unstoppable = true ∧ y.inFlight = true)) ∧
        (∀ k, k < 8192 → Map.get? s'.pslot (f * 8192 + k) = none ∧ Map.get? s'.bar4 (f * 8192 + k) = none)) ∧
  (∀ s, s.awake = true → ∃ s', exec .pcieReset s = .next s' ∧ ((∀ x ∈ s.cmds, x.midCommit = false) → s'.colls = s.colls) ∧ s'.fld oPwrState 2 2 = s.fld oPwrState 2 2 ∧
    ∀ f, f < 256 → ∀ q, q < 64 → s'.sqEn f q = false ∧ s'.cqEn f q = false)

/-- R443, R504, R651, R667: a configuration request is answered with its value once start-up has passed step 3 and with Request Retry Status before;
`vr.fab.config` of the PF installs the pod table, and a VF's is denied; an ATS invalidation drops cached translations and makes a range
refused or translated. -/
def Obligations.ConfigurationAndTables : Prop :=
  (∀ s fn item, s.awake = true → s.power.link = true → fn < 256 →
    ∃ s' r, exec (.configRequest fn item) s = .next s' ∧ { s' with out := { s'.out with cfg := s.out.cfg } } = s ∧ s'.out.cfg = s.out.cfg ++ [(fn, r)] ∧
      (s.fld oPwrState 11 8 ≤ 3 → r = none) ∧ (3 < s.fld oPwrState 11 8 → r.isSome = true) ∧
      (3 < s.fld oPwrState 11 8 → item = .vendorId → r = some 0x1F2D) ∧ (3 < s.fld oPwrState 11 8 → item = .classCode → r = some 0x120000) ∧
      (3 < s.fld oPwrState 11 8 → item = .deviceId → r = some (if fn = 0 then 0x8512 else 0x8513))) ∧
  (∀ s c x b t, Runs s c x → x.vr = 0x161 → x.fn = 0 → 1 ≤ x.a 8 4 → x.a 8 4 ≤ 4351 → x.a 0xC 4 < 2 → addrOk (bit (x.a 0xC 4) 0) (x.a 0 8) = true →
    cleanBut x.args [(0, 16)] = true → s.input x (bit (x.a 0xC 4) 0) (x.a 0 8) (144 * x.a 8 4) = .ok b →
    ((List.range (x.a 8 4)).mapM fun i => fabEntry s.nodeId ((b.drop (144 * i)).take 144)) = some t →
    ∃ s', exec (.vrFabConfig c) s = .next s' ∧ s'.fab.nodes = t ∧ s'.regs = s.regs ∧ Answered s' c stOk 0 0 10000) ∧
  (∀ s c x, Runs s c x → x.vr = 0x161 → x.fn ≠ 0 → ∃ s', exec (.vrFabConfig c) s = .next s' ∧ EndsWith s s' c x stDenied 0 x.pos 10000) ∧
  (∀ s fn base len present, s.awake = true → s.power.link = true → fn < 256 → 0 < len →
    ∃ s', exec (.atsInvalidation fn base len present) s = .next s' ∧ s'.out.hostMem = s.out.hostMem ∧ s'.cmds = s.cmds ∧
      (∀ p ∈ s'.out.atsCache, p.1 = fn → p.2 * 4096 + 4096 ≤ base ∨ base + len ≤ p.2 * 4096) ∧
      (∀ a, base ≤ a → a < base + len → s'.hostRefused fn a 1 = !present) ∧
      (∀ f a, (f ≠ fn ∨ a < base ∨ base + len ≤ a) → s'.hostRefused f a 1 = s.hostRefused f a 1))

/-! ## Fragments -/

/-- R300, R303, R304, R307, R309, R314, R638: a dispatched fragment runs on the clusters chosen for it, each thread at ENTRY with g1 to g5 as R300 says
and a zeroed area; the threads of a gated cluster start at its wake; a run lost to a fault is dispatched again, elsewhere, up to three times, a
fragment of a search as well; a
commit applies the log, gives its status to a command that has none, and turns the posts into fragments. -/
def Obligations.Fragments : Prop :=
  (∀ s x ls, s.active = true → s.tripped = false → s.nextDispatch = some x → s.frag? x.id = some x → x.isVarelm = false → s.goodClusters x ls = true →
    ∃ s' y, exec (.fragmentDispatch x.id ls) s = .next s' ∧ s'.frag? x.id = some y ∧ y.phase = .running ∧ y.members.map (·.cluster) = ls ∧
      y.dispAt = s.clock ∧ y.desc = x.desc ∧ s'.dev = s.dev ∧ s'.out = s.out ∧
      ∀ (m l i : Nat), ls[m]? = some l → i < x.nthreads →
        ∃ th b, s'.thread? ⟨x.id, m, i⟩ = some th ∧ th.pc = x.df 0 31 0 ∧ th.rg 1 = BitVec.ofNat 64 (leAt x.desc 0x10 8) ∧ th.rg 2 = BitVec.ofNat 64 i ∧
          th.rg 3 = BitVec.ofNat 64 m ∧ th.rg 4 = BitVec.ofNat 64 x.gang ∧ th.rg 5 = BitVec.ofNat 64 (x.cis * 65536) ∧
          th.st = (if s.asleep l then .free else .ready) ∧ (s'.member? x.id m).map (·.base) = some b ∧
          ∀ o, o < x.cis * 65536 → s'.cis.rd (cisKey l (b + o)) = 0) ∧
  (∀ s l x m mb i th, s.active = true → s.frag? x = some m → m.phase = .running → x ∈ (s.cluster l).waking → m.members[i]? = some mb → mb.cluster = l →
    mb.threads = [th] → th.st = .free →
    ∃ s', exec (.clusterWake l) s = .next s' ∧ (s'.cluster l).gating = .running ∧ (s'.cluster l).waking = [] ∧
      s'.thread? ⟨x, i, 0⟩ = some { th with st := .ready } ∧ { s' with frags := s.frags, clusters := s.clusters } = s) ∧
  (∀ s f x, s.live = true → s.frag? f = some x → x.phase = .running → x.isVarelm = false → x.reissues < 3 →
    ∃ s' y, exec (.fragmentReissue f .other) s = .next s' ∧ s'.frag? f = some y ∧ y.phase = .dispatchable ∧ y.reissues = x.reissues + 1 ∧
      y.avoid = x.members.map (·.cluster) ∧ y.posts = [] ∧ y.logs = [] ∧ y.desc = x.desc ∧ s'.dev = s.dev ∧ s'.out = s.out) ∧
  (∀ s f x c, s.live = true → s.frag? f = some x → x.phase = .running → x.isVarelm = false → 3 ≤ x.reissues → s.cmd? x.cmd = some c →
    c.phase = .admitted → c.parent = none →
    ∃ s', exec (.fragmentReissue f .other) s = .next s' ∧ EndsWith s s' x.cmd c stHwFault 0 c.pos 10000) ∧
  (∀ s f c x, Runs s c x → x.vr = 0x110 → x.work = .idle → (∀ m ∈ s.moves, m.demand.map (·.1) ≠ some c) →
    ((x.losses.filter (· == f)).length < 3 →
      ∃ s', exec (.fragmentReissue f (.programOther c)) s = .next s' ∧ s'.cmd? c = some { x with losses := x.losses ++ [f] } ∧
        s'.fld (oTenFrag x.fn) 63 32 = Nat.min (s.fld (oTenFrag x.fn) 63 32 + 1) (2 ^ 32 - 1) ∧ SameBytes s s' ∧ s'.out = s.out) ∧
    (3 ≤ (x.losses.filter (· == f)).length →
      ∃ s', exec (.fragmentReissue f (.programOther c)) s = .next s' ∧ EndsWith s s' c x stHwFault 0 x.pos 10000)) ∧
  (∀ s f x c, s.active = true → s.frag? f = some x → x.isVarelm = false → x.phase = .running → s.allEnded x = true → x.inner = false → x.held = [] →
    (∀ m ∈ x.members, (s.cluster m.cluster).lines = []) → x.prog2 = none → s.cmd? x.cmd = some c → c.phase = .admitted →
    (x.posts = [] → MemCanonical s → ∀ a v, x.logs = [⟨false, a, v⟩] → s.devWritable x.tenant a 8 = true →
      ∃ s' y, exec (.fragmentCommit f) s = .next s' ∧ s'.devRd x.tenant a 8 = toLe 8 v.toNat ∧ (∀ g ∈ s'.frags, g.id ≠ f) ∧ s'.cis = s.cis ∧
        s'.cmd? x.cmd = some y ∧ y.phase = .admitted ∧ y.status = (match x.status with | none => c.status | some e => if c.status = 0 then e else c.status)) ∧
    (∀ b, x.posts = [b] → x.logs = [] → descBad b = false → bit (leAt b 4 4) 24 = false → bit (leAt b 4 4) 25 = false →
      (fieldAt b 4 23 20 + 1) * fieldAt b 8 6 0 ≤ s.cisQuota x.tenant →
      ∃ s' g, exec (.fragmentCommit f) s = .next s' ∧ g ∈ s'.frags ∧ g.id = s.nextFrag ∧ g.desc = b ∧ g.cmd = x.cmd ∧ g.phase = .dispatchable ∧
        g.prog = x.prog ∧ SameBytes s s'))


/-! ## Stack memory, moves and flash -/

/-- R201, R394, R395, R610, R617 to R620: a patrolled line is clean, is corrected and counted, or poisons the allocation's line or loses its unit; the
first failing channel of a stack takes the spare, a later one takes 2,304 MiB out of use; a failed pool leaves service, and its commands end with
`ST_HW_FAULT` where its mirror is out too, else go on elsewhere. -/
def Obligations.StackMemory : Prop :=
  (∀ s u line bad raced, s.live = true → s.fld oPwrState 2 2 = 1 → s.lineIn u line = true →
    (bad = 0 → ∃ s', exec (.patrolScrub u line bad raced) s = .next s' ∧ SameBytes s s' ∧ s'.units = s.units ∧ s'.poison = s.poison ∧
      s'.fld oSafMem 63 0 = s.fld oSafMem 63 0) ∧
    (1 ≤ bad → bad ≤ 4 →
      ∃ s', exec (.patrolScrub u line bad raced) s = .next s' ∧ SameBytes s s' ∧ s'.units = s.units ∧ s'.poison = s.poison ∧
        s'.fld oSafMem 63 32 = s.fld oSafMem 63 32 ∧ (s.innerLine u line = false → raced = false → Counted s s' oSafMem 31 0) ∧
        (s.innerLine u line = true ∨ raced = true → s'.fld oSafMem 31 0 = s.fld oSafMem 31 0)) ∧
    (∀ t b, 4 < bad → s.innerLine u line = true → u = some (.alloc t b) →
      ∃ s', exec (.patrolScrub u line bad raced) s = .next s' ∧ SameBytes s s' ∧ s'.units = s.units ∧ t * 2 ^ 58 + line ∈ s'.poison ∧
        (∀ l ∈ s.poison, l ∈ s'.poison) ∧ s'.fld oSafMem 63 0 = s.fld oSafMem 63 0 ∧ s'.evtSeq = s.evtSeq) ∧
    (∀ t b, 4 < bad → s.innerLine u line = false → u = some (.alloc t b) →
      ∃ s', exec (.patrolScrub u line bad raced) s = .next s' ∧ SameBytes s s' ∧ s'.units = s.units ∧ t * 2 ^ 58 + line ∈ s'.poison ∧
        (∀ l ∈ s.poison, l ∈ s'.poison) ∧ Counted s s' oSafMem 63 32 ∧ s'.evtSeq = s.evtSeq + 1) ∧
    (∀ v x, 4 < bad → u = some v → unitIsAlloc v = false → s.unit? v = some x → s.codedUnit v = false →
      ∃ s', exec (.patrolScrub u line bad raced) s = .next s' ∧ SameBytes s s' ∧ s'.unit? v = some { x with lost := true } ∧
        s'.poison = s.poison ∧ Counted s s' oSafMem 63 32 ∧ s'.evtSeq = s.evtSeq + 1)) ∧
  (∀ s stack channel, s.live = true → stack < 12 → channel < 32 →
    (s.fld oSafCap (36 + stack) (36 + stack) = 0 →
      ∃ s', exec (.channelSpare stack channel) s = .next s' ∧ s'.fld oSafCap (36 + stack) (36 + stack) = 1 ∧
        Logged s s' evChannelSpare 0 [stack, channel] ∧ SameBytes s s' ∧ s'.units = s.units) ∧
    (s.fld oSafCap (36 + stack) (36 + stack) = 1 → (stack, channel) ∉ s.power.chRetired → 2304 ≤ s.fld oPlcCap 31 0 →
      s.onChannel stack channel = false →
      ∃ s', exec (.channelRetire stack channel) s = .next s' ∧ s'.fld oSafCap (48 + stack) (48 + stack) = 1 ∧
        s'.fld oPlcCap 31 0 = s.fld oPlcCap 31 0 - 2304 ∧ s'.fld oSafStatus 2 2 = 1 ∧ (stack, channel) ∈ s'.power.chRetired ∧ SameBytes s s')) ∧
  (∀ s n, s.live = true → n < 8 → s.fld oCisPoolst n n = 1 →
    ∃ s', exec (.poolFail n) s = .next s' ∧ s'.fld oCisPoolst n n = 0 ∧ s'.fld oCisPoolst (8 + n) (8 + n) = 1 ∧
      ∀ c x k, s.cmd? c = some x → x.phase = .admitted → x.parent = none → x.slot = some (n, k) →
        (s.fld oCisPoolst ((n + 4) % 8) ((n + 4) % 8) = 0 → ∃ y, s'.cmd? c = some y ∧ y.phase = .ended ∧
          (y.status = stHwFault ∨ x.maybeGen = true ∧ y.status = stBadAddress)) ∧
        (s.fld oCisPoolst ((n + 4) % 8) ((n + 4) % 8) = 1 → ∃ y, s'.cmd? c = some y ∧ y.phase = .admitted ∧ y.slot.map (·.1) ≠ some n ∧
          y.entry = x.entry ∧ y.bp = x.bp ∧ y.pos = x.pos))

/-- R202 to R208, R219 to R221, R231: a move is entered; its switch makes the destination the home in one step and counts it, or the move is
abandoned and the source stays the home; the source goes once its readers have finished; a demand move that misses its deadline is late and
counted; a half-life halves every heat. -/
def Obligations.PlacementMoves : Prop :=
  (∀ s u dest x, s.active = true → s.unit? u = some x → s.mayMove x dest = true →
    ∃ s' m, exec (.backgroundMove u dest) s = .next s' ∧ s'.moves = s.moves ++ [m] ∧ m.uid = u ∧ m.dest = dest ∧ m.demand = none ∧
      m.switched = false ∧ m.late = false ∧ { s' with moves := s.moves, nextMove := s.nextMove } = s) ∧
  (∀ s c u stack deadline x, s.active = true → s.unit? u = some x → x.home = .flash → x.lost = false → s.onMove u = false →
    s.destOk x (.stack stack) = true →
    (∃ y, s.cmd? c = some y ∧ y.phase = .admitted ∧ State.needsUnit y u = true ∧ x.tenant = y.fn ∧ s.deadlineOk y u deadline = true) ∨
      (c = 0 ∧ s.cmd? 0 = none ∧ s.needsList u = true ∧ deadline = none) →
    ∃ s' m, exec (.demandMove c u stack deadline) s = .next s' ∧ s'.moves = s.moves ++ [m] ∧ m.uid = u ∧ m.dest = .stack stack ∧
      m.demand = some (c, deadline) ∧ m.switched = false ∧ m.late = false ∧ { s' with moves := s.moves, nextMove := s.nextMove } = s) ∧
  (∀ s m v u, s.active = true → s.moves.find? (fun x => x.id == m) = some v → v.switched = false → s.unit? v.uid = some u → s.wellOn v.uid = false →
    (∀ fault, s.pastDue v = true → ∃ s', exec (.moveSwitch ⟨m, fault⟩) s = .next s' ∧ CountedUp s s' oPlcMoves 63 32) ∧
    (s.pastDue v = false →
      (s.sourceGood u = true → s.destWritable u v.dest = true → s.stillDue v u = true →
        (v.demand.isSome = true → s.demandRoom u = true ∧ s.reserveRoom 0 = true) →
        (wholeUnit v.uid = v.uid →
          ∃ s' w, exec (.moveSwitch ⟨m, none⟩) s = .next s' ∧ s'.unit? v.uid = some w ∧ w.home = v.dest ∧ w.bytes = u.bytes ∧ w.heat = u.heat ∧
            w.lost = u.lost ∧ w.parked = false ∧ (∀ k, wholeUnit k = k → k ≠ v.uid → s'.unit? k = s.unit? k) ∧ CountedUp s s' oPlcMoves 31 0 ∧
            SameBytes s s' ∧ ∃ k ∈ s'.moves, k.id = m ∧ k.switched = true) ∧
        (∀ h l k n c, v.uid = .listSegment h l k → v.dest = .stack n → s.colls.find? (fun o => o.handle == h) = some c →
          ∃ s' c' w, exec (.moveSwitch ⟨m, none⟩) s = .next s' ∧ s'.colls.find? (fun o => o.handle == h) = some c' ∧
            (c'.list l).segs[k]? = some ⟨n, w⟩ ∧ (∀ j, j ≠ k → (c'.list l).segs[j]? = (c.list l).segs[j]?) ∧
            (c'.list l).entries = (c.list l).entries ∧ (∀ j, j ≠ l → c'.list j = c.list j) ∧
            (k = 0 → ∃ x, s'.unit? (.fineList h l) = some x ∧ x.home = .stack n) ∧ CountedUp s s' oPlcMoves 31 0 ∧ SameBytes s s' ∧
            ∃ z ∈ s'.moves, z.id = m ∧ z.switched = true)) ∧
      (∀ fault, fault = some .destination ∨
          fault = none ∧ (s.sourceGood u = false ∨ s.destWritable u v.dest = false) ∧ (v.dest = .hub → s.unitClass u.uid = 0) →
        ∃ s', exec (.moveSwitch ⟨m, fault⟩) s = .next s' ∧ s'.units = s.units ∧ (∀ k ∈ s'.moves, k.id ≠ m) ∧ CountedUp s s' oPlcMoved 63 48 ∧
          Logged s s' evMoveAbandon u.tenant [unitHandle v.uid, unitKind v.uid] ∧ SameBytes s s') ∧
      (∀ line, ∃ s', exec (.moveSwitch ⟨m, some (.source line)⟩) s = .next s' ∧ (∀ k ∈ s'.moves, k.id ≠ m) ∧ CountedUp s s' oPlcMoved 63 48 ∧
        SameBytes s s' ∧ ∀ x, s.unit? (wholeUnit v.uid) = some x → unitIsAlloc v.uid = false → s.codedUnit (wholeUnit v.uid) = false →
          s'.unit? (wholeUnit v.uid) = some { x with lost := true }) ∧
      (s.sourceGood u = true ∧ s.destWritable u v.dest = true ∧ s.stillDue v u = false ∨ v.dest = .hub ∧ s.unitClass u.uid ≠ 0 →
        ∃ s', exec (.moveSwitch ⟨m, none⟩) s = .next s' ∧ (∀ k ∈ s'.moves, k.id ≠ m) ∧ { s' with moves := s.moves } = s) ∧
      (s.sourceGood u = true → s.destWritable u v.dest = true → s.stillDue v u = true → v.demand.isSome = true →
        s.demandRoom u = false ∨ s.reserveRoom 0 = false → exec (.moveSwitch ⟨m, none⟩) s = .next s))) ∧
  (∀ s m v, s.live = true → s.moves.find? (fun x => x.id == m) = some v → v.switched = true → s.noneOf v.readers = true → s.wellOn v.uid = false →
    ∃ s', exec (.moveSourceRelease m) s = .next s' ∧ (∀ k ∈ s'.moves, k.id ≠ m) ∧ { s' with moves := s.moves } = s) ∧
  (∀ s m v c d, s.live = true → s.moves.find? (fun x => x.id == m) = some v → v.switched = false → v.late = false → v.demand = some (c, some d) →
    ∃ s', exec (.deadlineExpiry m) s = .next s' ∧ s'.clock = Nat.max s.clock d ∧ s'.moves.find? (fun x => x.id == m) = some { v with late := true } ∧
      CountedUp s s' oPlcMoves 63 32 ∧ s'.units = s.units ∧
      ∀ y g, s.cmd? c = some y → y.work = .generate g → s'.cmd? c = some { y with work := .generate { g with late := g.late ++ [v.uid] } }) ∧
  (∀ s, s.active = true →
    ∃ s', exec .heatHalfLife s = .next s' ∧ s.clock < s'.clock ∧ s'.clock % s.halfLife = 0 ∧
      (∀ (i : Nat) x, s.units[i]? = some x → s'.units[i]? = some { x with heat := x.heat / 2 }) ∧
      (∀ (i : Nat) c, s.colls[i]? = some c → ∃ g, s'.colls[i]? = some { c with staging := g }) ∧
      { s' with units := s.units, clock := s.clock, colls := s.colls, free := s.free } = s)

/-- R418, R422 to R429, R431: a fold, a collection and a wear-levelling copy relocate the valid records of their victim; a relocation notice is applied to
every list that holds its old location and acknowledged, or queued while such a list is on flash; a flash list with enough queued notices moves. -/
def Obligations.FlashRelocation : Prop :=
  (∀ s t pid dest p b, s.active = true → s.part? t pid = some p → s.oldestBuffer t pid = some b → s.block? b.id = some b → p.density = false →
    s.destFits b.id dest false b.valid = true →
    ∃ s', exec (.fold t pid dest) s = .next s' ∧ Relocated s s' b dest (b.valid == 0)) ∧
  (∀ s t pid dest p b, s.active = true → s.part? t pid = some p → s.gcVictim p = some b → s.block? b.id = some b → s.gcDue t pid = true →
    s.destFits b.id dest p.density b.valid = true →
    ∃ s', exec (.garbageCollection t pid dest) s = .next s' ∧ Relocated s s' b dest (p.density || b.valid == 0)) ∧
  (∀ s dest b, s.active = true → s.block? b.id = some b → b.st = .verified → (b.refresh = true ∨ s.wearDue b = true) →
    s.destFits b.id dest b.oneBit b.valid = true →
    ∃ s', exec (.wearLevelling b.id dest) s = .next s' ∧ Relocated s s' b dest (b.oneBit || b.valid == 0)) ∧
  (∀ s n v, s.active = true → s.flash.notices.find? (fun x => x.id == n) = some v → v.queued = false →
    (∀ c, s.noticeColl v = some c → s.colls.find? (fun k => k.handle == c.handle) = some c → v.new ≠ v.old →
      (∀ l ∈ c.listsAt v.lid v.old, s.listOnFlash c.handle l = false) →
      ∃ s' c', exec (.relocationNotice n) s = .next s' ∧ s'.colls.find? (fun k => k.handle == c.handle) = some c' ∧ c'.listsAt v.lid v.old = [] ∧
        (∀ l ∈ c.listsAt v.lid v.old, l ∈ c'.listsAt v.lid v.new) ∧ (∀ k ∈ s'.flash.notices, k.id ≠ n) ∧ CountedUp s s' oFlcCnt 63 32 ∧ SameBytes s s') ∧
    (∀ c, s.noticeColl v = some c → (∃ l ∈ c.listsAt v.lid v.old, s.listOnFlash c.handle l = true) →
      ∃ s', exec (.relocationNotice n) s = .next s' ∧ s'.flash.notices.find? (fun x => x.id == n) = some { v with queued := true } ∧ SameBytes s s') ∧
    (s.noticeColl v = none → ∃ s', exec (.relocationNotice n) s = .next s' ∧ (∀ k ∈ s'.flash.notices, k.id ≠ n) ∧ s'.colls = s.colls ∧
      CountedUp s s' oFlcCnt 63 32)) ∧
  (∀ s h l dest c u, s.active = true → s.colls.find? (fun k => k.handle == h) = some c → s.unit? (.fineList h l) = some u → u.home = .flash →
    s.onMove (.fineList h l) = false → s.stayParked = false → (256 ≤ (s.queuedFor c l).length ∨ ∃ n ∈ s.queuedFor c l, s.needsPending n = true) →
    (dest = .flash ∨ s.destOk u dest = true ∧ s.reserveRoom u.bytes = true ∧ s.takesUnit u s.arriving = true) →
    ∃ s' m, exec (.noticeQueueMove h l dest) s = .next s' ∧ s'.moves = s.moves ++ [m] ∧ m.uid = .fineList h l ∧ m.dest = dest ∧ m.demand = none ∧
      m.switched = false ∧ s'.units = s.units ∧ SameBytes s s')

/-- R420, R421, R426, R429 to R433, R438: what a patrol read finds is counted, asks for a refresh or loses the records that no path can read; a block that
reads back whole is VERIFIED and its sources are PENDING; one with a failed page, program or erase is RETIRED, its records copied elsewhere;
an erased block is FREE and empty; the recovery discards the copies of relocations that were under way. -/
def Obligations.FlashBlocks : Prop :=
  (∀ s block b t pid p, s.active = true → s.block? block = some b → b.programmed = true → block ∉ s.flash.patrolled → b.part = some (t, pid) →
    s.part? t pid = some p →
    (∃ s', exec (.flashPatrol block .clean) s = .next s' ∧ s'.flash.blocks = s.flash.blocks ∧ s'.parts = s.parts ∧ SameBytes s s') ∧
    (∃ s', exec (.flashPatrol block .corrected) s = .next s' ∧ s'.flash.blocks = s.flash.blocks ∧ s'.part? t pid = some { p with corr := p.corr + 1 } ∧
      SameBytes s s') ∧
    (∃ s', exec (.flashPatrol block .aboveThreshold) s = .next s' ∧ s'.block? block = some { b with refresh := true } ∧
      s'.part? t pid = some { p with corr := p.corr + 1 } ∧ SameBytes s s') ∧
    (∀ page, b.st = .opened ∨ b.st = .closed →
      ∃ s', exec (.flashPatrol block (.uncorrectable page)) s = .next s' ∧ s'.flash.blocks = s.flash.blocks ∧
        s'.part? t pid = some { p with rebuilt := p.rebuilt + 1 } ∧ SameBytes s s') ∧
    ∀ page, b.st ≠ .opened → b.st ≠ .closed →
      ∃ s' b', exec (.flashPatrol block (.uncorrectable page)) s = .next s' ∧ s'.block? block = some b' ∧ b'.st = b.st ∧
        (∀ r ∈ b'.recs, r ∈ b.recs ∧ (r.valid = true → r.onPage page = false)) ∧ s'.part? t pid = some { p with uncorr := p.uncorr + 1 }) ∧
  (∀ s block b, s.active = true → s.block? block = some b → b.st = .opened → s.isParity block = false →
    (block ∉ s.sourcesOf block →
      ∃ s' b', exec (.blockClose block none) s = .next s' ∧ s'.block? block = some b' ∧ b'.st = .verified ∧
        b'.recs = b.recs ∧ (∀ x ∈ s.sourcesOf block, ∀ a, s.block? x = some a → a.st = .victim → (∃ a', s'.block? x = some a' ∧ a'.st = .pending) ∧
          ∀ r ∈ a.recs, r.valid = true → (∃ y ∈ b.recs, y.valid = true ∧ y.tenant = r.tenant ∧ y.coll = r.coll ∧ y.lid = r.lid) →
            ∃ n ∈ s'.flash.notices, n.old = r.loc ∧ n.lid = r.lid ∧ n.coll = r.coll ∧ n.tenant = r.tenant ∧ n.block = x ∧ n.queued = false) ∧
        SameBytes s s') ∧
    (∀ d t pid, b.part = some (t, pid) → s.destFits block d b.oneBit b.valid = true →
      ∃ s' b', exec (.blockClose block (some d)) s = .next s' ∧ s'.block? block = some b' ∧ b'.st = .retired ∧ CopiedTo s' b d) ∧
    (∀ d sourceOk t pid p, b.part = some (t, pid) → s.part? t pid = some p → d ∉ s.sourcesOf block → b.group.isSome = true →
      s.destFits block d b.oneBit b.valid = true →
      ∃ s' b' p', exec (.programFailure block d sourceOk true) s = .next s' ∧ s'.block? block = some b' ∧ b'.st = .retired ∧ CopiedTo s' b d ∧
        s'.part? t pid = some p' ∧ p'.pfail = p.pfail + 1 ∧ p'.retiredBlocks = p.retiredBlocks + 1)) ∧
  (∀ s block b, s.active = true → s.block? block = some b → s.erasable b = true →
    (∃ s' b', exec (.blockErase block false) s = .next s' ∧ s'.block? block = some b' ∧ b'.st = .free ∧ b'.recs = [] ∧ b'.used = 0 ∧
      b'.erases = b.erases + 1 ∧ b'.part = b.part ∧ CountedUp s s' oFlcCnt 31 0 ∧ (b.oneBit = false → s'.parts = s.parts) ∧
      ∀ t pid p, b.oneBit = true → b.part = some (t, pid) → s.part? t pid = some p →
        s'.part? t pid = some { p with bufNow := p.bufFor (s'.partValid t pid) }) ∧
    (∀ t pid p, b.part = some (t, pid) → s.part? t pid = some p →
      ∃ s' b' p', exec (.blockErase block true) s = .next s' ∧ s'.block? block = some b' ∧ b'.st = .retired ∧ s'.part? t pid = some p' ∧
        p'.efail = p.efail + 1 ∧ p'.retiredBlocks = p.retiredBlocks + 1)) ∧
  (∀ s, s.live = true → s.flash.recovering = true →
    ∃ s', exec .openBlockRecovery s = .next s' ∧ s'.flash.recovering = false ∧ s'.flash.blocks.length = s.flash.blocks.length ∧
      (∀ b ∈ s'.flash.blocks, b.st ≠ .victim) ∧ (∀ b ∈ s.flash.blocks, b.st = .victim → { b with st := .verified, target := none } ∈ s'.flash.blocks) ∧
      { s' with flash := s.flash } = s)

/-! ## Registers, resets, security -/

/-- R7 to R10, R212, R543, R562, R573 to R578, R583, R629, R662: a write of the board controller sets the fields of the register and reports `ST_OK`; a denied write
changes no register and reports `ST_DENIED`; of two writes in one cycle the board controller's wins and the PF's reports `ST_CONFLICT`; a value
out of range changes nothing; ERASE, GO and LCS.ROLL act; a read over MCTP answers the value. A read in the cycle of a write gives the value before it, and a W1C bit
that the device sets again in the cycle of a write of 1 stays 1. -/
def Obligations.RegisterWrites : Prop :=
  (∀ s (v : Word), s.sideband = true → 1 ≤ field v.toNat 15 0 → 1 ≤ field v.toNat 31 16 → 1 ≤ field v.toNat 47 32 →
    ∀ i ∈ [Instr.registerWrite { writes := [bmcWrite oSchCw v] }, Instr.mctpRegisterWrite oSchCw 8 v],
      ∃ s', exec i s = .next s' ∧ s'.fld oSchCw 15 0 = field v.toNat 15 0 ∧ s'.fld oSchCw 31 16 = field v.toNat 31 16 ∧
        s'.fld oSchCw 47 32 = field v.toNat 47 32 ∧ (∀ o, o ≠ oSchCw → s'.word o = s.word o) ∧
        Map.get? s'.wrst 1 = some (BitVec.ofNat 64 (oSchCw * 2 ^ 32 + stOk)) ∧
        s'.out.replies = s.out.replies ++ [{ src := .mctp, code := 2, status := stOk, data := [] }] ∧ SameBytes s s') ∧
  (∀ s (v : Word) r, s.sideband = true → r = { master := .bmc, bar := 0, offset := oSchCw, size := 8 } →
    1 ≤ field v.toNat 15 0 → 1 ≤ field v.toNat 31 16 → 1 ≤ field v.toNat 47 32 →
    ∃ s', exec (.registerWrite { writes := [bmcWrite oSchCw v], reads := [r] }) s = .next s' ∧ s'.fld oSchCw 15 0 = field v.toNat 15 0 ∧
      s'.fld oSchCw 31 16 = field v.toNat 31 16 ∧ s'.fld oSchCw 47 32 = field v.toNat 47 32 ∧
      s'.out.reads = s.out.reads ++ [(r, s.bar0Read .bmc oSchCw 8)]) ∧
  (∀ s o b (v : Word), s.sideband = true → s.testReg o = false → (accBits o .w1c).getLsbD b = true → (s.word o).getLsbD b = true →
    ∃ s', exec (.registerWrite { writes := [bmcWrite o v], again := [(o, b)] }) s = .next s' ∧ (s'.word o).getLsbD b = true) ∧
  (∀ s (v : Word), s.hostUp = true → s.fld oSysMgmt 0 0 = 0 →
    ∃ s', exec (.registerWrite { writes := [{ bmcWrite oSchCw v with master := .pf }] }) s = .next s' ∧
      Map.get? s'.wrst 3 = some (BitVec.ofNat 64 (oSchCw * 2 ^ 32 + stDenied)) ∧ { s' with wrst := s.wrst } = s) ∧
  (∀ s (v u : Word), s.hostUp = true → s.power.bootFailed = false → s.fld oSysMgmt 0 0 = 1 → 1 ≤ field v.toNat 15 0 → 1 ≤ field v.toNat 31 16 →
    1 ≤ field v.toNat 47 32 →
    ∃ s', exec (.registerWrite { writes := [bmcWrite oSchCw v, { bmcWrite oSchCw u with master := .pf }] }) s = .next s' ∧
      s'.fld oSchCw 15 0 = field v.toNat 15 0 ∧ s'.fld oSchCw 31 16 = field v.toNat 31 16 ∧ s'.fld oSchCw 47 32 = field v.toNat 47 32 ∧
      Map.get? s'.wrst 3 = some (BitVec.ofNat 64 (oSchCw * 2 ^ 32 + stConflict)) ∧ Logged s s' evRegConflict 0 [oSchCw, 1, 3]) ∧
  (∀ s (v : Word), s.sideband = true →
    (field v.toNat 4 0 ≤ 22 → field v.toNat 19 16 ≤ 8 →
      ∃ s', exec (.plcCtrlHubtier (bmcWrite oPlcCtrl v)) s = .next s' ∧ s'.fld oPlcCtrl 19 16 = field v.toNat 19 16 ∧
        s'.fld oPlcCtrl 15 12 = field v.toNat 15 12 ∧ s'.fld oPlcCtrl 11 11 = field v.toNat 11 11 ∧ s'.fld oPlcCtrl 4 0 = field v.toNat 4 0 ∧
        (∀ o, o ≠ oPlcCtrl → s'.word o = s.word o) ∧ SameBytes s s') ∧
    (22 < field v.toNat 4 0 ∨ 8 < field v.toNat 19 16 →
      ∃ s', exec (.plcCtrlHubtier (bmcWrite oPlcCtrl v)) s = .next s' ∧ s'.regs = s.regs ∧ SameBytes s s')) ∧
  (∀ s t salt, s.sideband = true → 1 ≤ t → t < 256 → s.fld (oTenCtrl t) 0 0 = 0 → s.tenantBusy t = false → salt.length = 32 →
    ∃ s', exec (.tenCtrlErase (bmcWrite (oTenCtrl t) 0x100) salt) s = .next s' ∧ Map.get? s'.salts t = some salt ∧ (∀ o ∈ s'.colls, o.tenant ≠ t) ∧
      (∀ o ∈ s'.mems, o.tenant ≠ t) ∧ (∀ o ∈ s'.progs, o.tenant ≠ t) ∧ (∀ o ∈ s'.models, o.tenant ≠ t) ∧ (∀ o ∈ s'.grammars, o.tenant ≠ t) ∧
      (∀ o ∈ s'.allocs, o.tenant ≠ t) ∧ (∀ o ∈ s'.parts, o.tenant ≠ t) ∧ (∀ i, i < 8 → s'.word (oMeas4 t + 8 * i) = 0) ∧
      s'.word (oTenSkew t) = 0 ∧ s'.word (oTenQmem t) = s.word (oTenQmem t)) ∧
  (∀ s (v : Word), s.sideband = true →
    ∃ s', exec (.evtPtrRd (bmcWrite oEvtPtr v)) s = .next s' ∧ s'.fld oEvtPtr 8 0 = field v.toNat 8 0 ∧ s'.fld oEvtPtr 24 16 = s.fld oEvtPtr 24 16 ∧
      s'.evtUnread = (s.fld oEvtPtr 24 16 + 512 - field v.toNat 8 0) % 512 ∧ (∀ o, o ≠ oEvtPtr → s'.word o = s.word o)) ∧
  (∀ s l (v : Word) now, s.sideband = true → l < 16 → field v.toNat 1 1 = 1 → 1 ≤ field v.toNat 26 16 → field v.toNat 26 16 ≤ 1024 → now < 2 ^ 64 →
    s.fld (oGateCtrl l) 2 2 = 0 → s.emptyInterval l (field v.toNat 26 16) = false → 1000 ≤ s.fld (oGateCycle l) 31 0 →
    s.fld (oGateCycle l) 31 0 ≤ 1000000000 →
    ∃ s', exec (.gateCtrlGo (bmcWrite (oGateCtrl l) v) now) s = .next s' ∧ s'.fld (oGateCtrl l) 2 2 = 1 ∧
      s'.fld (oGateCtrl l) 26 16 = field v.toNat 26 16 ∧ s'.fld (oGateCtrl l) 0 0 = field v.toNat 0 0 ∧ (s'.gate l).armedAt = s.armAt l now ∧
      (s'.gate l).queues = (s.gate l).queues ∧ SameBytes s s') ∧
  (∀ s, s.sideband = true →
    (s.firmware.digest ≠ [] → s.fuses.svnf ≤ s.firmware.svn →
      ∃ s', exec (.lcsRollFw (bmcWrite oLcsRoll 1)) s = .next s' ∧
        s'.fuses = { s.fuses with svnf := s.firmware.svn, revoked := s.fuses.revoked ||| BitVec.ofNat 4 (2 ^ s.firmware.slot - 1) }) ∧
    (s.varelm.digest ≠ [] → s.fuses.svnv ≤ s.varelm.svn →
      ∃ s', exec (.lcsRollVarelm (bmcWrite oLcsRoll 2)) s = .next s' ∧
        s'.fuses = { s.fuses with svnv := s.varelm.svn, revoked := s.fuses.revoked ||| BitVec.ofNat 4 (2 ^ s.varelm.slot - 1) }) ∧
    (s.firmware.svn < s.fuses.svnf → ∃ s', exec (.lcsRollFw (bmcWrite oLcsRoll 1)) s = .next s' ∧ s'.fuses = s.fuses)) ∧
  (∀ s o size, s.sideband = true → size = 4 ∨ size = 8 → s.testReg o = false →
    ∃ s' d, exec (.mctpRegisterRead o size) s = .next s' ∧ s'.out.replies = s.out.replies ++ [{ src := .mctp, code := 1, status := stOk, data := d }] ∧
      d = toLe size (s.bar0Read .bmc o size) ∧ (o % size ≠ 0 → d = List.replicate size 0) ∧
      { s' with out := { s'.out with replies := s.out.replies } } = s)

/-- R559, R641, R642, R647 to R653: a reset of the whole device stops every command, empties its queues and cisterns, loses the units of an unparked device
that are not on flash, and keeps the tenants' quotas; a warm reset keeps HALT and begins at step 2, a cold one clears it and begins at step 1;
dormant ends with a reset too; start-up runs its steps one after the other to READY, or stops at step 3 where neither firmware copy is
accepted. -/
def Obligations.ResetsAndStartUp : Prop :=
  (∀ s i step, (s.sideband = true ∧ i = Instr.sysRstCold (bmcWrite oSysRst 2) ∧ step = 1 ∨ s.sideband = true ∧ i = Instr.sysRstWarm (bmcWrite oSysRst 1) ∧ step = 2 ∨
      s.power.on = true ∧ i = Instr.resetInput ∧ step = 1 ∨ s.power.on = false ∧ i = Instr.powerOn ∧ step = 1 ∨
      s.power.on = true ∧ s.power.dormant = true ∧ i = Instr.pwrCtrlWake (bmcWrite oPwrCtrl 2) ∧ step = 2 ∨
      s.power.on = true ∧ s.power.dormant = false ∧ s.fld oPwrState 1 0 = 2 ∧ s.power.wakeHeld = true ∧ i = Instr.dormantEntryComplete ∧ step = 2 ∨
      s.power.on = true ∧ i = Instr.powerLoss ∧ step = 1) →
    ∃ s', exec i s = .next s' ∧ Emptied s' ∧ s'.fld oPwrState 11 8 = step ∧ s'.evtSeq = 0 ∧ s'.clock = 0 ∧ s'.power.dormant = false ∧
      s'.power.on = !decide (i = .powerLoss) ∧ s'.fuses = s.fuses ∧ s'.power.parked = s.power.parked ∧
      (∀ t, t < 256 → s'.fld (oTenQmem t) 31 0 = s.fld (oTenQmem t) 31 0 ∧ s'.fld (oTenQmem t) 47 32 = s.fld (oTenQmem t) 47 32) ∧
      (step = 2 → s'.fld oSafStatus 0 0 = s.fld oSafStatus 0 0 ∧ s'.fld oLcsState 32 32 = s.fld oLcsState 32 32) ∧
      (step = 1 → s'.fld oSafStatus 0 0 = 0 ∧ s'.fld oLcsState 32 32 = 0) ∧
      (s.power.parked = false → ∀ u ∈ s'.units, u.home ≠ .flash → u.lost = true) ∧ ((∀ o ∈ s.colls, o.dying = none) → s'.colls = s.colls)) ∧
  (∀ s (v : Word), s.sideband = true → field v.toNat 0 0 = 1 → field v.toNat 1 1 = 0 → 400 ≤ field v.toNat 26 16 → field v.toNat 26 16 ≤ 1300 →
    10 ≤ field v.toNat 15 4 →
    (s.power.parked = true → ∃ s', exec (.pwrCtrlDormant (bmcWrite oPwrCtrl v)) s = .next s' ∧ s'.fld oPwrState 1 0 = 2 ∧ s'.power.link = false ∧
      (∀ n, n < 8 → s'.fld (oFabPort n) 19 18 = 0) ∧ SameBytes s s') ∧
    (s.power.parked = false → ∃ s', exec (.pwrCtrlDormant (bmcWrite oPwrCtrl v)) s = .next s' ∧ s'.regs = s.regs ∧ s'.power = s.power)) ∧
  (∀ s (v : Word), s.power.on = true → s.power.dormant = false → s.fld oPwrState 1 0 = 2 → field v.toNat 1 1 = 1 →
    ∃ s', exec (.pwrCtrlWake (bmcWrite oPwrCtrl v)) s = .next s' ∧ s'.power = { s.power with wakeHeld := true } ∧ SameBytes s s') ∧
  (∀ s, s.power.on = true → s.power.dormant = false → s.fld oPwrState 1 0 = 2 → s.power.wakeHeld = false →
    ∃ s', exec .dormantEntryComplete s = .next s' ∧ s'.power = { s.power with dormant := true } ∧ { s' with power := s.power } = s) ∧
  (∀ s (i : StartInfo), s.canStart = true → s.fld oPwrState 11 8 ≤ 2 → s.power.change = none →
    ∃ s', exec (.startUp i) s = .next s' ∧ s'.fld oPwrState 11 8 = s.fld oPwrState 11 8 + 1 ∧
      s'.fuses = (if s.power.firstStart = true ∧ s.fuses = blankFuses then i.fuses else s.fuses) ∧
      (s.fld oPwrState 11 8 = 2 → s'.power.link = true ∧ s'.secure.usable = i.wipeBad.isNone ∧
        (s.power.startCause ≠ 0 → s'.secure.keys = false ∧ s'.fld oCisWipe 18 16 = s.power.startCause % 8 ∧ s'.fld oCisWipe 19 19 = 0))) ∧
  (∀ s (i : StartInfo), s.canStart = true → s.fld oPwrState 11 8 = 3 → s.bootOk i = true →
    (i.primary = 6 ∨ i.secondary = 6 →
      ∃ s', exec (.startUp i) s = .next s' ∧ s'.fld oPwrState 11 8 = 4 ∧ s'.firmware = i.fw ∧ s'.fld oSysVer 39 32 = i.fw.svn % 256 ∧ s'.cmds = s.cmds) ∧
    (i.primary ≠ 6 → i.secondary ≠ 6 →
      ∃ s', exec (.startUp i) s = .next s' ∧ s'.fld oPwrState 11 8 = 3 ∧ s'.power.bootFailed = true ∧ s'.firmware = s.firmware ∧ s'.cmds = s.cmds)) ∧
  (∀ s (i : StartInfo), s.canStart = true →
    (s.fld oPwrState 11 8 = 4 → s.varelmOk i = true → ∃ s', exec (.startUp i) s = .next s' ∧ s'.fld oPwrState 11 8 = 5 ∧ s'.secure.keys = s.secure.usable ∧ s'.cmds = s.cmds) ∧
    (s.fld oPwrState 11 8 = 5 → ∃ s', exec (.startUp i) s = .next s' ∧ s'.fld oPwrState 11 8 = 6 ∧ { s' with regs := s.regs } = s) ∧
    (s.fld oPwrState 11 8 = 6 → mapOk i = true → i.nonce.length = 32 →
      ∃ s', exec (.startUp i) s = .next s' ∧ s'.fld oPwrState 2 2 = 1 ∧ s'.fld oPwrState 1 0 = 0 ∧ s'.fld oPwrState 11 8 = 7 ∧ s'.power.link = true ∧
        s'.nonce = i.nonce ∧ s'.power.firstStart = false ∧ s'.power.lostReport = []))

/-- R396, R397, R401, R549, R571, R578, R581, R585 to R597: a wipe loses the keys and is counted at its end; a tamper event halts the device and ends its commands
with `ST_WIPED`; a life-cycle change is accepted, refused, or completed by its wipe; reports, certificate chains, recovery images and IDE keys are
answered. -/
def Obligations.SecurityEvents : Prop :=
  (∀ s cause, s.power.on = true → 1 ≤ cause → cause ≤ 5 → s.power.change = none →
    ∃ s', exec (.secureCisternWipe cause) s = .next s' ∧ s'.secure.wiping = true ∧ s'.secure.keys = false ∧ s'.secure.ide = [] ∧ s'.fld oCisWipe 19 19 = 1 ∧
      s'.fld oCisWipe 18 16 = cause ∧ { s' with secure := s.secure, regs := s.regs } = s) ∧
  (∀ s t, s.power.on = true → s.power.change = some t →
    ∃ s', exec (.secureCisternWipe 2) s = .next s' ∧ Emptied s' ∧ s'.fuses.lcs = t ∧ s'.power.change = none ∧ s'.colls = [] ∧ s'.mems = [] ∧ s'.progs = [] ∧
      s'.models = [] ∧ s'.grammars = [] ∧ s'.allocs = [] ∧ (∀ p ∈ s'.parts, p.tenant = 0)) ∧
  (∀ s, s.power.on = true → s.secure.wiping = true →
    (∃ s', exec (.wipeComplete none) s = .next s' ∧ s'.secure.wiping = false ∧ s'.secure.usable = true ∧ s'.fld oCisWipe 19 19 = 0 ∧ s'.fld oCisWipe 20 20 = 0 ∧
      CountedUp s s' oCisWipe 15 0 ∧ (s.fld oCisWipe 18 16 = 1 → s'.secure.keys = false) ∧
      (s.fld oCisWipe 18 16 ≠ 1 → 4 < s.fld oPwrState 11 8 → s'.secure.keys = true)) ∧
    ∀ w, ∃ s', exec (.wipeComplete (some w)) s = .next s' ∧ s'.secure.wiping = false ∧ s'.secure.usable = false ∧ s'.secure.keys = false ∧
      s'.fld oCisWipe 20 20 = 1 ∧ CountedUp s s' oCisWipe 15 0 ∧ Logged s s' evWipeFail 0 [w]) ∧
  (∀ s b, s.power.on = true → s.sensing = true → b < 4 →
    ∃ s', exec (.tamper b) s = .next s' ∧ s'.secure.wiping = true ∧ s'.secure.keys = false ∧ s'.fld oCisWipe 18 16 = 1 ∧
      s'.fld oLcsState (48 + b) (48 + b) = 1 ∧ s'.fld oLcsState 32 32 = 1 ∧ s'.evtSeq = s.evtSeq + 1 ∧
      (s.fld oSafStatus 0 0 = 0 → ∀ c x, s.cmd? c = some x → x.parent = none → x.phase ≠ .ended →
        ∃ y, s'.cmd? c = some y ∧ y.phase = .ended ∧ (y.status = stWiped ∨ x.maybeGen = true ∧ y.status = stBadAddress))) ∧
  (∀ s src token, s.serves src = true → reqTenant src = 0 →
    (∀ target, s.power.change.isSome = true → ∃ s', exec (.lifeCycleChange src target token) s = .next s' ∧ s'.fuses = s.fuses ∧ s'.power = s.power ∧
      s'.out.replies = s.out.replies ++ [{ src := src, code := 5, status := stConflict, data := [] }]) ∧
    (∀ target, s.power.change = none → transition s.fuses.lcs target = none →
      ∃ s', exec (.lifeCycleChange src target token) s = .next s' ∧ { s' with out := { s'.out with replies := s.out.replies } } = s ∧
        s'.out.replies = s.out.replies ++ [{ src := src, code := 5, status := stDenied, data := [] }]) ∧
    (s.power.change = none → s.fuses.lcs = 1 → s.fuses.epoch < 30 →
      ∃ s', exec (.lifeCycleChange src 2 token) s = .next s' ∧ s'.fld oLcsState 33 33 = 1 ∧ s'.fuses = { s.fuses with epoch := s.fuses.epoch + 1 } ∧
        s'.power.change = some 2 ∧ s'.out.replies = s.out.replies ++ [{ src := src, code := 5, status := stOk, data := [] }] ∧
        ∀ c x, s.cmd? c = some x → x.parent = none → x.phase ≠ .ended → x.unstoppable = false →
          ∃ y, s'.cmd? c = some y ∧ y.phase = .ended ∧ (y.status = stAborted ∨ x.maybeGen = true ∧ y.status = stBadAddress))) ∧
  (∀ s entered, s.awake = true →
    ∃ s', exec (.testModeEntry entered) s = .next s' ∧ s'.power = { s.power with testMode := entered } ∧ SameBytes s s' ∧
      (s.fld oPwrState 2 2 = 1 → entered = true → s'.fld oSchCtrl 31 30 = 2)) ∧
  (∀ s src nonce, s.serves src = true → nonce.length = 32 →
    (s.sensing = false → ∃ s', exec (.attestationReport src nonce) s = .next s' ∧ { s' with out := { s'.out with replies := s.out.replies } } = s ∧
      s'.out.replies = s.out.replies ++ [{ src := src, code := 3, status := stDenied, data := [] }]) ∧
    (s.sensing = true → (s.secure.wiping = true ∨ s.secure.keys = false) →
      ∃ s', exec (.attestationReport src nonce) s = .next s' ∧ { s' with out := { s'.out with replies := s.out.replies } } = s ∧
        s'.out.replies = s.out.replies ++ [{ src := src, code := 3, status := stWiped, data := [] }]) ∧
    (s.sensing = true → s.secure.wiping = false → s.secure.usable = true → s.secure.keys = true →
      ∃ s' d, exec (.attestationReport src nonce) s = .next s' ∧ { s' with out := { s'.out with replies := s.out.replies } } = s ∧
        s'.out.replies = s.out.replies ++ [{ src := src, code := 3, status := stOk, data := d }] ∧ leAt d 0 2 = 1 ∧ leAt d 2 1 = s.fuses.lcs ∧
        leAt d 3 1 = reqTenant src % 256 ∧ leAt d 8 8 = s.fuses.serial % 2 ^ 64 ∧ (d.drop 0x10).take 32 = nonce)) ∧
  (∀ s src, s.serves src = true →
    ∃ s' d, exec (.certificateChain src) s = .next s' ∧ { s' with out := { s'.out with replies := s.out.replies } } = s ∧
      s'.out.replies = s.out.replies ++ [{ src := src, code := 4, status := stOk, data := d }] ∧
      2 ≤ leAt d 0 2 ∧ leAt d 0 2 ≤ 4 ∧ leAt d 2 2 = 1 ∧ leAt d 4 4 = d.length ∧ d.length ≤ 2 ^ 18 ∧ leAt d 8 8 = s.fuses.serial % 2 ^ 64) ∧
  (∀ s piece b, s.awake = true → 1 ≤ piece.length → piece.length ≤ 4096 → b = s.power.recovery ++ piece →
    (b.length < 0x7500 → ∃ s', exec (.recoveryImage piece) s = .next s' ∧ s'.power = { s.power with recovery := b } ∧ s'.fuses = s.fuses ∧
      s'.out.replies = s.out.replies ++ [{ src := .mctp, code := 6, status := stOk, data := [] }]) ∧
    (0x7500 + leAt b 0xC 4 ≤ b.length → 0x7500 ≤ b.length →
      ∃ s', exec (.recoveryImage piece) s = .next s' ∧
        if signedCheck s.fuses 1 b = 6 then
          ∃ m, s'.power = { s.power with recovery := [], boot := some m } ∧ m.body = imgBody b ∧ m.svn = imgSvn b ∧
            s'.out.replies = s.out.replies ++ [{ src := .mctp, code := 6, status := stOk, data := [] }]
        else s'.power = { s.power with recovery := [] } ∧
          s'.out.replies = s.out.replies ++ [{ src := .mctp, code := 6, status := stDenied, data := [] }])) ∧
  (∀ s stream key, s.serves (.doe 0) = true → stream < 9 → key.length = 32 →
    (s.secure.wiping = false → s.secure.usable = true →
      ∃ s', exec (.ideKmKeySet stream key) s = .next s' ∧ Map.get? s'.secure.ide stream = some key ∧ s'.secure.keys = s.secure.keys ∧
        s'.out.replies = s.out.replies ++ [{ src := .doe 0, code := 0, status := stOk, data := [] }]) ∧
    (s.secure.wiping = true → ∃ s', exec (.ideKmKeySet stream key) s = .next s' ∧ s'.secure = s.secure ∧
      s'.out.replies = s.out.replies ++ [{ src := .doe 0, code := 0, status := stWiped, data := [] }]))

/-! ## Faults, links, power and the class-0 bound -/

/-- R606 to R609, R611 to R615, R621, R622: a lockstep mismatch stops a cluster, restarts a hub engine, and halts the device within a second of the last
one; a watchdog stops a cluster; the self-test returns a cluster or retires it; a clock or supply fault halts the hub or retires
the domain it serves; a link keeps half of its lanes or fails. Links 0 to 3 as the bridges and the records' values are the model's (log 25). -/
def Obligations.ClusterAndLinkFaults : Prop :=
  (∀ s e inst, s.live = true → inst < engineCount e →
    (e ≠ .cluster →
      ∃ s', exec (.lockstepMismatch e inst false) s = .next s' ∧ Counted s s' oSafDiag 47 32 ∧ (e, inst, s.clock) ∈ s'.power.lockstepAt ∧
        ((∃ t, (e, inst, t) ∈ s.power.lockstepAt ∧ s.clock ≤ t + 10 ^ 12) → s'.fld oSafStatus 0 0 = 1) ∧
        ((∀ t, (e, inst, t) ∈ s.power.lockstepAt → t + 10 ^ 12 < s.clock) → s'.fld oSafStatus 0 0 = 0 ∧
          (e = .sch → ∀ c x, s.cmd? c = some x → x.phase = .admitted → x.parent = none →
            (∃ y, s'.cmd? c = some y ∧ y.phase = .admitted ∧ y.argBase = 0 ∧ y.entry = x.entry) ∧ ∀ f ∈ s'.frags, f.cmd ≠ c))) ∧
    (e ≠ .cluster →
      ∃ s', exec (.watchdog e inst) s = .next s' ∧ Counted s s' oSafDiag 31 16 ∧ Logged s s' evWatchdog 0 [engineNo e, inst] ∧ s'.cmds = s.cmds ∧
        s'.frags = s.frags) ∧
    (e = .mc → ∃ s', exec (.lockstepMismatch e inst true) s = .next s' ∧ s'.fld oSafStatus 0 0 = 1 ∧ s'.evtSeq = s.evtSeq + 2) ∧
    (e = .cluster → (s.physOf inst).testing = none →
      (∃ s', exec (.lockstepMismatch e inst false) s = .next s' ∧ (s'.physOf inst).testing = some 1) ∧
      (∃ s', exec (.watchdog e inst) s = .next s' ∧ (s'.physOf inst).testing = some 3))) ∧
  (∀ s p cause, s.live = true → (s.physOf p).testing = some cause → (s.physOf p).retired = false →
    (cause = noCause → ∃ s', exec (.clusterSelfTest p true) s = .next s' ∧ (s'.physOf p).testing = none ∧ (s'.physOf p).retired = false ∧
      { s' with phys := s.phys } = s) ∧
    (∀ pass, pass = false ∨ cause ≠ noCause → ∃ s', exec (.clusterSelfTest p pass) s = .next s' ∧ (s'.physOf p).testing = none ∧
      (s'.physOf p).retired = true ∧ s'.evtSeq = s.evtSeq + 1)) ∧
  (∀ s clock domain, s.awake = true → s.fld oSafStatus 0 0 = 0 → clock < 6 → domain < 32 →
    ∃ s', exec (.clockFault clock domain) s = .next s' ∧ s'.fld oClkStatus (8 + clock) (8 + clock) = 1 ∧
      (clock ≠ 4 → s'.fld oSafStatus 0 0 = 1 ∧ Counted s s' oSafDiag 15 8 ∧ (s.sensing = true → clock < 3 → s'.fld oLcsState 50 50 = 1)) ∧
      (clock = 4 → ∀ i, i < 17 → (s'.physOf (domain / 8 * 136 + 17 * (domain % 8) + i)).retired = true)) ∧
  (∀ s rail mv domain, s.awake = true → s.fld oSafStatus 0 0 = 0 → rail < 10 → domain ≤ 8 → (mv < (railWindow rail).1 ∨ (railWindow rail).2 < mv) →
    ∃ s', exec (.supplyFault rail mv domain) s = .next s' ∧
      (rail = 0 ∨ rail = 5 → s'.fld oSafStatus 0 0 = 1 ∧ Counted s s' oSafDiag 7 0 ∧ (s.sensing = true → s'.fld oLcsState 49 49 = 1)) ∧
      (1 ≤ rail → rail ≤ 4 → (domain < 8 → ∀ i, i < 17 → (s'.physOf ((rail - 1) * 136 + 17 * domain + i)).retired = true) ∧
        (domain = 8 → ∀ i, i < 136 → (s'.physOf ((rail - 1) * 136 + i)).retired = true)) ∧
      (6 ≤ rail → s.sensing = false → Counted s s' oSafDiag 7 0 ∧ Logged s s' evSupply 0 [rail, mv] ∧ s'.phys = s.phys ∧ s'.cmds = s.cmds)) ∧
  (∀ s link, s.live = true →
    ∃ s', exec (.flitCrcError link) s = .next s' ∧ Map.getD s'.power.retries link 0 = Map.getD s.power.retries link 0 + 1 ∧
      (∀ k, k ≠ link → Map.get? s'.power.retries k = Map.get? s.power.retries k) ∧
      { s' with power := { s'.power with retries := s.power.retries } } = s) ∧
  (∀ s link lanes carried, s.live = true → 9 ≤ Map.getD s.power.retries link 0 → lanes ≤ Config.linkLanes link → Map.rising s.power.retries = true →
    ∃ s', exec (.linkRetrain link lanes carried) s = .next s' ∧ Map.get? s'.power.retries link = none ∧
      Map.get? s'.power.lanes link = some (if Config.linkLanes link ≤ 2 * lanes then lanes else 0) ∧
      (Config.linkLanes link ≤ 2 * lanes → 0 < lanes → s'.phys = s.phys ∧ s'.logical = s.logical ∧ s'.evtSeq = s.evtSeq + 1) ∧
      (∀ f x, carried = [f] → (s.frags.filter fun g => g.id == f) = [x] → x.phase = .running → x.isVarelm = false → x.reissues < 3 →
        Config.linkLanes link ≤ 2 * lanes → 0 < lanes → ∃ y, s'.frag? f = some y ∧ y.phase = .dispatchable ∧ y.reissues = x.reissues + 1) ∧
      (2 * lanes < Config.linkLanes link → link < 4 → ∀ i, i < 136 → (s'.physOf (link * 136 + i)).retired = true))

/-- R537, R545 to R549, R567, R638, R639, R641, R643 to R646: temperatures, the throttle and the power window set PWR.THERM; a gated cluster loses its
contents; idle gates every cluster; the windows of device time end; a wait at its bound counts once; queues are sampled. The power demand is a free value
of the model (log 26), and the device times are its own (log 3). -/
def Obligations.PowerAndWindows : Prop :=
  (∀ s h r hot, s.awake = true → hot = r.foldl max h →
    (s.sensing = false ∨ ∀ t ∈ h :: r, -16 * 20 ≤ t ∧ t ≤ 16 * 115) →
    ∃ s', exec (.temperatureSample (h :: r)) s = .next s' ∧ s'.fld oPwrTherm 15 0 = ofSigned 16 hot ∧
      s'.fld oPwrTherm 31 16 = ofSigned 16 (max hot (toSigned 16 (s.fld oPwrTherm 31 16))) ∧ s'.power = { s.power with temps := h :: r } ∧
      s'.fld oPwrTherm 36 36 = (if 16 * 110 ≤ hot then 1 else if hot < 16 * 100 then 0 else s.fld oPwrTherm 36 36) ∧
      s'.out.ibi.length = s.out.ibi.length + (if 16 * 110 ≤ hot ∧ s.fld oPwrTherm 36 36 = 0 then 1 else 0) ∧
      (∀ o, o ≠ oPwrTherm → s'.word o = s.word o) ∧ SameBytes s s') ∧
  (∀ s h r, s.awake = true → s.sensing = true → (∃ t ∈ h :: r, 16 * 115 < t ∨ t < -16 * 20) →
    (∀ t ∈ s.power.temps, -16 * 20 ≤ t ∧ t ≤ 16 * 115) →
    ∃ s', exec (.temperatureSample (h :: r)) s = .next s' ∧ s'.fld oLcsState 51 51 = 1 ∧ s'.fld oLcsState 32 32 = 1 ∧ s'.secure.keys = false ∧
      s'.fld oCisWipe 18 16 = 1) ∧
  (∀ s tj t, s.live = true → tj = toSigned 16 (s.fld oPwrTherm 15 0) → s.power.shareT ≤ 12 → s.power.shareP ≤ 12 →
    t = (if 16 * 100 ≤ tj then Nat.min 12 (s.power.shareT + 1) else if tj < 16 * 98 then s.power.shareT - 1 else s.power.shareT) →
    ∃ s', exec .throttleAdjust s = .next s' ∧ s'.fld oPwrTherm 35 32 = Nat.max t s.power.shareP ∧ s'.power = { s.power with shareT := t } ∧
      (∀ o, o ≠ oPwrTherm → s'.word o = s.word o) ∧ { s' with power := s.power, regs := s.regs } = s) ∧
  (∀ s watts, s.live = true → s.power.shareT ≤ 12 →
    (s.fld oPwrCtrl 26 16 < watts → s.fld oPwrTherm 35 32 = 12 →
      ∃ s', exec (.powerWindow watts) s = .next s' ∧ s'.fld oPwrTherm 37 37 = 1 ∧ s'.fld oPwrTherm 35 32 = 12 ∧ { s' with regs := s.regs } = s) ∧
    (watts ≤ s.fld oPwrCtrl 26 16 ∨ s.fld oPwrTherm 35 32 ≠ 12 →
      ∃ s' p, exec (.powerWindow watts) s = .next s' ∧ p ≤ 12 ∧ s'.fld oPwrTherm 35 32 = Nat.max s.power.shareT p ∧
        s'.power = { s.power with shareP := p } ∧ s'.fld oPwrTherm 37 37 = s.fld oPwrTherm 37 37)) ∧
  (∀ s l, s.live = true → s.inService l = true → s.holdsFrag l = false → (s.cluster l).waking = [] → s.gatingOf l ≠ .powerGated → s.mayGate l = true →
    ∃ s', exec (.clusterPowerGate l) s = .next s' ∧ s'.gatingOf l = .powerGated ∧ (s'.cluster l).lines = [] ∧ (s'.cluster l).ctx = [] ∧
      (∀ k, k ≠ l → s'.cluster k = s.cluster k) ∧ (∀ a, a < 2 ^ 22 → s'.cis.rd (cisKey l a) = 0) ∧
      (∀ k a, k ≠ l → a < 2 ^ 22 → s'.cis.rd (cisKey k a) = s.cis.rd (cisKey k a)) ∧ s'.frags = s.frags ∧ s'.regs = s.regs) ∧
  (∀ s, s.active = true → s.quiet = true →
    ∃ s', exec .idleEntry s = .next s' ∧ s'.fld oPwrState 1 0 = 1 ∧ (∀ l, s'.gatingOf l = .powerGated) ∧ s'.cmds = [] ∧
      ∀ o, o ≠ oPwrState → s'.word o = s.word o) ∧
  (∀ s, s.ready = true → s.fld oPwrState 1 0 = 1 →
    ∃ s', exec .idleExit s = .next s' ∧ s'.fld oPwrState 1 0 = 0 ∧ (∀ o, o ≠ oPwrState → s'.word o = s.word o) ∧ { s' with regs := s.regs } = s) ∧
  (∀ s, s.live = true →
    ∃ s', exec .timeWindow s = .next s' ∧ s'.sched.used = [] ∧ s'.clock = (s.clock / 10 ^ 10 + 1) * 10 ^ 10 ∧
      { s' with clock := s.clock, sched := { s'.sched with used := s.sched.used } } = s) ∧
  (∀ s cycles fits, s.live = true →
    ∃ s', exec (.class0Window cycles fits) s = .next s' ∧ s'.clock = (s.clock / 10 ^ 8 + 1) * 10 ^ 8 ∧ s'.sched.overNoted = false ∧
      ((64 * s.fld oSafCap 9 0 * 125000 < 4 * cycles ∨ fits = false ∨ ∃ l, l < 16 ∧ (s.gate l).exceeded = true ∧ s.fld (oGateCtrl l) 42 32 = 0) →
        s.sched.overNoted = false → Counted s s' oSchC0mon 63 48 ∧ s'.evtSeq = s.evtSeq + 1) ∧
      (s.sched.overNoted = true ∨ 4 * cycles ≤ 64 * s.fld oSafCap 9 0 * 125000 ∧ fits = true ∧
          (∀ l, l < 16 → (s.gate l).exceeded = true → s.fld (oGateCtrl l) 42 32 ≠ 0) →
        s'.regs = s.regs ∧ s'.evtSeq = s.evtSeq)) ∧
  (∀ s f x, s.live = true → s.frag? f = some x → x.cls = 0 → x.phase = .dispatchable → x.missed = false →
    ∃ s' y, exec (.class0WaitBound (.fragment f)) s = .next s' ∧ s'.frag? f = some y ∧ y = { x with missed := true } ∧
      s'.clock = Nat.max s.clock (x.waitFrom + 40 * 10 ^ 6) ∧
      (s.reserveFits = true → s.obsNow ≠ 1 → s.obsNow ≠ 2 →
        if s.draw 0 % 2 = 1 then s'.sched.overNoted = true ∧ s'.fld oSchC0mon 47 32 = s.fld oSchC0mon 47 32
        else Counted s s' oSchC0mon 47 32 ∧ s'.fld oSafStatus 1 1 = 1 ∧ s'.evtSeq = s.evtSeq + 1) ∧
      ((s.reserveFits = false ∨ s.obsNow = 1 ∨ s.obsNow = 2) → s'.sched.overNoted = true ∧ s'.fld oSchC0mon 47 32 = s.fld oSchC0mon 47 32)) ∧
  (∀ s l i e, s.live = true → ((s.gate l).queue 0)[i]? = some e → s.gateOpen l 0 = true → e ∉ (s.gate l).missed →
    ∃ s', exec (.class0WaitBound (.packet l i)) s = .next s' ∧ e ∈ (s'.gate l).missed ∧ (s'.gate l).queues = (s.gate l).queues ∧
      s'.clock = s.clock + (10 * 10 ^ 6 - (s.openTotal l - e.2.1))) ∧
  (∀ s, s.live = true → s.fld oSchCtrl 31 30 = 0 → (∀ f ∈ s.frags, f.tenant < 256 ∧ f.cls < 4) →
    ∃ s', exec .queueSample s = .next s' ∧ (∀ t c, t < 256 → c < 4 → s'.fld (oSchQs t c) 47 32 = Nat.min (s.schDepth t c) 0xFFFF) ∧
      (∀ l c, l < 16 → c < 4 → s'.fld (oGateQs l c) 47 32 = Nat.min ((s.gate l).queue c).length 0xFFFF) ∧ { s' with regs := s.regs } = s) ∧
  (∀ s t, s.live = true → s.power.recoveryUntil = some t →
    ∃ s', exec .observationPeriodEnd s = .next s' ∧ s'.power = { s.power with recoveryUntil := none } ∧ s'.clock = Nat.max s.clock t ∧
      (s.fld oPwrState 2 2 = 1 → s.fld oSchCtrl 24 24 = 0 → s.power.testMode = false → s'.fld oSchCtrl 31 30 = 0))

/-! ## Ports and transport -/

/-- R18, R491, R492, R495 to R501, R520, R541 to R545, R557: the next gate entry or cycle applies, with the pending bank at its first cycle; the packet due leaves; frames are
taken, answered or counted as dropped; links and synchronisation follow their messages; packets are held, acknowledged, sent again and given
up; the windows are halved and doubled. The device times that these steps take are the model's (log 3). -/
def Obligations.GatesAndTransport : Prop :=
  (∀ s l i, s.live = true → l < 16 → i = (s.gate l).idx → i + 1 < s.fld (oGateCtrl l) 42 32 → s.entryEnd l i < s.actCycle l →
    ∃ s', exec (.gateEntryExpiry l) s = .next s' ∧ (s'.gate l).idx = i + 1 ∧ s'.clock = Nat.max s.clock ((s.gate l).cycleStart + s.entryEnd l i) ∧
      (s'.gate l).mask = BitVec.ofNat 4 (s.fld (oGateEntry l (s.fld (oGateCtrl l) 3 3) (i + 1)) 35 32) ∧ (s'.gate l).queues = (s.gate l).queues ∧
      { s' with gates := s.gates, clock := s.clock } = s) ∧
  (∀ s l, s.live = true → l < 16 → s.fld (oGateCtrl l) 2 2 = 1 → s.fld oFabTime 0 0 = 1 →
    (s.fld (oGateCtrl l) 42 32 = 0 ∨ (s.gate l).armedAt ≤ (s.gate l).cycleStart + s.fld (oGateCycle l) 63 32 * 1000) →
    ∃ s', exec (.gateCycleStart l) s = .next s' ∧ s'.fld (oGateCtrl l) 3 3 = 1 - s.fld (oGateCtrl l) 3 3 ∧ s'.fld (oGateCtrl l) 2 2 = 0 ∧
      s'.fld (oGateCtrl l) 42 32 = s.fld (oGateCtrl l) 26 16 ∧ s'.fld (oGateCycle l) 63 32 = s.fld (oGateCycle l) 31 0 ∧ (s'.gate l).idx = 0 ∧
      (s'.gate l).cycleStart = (s.gate l).armedAt ∧ s'.clock = Nat.max s.clock (s.gate l).armedAt ∧
      (s'.gate l).mask = BitVec.ofNat 4 (s'.fld (oGateEntry l (1 - s.fld (oGateCtrl l) 3 3) 0) 35 32) ∧ (s'.gate l).queues = (s.gate l).queues) ∧
  (∀ s l at0, s.live = true → l < 16 → s.fld (oGateCtrl l) 2 2 = 0 → s.fld (oGateCtrl l) 42 32 ≠ 0 →
    at0 = (s.gate l).cycleStart + s.fld (oGateCycle l) 63 32 * 1000 →
    ∃ s', exec (.gateCycleStart l) s = .next s' ∧ (s'.gate l).idx = 0 ∧ (s'.gate l).cycleStart = at0 ∧ s'.clock = Nat.max s.clock at0 ∧
      (s'.gate l).mask = BitVec.ofNat 4 (s'.fld (oGateEntry l (s.fld (oGateCtrl l) 3 3) 0) 35 32) ∧ (s'.gate l).queues = (s.gate l).queues ∧
      ((s.gate l).exceeded = true → Counted s s' oSchC0mon 63 48) ∧ ((s.gate l).exceeded = false → s'.regs = s.regs)) ∧
  (∀ s l c x, s.live = true → s.halfUp l = true → c < 4 → s.gateOpen l c = true → ((s.gate l).queue c).head? = some x → x.2.2.cls = c →
    s.beforeClose l c x.2.2 = true →
    (c = 0 ∨ s.gateHead l 0 = none ∧ ∀ d y, 1 ≤ d → d < 4 → d ≠ c → s.gateHead l d = some y →
      s.phiGate l x.2.2 * 4 + c < s.phiGate l y.2.2 * 4 + y.2.2.cls) →
    ∃ s' f, exec (.packetTransmit l) s = .next s' ∧ s'.out.frames = s.out.frames ++ [f] ∧ f.half = l ∧ f.packet = x.2.2 ∧
      f.pcp = s.fld oFabQos (16 * c + 8) (16 * c + 6) ∧ f.trafficClass = 4 * s.fld oFabQos (16 * c + 5) (16 * c) + 2 ∧ f.dstPort = 47266 ∧
      49152 ≤ f.srcPort ∧ f.srcPort < 65536 ∧ f.bytes.take 4 = [0, c * 64, x.2.2.type % 256, 1].map (BitVec.ofNat 8) ∧
      f.bytes.length = 36 + x.2.2.payload.length ∧ (s'.gate l).queue c = ((s.gate l).queue c).drop 1 ∧
      (∀ d, d ≠ c → (s'.gate l).queue d = (s.gate l).queue d) ∧
      s'.clock = s.clock + (106 + x.2.2.payload.length) * 1000 / (if s.fld (oFabPort (l / 2)) 2 2 = 1 then 50 else 100)) ∧
  (∀ s port p, s.live = true → s.halfUp (2 * port) = true ∨ s.halfUp (2 * port + 1) = true →
    (∀ a ∈ s.ownAddrs, ∃ s', exec (.frameReceive port (.neighbourSolicit a) p) s = .next s' ∧ s'.out.adverts = s.out.adverts ++ [a] ∧
      { s' with out := { s'.out with adverts := s.out.adverts } } = s) ∧
    (∀ k, k = FrameKind.other ∨ (∃ a, a ∉ s.ownAddrs ∧ k = .neighbourSolicit a) →
      ∃ s', exec (.frameReceive port k p) s = .next s' ∧ Counted s s' oFabCnt 15 0 ∧ { s' with regs := s.regs } = s) ∧
    exec (.frameReceive port .gptp p) s = .next s ∧
    (p.crcOk = false ∨ s.member p.src = false ∨ p.dst ≠ s.nodeId → exec (.frameReceive port .scarab p) s = .next s) ∧
    (p.crcOk = true → s.member p.src = true → p.dst = s.nodeId → p.cls < 4 → p.type ≠ tySack →
      ∃ s', exec (.frameReceive port .scarab p) s = .next s' ∧
        (s'.peer p.src p.cls).sinceSack = (if (s.peer p.src p.cls).sinceSack < 15 then (s.peer p.src p.cls).sinceSack + 1 else 0) ∧
        (p.psn ∈ (s.peer p.src p.cls).held → (s'.peer p.src p.cls).held = (s.peer p.src p.cls).held ∧ s'.fab.inbox = s.fab.inbox ∧
          s'.fab.delivered = s.fab.delivered) ∧
        (p.psn ∉ (s.peer p.src p.cls).held → (s'.peer p.src p.cls).held = (s.peer p.src p.cls).held ++ [p.psn] ∧
          ((∀ a ∈ s.fab.inbox, a.src ≠ p.src ∨ a.msg ≠ p.msg) → p.moff = 0 → p.last = true → p.type ≠ tyData →
            s'.fab.delivered = s.fab.delivered ++ [(p.src, p.type, p.payload)] ∧ s'.fab.inbox = s.fab.inbox)))) ∧
  (∀ s port half up, s.live = true → port < 8 → half < 2 → half = 0 ∨ s.fld (oFabPort port) 2 2 = 1 → up = false ∨ s.fld (oFabPort port) 0 0 = 1 →
    ∃ s', exec (.portLinkChange port half up) s = .next s' ∧ s'.fld (oFabPort port) (18 + half) (18 + half) = b2n up ∧
      s'.fld (oFabPort port) 2 0 = s.fld (oFabPort port) 2 0 ∧ (∀ o, o ≠ oFabPort port → s'.word o = s.word o) ∧ { s' with regs := s.regs } = s) ∧
  (∀ s offset, s.live = true →
    (∃ s', exec (.syncMessage false offset) s = .next s' ∧ s'.fab.syncRun = 0 ∧ s'.regs = s.regs) ∧
    ∃ s', exec (.syncMessage true offset) s = .next s' ∧ s'.fab.syncRun = s.fab.syncRun + 1 ∧ s'.fld oFabTime 63 32 = ofSigned 32 offset ∧
      s'.fld oFabTime 0 0 = (if 16 ≤ s.fab.syncRun + 1 then 1 else s.fld oFabTime 0 0) ∧
      s'.fld oFabTime 1 1 = (if 16 ≤ s.fab.syncRun + 1 then 0 else s.fld oFabTime 1 1)) ∧
  (∀ s, s.live = true → s.fld oFabTime 0 0 = 1 →
    ∃ s', exec .syncTimeout s = .next s' ∧ s'.fld oFabTime 0 0 = 0 ∧ s'.fld oFabTime 1 1 = 1 ∧ s'.fab.syncRun = 0 ∧ Logged s s' evTimeLost 0 []) ∧
  (∀ s msg src a, s.live = true → s.fab.inbox.find? (fun b => b.msg == msg && b.src == src) = some a → a.type = tyData → a.whole = true →
    ∃ s', exec (.data msg src) s = .next s' ∧ s'.fab.delivered = s.fab.delivered ++ [(src, tyData, a.bytes)] ∧
      (∀ b ∈ s'.fab.inbox, b.msg ≠ msg ∨ b.src ≠ src) ∧ (∀ b ∈ s.fab.inbox, b.msg ≠ msg ∨ b.src ≠ src → b ∈ s'.fab.inbox) ∧
      (s.fld oFabNode 21 21 = 0 ∨ src ≠ queenOf s.nodeId ∨ Config.blockRecord a.bytes = none → { s' with fab := s.fab } = s) ∧
      ∀ h b, s.fld oFabNode 21 21 = 1 → src = queenOf s.nodeId → Config.blockRecord a.bytes = some (h, b) →
        (∃ x, Map.get? s'.fab.idBlocks h = some x ∧ x.2.1 = Nat.max ((Map.get? s.fab.idBlocks h).elim 0 fun y => y.2.1) (b + 1)) ∧
        ∃ m, s'.fab.outbox = s.fab.outbox ++ [m] ∧ m.type = tyData ∧ m.dst = src) ∧
  (∀ s peer cls, s.live = true → cls < 4 →
    (0 < (s.peer peer cls).sinceSack →
      ∃ s', exec (.sackTimer peer cls) s = .next s' ∧ (s'.peer peer cls).sinceSack = 0 ∧ (s'.peer peer cls).ceSeen = false ∧
        (s'.peer peer cls).held = (s.peer peer cls).held ∧ ∃ m, s'.fab.outbox = s.fab.outbox ++ [m] ∧ m.type = tySack ∧ m.dst = peer ∧ m.cls = cls) ∧
    (∀ held ce, s.fab.waiting = [] →
      ((∀ u ∈ (s.peer peer cls).unacked, u.1 ∈ held) →
        ∃ s', exec (.sack peer cls held ce) s = .next s' ∧ (s'.peer peer cls).unacked = [] ∧
          ∀ c, c < 4 → (s'.peer peer c).window = if ce = true ∧ c ≠ 0 then Nat.max 1 ((s.peer peer c).window / 2) else (s.peer peer c).window) ∧
      (∀ u, (s.peer peer cls).unacked = [u] → u.1 ∉ held → (∃ h ∈ held, psnAfter h u.1 = true) → u.2.1 < 16 → u.2.2.1.cls < 4 → u.2.2.2 = 2 →
        ∃ s', exec (.sack peer cls held false) s = .next s' ∧ (s'.peer peer cls).unacked = [(u.1, u.2.1 + 1, u.2.2.1, 0)] ∧ Counted s s' oFabCnt 63 32)) ∧
    (∀ psn u, (s.peer peer cls).unacked.find? (fun v => v.1 == psn) = some u →
      ∃ s', exec (.retransmitTimeout peer cls psn) s = .next s' ∧
        (u.2.1 < 16 → u.2.2.1.cls < 4 → (psn, u.2.1 + 1, u.2.2.1, 0) ∈ (s'.peer peer cls).unacked ∧ Counted s s' oFabCnt 63 32) ∧
        (16 ≤ u.2.1 → (∀ c, c < 4 → (s'.peer peer c).unacked = []) ∧ (∀ p ∈ s'.fab.waiting, p.dst ≠ peer) ∧ Logged s s' evFabPeerLost 0 [peer] ∧
          (s.role = 2 → peer ∈ s'.fab.lostNodes))) ∧
    (s.fab.waiting = [] →
      ∃ s', exec (.windowRecovery peer) s = .next s' ∧ (s'.peer peer 0).window = (s.peer peer 0).window ∧ { s' with fab := s.fab } = s ∧
        ∀ c, 1 ≤ c → c < 4 → (s'.peer peer c).window = Nat.min (s.peer peer c).fullWindow (2 * (s.peer peer c).window)))

/-! ## Pods -/

/-- R96, R97, R99, R503, R508, R509, R512 to R517, R520, R627: a node answers a query with its part, or with `ST_STALE_EPOCH` under an old map; the queen passes
a query to the holders, merges what they return, and answers once nobody owes a part; a node commits an update part and reports, and a
queen passes one of another pod's queen on and reports after its nodes (log 33); a stale return is routed again; the deputy's record frees a block of IDs. -/
def Obligations.PodQueries : Prop :=
  (∀ s q skew, s.active = true → s.member q.src = true → q.cls < 4 → s.fab.waiting = [] →
    (s.role = 1 → q.epoch ≠ s.fld oFabEpoch 31 0 → (q.epoch ≠ s.fab.prevEpoch ∨ s.fab.adoptedAt + 20 * 10 ^ 9 ≤ s.clock) →
      ∃ s', exec (.query ⟨q, skew⟩) s = .next s' ∧ s'.fab.outbox = s.fab.outbox ++ [⟨tyData, q.cls, q.src, q.qid, stStaleEpoch⟩] ∧
        Counted s s' oFabCnt 31 16 ∧ s'.colls = s.colls ∧ SameBytes s s') ∧
    (s.role = 1 → q.epoch = s.fld oFabEpoch 31 0 →
      ∃ s' n, exec (.query ⟨q, skew⟩) s = .next s' ∧ 1 ≤ n ∧ (q.k ≠ everyMatch → n = 1) ∧
        s'.fab.outbox = s.fab.outbox ++ List.replicate n ⟨tyPartial, q.cls, q.src, q.qid, stOk⟩ ∧ s'.colls = s.colls ∧ SameBytes s s' ∧
        ∀ c k, skew = some k → s.colls.find? (fun o => o.handle == q.coll && o.tenant == q.tenant && o.pod.isSome) = some c → c.tenant < 256 →
          s'.evtSeq = s.evtSeq + 2 ∧ Counted s s' (oTenSkew c.tenant) 31 0 ∧ Counted s s' (oTenSkew c.tenant) 63 32) ∧
    (∀ c, s.role = 2 → s.colls.find? (fun o => o.handle == q.coll && o.tenant == q.tenant && o.pod.isSome) = some c →
      (∀ o ∈ s.fab.queries, o.qid < s.fab.nextQid) →
      ∃ s', exec (.query ⟨q, skew⟩) s = .next s' ∧ s'.colls = s.colls ∧
        ∀ n ∈ s.queryNodes c.handle, n ≠ s.nodeId → ⟨tyQuery, q.cls, n, s.fab.nextQid, stOk⟩ ∈ s'.fab.outbox)) ∧
  (∀ s p q, s.live = true → s.role = 2 → s.fab.queries.find? (fun o => o.qid == p.qid) = some q → p.src ∈ q.owing → q.body.k ≠ everyMatch →
    ((∃ n ∈ q.owing, n ≠ p.src) →
      ∃ s', exec (.partialMsg p) s = .next s' ∧ { s' with fab := s.fab } = s ∧
        s'.fab.queries.find? (fun o => o.qid == p.qid) = some { q with parts := q.parts ++ [p], owing := q.owing.filter (· != p.src) }) ∧
    ((∀ n ∈ q.owing, n = p.src) →
      ∃ s', exec (.partialMsg p) s = .next s' ∧ (∀ o ∈ s'.fab.queries, o.qid ≠ p.qid) ∧
        (q.cmd = 0 → ∃ n, 1 ≤ n ∧ s'.fab.outbox = s.fab.outbox ++ List.replicate n ⟨tyPartial, q.body.cls, q.body.src, q.body.qid, stOk⟩) ∧
        ∀ x, q.cmd ≠ 0 → s.cmd? q.cmd = some x → x.phase = .admitted → x.parent = none → bit (x.a 0x14 4) 10 = false → s.out.refused = [] →
          ∃ y, s'.cmd? q.cmd = some y ∧ y.phase = .ended)) ∧
  (∀ s uid src epoch tenant coll, s.active = true → s.role ≠ 0 → s.member src = true → s.fab.waiting = [] →
    (∀ items, s.epochOk epoch = false → s.role = 1 ∨ queenOf src = queenOf s.nodeId →
      ∃ s', exec (.update uid src epoch tenant coll items) s = .next s' ∧ s'.colls = s.colls ∧ Counted s s' oFabCnt 31 16 ∧
        s'.fab.outbox = s.fab.outbox ++ [⟨tyData, 1, src, uid, stStaleEpoch⟩]) ∧
    (∀ lid, s.role = 2 → queenOf src ≠ queenOf s.nodeId → (∃ c ∈ s.colls, c.handle = coll ∧ c.tenant = tenant) →
      s.nodeId ∉ s.updateNodes coll (bucketOf lid) → s.updateNodes coll (bucketOf lid) ≠ [] →
      ∃ s' u, exec (.update uid src epoch tenant coll [.delete lid]) s = .next s' ∧ s'.colls = s.colls ∧ s'.fab.updates = s.fab.updates ++ [u] ∧
        u.cmd = 0 ∧ u.src = src ∧ u.ref = uid ∧ u.owing = s.updateNodes coll (bucketOf lid) ∧
        ∀ n ∈ u.owing, ⟨tyUpdate, 1, n, u.uid, stOk⟩ ∈ s'.fab.outbox) ∧
    (∀ items, s.epochOk epoch = true → (∀ c ∈ s.colls, c.handle ≠ coll ∨ c.tenant ≠ tenant) →
      ∃ s', exec (.update uid src epoch tenant coll items) s = .next s' ∧ s'.colls = s.colls ∧
        s'.fab.outbox = s.fab.outbox ++ [⟨tyData, 1, src, uid, stBadHandle⟩]) ∧
    (∀ c, s.epochOk epoch = true → s.role = 1 → s.colls.find? (fun o => o.handle == coll) = some c → c.tenant = tenant →
      (∀ lid, c.isLive lid = true → (∀ l ∈ c.listsOf lid, s.resident (.fineList coll l) = true) →
        ∃ s' c', exec (.update uid src epoch tenant coll [.delete lid]) s = .next s' ∧ s'.colls.find? (fun o => o.handle == coll) = some c' ∧
          c'.isLive lid = false ∧ (∀ k, k ≠ lid → c'.isLive k = c.isLive k) ∧ s'.fab.outbox = s.fab.outbox ++ [⟨tyData, 1, src, uid, stOk⟩]) ∧
      (∀ lid, c.isLive lid = false →
        ∃ s', exec (.update uid src epoch tenant coll [.delete lid]) s = .next s' ∧ s'.colls = s.colls ∧
          s'.fab.outbox = s.fab.outbox ++ [⟨tyData, 1, src, uid, stNotFound⟩]) ∧
      (∀ l lid attr codes rec, s.resident (.fineList coll l) = true → (c.list l).committed = (c.list l).entries.length →
        s.room c.tenant (entryBytes c.sub c.attrb) ≠ none → s.vectorRoom 1 = true →
        (∀ p s1 loc, (c.recfmt = 0 ∧ loc = noLoc ∨
            c.recfmt ≠ 0 ∧ s.partFor c.tenant c.cls = some p ∧ s.program p (c.record lid rec) = .ok s1 loc) →
          ∃ s' c' e, exec (.update uid src epoch tenant coll [.insert l lid attr codes rec]) s = .next s' ∧
            s'.colls.find? (fun o => o.handle == coll) = some c' ∧ e ∈ (c'.list l).entries ∧ e.lid = lid ∧ e.attr = attr ∧ e.codes = codes ∧
            e.tomb = false ∧ e.loc = loc ∧ c'.isLive lid = true ∧ s'.fab.outbox = s.fab.outbox ++ [⟨tyData, 1, src, uid, stOk⟩]) ∧
        (∀ p, c.recfmt ≠ 0 → s.partFor c.tenant c.cls = some p → s.program p (c.record lid rec) = .exhausted →
          ∃ s', exec (.update uid src epoch tenant coll [.insert l lid attr codes rec]) s = .next s' ∧ s'.colls = s.colls ∧
            s'.fab.outbox = s.fab.outbox ++ [⟨tyData, 1, src, uid, stMediaExhausted⟩])) ∧
      (∀ l lid attr codes rec, s.resident (.fineList coll l) = true → (c.list l).committed = (c.list l).entries.length →
        s.room c.tenant (entryBytes c.sub c.attrb) = none ∨ s.vectorRoom 1 = false →
        ∃ s', exec (.update uid src epoch tenant coll [.insert l lid attr codes rec]) s = .next s' ∧ s'.colls = s.colls ∧
          s'.fab.outbox = s.fab.outbox ++ [⟨tyData, 1, src, uid, stQuota⟩]))) ∧
  (∀ s uid node status u st', s.live = true → s.role = 2 → s.fab.updates.find? (fun o => o.uid == uid) = some u → node ∈ u.owing →
    st' = (if u.isDelete = true then (if status = stOk then stOk else u.status) else if u.status = stOk then status else u.status) →
    ((∃ n ∈ u.owing, n ≠ node) →
      ∃ s', exec (.updateReport uid node status) s = .next s' ∧ { s' with fab := s.fab } = s ∧
        s'.fab.updates.find? (fun o => o.uid == uid) = some { u with owing := u.owing.filter (· != node), status := st' }) ∧
    ((∀ n ∈ u.owing, n = node) → u.cmd = 0 →
      ∃ s', exec (.updateReport uid node status) s = .next s' ∧ ⟨tyData, 1, u.src, u.ref, st'⟩ ∈ s'.fab.outbox ∧ (∀ o ∈ s'.fab.updates, o.uid ≠ uid)) ∧
    (∀ x c lid ids st w, (∀ n ∈ u.owing, n = node) → u.isDelete = false → u.lid = some lid → s.cmd? u.cmd = some x → u.cmd ≠ 0 →
      x.phase = .admitted → s.colls.find? (fun o => o.handle == u.coll) = some c → x.work = .insert ids st (some w) →
      ∃ s', exec (.updateReport uid node status) s = .next s' ∧ (∀ o ∈ s'.fab.updates, o.uid ≠ uid) ∧
        (st' = stOk → w.due = [] → AtWork s' u.cmd (.insert (ids ++ [s.gidOf c lid]) st none)) ∧
        (st' = stOk → w.due ≠ [] → AtWork s' u.cmd x.work) ∧
        (st' ≠ stOk → (∃ c', s'.colls.find? (fun o => o.handle == u.coll) = some c' ∧ c'.isLive lid = false) ∧
          (st' ≠ stQuota → AtWork s' u.cmd (.insert (ids ++ [noId]) (if st = stOk then st' else st) none)) ∧
          (st' = stQuota → ∃ y, s'.cmd? u.cmd = some y ∧ y.phase = .ended ∧ y.status = stQuota))) ∧
    (∀ x c lid outs, (∀ n ∈ u.owing, n = node) → u.isDelete = true → u.lid = some lid → s.cmd? u.cmd = some x → u.cmd ≠ 0 →
      x.phase = .admitted → s.colls.find? (fun o => o.handle == u.coll) = some c → x.work = .delete outs →
      ∃ s' c', exec (.updateReport uid node status) s = .next s' ∧ (∀ o ∈ s'.fab.updates, o.uid ≠ uid) ∧
        AtWork s' u.cmd (.delete (outs ++ [if st' = stOk then 0 else 1])) ∧ s'.colls.find? (fun o => o.handle == u.coll) = some c' ∧
        c'.isLive lid = false)) ∧
  (∀ s qid node nodeEpoch, s.live = true → s.role = 2 → s.fab.waiting = [] →
    (∀ q c, s.fab.queries.find? (fun o => o.qid == qid && o.owing.contains node) = some q → qid < s.fab.nextQid →
      s.colls.find? (fun o => o.handle == q.body.coll) = some c →
      ∃ s', exec (.staleEpochReturn qid node nodeEpoch) s = .next s' ∧ (∀ o ∈ s'.fab.queries, o.qid ≠ qid) ∧
        (nodeEpoch ≠ s.fld oFabEpoch 31 0 → ⟨tyMap, 1, node, s.fld oFabEpoch 31 0, stOk⟩ ∈ s'.fab.outbox) ∧
        ∀ n ∈ s.queryNodes c.handle, n ≠ s.nodeId → ⟨tyQuery, q.body.cls, n, s.fab.nextQid, stOk⟩ ∈ s'.fab.outbox) ∧
    (∀ u, s.fab.queries.find? (fun o => o.qid == qid && o.owing.contains node) = none →
      s.fab.updates.find? (fun o => o.uid == qid && o.owing.contains node) = some u →
      (u.lid = none ∨ ∃ lid, u.lid = some lid ∧ node ≠ s.nodeId ∧ node ∈ s.updateNodes u.coll (bucketOf lid)) →
      ∃ s', exec (.staleEpochReturn qid node nodeEpoch) s = .next s' ∧ ⟨tyUpdate, 1, node, qid, stOk⟩ ∈ s'.fab.outbox ∧
        (nodeEpoch ≠ s.fld oFabEpoch 31 0 → ⟨tyMap, 1, node, s.fld oFabEpoch 31 0, stOk⟩ ∈ s'.fab.outbox))) ∧
  (∀ s coll block next known, s.live = true → s.role = 2 → Map.getD s.fab.idBlocks coll (0, 0, none) = (next, known, some block) →
    ∃ s', exec (.idBlockAcknowledgement coll block) s = .next s' ∧
      Map.get? s'.fab.idBlocks coll = some (next, Nat.max known (block + 1), none) ∧
      { s' with fab := { s'.fab with idBlocks := s.fab.idBlocks } } = s)

/-- R503, R511, R514, R516, R518 to R520, R626, R627: a worker adopts its queen's map and acknowledges it; the queen routes under a map once all have; nodes
join, are heard, and are held lost; a lost bucket is rebuilt and a moved one published and released; the deputy takes a lost queen's place. -/
def Obligations.PodMembership : Prop :=
  (∀ s src epoch nodes shards deputy, s.live = true → s.role = 1 →
    (src ∈ s.fab.ignored → exec (.map src epoch nodes shards deputy) s = .next s ∧ exec (.heartbeat src) s = .next s) ∧
    (src ∉ s.fab.ignored → s.fab.waiting = [] →
      ∃ s', exec (.map src epoch nodes shards deputy) s = .next s' ∧ s'.fab.nodes = nodes ∧ s'.fab.shards = shards ∧ s'.fab.routeShards = shards ∧
        s'.fab.deputy = deputy ∧ s'.fab.hasMap = true ∧ s'.fab.queen = some src ∧ s'.fld oFabEpoch 31 0 = epoch % 2 ^ 32 ∧
        s'.fld oFabNode 21 21 = b2n (deputy == s.nodeId) ∧ s'.nodeId = s.nodeId ∧
        s'.fab.outbox = s.fab.outbox ++ [⟨tyData, 1, queenOf s.nodeId, epoch, stOk⟩] ∧
        (∀ o, s.fab.queen = some o → o ≠ src → o ∈ s'.fab.ignored)) ∧
    (src ∉ s.fab.ignored →
      ∃ s', exec (.heartbeat src) s = .next s' ∧ s'.fab = { s.fab with lastHeartbeat := s.clock } ∧ { s' with fab := s.fab } = s)) ∧
  (∀ s node, s.live = true → s.role = 2 → node ∈ s.fab.ackOwing →
    ∃ s', exec (.mapAcknowledgement node (s.fld oFabEpoch 31 0)) s = .next s' ∧ s'.fab.ackOwing = s.fab.ackOwing.filter (· != node) ∧
      { s' with fab := s.fab } = s ∧
      ((∃ n ∈ s.fab.ackOwing, n ≠ node) → s'.fab.routeEpoch = s.fab.routeEpoch ∧ s'.fab.routeShards = s.fab.routeShards) ∧
      ((∀ n ∈ s.fab.ackOwing, n = node) → s'.fab.routeEpoch = s.fld oFabEpoch 31 0 ∧ s'.fab.routeShards = s.fab.shards)) ∧
  (∀ s src, s.live = true → s.role = 2 → s.member src = true → queenOf src = queenOf s.nodeId → src ≠ s.nodeId →
    ∃ s', exec (.join src) s = .next s' ∧ src ∉ s'.fab.lostNodes ∧ src ∉ s'.fab.handledLost ∧
      s'.fab.outbox = s.fab.outbox ++ [⟨tyMap, 1, src, s.fld oFabEpoch 31 0, stOk⟩]) ∧
  (∀ s, s.live = true → s.role = 1 → s.fab.hasMap = false → s.fab.waiting = [] →
    ∃ s', exec .joinRepeat s = .next s' ∧ s'.clock = s.clock + 10 ^ 10 ∧
      s'.fab.outbox = s.fab.outbox ++ List.replicate s.upHalves.length ⟨tyJoin, 1, queenOf s.nodeId, s.nodeId, stOk⟩) ∧
  (∀ s, s.live = true → s.role = 2 → s.fab.waiting = [] →
    ∃ s', exec .heartbeatSend s = .next s' ∧ s'.clock = (s.clock / 10 ^ 9 + 1) * 10 ^ 9 ∧
      s'.fab.outbox.length = s.fab.outbox.length + s.workers.length * s.upHalves.length ∧
      ∀ n ∈ s.workers, s.upHalves ≠ [] → ⟨tyHeartbeat, 1, n, s.fld oFabEpoch 31 0, stOk⟩ ∈ s'.fab.outbox) ∧
  (∀ s node, s.live = true → s.role = 2 → ((∃ q ∈ s.fab.queries, node ∈ q.owing) ∨ ∃ u ∈ s.fab.updates, node ∈ u.owing) → node ∉ s.fab.lostNodes →
    ∃ s', exec (.workerTimeout node) s = .next s' ∧ s'.fab = { s.fab with lostNodes := s.fab.lostNodes ++ [node] } ∧ { s' with fab := s.fab } = s) ∧
  (∀ s, s.live = true → s.role = 1 → s.fld oFabNode 21 21 = 1 → s.fab.waiting = [] →
    ∃ s', exec .heartbeatTimeout s = .next s' ∧ s'.nodeId = queenOf s.nodeId ∧ s'.role = 2 ∧ s'.fld oFabNode 21 21 = 0 ∧
      s'.fld oFabEpoch 31 0 = (s.fld oFabEpoch 31 0 + 1) % 2 ^ 32 ∧ s'.clock = Nat.max s.clock (s.fab.lastHeartbeat + 10 ^ 10) ∧
      s'.evtSeq = s.evtSeq + 1 ∧ s.nodeId ∉ s'.fab.nodes.map (·.node) ∧
      s'.fab.shards = takeoverMap s.nodeId (queenOf s.nodeId) s.fab.shards ∧
      ∀ c b, c ∈ s.colls → c.pod.isSome = true → b = (s.idState c.handle).2.1 →
        Map.get? s'.fab.idBlocks c.handle = some (b * 65536, b, none)) ∧
  (∀ s node assign, s.live = true → s.role = 2 → node ∈ s.fab.lostNodes → node ∉ s.fab.handledLost → (s.toRebuild node).length = assign.length →
    (∀ p ∈ (s.toRebuild node).zip assign, s.goodAssign p.1 p.2 = true) → (∀ q ∈ s.fab.queries, node ∉ q.owing) →
    (∀ u ∈ s.fab.updates, node ∉ u.owing) →
    ∃ s', exec (.nodeLost node assign) s = .next s' ∧ s'.fab.handledLost = s.fab.handledLost ++ [node] ∧
      s'.fab.rebuilding = s.fab.rebuilding ++ assign ∧ node ∉ s'.fab.ackOwing ∧ (∀ e ∈ s'.fab.shards, e.coll ∉ s.fatalTo node) ∧
      (s.fatalTo node = [] → Logged s s' evNodeLost 0 [node, s.fld oFabEpoch 31 0] ∧ s'.fab.shards = s.fab.shards ∧ s'.cmds = s.cmds)) ∧
  (∀ s coll bucket node, s.live = true → s.fab.waiting = [] →
    (s.role = 2 → ⟨coll, bucket, node⟩ ∈ s.fab.rebuilding →
      ∃ s', exec (.bucketRebuilt coll bucket node) s = .next s' ∧ ⟨coll, bucket, node⟩ ∉ s'.fab.rebuilding ∧
        s'.fab.shards = (s.fab.shards.map fun e => if e.coll = coll ∧ e.bucket = bucket then { e with node := node } else e) ∧
        s'.fld oFabEpoch 31 0 = (s.fld oFabEpoch 31 0 + 1) % 2 ^ 32) ∧
    (∀ c, s.role = 1 → node = s.nodeId → s.colls.find? (fun o => o.handle == coll) = some c →
      ∃ s', exec (.bucketRebuilt coll bucket node) s = .next s' ∧ Logged s s' evBucketRebuilt 0 [c.index, bucket, node] ∧ s'.fab = s.fab)) ∧
  (∀ s coll bucket node e, s.live = true → s.role = 2 → s.fab.shards.find? (fun o => o.coll == coll && o.bucket == bucket) = some e →
    node = s.nodeId ∨ node ∈ s.workers → e.node ≠ node → (∀ r ∈ s.fab.reshards, r.coll ≠ coll ∨ r.bucket ≠ bucket) →
    (∀ k ∈ s.fab.keeping, k.1 ≠ coll ∨ k.2.1 ≠ bucket) → (∀ r ∈ s.fab.rebuilding, r.coll ≠ coll ∨ r.bucket ≠ bucket) →
    ∃ s', exec (.reshard coll bucket node) s = .next s' ∧ s'.fab = { s.fab with reshards := s.fab.reshards ++ [⟨coll, bucket, e.node, node⟩] } ∧
      { s' with fab := s.fab } = s) ∧
  (∀ s coll bucket r, s.live = true → s.role = 2 → s.fab.waiting = [] →
    s.fab.reshards.find? (fun o => o.coll == coll && o.bucket == bucket) = some r →
    ∃ s', exec (.bucketCopyComplete coll bucket) s = .next s' ∧ (∀ o ∈ s'.fab.reshards, o.coll ≠ coll ∨ o.bucket ≠ bucket) ∧
      s'.fab.shards = (s.fab.shards.map fun e => if e.coll = coll ∧ e.bucket = bucket then { e with node := r.dst } else e) ∧
      s'.fld oFabEpoch 31 0 = (s.fld oFabEpoch 31 0 + 1) % 2 ^ 32) ∧
  (∀ s coll bucket k, s.live = true → s.fab.keeping.find? (fun o => o.1 == coll && o.2.1 == bucket) = some k →
    ∃ s', exec (.bucketRelease coll bucket) s = .next s' ∧ s'.clock = Nat.max s.clock k.2.2 ∧ k ∉ s'.fab.keeping ∧
      (s.nodeId ∈ holdersIn s.fab.shards coll bucket → s'.colls = s.colls) ∧
      (∀ c, s.nodeId ∉ holdersIn s.fab.shards coll bucket → s.colls.find? (fun o => o.handle == coll) = some c →
        ∃ c', s'.colls.find? (fun o => o.handle == coll) = some c' ∧ ∀ l ∈ c'.lists, ∀ e ∈ l.2.entries, e.lid % 4096 ≠ bucket))

/-! ## The block -/

/-- A step takes the command at the front of the queue and is its effect on the state with the rest of the queue; on an empty queue the block idles for one
cycle, which is the model's choice (log 3). -/
def Obligations.StepRunsFront : Prop :=
  (∀ (s : State) c r, s.pending = c :: r → step s = exec c { s with pending := r }) ∧
  (∀ s : State, s.pending = [] → step s = .next { s with clock := s.clock + 800 })

/-- R401, R402, R551 to R558, R577, R629, R654 to R657, R664: the registers after reset, by offset, field and value; no command, event, reply or memory byte; a
word that the map does not list reads zero. -/
def Obligations.ResetState : Prop :=
  (∀ e ∈ [(oPwrState, 11, 8, 1), (oPwrState, 2, 2, 0), (oPwrState, 1, 0, 3), (oPwrCtrl, 47, 32, 0x3E8), (oPwrCtrl, 26, 16, 0x514), (oPwrCtrl, 15, 4, 0x64),
      (oPwrTherm, 63, 0, 0), (oSysMgmt, 1, 0, 3), (oSafStatus, 63, 0, 0), (oLcsState, 63, 0, 0), (oEvtPtr, 63, 0, 0), (oEvtCtrl, 10, 0, 0x400),
      (oCisWipe, 20, 19, 0), (oCisWipe, 18, 16, 3), (oCisWipe, 15, 0, 1), (oCisEcc, 63, 0, 0), (oSchCtrl, 31, 30, 1), (oSchCtrl, 24, 24, 0),
      (oSchCtrl, 23, 16, 0x20), (oSchCtrl, 15, 0, 0x400), (oSchC0res, 41, 32, 0x180), (oSchC0res, 25, 24, 1), (oSchC0res, 23, 20, 4),
      (oSchC0res, 18, 16, 2), (oSchC0res, 13, 8, 0x10), (oSchC0res, 5, 0, 0x10), (oSchCw, 47, 32, 0x80), (oSchCw, 31, 16, 0x200), (oSchCw, 15, 0, 0x800),
      (oSchC0mon, 63, 0, 0), (oPlcCtrl, 19, 16, 4), (oPlcCtrl, 15, 12, 4), (oPlcCtrl, 4, 0, 0xA), (oFabQos, 5, 0, 46), (oFabNode, 63, 0, 0),
      (oFabEpoch, 63, 0, 0)],
    State.reset.fld e.1 e.2.1 e.2.2.1 = e.2.2.2) ∧
  (∀ t, t < 256 → State.reset.fld (oTenQtime t) 9 0 = 0x3E8 ∧ State.reset.fld (oTenCtrl t) 0 0 = 0 ∧
    ∀ c, 1 ≤ c → c ≤ 3 → State.reset.flowWeight t c = 0x100) ∧
  (∀ l, l < 16 → State.reset.fld (oGateCycle l) 31 0 = 0xF4240 ∧ State.reset.fld (oGateCtrl l) 26 16 = 1 ∧ State.reset.gateOpen l 0 = true) ∧
  (∀ o, bar0Fields o = [] → State.reset.word o = 0) ∧
  State.reset.pending = [] ∧ State.reset.cmds = [] ∧ State.reset.evtSeq = 0 ∧ State.reset.out.replies = [] ∧ State.reset.out.frames = [] ∧
  State.reset.power.on = true ∧ MemCanonical State.reset ∧ ∀ a, State.reset.dev.rd a = 0 ∧ State.reset.cis.rd a = 0

/-- Every step keeps host memory, stack memory and the cisterns in their one canonical form (log 12 fixes that an unlisted byte reads as zero). -/
def Obligations.MemCanonicalKept : Prop :=
  ∀ s s', step s = .next s' → MemCanonical s → MemCanonical s'

/-- No command adds to the queue of waiting commands, takes one from it or reorders it: what waits is what the sender put there, less what has run. -/
def Obligations.QueueKept : Prop :=
  (∀ i s s', exec i s = .next s' → s'.pending = s.pending) ∧ ∀ s s', step s = .next s' → s'.pending = s.pending.drop 1

/-- R673: no command is refused, and the one fault is a register write that reaches Abaund's test registers of a cluster window in BLANK or RETURNED. -/
def Obligations.NeverRefuses : Prop :=
  ∀ i s, (∃ s', exec i s = .next s') ∨
    ∃ o, exec i s = .fault (.undefinedTestRegister o) ∧ 0x100 ≤ (o - oCcId 0) % 0x4000 ∧ oCcId 0 ≤ o ∧ s.fuses.lcs ≠ 1 ∧ s.fuses.lcs ≠ 2
end

