-- ==== Sys2Proof/Laws/Dispatch.lean ====
section
/-! SUPPORT. One equation per command: what exec calls for it. -/
namespace Sys2Proof.Machine

theorem exec_hqSqdb (fn : Nat) (q : Nat) (value : BitVec 32) (s : State) : exec (.hqSqdb fn q value) s = execHqSqdb fn q value s := rfl
theorem exec_hqCqdb (fn : Nat) (q : Nat) (value : BitVec 32) (s : State) : exec (.hqCqdb fn q value) s = execHqCqdb fn q value s := rfl
theorem exec_hqSqcfgEn (fn : Nat) (q : Nat) (value : Word) (s : State) : exec (.hqSqcfgEn fn q value) s = execHqSqcfgEn fn q value s := rfl
theorem exec_hqCqcfgEn (fn : Nat) (q : Nat) (value : Word) (s : State) : exec (.hqCqcfgEn fn q value) s = execHqCqcfgEn fn q value s := rfl
theorem exec_submissionFetch (fn : Nat) (q : Nat) (s : State) : exec (.submissionFetch fn q) s = execSubmissionFetch fn q s := rfl
theorem exec_admission (c : Nat) (s : State) : exec (.admission c) s = execAdmission c s := rfl
theorem exec_launch (c : Nat) (s : State) : exec (.launch c) s = execLaunch c s := rfl
theorem exec_copyIn (c : Nat) (s : State) : exec (.copyIn c) s = execCopyIn c s := rfl
theorem exec_copyOut (c : Nat) (s : State) : exec (.copyOut c) s = execCopyOut c s := rfl
theorem exec_loadImage (c : Nat) (s : State) : exec (.loadImage c) s = execLoadImage c s := rfl
theorem exec_queryProgress (c : Nat) (s : State) : exec (.queryProgress c) s = execQueryProgress c s := rfl
theorem exec_abort (c : Nat) (s : State) : exec (.abort c) s = execAbort c s := rfl
theorem exec_partCreate (c : Nat) (s : State) : exec (.partCreate c) s = execPartCreate c s := rfl
theorem exec_partGrow (c : Nat) (s : State) : exec (.partGrow c) s = execPartGrow c s := rfl
theorem exec_partDrop (c : Nat) (s : State) : exec (.partDrop c) s = execPartDrop c s := rfl
theorem exec_park (c : Nat) (s : State) : exec (.park c) s = execPark c s := rfl
theorem exec_resume (c : Nat) (s : State) : exec (.resume c) s = execResume c s := rfl
theorem exec_vfDetach (c : Nat) (s : State) : exec (.vfDetach c) s = execVfDetach c s := rfl
theorem exec_vfDetachGrace (vf : Nat) (s : State) : exec (.vfDetachGrace vf) s = execVfDetachGrace vf s := rfl
theorem exec_vfAttach (c : Nat) (s : State) : exec (.vfAttach c) s = execVfAttach c s := rfl
theorem exec_vrCreate (c : Nat) (s : State) : exec (.vrCreate c) s = execVrCreate c s := rfl
theorem exec_vrDrop (c : Nat) (s : State) : exec (.vrDrop c) s = execVrDrop c s := rfl
theorem exec_vrSearch (c : Nat) (s : State) : exec (.vrSearch c) s = execVrSearch c s := rfl
theorem exec_vrInsert (c : Nat) (s : State) : exec (.vrInsert c) s = execVrInsert c s := rfl
theorem exec_vrDelete (c : Nat) (s : State) : exec (.vrDelete c) s = execVrDelete c s := rfl
theorem exec_vrCompact (c : Nat) (s : State) : exec (.vrCompact c) s = execVrCompact c s := rfl
theorem exec_vrRerank (c : Nat) (s : State) : exec (.vrRerank c) s = execVrRerank c s := rfl
theorem exec_vrSort (c : Nat) (s : State) : exec (.vrSort c) s = execVrSort c s := rfl
theorem exec_vrPlace (c : Nat) (s : State) : exec (.vrPlace c) s = execVrPlace c s := rfl
theorem exec_vrResidency (c : Nat) (s : State) : exec (.vrResidency c) s = execVrResidency c s := rfl
theorem exec_vrEmbed (c : Nat) (s : State) : exec (.vrEmbed c) s = execVrEmbed c s := rfl
theorem exec_vrGenerate (c : Nat) (s : State) : exec (.vrGenerate c) s = execVrGenerate c s := rfl
theorem exec_vrMemCreate (c : Nat) (s : State) : exec (.vrMemCreate c) s = execVrMemCreate c s := rfl
theorem exec_vrMemDrop (c : Nat) (s : State) : exec (.vrMemDrop c) s = execVrMemDrop c s := rfl
theorem exec_vrModelInfo (c : Nat) (s : State) : exec (.vrModelInfo c) s = execVrModelInfo c s := rfl
theorem exec_vrAlloc (c : Nat) (s : State) : exec (.vrAlloc c) s = execVrAlloc c s := rfl
theorem exec_vrFree (c : Nat) (s : State) : exec (.vrFree c) s = execVrFree c s := rfl
theorem exec_allocationReturn (tenant : Nat) (base : Nat) (s : State) : exec (.allocationReturn tenant base) s = execAllocationReturn tenant base s := rfl
theorem exec_vrPartHealth (c : Nat) (s : State) : exec (.vrPartHealth c) s = execVrPartHealth c s := rfl
theorem exec_vrPodCreate (c : Nat) (s : State) : exec (.vrPodCreate c) s = execVrPodCreate c s := rfl
theorem exec_vrFabConfig (c : Nat) (s : State) : exec (.vrFabConfig c) s = execVrFabConfig c s := rfl
theorem exec_commandComplete (c : Nat) (s : State) : exec (.commandComplete c) s = execCommandComplete c s := rfl
theorem exec_completionEntry (c : Nat) (s : State) : exec (.completionEntry c) s = execCompletionEntry c s := rfl
theorem exec_interruptTimer (fn : Nat) (q : Nat) (s : State) : exec (.interruptTimer fn q) s = execInterruptTimer fn q s := rfl
theorem exec_hostAccessFault (c : Nat) (s : State) : exec (.hostAccessFault c) s = execHostAccessFault c s := rfl
theorem exec_functionLevelReset (fn : Nat) (s : State) : exec (.functionLevelReset fn) s = execFunctionLevelReset fn s := rfl
theorem exec_configRequest (fn : Nat) (item : CfgItem) (s : State) : exec (.configRequest fn item) s = execConfigRequest fn item s := rfl
theorem exec_fragmentDispatch (f : Nat) (clusters : List Nat) (s : State) : exec (.fragmentDispatch f clusters) s = execFragmentDispatch f clusters s := rfl
theorem exec_clusterWake (l : Nat) (s : State) : exec (.clusterWake l) s = execClusterWake l s := rfl
theorem exec_fragmentCommit (f : Nat) (s : State) : exec (.fragmentCommit f) s = execFragmentCommit f s := rfl
theorem exec_fragmentReissue (f : Nat) (cause : LostRun) (s : State) : exec (.fragmentReissue f cause) s = execFragmentReissue f cause s := rfl
theorem exec_add (t : Tid) (s : State) : exec (.add t) s = execAdd t s := rfl
theorem exec_sub (t : Tid) (s : State) : exec (.sub t) s = execSub t s := rfl
theorem exec_mul (t : Tid) (s : State) : exec (.mul t) s = execMul t s := rfl
theorem exec_mulh (t : Tid) (s : State) : exec (.mulh t) s = execMulh t s := rfl
theorem exec_mulhu (t : Tid) (s : State) : exec (.mulhu t) s = execMulhu t s := rfl
theorem exec_div (t : Tid) (s : State) : exec (.div t) s = execDiv t s := rfl
theorem exec_divu (t : Tid) (s : State) : exec (.divu t) s = execDivu t s := rfl
theorem exec_rem (t : Tid) (s : State) : exec (.rem t) s = execRem t s := rfl
theorem exec_remu (t : Tid) (s : State) : exec (.remu t) s = execRemu t s := rfl
theorem exec_and (t : Tid) (s : State) : exec (.and t) s = execAnd t s := rfl
theorem exec_or (t : Tid) (s : State) : exec (.or t) s = execOr t s := rfl
theorem exec_xor (t : Tid) (s : State) : exec (.xor t) s = execXor t s := rfl
theorem exec_shl (t : Tid) (s : State) : exec (.shl t) s = execShl t s := rfl
theorem exec_shr (t : Tid) (s : State) : exec (.shr t) s = execShr t s := rfl
theorem exec_sra (t : Tid) (s : State) : exec (.sra t) s = execSra t s := rfl
theorem exec_slt (t : Tid) (s : State) : exec (.slt t) s = execSlt t s := rfl
theorem exec_sltu (t : Tid) (s : State) : exec (.sltu t) s = execSltu t s := rfl
theorem exec_min (t : Tid) (s : State) : exec (.min t) s = execMin t s := rfl
theorem exec_max (t : Tid) (s : State) : exec (.max t) s = execMax t s := rfl
theorem exec_minu (t : Tid) (s : State) : exec (.minu t) s = execMinu t s := rfl
theorem exec_maxu (t : Tid) (s : State) : exec (.maxu t) s = execMaxu t s := rfl
theorem exec_clz (t : Tid) (s : State) : exec (.clz t) s = execClz t s := rfl
theorem exec_popc (t : Tid) (s : State) : exec (.popc t) s = execPopc t s := rfl
theorem exec_sel (t : Tid) (s : State) : exec (.sel t) s = execSel t s := rfl
theorem exec_li (t : Tid) (s : State) : exec (.li t) s = execLi t s := rfl
theorem exec_lhi (t : Tid) (s : State) : exec (.lhi t) s = execLhi t s := rfl
theorem exec_srd (t : Tid) (s : State) : exec (.srd t) s = execSrd t s := rfl
theorem exec_swr (t : Tid) (s : State) : exec (.swr t) s = execSwr t s := rfl
theorem exec_beq (t : Tid) (s : State) : exec (.beq t) s = execBeq t s := rfl
theorem exec_bne (t : Tid) (s : State) : exec (.bne t) s = execBne t s := rfl
theorem exec_blt (t : Tid) (s : State) : exec (.blt t) s = execBlt t s := rfl
theorem exec_bge (t : Tid) (s : State) : exec (.bge t) s = execBge t s := rfl
theorem exec_bltu (t : Tid) (s : State) : exec (.bltu t) s = execBltu t s := rfl
theorem exec_bgeu (t : Tid) (s : State) : exec (.bgeu t) s = execBgeu t s := rfl
theorem exec_jal (t : Tid) (s : State) : exec (.jal t) s = execJal t s := rfl
theorem exec_jalr (t : Tid) (s : State) : exec (.jalr t) s = execJalr t s := rfl
theorem exec_trap (t : Tid) (s : State) : exec (.trap t) s = execTrap t s := rfl
theorem exec_ld (t : Tid) (s : State) : exec (.ld t) s = execLd t s := rfl
theorem exec_st (t : Tid) (s : State) : exec (.st t) s = execSt t s := rfl
theorem exec_vld (t : Tid) (s : State) : exec (.vld t) s = execVld t s := rfl
theorem exec_vst (t : Tid) (s : State) : exec (.vst t) s = execVst t s := rfl
theorem exec_amoAdd (t : Tid) (s : State) : exec (.amoAdd t) s = execAmoAdd t s := rfl
theorem exec_amoSwap (t : Tid) (s : State) : exec (.amoSwap t) s = execAmoSwap t s := rfl
theorem exec_cflush (t : Tid) (s : State) : exec (.cflush t) s = execCflush t s := rfl
theorem exec_cinv (t : Tid) (s : State) : exec (.cinv t) s = execCinv t s := rfl
theorem exec_fenceAcq (t : Tid) (s : State) : exec (.fenceAcq t) s = execFenceAcq t s := rfl
theorem exec_fenceRel (t : Tid) (s : State) : exec (.fenceRel t) s = execFenceRel t s := rfl
theorem exec_vadd (t : Tid) (s : State) : exec (.vadd t) s = execVadd t s := rfl
theorem exec_vsub (t : Tid) (s : State) : exec (.vsub t) s = execVsub t s := rfl
theorem exec_vmul (t : Tid) (s : State) : exec (.vmul t) s = execVmul t s := rfl
theorem exec_vfma (t : Tid) (s : State) : exec (.vfma t) s = execVfma t s := rfl
theorem exec_vmin (t : Tid) (s : State) : exec (.vmin t) s = execVmin t s := rfl
theorem exec_vmax (t : Tid) (s : State) : exec (.vmax t) s = execVmax t s := rfl
theorem exec_vand (t : Tid) (s : State) : exec (.vand t) s = execVand t s := rfl
theorem exec_vor (t : Tid) (s : State) : exec (.vor t) s = execVor t s := rfl
theorem exec_vxor (t : Tid) (s : State) : exec (.vxor t) s = execVxor t s := rfl
theorem exec_vshl (t : Tid) (s : State) : exec (.vshl t) s = execVshl t s := rfl
theorem exec_vshr (t : Tid) (s : State) : exec (.vshr t) s = execVshr t s := rfl
theorem exec_vsra (t : Tid) (s : State) : exec (.vsra t) s = execVsra t s := rfl
theorem exec_vcmp (t : Tid) (s : State) : exec (.vcmp t) s = execVcmp t s := rfl
theorem exec_vsel (t : Tid) (s : State) : exec (.vsel t) s = execVsel t s := rfl
theorem exec_vcvt (t : Tid) (s : State) : exec (.vcvt t) s = execVcvt t s := rfl
theorem exec_vbcast (t : Tid) (s : State) : exec (.vbcast t) s = execVbcast t s := rfl
theorem exec_vext (t : Tid) (s : State) : exec (.vext t) s = execVext t s := rfl
theorem exec_vins (t : Tid) (s : State) : exec (.vins t) s = execVins t s := rfl
theorem exec_vperm (t : Tid) (s : State) : exec (.vperm t) s = execVperm t s := rfl
theorem exec_vred (t : Tid) (s : State) : exec (.vred t) s = execVred t s := rfl
theorem exec_vexp (t : Tid) (s : State) : exec (.vexp t) s = execVexp t s := rfl
theorem exec_vrcp (t : Tid) (s : State) : exec (.vrcp t) s = execVrcp t s := rfl
theorem exec_vrsqrt (t : Tid) (s : State) : exec (.vrsqrt t) s = execVrsqrt t s := rfl
theorem exec_mand (t : Tid) (s : State) : exec (.mand t) s = execMand t s := rfl
theorem exec_mor (t : Tid) (s : State) : exec (.mor t) s = execMor t s := rfl
theorem exec_mxor (t : Tid) (s : State) : exec (.mxor t) s = execMxor t s := rfl
theorem exec_mnot (t : Tid) (s : State) : exec (.mnot t) s = execMnot t s := rfl
theorem exec_mpop (t : Tid) (s : State) : exec (.mpop t) s = execMpop t s := rfl
theorem exec_mfirst (t : Tid) (s : State) : exec (.mfirst t) s = execMfirst t s := rfl
theorem exec_mset (t : Tid) (s : State) : exec (.mset t) s = execMset t s := rfl
theorem exec_mget (t : Tid) (s : State) : exec (.mget t) s = execMget t s := rfl
theorem exec_tmma (t : Tid) (s : State) : exec (.tmma t) s = execTmma t s := rfl
theorem exec_tmmaExecution (l : Nat) (s : State) : exec (.tmmaExecution l) s = execTmmaExecution l s := rfl
theorem exec_tld (t : Tid) (s : State) : exec (.tld t) s = execTld t s := rfl
theorem exec_tst (t : Tid) (s : State) : exec (.tst t) s = execTst t s := rfl
theorem exec_tzero (t : Tid) (s : State) : exec (.tzero t) s = execTzero t s := rfl
theorem exec_tmov (t : Tid) (s : State) : exec (.tmov t) s = execTmov t s := rfl
theorem exec_lscan (t : Tid) (s : State) : exec (.lscan t) s = execLscan t s := rfl
theorem exec_combOpen (t : Tid) (s : State) : exec (.combOpen t) s = execCombOpen t s := rfl
theorem exec_combTopkN (t : Tid) (s : State) : exec (.combTopkN t) s = execCombTopkN t s := rfl
theorem exec_combTopkW (t : Tid) (s : State) : exec (.combTopkW t) s = execCombTopkW t s := rfl
theorem exec_combBlockMerge (l : Nat) (ctx : Nat) (s : State) : exec (.combBlockMerge l ctx) s = execCombBlockMerge l ctx s := rfl
theorem exec_combClose (t : Tid) (s : State) : exec (.combClose t) s = execCombClose t s := rfl
theorem exec_combMerge (t : Tid) (s : State) : exec (.combMerge t) s = execCombMerge t s := rfl
theorem exec_pumpSet (t : Tid) (s : State) : exec (.pumpSet t) s = execPumpSet t s := rfl
theorem exec_pumpGo (t : Tid) (s : State) : exec (.pumpGo t) s = execPumpGo t s := rfl
theorem exec_pumpFetch (f : Nat) (m : Nat) (n : Nat) (s : State) : exec (.pumpFetch f m n) s = execPumpFetch f m n s := rfl
theorem exec_qPop (t : Tid) (s : State) : exec (.qPop t) s = execQPop t s := rfl
theorem exec_qPush (t : Tid) (s : State) : exec (.qPush t) s = execQPush t s := rfl
theorem exec_fragPost (t : Tid) (s : State) : exec (.fragPost t) s = execFragPost t s := rfl
theorem exec_fragLogSt (t : Tid) (s : State) : exec (.fragLogSt t) s = execFragLogSt t s := rfl
theorem exec_fragLogAdd (t : Tid) (s : State) : exec (.fragLogAdd t) s = execFragLogAdd t s := rfl
theorem exec_fragStatus (t : Tid) (s : State) : exec (.fragStatus t) s = execFragStatus t s := rfl
theorem exec_fragProg (t : Tid) (s : State) : exec (.fragProg t) s = execFragProg t s := rfl
theorem exec_fragEnd (t : Tid) (s : State) : exec (.fragEnd t) s = execFragEnd t s := rfl
theorem exec_wcall (t : Tid) (s : State) : exec (.wcall t) s = execWcall t s := rfl
theorem exec_seal (t : Tid) (s : State) : exec (.seal t) s = execSeal t s := rfl
theorem exec_unseal (t : Tid) (s : State) : exec (.unseal t) s = execUnseal t s := rfl
theorem exec_quant (t : Tid) (s : State) : exec (.quant t) s = execQuant t s := rfl
theorem exec_dequant (t : Tid) (s : State) : exec (.dequant t) s = execDequant t s := rfl
theorem exec_statAmax (t : Tid) (s : State) : exec (.statAmax t) s = execStatAmax t s := rfl
theorem exec_statClip (t : Tid) (s : State) : exec (.statClip t) s = execStatClip t s := rfl
theorem exec_wellInterval (op : Nat) (units : Nat) (fault : Option WellReport) (s : State) : exec (.wellInterval op units fault) s = execWellInterval op units fault s := rfl
theorem exec_refresh (stack : Nat) (channel : Nat) (bank : Nat) (s : State) : exec (.refresh stack channel bank) s = execRefresh stack channel bank s := rfl
theorem exec_patrolScrub (u : Option UnitId) (line : Nat) (bad : Nat) (raced : Bool) (s : State) : exec (.patrolScrub u line bad raced) s = execPatrolScrub u line bad raced s := rfl
theorem exec_channelSpare (stack : Nat) (channel : Nat) (s : State) : exec (.channelSpare stack channel) s = execChannelSpare stack channel s := rfl
theorem exec_channelRetire (stack : Nat) (channel : Nat) (s : State) : exec (.channelRetire stack channel) s = execChannelRetire stack channel s := rfl
theorem exec_backgroundMove (u : UnitId) (dest : Home) (s : State) : exec (.backgroundMove u dest) s = execBackgroundMove u dest s := rfl
theorem exec_demandMove (c : Nat) (u : UnitId) (stack : Nat) (deadline : Option Nat) (s : State) : exec (.demandMove c u stack deadline) s = execDemandMove c u stack deadline s := rfl
theorem exec_moveSwitch (e : CopyEnd) (s : State) : exec (.moveSwitch e) s = execMoveSwitch e s := rfl
theorem exec_moveSourceRelease (m : Nat) (s : State) : exec (.moveSourceRelease m) s = execMoveSourceRelease m s := rfl
theorem exec_deadlineExpiry (m : Nat) (s : State) : exec (.deadlineExpiry m) s = execDeadlineExpiry m s := rfl
theorem exec_heatHalfLife (s : State) : exec .heatHalfLife s = execHeatHalfLife s := rfl
theorem exec_autoCompaction (handle : Nat) (list : Nat) (s : State) : exec (.autoCompaction handle list) s = execAutoCompaction handle list s := rfl
theorem exec_rangeRelease (r : Nat) (s : State) : exec (.rangeRelease r) s = execRangeRelease r s := rfl
theorem exec_reClustering (handle : Nat) (s : State) : exec (.reClustering handle) s = execReClustering handle s := rfl
theorem exec_relocationNotice (n : Nat) (s : State) : exec (.relocationNotice n) s = execRelocationNotice n s := rfl
theorem exec_noticeQueueMove (handle : Nat) (list : Nat) (dest : Home) (s : State) : exec (.noticeQueueMove handle list dest) s = execNoticeQueueMove handle list dest s := rfl
theorem exec_fold (tenant : Nat) (pid : Nat) (dest : Nat) (s : State) : exec (.fold tenant pid dest) s = execFold tenant pid dest s := rfl
theorem exec_garbageCollection (tenant : Nat) (pid : Nat) (dest : Nat) (s : State) : exec (.garbageCollection tenant pid dest) s = execGarbageCollection tenant pid dest s := rfl
theorem exec_wearLevelling (block : Nat) (dest : Nat) (s : State) : exec (.wearLevelling block dest) s = execWearLevelling block dest s := rfl
theorem exec_flashPatrol (block : Nat) (r : PatrolResult) (s : State) : exec (.flashPatrol block r) s = execFlashPatrol block r s := rfl
theorem exec_blockClose (block : Nat) (failed : Option Nat) (s : State) : exec (.blockClose block failed) s = execBlockClose block failed s := rfl
theorem exec_programFailure (block : Nat) (dest : Nat) (sourceOk : Bool) (parityOk : Bool) (s : State) : exec (.programFailure block dest sourceOk parityOk) s = execProgramFailure block dest sourceOk parityOk s := rfl
theorem exec_blockErase (block : Nat) (failed : Bool) (s : State) : exec (.blockErase block failed) s = execBlockErase block failed s := rfl
theorem exec_openBlockRecovery (s : State) : exec .openBlockRecovery s = execOpenBlockRecovery s := rfl
theorem exec_poolFail (n : Nat) (s : State) : exec (.poolFail n) s = execPoolFail n s := rfl
theorem exec_registerWrite (c : WriteCycle) (s : State) : exec (.registerWrite c) s = execRegisterWrite c s := rfl
theorem exec_plcCtrlHubtier (w : RegWrite) (s : State) : exec (.plcCtrlHubtier w) s = execPlcCtrlHubtier w s := rfl
theorem exec_tenCtrlErase (w : RegWrite) (salt : List Byte) (s : State) : exec (.tenCtrlErase w salt) s = execTenCtrlErase w salt s := rfl
theorem exec_evtPtrRd (w : RegWrite) (s : State) : exec (.evtPtrRd w) s = execEvtPtrRd w s := rfl
theorem exec_gateCtrlGo (w : RegWrite) (networkTime : Nat) (s : State) : exec (.gateCtrlGo w networkTime) s = execGateCtrlGo w networkTime s := rfl
theorem exec_lcsRollFw (w : RegWrite) (s : State) : exec (.lcsRollFw w) s = execLcsRollFw w s := rfl
theorem exec_lcsRollVarelm (w : RegWrite) (s : State) : exec (.lcsRollVarelm w) s = execLcsRollVarelm w s := rfl
theorem exec_sysRstCold (w : RegWrite) (s : State) : exec (.sysRstCold w) s = execSysRstCold w s := rfl
theorem exec_sysRstWarm (w : RegWrite) (s : State) : exec (.sysRstWarm w) s = execSysRstWarm w s := rfl
theorem exec_pwrCtrlDormant (w : RegWrite) (s : State) : exec (.pwrCtrlDormant w) s = execPwrCtrlDormant w s := rfl
theorem exec_pwrCtrlWake (w : RegWrite) (s : State) : exec (.pwrCtrlWake w) s = execPwrCtrlWake w s := rfl
theorem exec_mctpRegisterRead (offset : Nat) (size : Nat) (s : State) : exec (.mctpRegisterRead offset size) s = execMctpRegisterRead offset size s := rfl
theorem exec_mctpRegisterWrite (offset : Nat) (size : Nat) (value : Word) (s : State) : exec (.mctpRegisterWrite offset size value) s = execMctpRegisterWrite offset size value s := rfl
theorem exec_attestationReport (src : ReqSource) (nonce : List Byte) (s : State) : exec (.attestationReport src nonce) s = execAttestationReport src nonce s := rfl
theorem exec_certificateChain (src : ReqSource) (s : State) : exec (.certificateChain src) s = execCertificateChain src s := rfl
theorem exec_lifeCycleChange (src : ReqSource) (target : Nat) (token : Option (List Byte)) (s : State) : exec (.lifeCycleChange src target token) s = execLifeCycleChange src target token s := rfl
theorem exec_recoveryImage (piece : List Byte) (s : State) : exec (.recoveryImage piece) s = execRecoveryImage piece s := rfl
theorem exec_powerOn (s : State) : exec .powerOn s = execPowerOn s := rfl
theorem exec_resetInput (s : State) : exec .resetInput s = execResetInput s := rfl
theorem exec_pcieReset (s : State) : exec .pcieReset s = execPcieReset s := rfl
theorem exec_powerLoss (s : State) : exec .powerLoss s = execPowerLoss s := rfl
theorem exec_startUp (info : StartInfo) (s : State) : exec (.startUp info) s = execStartUp info s := rfl
theorem exec_secureCisternWipe (cause : Nat) (s : State) : exec (.secureCisternWipe cause) s = execSecureCisternWipe cause s := rfl
theorem exec_wipeComplete (bad : Option Nat) (s : State) : exec (.wipeComplete bad) s = execWipeComplete bad s := rfl
theorem exec_tamper (bit : Nat) (s : State) : exec (.tamper bit) s = execTamper bit s := rfl
theorem exec_lockstepMismatch (e : Engine) (inst : Nat) (mcState : Bool) (s : State) : exec (.lockstepMismatch e inst mcState) s = execLockstepMismatch e inst mcState s := rfl
theorem exec_clusterSelfTest (phys : Nat) (pass : Bool) (s : State) : exec (.clusterSelfTest phys pass) s = execClusterSelfTest phys pass s := rfl
theorem exec_flitCrcError (link : Nat) (s : State) : exec (.flitCrcError link) s = execFlitCrcError link s := rfl
theorem exec_linkRetrain (link : Nat) (lanes : Nat) (carried : List Nat) (s : State) : exec (.linkRetrain link lanes carried) s = execLinkRetrain link lanes carried s := rfl
theorem exec_clockFault (clock : Nat) (domain : Nat) (s : State) : exec (.clockFault clock domain) s = execClockFault clock domain s := rfl
theorem exec_supplyFault (rail : Nat) (mv : Nat) (domain : Nat) (s : State) : exec (.supplyFault rail mv domain) s = execSupplyFault rail mv domain s := rfl
theorem exec_watchdog (e : Engine) (inst : Nat) (s : State) : exec (.watchdog e inst) s = execWatchdog e inst s := rfl
theorem exec_temperatureSample (temps : List Int) (s : State) : exec (.temperatureSample temps) s = execTemperatureSample temps s := rfl
theorem exec_throttleAdjust (s : State) : exec .throttleAdjust s = execThrottleAdjust s := rfl
theorem exec_powerWindow (watts : Nat) (s : State) : exec (.powerWindow watts) s = execPowerWindow watts s := rfl
theorem exec_clusterPowerGate (l : Nat) (s : State) : exec (.clusterPowerGate l) s = execClusterPowerGate l s := rfl
theorem exec_idleEntry (s : State) : exec .idleEntry s = execIdleEntry s := rfl
theorem exec_idleExit (s : State) : exec .idleExit s = execIdleExit s := rfl
theorem exec_timeWindow (s : State) : exec .timeWindow s = execTimeWindow s := rfl
theorem exec_class0Window (cycles : Nat) (fits : Bool) (s : State) : exec (.class0Window cycles fits) s = execClass0Window cycles fits s := rfl
theorem exec_class0WaitBound (w : Class0Wait) (s : State) : exec (.class0WaitBound w) s = execClass0WaitBound w s := rfl
theorem exec_queueSample (s : State) : exec .queueSample s = execQueueSample s := rfl
theorem exec_observationPeriodEnd (s : State) : exec .observationPeriodEnd s = execObservationPeriodEnd s := rfl
theorem exec_gateEntryExpiry (l : Nat) (s : State) : exec (.gateEntryExpiry l) s = execGateEntryExpiry l s := rfl
theorem exec_gateCycleStart (l : Nat) (s : State) : exec (.gateCycleStart l) s = execGateCycleStart l s := rfl
theorem exec_packetTransmit (l : Nat) (s : State) : exec (.packetTransmit l) s = execPacketTransmit l s := rfl
theorem exec_frameReceive (port : Nat) (kind : FrameKind) (p : Packet) (s : State) : exec (.frameReceive port kind p) s = execFrameReceive port kind p s := rfl
theorem exec_syncMessage (valid : Bool) (offset : Int) (s : State) : exec (.syncMessage valid offset) s = execSyncMessage valid offset s := rfl
theorem exec_syncTimeout (s : State) : exec .syncTimeout s = execSyncTimeout s := rfl
theorem exec_data (msg : Nat) (src : Nat) (s : State) : exec (.data msg src) s = execData msg src s := rfl
theorem exec_sack (peer : Nat) (cls : Nat) (held : List Nat) (ce : Bool) (s : State) : exec (.sack peer cls held ce) s = execSack peer cls held ce s := rfl
theorem exec_sackTimer (peer : Nat) (cls : Nat) (s : State) : exec (.sackTimer peer cls) s = execSackTimer peer cls s := rfl
theorem exec_retransmitTimeout (peer : Nat) (cls : Nat) (psn : Nat) (s : State) : exec (.retransmitTimeout peer cls psn) s = execRetransmitTimeout peer cls psn s := rfl
theorem exec_windowRecovery (peer : Nat) (s : State) : exec (.windowRecovery peer) s = execWindowRecovery peer s := rfl
theorem exec_query (q : ServedQuery) (s : State) : exec (.query q) s = execQuery q s := rfl
theorem exec_partialMsg (p : PartialResult) (s : State) : exec (.partialMsg p) s = execPartialMsg p s := rfl
theorem exec_update (uid : Nat) (src : Nat) (epoch : Nat) (tenant : Nat) (coll : Nat) (items : List UpdateItem) (s : State) : exec (.update uid src epoch tenant coll items) s = execUpdate uid src epoch tenant coll items s := rfl
theorem exec_map (src : Nat) (epoch : Nat) (nodes : List NodeEntry) (shards : List ShardEntry) (deputy : Nat) (s : State) : exec (.map src epoch nodes shards deputy) s = execMap src epoch nodes shards deputy s := rfl
theorem exec_heartbeat (src : Nat) (s : State) : exec (.heartbeat src) s = execHeartbeat src s := rfl
theorem exec_heartbeatSend (s : State) : exec .heartbeatSend s = execHeartbeatSend s := rfl
theorem exec_heartbeatTimeout (s : State) : exec .heartbeatTimeout s = execHeartbeatTimeout s := rfl
theorem exec_join (src : Nat) (s : State) : exec (.join src) s = execJoin src s := rfl
theorem exec_joinRepeat (s : State) : exec .joinRepeat s = execJoinRepeat s := rfl
theorem exec_workerTimeout (node : Nat) (s : State) : exec (.workerTimeout node) s = execWorkerTimeout node s := rfl
theorem exec_nodeLost (node : Nat) (assign : List ShardEntry) (s : State) : exec (.nodeLost node assign) s = execNodeLost node assign s := rfl
theorem exec_bucketRebuilt (coll : Nat) (bucket : Nat) (node : Nat) (s : State) : exec (.bucketRebuilt coll bucket node) s = execBucketRebuilt coll bucket node s := rfl
theorem exec_reshard (coll : Nat) (bucket : Nat) (node : Nat) (s : State) : exec (.reshard coll bucket node) s = execReshard coll bucket node s := rfl
theorem exec_bucketRelease (coll : Nat) (bucket : Nat) (s : State) : exec (.bucketRelease coll bucket) s = execBucketRelease coll bucket s := rfl
theorem exec_dormantEntryComplete (s : State) : exec .dormantEntryComplete s = execDormantEntryComplete s := rfl
theorem exec_bucketCopyComplete (coll : Nat) (bucket : Nat) (s : State) : exec (.bucketCopyComplete coll bucket) s = execBucketCopyComplete coll bucket s := rfl
theorem exec_mapAcknowledgement (node : Nat) (epoch : Nat) (s : State) : exec (.mapAcknowledgement node epoch) s = execMapAcknowledgement node epoch s := rfl
theorem exec_updateReport (uid : Nat) (node : Nat) (status : Nat) (s : State) : exec (.updateReport uid node status) s = execUpdateReport uid node status s := rfl
theorem exec_staleEpochReturn (qid : Nat) (node : Nat) (nodeEpoch : Nat) (s : State) : exec (.staleEpochReturn qid node nodeEpoch) s = execStaleEpochReturn qid node nodeEpoch s := rfl
theorem exec_idBlockAcknowledgement (coll : Nat) (block : Nat) (s : State) : exec (.idBlockAcknowledgement coll block) s = execIdBlockAcknowledgement coll block s := rfl
theorem exec_portLinkChange (port : Nat) (half : Nat) (up : Bool) (s : State) : exec (.portLinkChange port half up) s = execPortLinkChange port half up s := rfl
theorem exec_testModeEntry (entered : Bool) (s : State) : exec (.testModeEntry entered) s = execTestModeEntry entered s := rfl
theorem exec_ideKmKeySet (stream : Nat) (key : List Byte) (s : State) : exec (.ideKmKeySet stream key) s = execIdeKmKeySet stream key s := rfl
theorem exec_atsInvalidation (fn : Nat) (base : Nat) (len : Nat) (present : Bool) (s : State) : exec (.atsInvalidation fn base len present) s = execAtsInvalidation fn base len present s := rfl
theorem exec_dieTemperatureReading (temps : List (Nat × Int)) (s : State) : exec (.dieTemperatureReading temps) s = execDieTemperatureReading temps s := rfl

end Sys2Proof.Machine
end

