-- ==== Sys2Proof/Laws/Field.lean ====
section
/-! SUPPORT. Laws of bit fields, and of the words of an instruction. -/
namespace Sys2Proof.Machine

theorem testBit_field (x hi lo i : Nat) : (field x hi lo).testBit i = (decide (i < hi + 1 - lo) && x.testBit (lo + i)) := by
  simp [field, Nat.testBit_mod_two_pow, Nat.testBit_shiftRight]

theorem field_lt (x hi lo : Nat) : field x hi lo < 2 ^ (hi + 1 - lo) := Nat.mod_lt _ (Nat.two_pow_pos _)

/-- A field is zero when each of its bits is. -/
theorem field_eq_zero_iff (x hi lo : Nat) : field x hi lo = 0 ↔ ∀ i, lo ≤ i → i ≤ hi → x.testBit i = false := by
  constructor
  · intro h i h1 h2
    have := testBit_field x hi lo (i - lo)
    rw [h, Nat.zero_testBit] at this
    have e : lo + (i - lo) = i := by omega
    rw [e] at this
    have h3 : i - lo < hi + 1 - lo := by omega
    simpa [h3] using this.symm
  · intro h
    apply Nat.eq_of_testBit_eq
    intro i
    rw [testBit_field, Nat.zero_testBit]
    by_cases h1 : i < hi + 1 - lo
    · simp [h1, h (lo + i) (by omega) (by omega)]
    · simp [h1]

theorem bit_eq_true_iff (x i : Nat) : bit x i = true ↔ x.testBit i = true := by
  have h : field x i i = x / 2 ^ i % 2 := by simp [field, Nat.shiftRight_eq_div_pow]
  simp [bit, h, Nat.testBit_eq_decide_div_mod_eq]

/-- A word uses no other field when each of its set bits below 56 is one of the mask's. -/
theorem onlyUses_iff (w u : Nat) : onlyUses w u = true ↔ ∀ i, i < 56 → w.testBit i = true → u.testBit i = true := by
  simp only [onlyUses, beq_iff_eq]
  constructor
  · intro h i hi hw
    have := congrArg (fun n => n.testBit i) h
    simp only [Nat.testBit_and, Nat.testBit_mod_two_pow, hi, decide_true, hw, Bool.true_and] at this
    exact this
  · intro h
    apply Nat.eq_of_testBit_eq
    intro i
    simp only [Nat.testBit_and, Nat.testBit_mod_two_pow]
    by_cases hi : i < 56
    · cases hw : w.testBit i
      · simp
      · simp [hi, h i hi hw]
    · simp [hi]

end Sys2Proof.Machine
end

