-- ==== Sys2Proof/Laws/Map.lean ====
section
/-! SUPPORT. Laws of the sparse map and of sparse byte memory: a read after a write, and the canonical form that every
operation keeps. -/
namespace Sys2Proof

namespace Map
variable {α : Type}

/-- What `rising` decides. -/
theorem rising_iff (m : Map α) : Map.rising m = true ↔ m.Pairwise fun a b => a.1 < b.1 := decide_eq_true_iff

@[simp] theorem get?_nil (k : Nat) : Map.get? ([] : Map α) k = none := rfl

/-- Among the entries that `p` keeps, those of a key that `p` keeps are all that there were. -/
theorem find?_keys_filter (m : Map α) (p : Nat → Bool) (j : Nat) :
    List.find? (fun e => e.1 == j) (List.filter (fun e => p e.1) m) = if p j then m.find? fun e => e.1 == j else none := by
  rw [List.find?_filter]
  split
  · rename_i hp
    congr 1; funext e
    by_cases he : e.1 = j <;> simp [he, hp]
  · rename_i hp
    refine List.find?_eq_none.2 fun e _ => ?_
    by_cases he : e.1 = j <;> simp [he, hp]

/-- A read sees the entry that was put, or else what the map listed before. -/
theorem get?_put (m : Map α) (k j : Nat) (v : α) :
    Map.get? (Map.put m k v) j = if j = k then some v else Map.get? m j := by
  simp only [get?, put, List.find?_append, List.find?_cons, find?_keys_filter m (fun i => decide (i < k)) j,
    find?_keys_filter m (fun i => decide (k < i)) j]
  rcases Nat.lt_trichotomy j k with h | rfl | h
  · have hb : (k == j) = false := by simpa using h.ne'
    simp only [hb, h, h.ne, Nat.not_lt.2 h.le]
    simp
  · simp
  · have hb : (k == j) = false := by simpa using h.ne
    simp only [hb, h, h.ne', Nat.not_lt.2 h.le]
    simp

@[simp] theorem get?_put_self (m : Map α) (k : Nat) (v : α) : Map.get? (Map.put m k v) k = some v := by simp [get?_put]

@[simp] theorem get?_put_ne (m : Map α) {k j : Nat} (v : α) (h : j ≠ k) : Map.get? (Map.put m k v) j = Map.get? m j := by
  simp [get?_put, h]

@[simp] theorem getD_put_self (m : Map α) (k : Nat) (v d : α) : Map.getD (Map.put m k v) k d = v := by simp [getD]

@[simp] theorem getD_put_ne (m : Map α) {k j : Nat} (v d : α) (h : j ≠ k) :
    Map.getD (Map.put m k v) j d = Map.getD m j d := by simp [getD, h]

/-- An entry of `put` is the new one or an old one of another key. -/
theorem mem_put {m : Map α} {k : Nat} {v : α} {p : Nat × α} (h : p ∈ Map.put m k v) : p = (k, v) ∨ p ∈ m := by
  simp only [put, List.mem_append, List.mem_filter, List.mem_cons] at h
  tauto

theorem rising_filter (m : Map α) (p : Nat × α → Bool) (h : Map.rising m = true) : Map.rising (m.filter p) = true :=
  (rising_iff _).2 (((rising_iff m).1 h).filter p)

theorem rising_put (m : Map α) (k : Nat) (v : α) (h : Map.rising m = true) : Map.rising (Map.put m k v) = true := by
  have hs := (rising_iff m).1 h
  simp only [rising_iff, put, List.pairwise_append, List.pairwise_cons, List.mem_filter, List.mem_cons, decide_eq_true_eq]
  refine ⟨hs.filter _, ⟨fun e he => he.2, hs.filter _⟩, fun a ha b hb => ?_⟩
  rcases hb with rfl | hb
  · exact ha.2
  · exact ha.2.trans hb.2

theorem mem_del {m : Map α} {k : Nat} {p : Nat × α} (h : p ∈ Map.del m k) : p ∈ m := List.mem_of_mem_filter h

theorem rising_del (m : Map α) (k : Nat) (h : Map.rising m = true) : Map.rising (Map.del m k) = true := rising_filter m _ h

@[simp] theorem get?_del_ne (m : Map α) {k j : Nat} (h : j ≠ k) : Map.get? (Map.del m k) j = Map.get? m j := by
  simp [get?, del, find?_keys_filter m (fun i => i != k) j, h]

@[simp] theorem get?_del_self (m : Map α) (k : Nat) : Map.get? (Map.del m k) k = none := by
  simp [get?, del, find?_keys_filter m (fun i => i != k) k]

end Map

namespace Mem

@[simp] theorem rd_nil (a : Nat) : Mem.rd [] a = 0 := rfl

/-- A read after a write of another address. -/
@[simp] theorem rd_wr_ne (m : Mem) {a b : Nat} (x : Byte) (h : b ≠ a) : (Mem.wr m a x).rd b = m.rd b := by
  unfold Mem.wr Mem.rd
  split <;> simp [h]

/-- A read after a write of the same address. -/
@[simp] theorem rd_wr_self (m : Mem) (a : Nat) (x : Byte) : (Mem.wr m a x).rd a = x := by
  unfold Mem.wr Mem.rd
  split
  · rename_i hx; simp [hx]
  · simp

theorem wf_iff (m : Mem) : m.wf = true ↔ Map.rising m = true ∧ ∀ p ∈ m, p.2 ≠ 0 := by
  simp [Mem.wf]

/-- A write keeps the canonical form. -/
theorem wf_wr (m : Mem) (a : Nat) (x : Byte) (h : m.wf = true) : (m.wr a x).wf = true := by
  obtain ⟨h1, h2⟩ := (wf_iff m).1 h
  unfold Mem.wr
  split
  · exact (wf_iff _).2 ⟨Map.rising_del m a h1, fun p hp => h2 p (Map.mem_del hp)⟩
  · rename_i hx
    refine (wf_iff _).2 ⟨Map.rising_put m a x h1, fun p hp => ?_⟩
    rcases Map.mem_put hp with hp | hp
    · subst hp; exact hx
    · exact h2 p hp

theorem wf_wrN (m : Mem) (a : Nat) (bs : List Byte) (h : m.wf = true) : (m.wrN a bs).wf = true := by
  induction bs generalizing m a with
  | nil => exact h
  | cons b r ih => exact ih _ _ (wf_wr m a b h)

theorem wf_wrMask (m : Mem) (a : Nat) (bs : List (Bool × Byte)) (h : m.wf = true) : (m.wrMask a bs).wf = true := by
  induction bs generalizing m a with
  | nil => exact h
  | cons b r ih =>
    obtain ⟨on, b⟩ := b
    refine ih _ _ ?_
    split
    · exact wf_wr m a b h
    · exact h

/-- Dropping entries keeps the canonical form. -/
theorem wf_filter (m : Mem) (p : Nat × Byte → Bool) (h : m.wf = true) : Mem.wf (m.filter p) = true := by
  obtain ⟨h1, h2⟩ := (wf_iff m).1 h
  exact (wf_iff _).2 ⟨Map.rising_filter m p h1, fun q hq => h2 q (List.mem_of_mem_filter hq)⟩

theorem wf_nil : Mem.wf [] = true := rfl

theorem wf_clear (m : Mem) (a n : Nat) (h : m.wf = true) : (Machine.Mem.clear m a n).wf = true := wf_filter m _ h

/-- Bytes outside a written range read as before. -/
theorem rd_wrN_out (m : Mem) (a : Nat) (bs : List Byte) (b : Nat) (h : b < a ∨ a + bs.length ≤ b) :
    (m.wrN a bs).rd b = m.rd b := by
  induction bs generalizing m a with
  | nil => rfl
  | cons x r ih =>
    simp only [List.length_cons] at h
    rw [Mem.wrN, ih _ _ (by omega), rd_wr_ne _ _ (by omega)]

theorem rdN_length (m : Mem) (a n : Nat) : (m.rdN a n).length = n := by
  induction n generalizing a with
  | zero => rfl
  | succ n ih => simp [Mem.rdN, ih]

theorem rdN_congr (m m' : Mem) (a n : Nat) (h : ∀ i, a ≤ i → i < a + n → m.rd i = m'.rd i) : m.rdN a n = m'.rdN a n := by
  induction n generalizing a with
  | zero => rfl
  | succ n ih =>
    simp only [Mem.rdN]
    rw [h a (by omega) (by omega), ih (a + 1) (fun i h1 h2 => h i (by omega) (by omega))]

/-- What was written is read back. -/
theorem rdN_wrN (m : Mem) (a : Nat) (bs : List Byte) : (m.wrN a bs).rdN a bs.length = bs := by
  induction bs generalizing m a with
  | nil => rfl
  | cons x r ih => simp [Mem.wrN, Mem.rdN, ih, rd_wrN_out _ _ r a (.inl (Nat.lt_succ_self a))]

end Mem
end Sys2Proof
end

