-- ==== Sys2Proof/Laws/State.lean ====
section
/-! SUPPORT. What each named update of State leaves unchanged: one lemma per update and field, true by unfolding. -/
namespace Sys2Proof.Machine

@[simp] theorem State.setWord_pending (s : State) (o : Nat) (w : Word) : (s.setWord o w).pending = s.pending := rfl
@[simp] theorem State.setWord_out (s : State) (o : Nat) (w : Word) : (s.setWord o w).out = s.out := rfl
@[simp] theorem State.setWord_hq (s : State) (o : Nat) (w : Word) : (s.setWord o w).hq = s.hq := rfl
@[simp] theorem State.setWord_pslot (s : State) (o : Nat) (w : Word) : (s.setWord o w).pslot = s.pslot := rfl
@[simp] theorem State.setWord_bar4 (s : State) (o : Nat) (w : Word) : (s.setWord o w).bar4 = s.bar4 := rfl
@[simp] theorem State.setWord_wrst (s : State) (o : Nat) (w : Word) : (s.setWord o w).wrst = s.wrst := rfl
@[simp] theorem State.setWord_sq (s : State) (o : Nat) (w : Word) : (s.setWord o w).sq = s.sq := rfl
@[simp] theorem State.setWord_cq (s : State) (o : Nat) (w : Word) : (s.setWord o w).cq = s.cq := rfl
@[simp] theorem State.setWord_cmds (s : State) (o : Nat) (w : Word) : (s.setWord o w).cmds = s.cmds := rfl
@[simp] theorem State.setWord_nextCmd (s : State) (o : Nat) (w : Word) : (s.setWord o w).nextCmd = s.nextCmd := rfl
@[simp] theorem State.setWord_nextSeq (s : State) (o : Nat) (w : Word) : (s.setWord o w).nextSeq = s.nextSeq := rfl
@[simp] theorem State.setWord_sched (s : State) (o : Nat) (w : Word) : (s.setWord o w).sched = s.sched := rfl
@[simp] theorem State.setWord_frags (s : State) (o : Nat) (w : Word) : (s.setWord o w).frags = s.frags := rfl
@[simp] theorem State.setWord_nextFrag (s : State) (o : Nat) (w : Word) : (s.setWord o w).nextFrag = s.nextFrag := rfl
@[simp] theorem State.setWord_nextGroup (s : State) (o : Nat) (w : Word) : (s.setWord o w).nextGroup = s.nextGroup := rfl
@[simp] theorem State.setWord_clusters (s : State) (o : Nat) (w : Word) : (s.setWord o w).clusters = s.clusters := rfl
@[simp] theorem State.setWord_phys (s : State) (o : Nat) (w : Word) : (s.setWord o w).phys = s.phys := rfl
@[simp] theorem State.setWord_logical (s : State) (o : Nat) (w : Word) : (s.setWord o w).logical = s.logical := rfl
@[simp] theorem State.setWord_dev (s : State) (o : Nat) (w : Word) : (s.setWord o w).dev = s.dev := rfl
@[simp] theorem State.setWord_cis (s : State) (o : Nat) (w : Word) : (s.setWord o w).cis = s.cis := rfl
@[simp] theorem State.setWord_allocs (s : State) (o : Nat) (w : Word) : (s.setWord o w).allocs = s.allocs := rfl
@[simp] theorem State.setWord_ranges (s : State) (o : Nat) (w : Word) : (s.setWord o w).ranges = s.ranges := rfl
@[simp] theorem State.setWord_poison (s : State) (o : Nat) (w : Word) : (s.setWord o w).poison = s.poison := rfl
@[simp] theorem State.setWord_wells (s : State) (o : Nat) (w : Word) : (s.setWord o w).wells = s.wells := rfl
@[simp] theorem State.setWord_nextWell (s : State) (o : Nat) (w : Word) : (s.setWord o w).nextWell = s.nextWell := rfl
@[simp] theorem State.setWord_wellsOut (s : State) (o : Nat) (w : Word) : (s.setWord o w).wellsOut = s.wellsOut := rfl
@[simp] theorem State.setWord_wellHw (s : State) (o : Nat) (w : Word) : (s.setWord o w).wellHw = s.wellHw := rfl
@[simp] theorem State.setWord_colls (s : State) (o : Nat) (w : Word) : (s.setWord o w).colls = s.colls := rfl
@[simp] theorem State.setWord_models (s : State) (o : Nat) (w : Word) : (s.setWord o w).models = s.models := rfl
@[simp] theorem State.setWord_mems (s : State) (o : Nat) (w : Word) : (s.setWord o w).mems = s.mems := rfl
@[simp] theorem State.setWord_grammars (s : State) (o : Nat) (w : Word) : (s.setWord o w).grammars = s.grammars := rfl
@[simp] theorem State.setWord_progs (s : State) (o : Nat) (w : Word) : (s.setWord o w).progs = s.progs := rfl
@[simp] theorem State.setWord_units (s : State) (o : Nat) (w : Word) : (s.setWord o w).units = s.units := rfl
@[simp] theorem State.setWord_moves (s : State) (o : Nat) (w : Word) : (s.setWord o w).moves = s.moves := rfl
@[simp] theorem State.setWord_nextMove (s : State) (o : Nat) (w : Word) : (s.setWord o w).nextMove = s.nextMove := rfl
@[simp] theorem State.setWord_movedBytes (s : State) (o : Nat) (w : Word) : (s.setWord o w).movedBytes = s.movedBytes := rfl
@[simp] theorem State.setWord_oldRanges (s : State) (o : Nat) (w : Word) : (s.setWord o w).oldRanges = s.oldRanges := rfl
@[simp] theorem State.setWord_parts (s : State) (o : Nat) (w : Word) : (s.setWord o w).parts = s.parts := rfl
@[simp] theorem State.setWord_flash (s : State) (o : Nat) (w : Word) : (s.setWord o w).flash = s.flash := rfl
@[simp] theorem State.setWord_fab (s : State) (o : Nat) (w : Word) : (s.setWord o w).fab = s.fab := rfl
@[simp] theorem State.setWord_gates (s : State) (o : Nat) (w : Word) : (s.setWord o w).gates = s.gates := rfl
@[simp] theorem State.setWord_fuses (s : State) (o : Nat) (w : Word) : (s.setWord o w).fuses = s.fuses := rfl
@[simp] theorem State.setWord_firmware (s : State) (o : Nat) (w : Word) : (s.setWord o w).firmware = s.firmware := rfl
@[simp] theorem State.setWord_varelm (s : State) (o : Nat) (w : Word) : (s.setWord o w).varelm = s.varelm := rfl
@[simp] theorem State.setWord_secure (s : State) (o : Nat) (w : Word) : (s.setWord o w).secure = s.secure := rfl
@[simp] theorem State.setWord_power (s : State) (o : Nat) (w : Word) : (s.setWord o w).power = s.power := rfl
@[simp] theorem State.setWord_salts (s : State) (o : Nat) (w : Word) : (s.setWord o w).salts = s.salts := rfl
@[simp] theorem State.setWord_evtUnread (s : State) (o : Nat) (w : Word) : (s.setWord o w).evtUnread = s.evtUnread := rfl
@[simp] theorem State.setWord_evtSeq (s : State) (o : Nat) (w : Word) : (s.setWord o w).evtSeq = s.evtSeq := rfl
@[simp] theorem State.setWord_clock (s : State) (o : Nat) (w : Word) : (s.setWord o w).clock = s.clock := rfl
@[simp] theorem State.setWord_free (s : State) (o : Nat) (w : Word) : (s.setWord o w).free = s.free := rfl

@[simp] theorem State.setFld_pending (s : State) (o hi lo v : Nat) : (s.setFld o hi lo v).pending = s.pending := rfl
@[simp] theorem State.setFld_out (s : State) (o hi lo v : Nat) : (s.setFld o hi lo v).out = s.out := rfl
@[simp] theorem State.setFld_hq (s : State) (o hi lo v : Nat) : (s.setFld o hi lo v).hq = s.hq := rfl
@[simp] theorem State.setFld_pslot (s : State) (o hi lo v : Nat) : (s.setFld o hi lo v).pslot = s.pslot := rfl
@[simp] theorem State.setFld_bar4 (s : State) (o hi lo v : Nat) : (s.setFld o hi lo v).bar4 = s.bar4 := rfl
@[simp] theorem State.setFld_wrst (s : State) (o hi lo v : Nat) : (s.setFld o hi lo v).wrst = s.wrst := rfl
@[simp] theorem State.setFld_sq (s : State) (o hi lo v : Nat) : (s.setFld o hi lo v).sq = s.sq := rfl
@[simp] theorem State.setFld_cq (s : State) (o hi lo v : Nat) : (s.setFld o hi lo v).cq = s.cq := rfl
@[simp] theorem State.setFld_cmds (s : State) (o hi lo v : Nat) : (s.setFld o hi lo v).cmds = s.cmds := rfl
@[simp] theorem State.setFld_nextCmd (s : State) (o hi lo v : Nat) : (s.setFld o hi lo v).nextCmd = s.nextCmd := rfl
@[simp] theorem State.setFld_nextSeq (s : State) (o hi lo v : Nat) : (s.setFld o hi lo v).nextSeq = s.nextSeq := rfl
@[simp] theorem State.setFld_sched (s : State) (o hi lo v : Nat) : (s.setFld o hi lo v).sched = s.sched := rfl
@[simp] theorem State.setFld_frags (s : State) (o hi lo v : Nat) : (s.setFld o hi lo v).frags = s.frags := rfl
@[simp] theorem State.setFld_nextFrag (s : State) (o hi lo v : Nat) : (s.setFld o hi lo v).nextFrag = s.nextFrag := rfl
@[simp] theorem State.setFld_nextGroup (s : State) (o hi lo v : Nat) : (s.setFld o hi lo v).nextGroup = s.nextGroup := rfl
@[simp] theorem State.setFld_clusters (s : State) (o hi lo v : Nat) : (s.setFld o hi lo v).clusters = s.clusters := rfl
@[simp] theorem State.setFld_phys (s : State) (o hi lo v : Nat) : (s.setFld o hi lo v).phys = s.phys := rfl
@[simp] theorem State.setFld_logical (s : State) (o hi lo v : Nat) : (s.setFld o hi lo v).logical = s.logical := rfl
@[simp] theorem State.setFld_dev (s : State) (o hi lo v : Nat) : (s.setFld o hi lo v).dev = s.dev := rfl
@[simp] theorem State.setFld_cis (s : State) (o hi lo v : Nat) : (s.setFld o hi lo v).cis = s.cis := rfl
@[simp] theorem State.setFld_allocs (s : State) (o hi lo v : Nat) : (s.setFld o hi lo v).allocs = s.allocs := rfl
@[simp] theorem State.setFld_ranges (s : State) (o hi lo v : Nat) : (s.setFld o hi lo v).ranges = s.ranges := rfl
@[simp] theorem State.setFld_poison (s : State) (o hi lo v : Nat) : (s.setFld o hi lo v).poison = s.poison := rfl
@[simp] theorem State.setFld_wells (s : State) (o hi lo v : Nat) : (s.setFld o hi lo v).wells = s.wells := rfl
@[simp] theorem State.setFld_nextWell (s : State) (o hi lo v : Nat) : (s.setFld o hi lo v).nextWell = s.nextWell := rfl
@[simp] theorem State.setFld_wellsOut (s : State) (o hi lo v : Nat) : (s.setFld o hi lo v).wellsOut = s.wellsOut := rfl
@[simp] theorem State.setFld_wellHw (s : State) (o hi lo v : Nat) : (s.setFld o hi lo v).wellHw = s.wellHw := rfl
@[simp] theorem State.setFld_colls (s : State) (o hi lo v : Nat) : (s.setFld o hi lo v).colls = s.colls := rfl
@[simp] theorem State.setFld_models (s : State) (o hi lo v : Nat) : (s.setFld o hi lo v).models = s.models := rfl
@[simp] theorem State.setFld_mems (s : State) (o hi lo v : Nat) : (s.setFld o hi lo v).mems = s.mems := rfl
@[simp] theorem State.setFld_grammars (s : State) (o hi lo v : Nat) : (s.setFld o hi lo v).grammars = s.grammars := rfl
@[simp] theorem State.setFld_progs (s : State) (o hi lo v : Nat) : (s.setFld o hi lo v).progs = s.progs := rfl
@[simp] theorem State.setFld_units (s : State) (o hi lo v : Nat) : (s.setFld o hi lo v).units = s.units := rfl
@[simp] theorem State.setFld_moves (s : State) (o hi lo v : Nat) : (s.setFld o hi lo v).moves = s.moves := rfl
@[simp] theorem State.setFld_nextMove (s : State) (o hi lo v : Nat) : (s.setFld o hi lo v).nextMove = s.nextMove := rfl
@[simp] theorem State.setFld_movedBytes (s : State) (o hi lo v : Nat) : (s.setFld o hi lo v).movedBytes = s.movedBytes := rfl
@[simp] theorem State.setFld_oldRanges (s : State) (o hi lo v : Nat) : (s.setFld o hi lo v).oldRanges = s.oldRanges := rfl
@[simp] theorem State.setFld_parts (s : State) (o hi lo v : Nat) : (s.setFld o hi lo v).parts = s.parts := rfl
@[simp] theorem State.setFld_flash (s : State) (o hi lo v : Nat) : (s.setFld o hi lo v).flash = s.flash := rfl
@[simp] theorem State.setFld_fab (s : State) (o hi lo v : Nat) : (s.setFld o hi lo v).fab = s.fab := rfl
@[simp] theorem State.setFld_gates (s : State) (o hi lo v : Nat) : (s.setFld o hi lo v).gates = s.gates := rfl
@[simp] theorem State.setFld_fuses (s : State) (o hi lo v : Nat) : (s.setFld o hi lo v).fuses = s.fuses := rfl
@[simp] theorem State.setFld_firmware (s : State) (o hi lo v : Nat) : (s.setFld o hi lo v).firmware = s.firmware := rfl
@[simp] theorem State.setFld_varelm (s : State) (o hi lo v : Nat) : (s.setFld o hi lo v).varelm = s.varelm := rfl
@[simp] theorem State.setFld_secure (s : State) (o hi lo v : Nat) : (s.setFld o hi lo v).secure = s.secure := rfl
@[simp] theorem State.setFld_power (s : State) (o hi lo v : Nat) : (s.setFld o hi lo v).power = s.power := rfl
@[simp] theorem State.setFld_salts (s : State) (o hi lo v : Nat) : (s.setFld o hi lo v).salts = s.salts := rfl
@[simp] theorem State.setFld_evtUnread (s : State) (o hi lo v : Nat) : (s.setFld o hi lo v).evtUnread = s.evtUnread := rfl
@[simp] theorem State.setFld_evtSeq (s : State) (o hi lo v : Nat) : (s.setFld o hi lo v).evtSeq = s.evtSeq := rfl
@[simp] theorem State.setFld_clock (s : State) (o hi lo v : Nat) : (s.setFld o hi lo v).clock = s.clock := rfl
@[simp] theorem State.setFld_free (s : State) (o hi lo v : Nat) : (s.setFld o hi lo v).free = s.free := rfl

@[simp] theorem State.satAdd_pending (s : State) (o hi lo n : Nat) : (s.satAdd o hi lo n).pending = s.pending := rfl
@[simp] theorem State.satAdd_out (s : State) (o hi lo n : Nat) : (s.satAdd o hi lo n).out = s.out := rfl
@[simp] theorem State.satAdd_hq (s : State) (o hi lo n : Nat) : (s.satAdd o hi lo n).hq = s.hq := rfl
@[simp] theorem State.satAdd_pslot (s : State) (o hi lo n : Nat) : (s.satAdd o hi lo n).pslot = s.pslot := rfl
@[simp] theorem State.satAdd_bar4 (s : State) (o hi lo n : Nat) : (s.satAdd o hi lo n).bar4 = s.bar4 := rfl
@[simp] theorem State.satAdd_wrst (s : State) (o hi lo n : Nat) : (s.satAdd o hi lo n).wrst = s.wrst := rfl
@[simp] theorem State.satAdd_sq (s : State) (o hi lo n : Nat) : (s.satAdd o hi lo n).sq = s.sq := rfl
@[simp] theorem State.satAdd_cq (s : State) (o hi lo n : Nat) : (s.satAdd o hi lo n).cq = s.cq := rfl
@[simp] theorem State.satAdd_cmds (s : State) (o hi lo n : Nat) : (s.satAdd o hi lo n).cmds = s.cmds := rfl
@[simp] theorem State.satAdd_nextCmd (s : State) (o hi lo n : Nat) : (s.satAdd o hi lo n).nextCmd = s.nextCmd := rfl
@[simp] theorem State.satAdd_nextSeq (s : State) (o hi lo n : Nat) : (s.satAdd o hi lo n).nextSeq = s.nextSeq := rfl
@[simp] theorem State.satAdd_sched (s : State) (o hi lo n : Nat) : (s.satAdd o hi lo n).sched = s.sched := rfl
@[simp] theorem State.satAdd_frags (s : State) (o hi lo n : Nat) : (s.satAdd o hi lo n).frags = s.frags := rfl
@[simp] theorem State.satAdd_nextFrag (s : State) (o hi lo n : Nat) : (s.satAdd o hi lo n).nextFrag = s.nextFrag := rfl
@[simp] theorem State.satAdd_nextGroup (s : State) (o hi lo n : Nat) : (s.satAdd o hi lo n).nextGroup = s.nextGroup := rfl
@[simp] theorem State.satAdd_clusters (s : State) (o hi lo n : Nat) : (s.satAdd o hi lo n).clusters = s.clusters := rfl
@[simp] theorem State.satAdd_phys (s : State) (o hi lo n : Nat) : (s.satAdd o hi lo n).phys = s.phys := rfl
@[simp] theorem State.satAdd_logical (s : State) (o hi lo n : Nat) : (s.satAdd o hi lo n).logical = s.logical := rfl
@[simp] theorem State.satAdd_dev (s : State) (o hi lo n : Nat) : (s.satAdd o hi lo n).dev = s.dev := rfl
@[simp] theorem State.satAdd_cis (s : State) (o hi lo n : Nat) : (s.satAdd o hi lo n).cis = s.cis := rfl
@[simp] theorem State.satAdd_allocs (s : State) (o hi lo n : Nat) : (s.satAdd o hi lo n).allocs = s.allocs := rfl
@[simp] theorem State.satAdd_ranges (s : State) (o hi lo n : Nat) : (s.satAdd o hi lo n).ranges = s.ranges := rfl
@[simp] theorem State.satAdd_poison (s : State) (o hi lo n : Nat) : (s.satAdd o hi lo n).poison = s.poison := rfl
@[simp] theorem State.satAdd_wells (s : State) (o hi lo n : Nat) : (s.satAdd o hi lo n).wells = s.wells := rfl
@[simp] theorem State.satAdd_nextWell (s : State) (o hi lo n : Nat) : (s.satAdd o hi lo n).nextWell = s.nextWell := rfl
@[simp] theorem State.satAdd_wellsOut (s : State) (o hi lo n : Nat) : (s.satAdd o hi lo n).wellsOut = s.wellsOut := rfl
@[simp] theorem State.satAdd_wellHw (s : State) (o hi lo n : Nat) : (s.satAdd o hi lo n).wellHw = s.wellHw := rfl
@[simp] theorem State.satAdd_colls (s : State) (o hi lo n : Nat) : (s.satAdd o hi lo n).colls = s.colls := rfl
@[simp] theorem State.satAdd_models (s : State) (o hi lo n : Nat) : (s.satAdd o hi lo n).models = s.models := rfl
@[simp] theorem State.satAdd_mems (s : State) (o hi lo n : Nat) : (s.satAdd o hi lo n).mems = s.mems := rfl
@[simp] theorem State.satAdd_grammars (s : State) (o hi lo n : Nat) : (s.satAdd o hi lo n).grammars = s.grammars := rfl
@[simp] theorem State.satAdd_progs (s : State) (o hi lo n : Nat) : (s.satAdd o hi lo n).progs = s.progs := rfl
@[simp] theorem State.satAdd_units (s : State) (o hi lo n : Nat) : (s.satAdd o hi lo n).units = s.units := rfl
@[simp] theorem State.satAdd_moves (s : State) (o hi lo n : Nat) : (s.satAdd o hi lo n).moves = s.moves := rfl
@[simp] theorem State.satAdd_nextMove (s : State) (o hi lo n : Nat) : (s.satAdd o hi lo n).nextMove = s.nextMove := rfl
@[simp] theorem State.satAdd_movedBytes (s : State) (o hi lo n : Nat) : (s.satAdd o hi lo n).movedBytes = s.movedBytes := rfl
@[simp] theorem State.satAdd_oldRanges (s : State) (o hi lo n : Nat) : (s.satAdd o hi lo n).oldRanges = s.oldRanges := rfl
@[simp] theorem State.satAdd_parts (s : State) (o hi lo n : Nat) : (s.satAdd o hi lo n).parts = s.parts := rfl
@[simp] theorem State.satAdd_flash (s : State) (o hi lo n : Nat) : (s.satAdd o hi lo n).flash = s.flash := rfl
@[simp] theorem State.satAdd_fab (s : State) (o hi lo n : Nat) : (s.satAdd o hi lo n).fab = s.fab := rfl
@[simp] theorem State.satAdd_gates (s : State) (o hi lo n : Nat) : (s.satAdd o hi lo n).gates = s.gates := rfl
@[simp] theorem State.satAdd_fuses (s : State) (o hi lo n : Nat) : (s.satAdd o hi lo n).fuses = s.fuses := rfl
@[simp] theorem State.satAdd_firmware (s : State) (o hi lo n : Nat) : (s.satAdd o hi lo n).firmware = s.firmware := rfl
@[simp] theorem State.satAdd_varelm (s : State) (o hi lo n : Nat) : (s.satAdd o hi lo n).varelm = s.varelm := rfl
@[simp] theorem State.satAdd_secure (s : State) (o hi lo n : Nat) : (s.satAdd o hi lo n).secure = s.secure := rfl
@[simp] theorem State.satAdd_power (s : State) (o hi lo n : Nat) : (s.satAdd o hi lo n).power = s.power := rfl
@[simp] theorem State.satAdd_salts (s : State) (o hi lo n : Nat) : (s.satAdd o hi lo n).salts = s.salts := rfl
@[simp] theorem State.satAdd_evtUnread (s : State) (o hi lo n : Nat) : (s.satAdd o hi lo n).evtUnread = s.evtUnread := rfl
@[simp] theorem State.satAdd_evtSeq (s : State) (o hi lo n : Nat) : (s.satAdd o hi lo n).evtSeq = s.evtSeq := rfl
@[simp] theorem State.satAdd_clock (s : State) (o hi lo n : Nat) : (s.satAdd o hi lo n).clock = s.clock := rfl
@[simp] theorem State.satAdd_free (s : State) (o hi lo n : Nat) : (s.satAdd o hi lo n).free = s.free := rfl

@[simp] theorem State.wrapAdd_pending (s : State) (o hi lo n : Nat) : (s.wrapAdd o hi lo n).pending = s.pending := rfl
@[simp] theorem State.wrapAdd_out (s : State) (o hi lo n : Nat) : (s.wrapAdd o hi lo n).out = s.out := rfl
@[simp] theorem State.wrapAdd_hq (s : State) (o hi lo n : Nat) : (s.wrapAdd o hi lo n).hq = s.hq := rfl
@[simp] theorem State.wrapAdd_pslot (s : State) (o hi lo n : Nat) : (s.wrapAdd o hi lo n).pslot = s.pslot := rfl
@[simp] theorem State.wrapAdd_bar4 (s : State) (o hi lo n : Nat) : (s.wrapAdd o hi lo n).bar4 = s.bar4 := rfl
@[simp] theorem State.wrapAdd_wrst (s : State) (o hi lo n : Nat) : (s.wrapAdd o hi lo n).wrst = s.wrst := rfl
@[simp] theorem State.wrapAdd_sq (s : State) (o hi lo n : Nat) : (s.wrapAdd o hi lo n).sq = s.sq := rfl
@[simp] theorem State.wrapAdd_cq (s : State) (o hi lo n : Nat) : (s.wrapAdd o hi lo n).cq = s.cq := rfl
@[simp] theorem State.wrapAdd_cmds (s : State) (o hi lo n : Nat) : (s.wrapAdd o hi lo n).cmds = s.cmds := rfl
@[simp] theorem State.wrapAdd_nextCmd (s : State) (o hi lo n : Nat) : (s.wrapAdd o hi lo n).nextCmd = s.nextCmd := rfl
@[simp] theorem State.wrapAdd_nextSeq (s : State) (o hi lo n : Nat) : (s.wrapAdd o hi lo n).nextSeq = s.nextSeq := rfl
@[simp] theorem State.wrapAdd_sched (s : State) (o hi lo n : Nat) : (s.wrapAdd o hi lo n).sched = s.sched := rfl
@[simp] theorem State.wrapAdd_frags (s : State) (o hi lo n : Nat) : (s.wrapAdd o hi lo n).frags = s.frags := rfl
@[simp] theorem State.wrapAdd_nextFrag (s : State) (o hi lo n : Nat) : (s.wrapAdd o hi lo n).nextFrag = s.nextFrag := rfl
@[simp] theorem State.wrapAdd_nextGroup (s : State) (o hi lo n : Nat) : (s.wrapAdd o hi lo n).nextGroup = s.nextGroup := rfl
@[simp] theorem State.wrapAdd_clusters (s : State) (o hi lo n : Nat) : (s.wrapAdd o hi lo n).clusters = s.clusters := rfl
@[simp] theorem State.wrapAdd_phys (s : State) (o hi lo n : Nat) : (s.wrapAdd o hi lo n).phys = s.phys := rfl
@[simp] theorem State.wrapAdd_logical (s : State) (o hi lo n : Nat) : (s.wrapAdd o hi lo n).logical = s.logical := rfl
@[simp] theorem State.wrapAdd_dev (s : State) (o hi lo n : Nat) : (s.wrapAdd o hi lo n).dev = s.dev := rfl
@[simp] theorem State.wrapAdd_cis (s : State) (o hi lo n : Nat) : (s.wrapAdd o hi lo n).cis = s.cis := rfl
@[simp] theorem State.wrapAdd_allocs (s : State) (o hi lo n : Nat) : (s.wrapAdd o hi lo n).allocs = s.allocs := rfl
@[simp] theorem State.wrapAdd_ranges (s : State) (o hi lo n : Nat) : (s.wrapAdd o hi lo n).ranges = s.ranges := rfl
@[simp] theorem State.wrapAdd_poison (s : State) (o hi lo n : Nat) : (s.wrapAdd o hi lo n).poison = s.poison := rfl
@[simp] theorem State.wrapAdd_wells (s : State) (o hi lo n : Nat) : (s.wrapAdd o hi lo n).wells = s.wells := rfl
@[simp] theorem State.wrapAdd_nextWell (s : State) (o hi lo n : Nat) : (s.wrapAdd o hi lo n).nextWell = s.nextWell := rfl
@[simp] theorem State.wrapAdd_wellsOut (s : State) (o hi lo n : Nat) : (s.wrapAdd o hi lo n).wellsOut = s.wellsOut := rfl
@[simp] theorem State.wrapAdd_wellHw (s : State) (o hi lo n : Nat) : (s.wrapAdd o hi lo n).wellHw = s.wellHw := rfl
@[simp] theorem State.wrapAdd_colls (s : State) (o hi lo n : Nat) : (s.wrapAdd o hi lo n).colls = s.colls := rfl
@[simp] theorem State.wrapAdd_models (s : State) (o hi lo n : Nat) : (s.wrapAdd o hi lo n).models = s.models := rfl
@[simp] theorem State.wrapAdd_mems (s : State) (o hi lo n : Nat) : (s.wrapAdd o hi lo n).mems = s.mems := rfl
@[simp] theorem State.wrapAdd_grammars (s : State) (o hi lo n : Nat) : (s.wrapAdd o hi lo n).grammars = s.grammars := rfl
@[simp] theorem State.wrapAdd_progs (s : State) (o hi lo n : Nat) : (s.wrapAdd o hi lo n).progs = s.progs := rfl
@[simp] theorem State.wrapAdd_units (s : State) (o hi lo n : Nat) : (s.wrapAdd o hi lo n).units = s.units := rfl
@[simp] theorem State.wrapAdd_moves (s : State) (o hi lo n : Nat) : (s.wrapAdd o hi lo n).moves = s.moves := rfl
@[simp] theorem State.wrapAdd_nextMove (s : State) (o hi lo n : Nat) : (s.wrapAdd o hi lo n).nextMove = s.nextMove := rfl
@[simp] theorem State.wrapAdd_movedBytes (s : State) (o hi lo n : Nat) : (s.wrapAdd o hi lo n).movedBytes = s.movedBytes := rfl
@[simp] theorem State.wrapAdd_oldRanges (s : State) (o hi lo n : Nat) : (s.wrapAdd o hi lo n).oldRanges = s.oldRanges := rfl
@[simp] theorem State.wrapAdd_parts (s : State) (o hi lo n : Nat) : (s.wrapAdd o hi lo n).parts = s.parts := rfl
@[simp] theorem State.wrapAdd_flash (s : State) (o hi lo n : Nat) : (s.wrapAdd o hi lo n).flash = s.flash := rfl
@[simp] theorem State.wrapAdd_fab (s : State) (o hi lo n : Nat) : (s.wrapAdd o hi lo n).fab = s.fab := rfl
@[simp] theorem State.wrapAdd_gates (s : State) (o hi lo n : Nat) : (s.wrapAdd o hi lo n).gates = s.gates := rfl
@[simp] theorem State.wrapAdd_fuses (s : State) (o hi lo n : Nat) : (s.wrapAdd o hi lo n).fuses = s.fuses := rfl
@[simp] theorem State.wrapAdd_firmware (s : State) (o hi lo n : Nat) : (s.wrapAdd o hi lo n).firmware = s.firmware := rfl
@[simp] theorem State.wrapAdd_varelm (s : State) (o hi lo n : Nat) : (s.wrapAdd o hi lo n).varelm = s.varelm := rfl
@[simp] theorem State.wrapAdd_secure (s : State) (o hi lo n : Nat) : (s.wrapAdd o hi lo n).secure = s.secure := rfl
@[simp] theorem State.wrapAdd_power (s : State) (o hi lo n : Nat) : (s.wrapAdd o hi lo n).power = s.power := rfl
@[simp] theorem State.wrapAdd_salts (s : State) (o hi lo n : Nat) : (s.wrapAdd o hi lo n).salts = s.salts := rfl
@[simp] theorem State.wrapAdd_evtUnread (s : State) (o hi lo n : Nat) : (s.wrapAdd o hi lo n).evtUnread = s.evtUnread := rfl
@[simp] theorem State.wrapAdd_evtSeq (s : State) (o hi lo n : Nat) : (s.wrapAdd o hi lo n).evtSeq = s.evtSeq := rfl
@[simp] theorem State.wrapAdd_clock (s : State) (o hi lo n : Nat) : (s.wrapAdd o hi lo n).clock = s.clock := rfl
@[simp] theorem State.wrapAdd_free (s : State) (o hi lo n : Nat) : (s.wrapAdd o hi lo n).free = s.free := rfl

@[simp] theorem State.setHqWord_pending (s : State) (fn o : Nat) (w : Word) : (s.setHqWord fn o w).pending = s.pending := rfl
@[simp] theorem State.setHqWord_out (s : State) (fn o : Nat) (w : Word) : (s.setHqWord fn o w).out = s.out := rfl
@[simp] theorem State.setHqWord_regs (s : State) (fn o : Nat) (w : Word) : (s.setHqWord fn o w).regs = s.regs := rfl
@[simp] theorem State.setHqWord_pslot (s : State) (fn o : Nat) (w : Word) : (s.setHqWord fn o w).pslot = s.pslot := rfl
@[simp] theorem State.setHqWord_bar4 (s : State) (fn o : Nat) (w : Word) : (s.setHqWord fn o w).bar4 = s.bar4 := rfl
@[simp] theorem State.setHqWord_wrst (s : State) (fn o : Nat) (w : Word) : (s.setHqWord fn o w).wrst = s.wrst := rfl
@[simp] theorem State.setHqWord_sq (s : State) (fn o : Nat) (w : Word) : (s.setHqWord fn o w).sq = s.sq := rfl
@[simp] theorem State.setHqWord_cq (s : State) (fn o : Nat) (w : Word) : (s.setHqWord fn o w).cq = s.cq := rfl
@[simp] theorem State.setHqWord_cmds (s : State) (fn o : Nat) (w : Word) : (s.setHqWord fn o w).cmds = s.cmds := rfl
@[simp] theorem State.setHqWord_nextCmd (s : State) (fn o : Nat) (w : Word) : (s.setHqWord fn o w).nextCmd = s.nextCmd := rfl
@[simp] theorem State.setHqWord_nextSeq (s : State) (fn o : Nat) (w : Word) : (s.setHqWord fn o w).nextSeq = s.nextSeq := rfl
@[simp] theorem State.setHqWord_sched (s : State) (fn o : Nat) (w : Word) : (s.setHqWord fn o w).sched = s.sched := rfl
@[simp] theorem State.setHqWord_frags (s : State) (fn o : Nat) (w : Word) : (s.setHqWord fn o w).frags = s.frags := rfl
@[simp] theorem State.setHqWord_nextFrag (s : State) (fn o : Nat) (w : Word) : (s.setHqWord fn o w).nextFrag = s.nextFrag := rfl
@[simp] theorem State.setHqWord_nextGroup (s : State) (fn o : Nat) (w : Word) : (s.setHqWord fn o w).nextGroup = s.nextGroup := rfl
@[simp] theorem State.setHqWord_clusters (s : State) (fn o : Nat) (w : Word) : (s.setHqWord fn o w).clusters = s.clusters := rfl
@[simp] theorem State.setHqWord_phys (s : State) (fn o : Nat) (w : Word) : (s.setHqWord fn o w).phys = s.phys := rfl
@[simp] theorem State.setHqWord_logical (s : State) (fn o : Nat) (w : Word) : (s.setHqWord fn o w).logical = s.logical := rfl
@[simp] theorem State.setHqWord_dev (s : State) (fn o : Nat) (w : Word) : (s.setHqWord fn o w).dev = s.dev := rfl
@[simp] theorem State.setHqWord_cis (s : State) (fn o : Nat) (w : Word) : (s.setHqWord fn o w).cis = s.cis := rfl
@[simp] theorem State.setHqWord_allocs (s : State) (fn o : Nat) (w : Word) : (s.setHqWord fn o w).allocs = s.allocs := rfl
@[simp] theorem State.setHqWord_ranges (s : State) (fn o : Nat) (w : Word) : (s.setHqWord fn o w).ranges = s.ranges := rfl
@[simp] theorem State.setHqWord_poison (s : State) (fn o : Nat) (w : Word) : (s.setHqWord fn o w).poison = s.poison := rfl
@[simp] theorem State.setHqWord_wells (s : State) (fn o : Nat) (w : Word) : (s.setHqWord fn o w).wells = s.wells := rfl
@[simp] theorem State.setHqWord_nextWell (s : State) (fn o : Nat) (w : Word) : (s.setHqWord fn o w).nextWell = s.nextWell := rfl
@[simp] theorem State.setHqWord_wellsOut (s : State) (fn o : Nat) (w : Word) : (s.setHqWord fn o w).wellsOut = s.wellsOut := rfl
@[simp] theorem State.setHqWord_wellHw (s : State) (fn o : Nat) (w : Word) : (s.setHqWord fn o w).wellHw = s.wellHw := rfl
@[simp] theorem State.setHqWord_colls (s : State) (fn o : Nat) (w : Word) : (s.setHqWord fn o w).colls = s.colls := rfl
@[simp] theorem State.setHqWord_models (s : State) (fn o : Nat) (w : Word) : (s.setHqWord fn o w).models = s.models := rfl
@[simp] theorem State.setHqWord_mems (s : State) (fn o : Nat) (w : Word) : (s.setHqWord fn o w).mems = s.mems := rfl
@[simp] theorem State.setHqWord_grammars (s : State) (fn o : Nat) (w : Word) : (s.setHqWord fn o w).grammars = s.grammars := rfl
@[simp] theorem State.setHqWord_progs (s : State) (fn o : Nat) (w : Word) : (s.setHqWord fn o w).progs = s.progs := rfl
@[simp] theorem State.setHqWord_units (s : State) (fn o : Nat) (w : Word) : (s.setHqWord fn o w).units = s.units := rfl
@[simp] theorem State.setHqWord_moves (s : State) (fn o : Nat) (w : Word) : (s.setHqWord fn o w).moves = s.moves := rfl
@[simp] theorem State.setHqWord_nextMove (s : State) (fn o : Nat) (w : Word) : (s.setHqWord fn o w).nextMove = s.nextMove := rfl
@[simp] theorem State.setHqWord_movedBytes (s : State) (fn o : Nat) (w : Word) : (s.setHqWord fn o w).movedBytes = s.movedBytes := rfl
@[simp] theorem State.setHqWord_oldRanges (s : State) (fn o : Nat) (w : Word) : (s.setHqWord fn o w).oldRanges = s.oldRanges := rfl
@[simp] theorem State.setHqWord_parts (s : State) (fn o : Nat) (w : Word) : (s.setHqWord fn o w).parts = s.parts := rfl
@[simp] theorem State.setHqWord_flash (s : State) (fn o : Nat) (w : Word) : (s.setHqWord fn o w).flash = s.flash := rfl
@[simp] theorem State.setHqWord_fab (s : State) (fn o : Nat) (w : Word) : (s.setHqWord fn o w).fab = s.fab := rfl
@[simp] theorem State.setHqWord_gates (s : State) (fn o : Nat) (w : Word) : (s.setHqWord fn o w).gates = s.gates := rfl
@[simp] theorem State.setHqWord_fuses (s : State) (fn o : Nat) (w : Word) : (s.setHqWord fn o w).fuses = s.fuses := rfl
@[simp] theorem State.setHqWord_firmware (s : State) (fn o : Nat) (w : Word) : (s.setHqWord fn o w).firmware = s.firmware := rfl
@[simp] theorem State.setHqWord_varelm (s : State) (fn o : Nat) (w : Word) : (s.setHqWord fn o w).varelm = s.varelm := rfl
@[simp] theorem State.setHqWord_secure (s : State) (fn o : Nat) (w : Word) : (s.setHqWord fn o w).secure = s.secure := rfl
@[simp] theorem State.setHqWord_power (s : State) (fn o : Nat) (w : Word) : (s.setHqWord fn o w).power = s.power := rfl
@[simp] theorem State.setHqWord_salts (s : State) (fn o : Nat) (w : Word) : (s.setHqWord fn o w).salts = s.salts := rfl
@[simp] theorem State.setHqWord_evtUnread (s : State) (fn o : Nat) (w : Word) : (s.setHqWord fn o w).evtUnread = s.evtUnread := rfl
@[simp] theorem State.setHqWord_evtSeq (s : State) (fn o : Nat) (w : Word) : (s.setHqWord fn o w).evtSeq = s.evtSeq := rfl
@[simp] theorem State.setHqWord_clock (s : State) (fn o : Nat) (w : Word) : (s.setHqWord fn o w).clock = s.clock := rfl
@[simp] theorem State.setHqWord_free (s : State) (fn o : Nat) (w : Word) : (s.setHqWord fn o w).free = s.free := rfl

@[simp] theorem State.setHqFld_pending (s : State) (fn o hi lo v : Nat) : (s.setHqFld fn o hi lo v).pending = s.pending := rfl
@[simp] theorem State.setHqFld_out (s : State) (fn o hi lo v : Nat) : (s.setHqFld fn o hi lo v).out = s.out := rfl
@[simp] theorem State.setHqFld_regs (s : State) (fn o hi lo v : Nat) : (s.setHqFld fn o hi lo v).regs = s.regs := rfl
@[simp] theorem State.setHqFld_pslot (s : State) (fn o hi lo v : Nat) : (s.setHqFld fn o hi lo v).pslot = s.pslot := rfl
@[simp] theorem State.setHqFld_bar4 (s : State) (fn o hi lo v : Nat) : (s.setHqFld fn o hi lo v).bar4 = s.bar4 := rfl
@[simp] theorem State.setHqFld_wrst (s : State) (fn o hi lo v : Nat) : (s.setHqFld fn o hi lo v).wrst = s.wrst := rfl
@[simp] theorem State.setHqFld_sq (s : State) (fn o hi lo v : Nat) : (s.setHqFld fn o hi lo v).sq = s.sq := rfl
@[simp] theorem State.setHqFld_cq (s : State) (fn o hi lo v : Nat) : (s.setHqFld fn o hi lo v).cq = s.cq := rfl
@[simp] theorem State.setHqFld_cmds (s : State) (fn o hi lo v : Nat) : (s.setHqFld fn o hi lo v).cmds = s.cmds := rfl
@[simp] theorem State.setHqFld_nextCmd (s : State) (fn o hi lo v : Nat) : (s.setHqFld fn o hi lo v).nextCmd = s.nextCmd := rfl
@[simp] theorem State.setHqFld_nextSeq (s : State) (fn o hi lo v : Nat) : (s.setHqFld fn o hi lo v).nextSeq = s.nextSeq := rfl
@[simp] theorem State.setHqFld_sched (s : State) (fn o hi lo v : Nat) : (s.setHqFld fn o hi lo v).sched = s.sched := rfl
@[simp] theorem State.setHqFld_frags (s : State) (fn o hi lo v : Nat) : (s.setHqFld fn o hi lo v).frags = s.frags := rfl
@[simp] theorem State.setHqFld_nextFrag (s : State) (fn o hi lo v : Nat) : (s.setHqFld fn o hi lo v).nextFrag = s.nextFrag := rfl
@[simp] theorem State.setHqFld_nextGroup (s : State) (fn o hi lo v : Nat) : (s.setHqFld fn o hi lo v).nextGroup = s.nextGroup := rfl
@[simp] theorem State.setHqFld_clusters (s : State) (fn o hi lo v : Nat) : (s.setHqFld fn o hi lo v).clusters = s.clusters := rfl
@[simp] theorem State.setHqFld_phys (s : State) (fn o hi lo v : Nat) : (s.setHqFld fn o hi lo v).phys = s.phys := rfl
@[simp] theorem State.setHqFld_logical (s : State) (fn o hi lo v : Nat) : (s.setHqFld fn o hi lo v).logical = s.logical := rfl
@[simp] theorem State.setHqFld_dev (s : State) (fn o hi lo v : Nat) : (s.setHqFld fn o hi lo v).dev = s.dev := rfl
@[simp] theorem State.setHqFld_cis (s : State) (fn o hi lo v : Nat) : (s.setHqFld fn o hi lo v).cis = s.cis := rfl
@[simp] theorem State.setHqFld_allocs (s : State) (fn o hi lo v : Nat) : (s.setHqFld fn o hi lo v).allocs = s.allocs := rfl
@[simp] theorem State.setHqFld_ranges (s : State) (fn o hi lo v : Nat) : (s.setHqFld fn o hi lo v).ranges = s.ranges := rfl
@[simp] theorem State.setHqFld_poison (s : State) (fn o hi lo v : Nat) : (s.setHqFld fn o hi lo v).poison = s.poison := rfl
@[simp] theorem State.setHqFld_wells (s : State) (fn o hi lo v : Nat) : (s.setHqFld fn o hi lo v).wells = s.wells := rfl
@[simp] theorem State.setHqFld_nextWell (s : State) (fn o hi lo v : Nat) : (s.setHqFld fn o hi lo v).nextWell = s.nextWell := rfl
@[simp] theorem State.setHqFld_wellsOut (s : State) (fn o hi lo v : Nat) : (s.setHqFld fn o hi lo v).wellsOut = s.wellsOut := rfl
@[simp] theorem State.setHqFld_wellHw (s : State) (fn o hi lo v : Nat) : (s.setHqFld fn o hi lo v).wellHw = s.wellHw := rfl
@[simp] theorem State.setHqFld_colls (s : State) (fn o hi lo v : Nat) : (s.setHqFld fn o hi lo v).colls = s.colls := rfl
@[simp] theorem State.setHqFld_models (s : State) (fn o hi lo v : Nat) : (s.setHqFld fn o hi lo v).models = s.models := rfl
@[simp] theorem State.setHqFld_mems (s : State) (fn o hi lo v : Nat) : (s.setHqFld fn o hi lo v).mems = s.mems := rfl
@[simp] theorem State.setHqFld_grammars (s : State) (fn o hi lo v : Nat) : (s.setHqFld fn o hi lo v).grammars = s.grammars := rfl
@[simp] theorem State.setHqFld_progs (s : State) (fn o hi lo v : Nat) : (s.setHqFld fn o hi lo v).progs = s.progs := rfl
@[simp] theorem State.setHqFld_units (s : State) (fn o hi lo v : Nat) : (s.setHqFld fn o hi lo v).units = s.units := rfl
@[simp] theorem State.setHqFld_moves (s : State) (fn o hi lo v : Nat) : (s.setHqFld fn o hi lo v).moves = s.moves := rfl
@[simp] theorem State.setHqFld_nextMove (s : State) (fn o hi lo v : Nat) : (s.setHqFld fn o hi lo v).nextMove = s.nextMove := rfl
@[simp] theorem State.setHqFld_movedBytes (s : State) (fn o hi lo v : Nat) : (s.setHqFld fn o hi lo v).movedBytes = s.movedBytes := rfl
@[simp] theorem State.setHqFld_oldRanges (s : State) (fn o hi lo v : Nat) : (s.setHqFld fn o hi lo v).oldRanges = s.oldRanges := rfl
@[simp] theorem State.setHqFld_parts (s : State) (fn o hi lo v : Nat) : (s.setHqFld fn o hi lo v).parts = s.parts := rfl
@[simp] theorem State.setHqFld_flash (s : State) (fn o hi lo v : Nat) : (s.setHqFld fn o hi lo v).flash = s.flash := rfl
@[simp] theorem State.setHqFld_fab (s : State) (fn o hi lo v : Nat) : (s.setHqFld fn o hi lo v).fab = s.fab := rfl
@[simp] theorem State.setHqFld_gates (s : State) (fn o hi lo v : Nat) : (s.setHqFld fn o hi lo v).gates = s.gates := rfl
@[simp] theorem State.setHqFld_fuses (s : State) (fn o hi lo v : Nat) : (s.setHqFld fn o hi lo v).fuses = s.fuses := rfl
@[simp] theorem State.setHqFld_firmware (s : State) (fn o hi lo v : Nat) : (s.setHqFld fn o hi lo v).firmware = s.firmware := rfl
@[simp] theorem State.setHqFld_varelm (s : State) (fn o hi lo v : Nat) : (s.setHqFld fn o hi lo v).varelm = s.varelm := rfl
@[simp] theorem State.setHqFld_secure (s : State) (fn o hi lo v : Nat) : (s.setHqFld fn o hi lo v).secure = s.secure := rfl
@[simp] theorem State.setHqFld_power (s : State) (fn o hi lo v : Nat) : (s.setHqFld fn o hi lo v).power = s.power := rfl
@[simp] theorem State.setHqFld_salts (s : State) (fn o hi lo v : Nat) : (s.setHqFld fn o hi lo v).salts = s.salts := rfl
@[simp] theorem State.setHqFld_evtUnread (s : State) (fn o hi lo v : Nat) : (s.setHqFld fn o hi lo v).evtUnread = s.evtUnread := rfl
@[simp] theorem State.setHqFld_evtSeq (s : State) (fn o hi lo v : Nat) : (s.setHqFld fn o hi lo v).evtSeq = s.evtSeq := rfl
@[simp] theorem State.setHqFld_clock (s : State) (fn o hi lo v : Nat) : (s.setHqFld fn o hi lo v).clock = s.clock := rfl
@[simp] theorem State.setHqFld_free (s : State) (fn o hi lo v : Nat) : (s.setHqFld fn o hi lo v).free = s.free := rfl

@[simp] theorem State.setSqSt_pending (s : State) (fn q : Nat) (x : SqSt) : (s.setSqSt fn q x).pending = s.pending := rfl
@[simp] theorem State.setSqSt_out (s : State) (fn q : Nat) (x : SqSt) : (s.setSqSt fn q x).out = s.out := rfl
@[simp] theorem State.setSqSt_regs (s : State) (fn q : Nat) (x : SqSt) : (s.setSqSt fn q x).regs = s.regs := rfl
@[simp] theorem State.setSqSt_hq (s : State) (fn q : Nat) (x : SqSt) : (s.setSqSt fn q x).hq = s.hq := rfl
@[simp] theorem State.setSqSt_pslot (s : State) (fn q : Nat) (x : SqSt) : (s.setSqSt fn q x).pslot = s.pslot := rfl
@[simp] theorem State.setSqSt_bar4 (s : State) (fn q : Nat) (x : SqSt) : (s.setSqSt fn q x).bar4 = s.bar4 := rfl
@[simp] theorem State.setSqSt_wrst (s : State) (fn q : Nat) (x : SqSt) : (s.setSqSt fn q x).wrst = s.wrst := rfl
@[simp] theorem State.setSqSt_cq (s : State) (fn q : Nat) (x : SqSt) : (s.setSqSt fn q x).cq = s.cq := rfl
@[simp] theorem State.setSqSt_cmds (s : State) (fn q : Nat) (x : SqSt) : (s.setSqSt fn q x).cmds = s.cmds := rfl
@[simp] theorem State.setSqSt_nextCmd (s : State) (fn q : Nat) (x : SqSt) : (s.setSqSt fn q x).nextCmd = s.nextCmd := rfl
@[simp] theorem State.setSqSt_nextSeq (s : State) (fn q : Nat) (x : SqSt) : (s.setSqSt fn q x).nextSeq = s.nextSeq := rfl
@[simp] theorem State.setSqSt_sched (s : State) (fn q : Nat) (x : SqSt) : (s.setSqSt fn q x).sched = s.sched := rfl
@[simp] theorem State.setSqSt_frags (s : State) (fn q : Nat) (x : SqSt) : (s.setSqSt fn q x).frags = s.frags := rfl
@[simp] theorem State.setSqSt_nextFrag (s : State) (fn q : Nat) (x : SqSt) : (s.setSqSt fn q x).nextFrag = s.nextFrag := rfl
@[simp] theorem State.setSqSt_nextGroup (s : State) (fn q : Nat) (x : SqSt) : (s.setSqSt fn q x).nextGroup = s.nextGroup := rfl
@[simp] theorem State.setSqSt_clusters (s : State) (fn q : Nat) (x : SqSt) : (s.setSqSt fn q x).clusters = s.clusters := rfl
@[simp] theorem State.setSqSt_phys (s : State) (fn q : Nat) (x : SqSt) : (s.setSqSt fn q x).phys = s.phys := rfl
@[simp] theorem State.setSqSt_logical (s : State) (fn q : Nat) (x : SqSt) : (s.setSqSt fn q x).logical = s.logical := rfl
@[simp] theorem State.setSqSt_dev (s : State) (fn q : Nat) (x : SqSt) : (s.setSqSt fn q x).dev = s.dev := rfl
@[simp] theorem State.setSqSt_cis (s : State) (fn q : Nat) (x : SqSt) : (s.setSqSt fn q x).cis = s.cis := rfl
@[simp] theorem State.setSqSt_allocs (s : State) (fn q : Nat) (x : SqSt) : (s.setSqSt fn q x).allocs = s.allocs := rfl
@[simp] theorem State.setSqSt_ranges (s : State) (fn q : Nat) (x : SqSt) : (s.setSqSt fn q x).ranges = s.ranges := rfl
@[simp] theorem State.setSqSt_poison (s : State) (fn q : Nat) (x : SqSt) : (s.setSqSt fn q x).poison = s.poison := rfl
@[simp] theorem State.setSqSt_wells (s : State) (fn q : Nat) (x : SqSt) : (s.setSqSt fn q x).wells = s.wells := rfl
@[simp] theorem State.setSqSt_nextWell (s : State) (fn q : Nat) (x : SqSt) : (s.setSqSt fn q x).nextWell = s.nextWell := rfl
@[simp] theorem State.setSqSt_wellsOut (s : State) (fn q : Nat) (x : SqSt) : (s.setSqSt fn q x).wellsOut = s.wellsOut := rfl
@[simp] theorem State.setSqSt_wellHw (s : State) (fn q : Nat) (x : SqSt) : (s.setSqSt fn q x).wellHw = s.wellHw := rfl
@[simp] theorem State.setSqSt_colls (s : State) (fn q : Nat) (x : SqSt) : (s.setSqSt fn q x).colls = s.colls := rfl
@[simp] theorem State.setSqSt_models (s : State) (fn q : Nat) (x : SqSt) : (s.setSqSt fn q x).models = s.models := rfl
@[simp] theorem State.setSqSt_mems (s : State) (fn q : Nat) (x : SqSt) : (s.setSqSt fn q x).mems = s.mems := rfl
@[simp] theorem State.setSqSt_grammars (s : State) (fn q : Nat) (x : SqSt) : (s.setSqSt fn q x).grammars = s.grammars := rfl
@[simp] theorem State.setSqSt_progs (s : State) (fn q : Nat) (x : SqSt) : (s.setSqSt fn q x).progs = s.progs := rfl
@[simp] theorem State.setSqSt_units (s : State) (fn q : Nat) (x : SqSt) : (s.setSqSt fn q x).units = s.units := rfl
@[simp] theorem State.setSqSt_moves (s : State) (fn q : Nat) (x : SqSt) : (s.setSqSt fn q x).moves = s.moves := rfl
@[simp] theorem State.setSqSt_nextMove (s : State) (fn q : Nat) (x : SqSt) : (s.setSqSt fn q x).nextMove = s.nextMove := rfl
@[simp] theorem State.setSqSt_movedBytes (s : State) (fn q : Nat) (x : SqSt) : (s.setSqSt fn q x).movedBytes = s.movedBytes := rfl
@[simp] theorem State.setSqSt_oldRanges (s : State) (fn q : Nat) (x : SqSt) : (s.setSqSt fn q x).oldRanges = s.oldRanges := rfl
@[simp] theorem State.setSqSt_parts (s : State) (fn q : Nat) (x : SqSt) : (s.setSqSt fn q x).parts = s.parts := rfl
@[simp] theorem State.setSqSt_flash (s : State) (fn q : Nat) (x : SqSt) : (s.setSqSt fn q x).flash = s.flash := rfl
@[simp] theorem State.setSqSt_fab (s : State) (fn q : Nat) (x : SqSt) : (s.setSqSt fn q x).fab = s.fab := rfl
@[simp] theorem State.setSqSt_gates (s : State) (fn q : Nat) (x : SqSt) : (s.setSqSt fn q x).gates = s.gates := rfl
@[simp] theorem State.setSqSt_fuses (s : State) (fn q : Nat) (x : SqSt) : (s.setSqSt fn q x).fuses = s.fuses := rfl
@[simp] theorem State.setSqSt_firmware (s : State) (fn q : Nat) (x : SqSt) : (s.setSqSt fn q x).firmware = s.firmware := rfl
@[simp] theorem State.setSqSt_varelm (s : State) (fn q : Nat) (x : SqSt) : (s.setSqSt fn q x).varelm = s.varelm := rfl
@[simp] theorem State.setSqSt_secure (s : State) (fn q : Nat) (x : SqSt) : (s.setSqSt fn q x).secure = s.secure := rfl
@[simp] theorem State.setSqSt_power (s : State) (fn q : Nat) (x : SqSt) : (s.setSqSt fn q x).power = s.power := rfl
@[simp] theorem State.setSqSt_salts (s : State) (fn q : Nat) (x : SqSt) : (s.setSqSt fn q x).salts = s.salts := rfl
@[simp] theorem State.setSqSt_evtUnread (s : State) (fn q : Nat) (x : SqSt) : (s.setSqSt fn q x).evtUnread = s.evtUnread := rfl
@[simp] theorem State.setSqSt_evtSeq (s : State) (fn q : Nat) (x : SqSt) : (s.setSqSt fn q x).evtSeq = s.evtSeq := rfl
@[simp] theorem State.setSqSt_clock (s : State) (fn q : Nat) (x : SqSt) : (s.setSqSt fn q x).clock = s.clock := rfl
@[simp] theorem State.setSqSt_free (s : State) (fn q : Nat) (x : SqSt) : (s.setSqSt fn q x).free = s.free := rfl

@[simp] theorem State.setCqSt_pending (s : State) (fn q : Nat) (x : CqSt) : (s.setCqSt fn q x).pending = s.pending := rfl
@[simp] theorem State.setCqSt_out (s : State) (fn q : Nat) (x : CqSt) : (s.setCqSt fn q x).out = s.out := rfl
@[simp] theorem State.setCqSt_regs (s : State) (fn q : Nat) (x : CqSt) : (s.setCqSt fn q x).regs = s.regs := rfl
@[simp] theorem State.setCqSt_hq (s : State) (fn q : Nat) (x : CqSt) : (s.setCqSt fn q x).hq = s.hq := rfl
@[simp] theorem State.setCqSt_pslot (s : State) (fn q : Nat) (x : CqSt) : (s.setCqSt fn q x).pslot = s.pslot := rfl
@[simp] theorem State.setCqSt_bar4 (s : State) (fn q : Nat) (x : CqSt) : (s.setCqSt fn q x).bar4 = s.bar4 := rfl
@[simp] theorem State.setCqSt_wrst (s : State) (fn q : Nat) (x : CqSt) : (s.setCqSt fn q x).wrst = s.wrst := rfl
@[simp] theorem State.setCqSt_sq (s : State) (fn q : Nat) (x : CqSt) : (s.setCqSt fn q x).sq = s.sq := rfl
@[simp] theorem State.setCqSt_cmds (s : State) (fn q : Nat) (x : CqSt) : (s.setCqSt fn q x).cmds = s.cmds := rfl
@[simp] theorem State.setCqSt_nextCmd (s : State) (fn q : Nat) (x : CqSt) : (s.setCqSt fn q x).nextCmd = s.nextCmd := rfl
@[simp] theorem State.setCqSt_nextSeq (s : State) (fn q : Nat) (x : CqSt) : (s.setCqSt fn q x).nextSeq = s.nextSeq := rfl
@[simp] theorem State.setCqSt_sched (s : State) (fn q : Nat) (x : CqSt) : (s.setCqSt fn q x).sched = s.sched := rfl
@[simp] theorem State.setCqSt_frags (s : State) (fn q : Nat) (x : CqSt) : (s.setCqSt fn q x).frags = s.frags := rfl
@[simp] theorem State.setCqSt_nextFrag (s : State) (fn q : Nat) (x : CqSt) : (s.setCqSt fn q x).nextFrag = s.nextFrag := rfl
@[simp] theorem State.setCqSt_nextGroup (s : State) (fn q : Nat) (x : CqSt) : (s.setCqSt fn q x).nextGroup = s.nextGroup := rfl
@[simp] theorem State.setCqSt_clusters (s : State) (fn q : Nat) (x : CqSt) : (s.setCqSt fn q x).clusters = s.clusters := rfl
@[simp] theorem State.setCqSt_phys (s : State) (fn q : Nat) (x : CqSt) : (s.setCqSt fn q x).phys = s.phys := rfl
@[simp] theorem State.setCqSt_logical (s : State) (fn q : Nat) (x : CqSt) : (s.setCqSt fn q x).logical = s.logical := rfl
@[simp] theorem State.setCqSt_dev (s : State) (fn q : Nat) (x : CqSt) : (s.setCqSt fn q x).dev = s.dev := rfl
@[simp] theorem State.setCqSt_cis (s : State) (fn q : Nat) (x : CqSt) : (s.setCqSt fn q x).cis = s.cis := rfl
@[simp] theorem State.setCqSt_allocs (s : State) (fn q : Nat) (x : CqSt) : (s.setCqSt fn q x).allocs = s.allocs := rfl
@[simp] theorem State.setCqSt_ranges (s : State) (fn q : Nat) (x : CqSt) : (s.setCqSt fn q x).ranges = s.ranges := rfl
@[simp] theorem State.setCqSt_poison (s : State) (fn q : Nat) (x : CqSt) : (s.setCqSt fn q x).poison = s.poison := rfl
@[simp] theorem State.setCqSt_wells (s : State) (fn q : Nat) (x : CqSt) : (s.setCqSt fn q x).wells = s.wells := rfl
@[simp] theorem State.setCqSt_nextWell (s : State) (fn q : Nat) (x : CqSt) : (s.setCqSt fn q x).nextWell = s.nextWell := rfl
@[simp] theorem State.setCqSt_wellsOut (s : State) (fn q : Nat) (x : CqSt) : (s.setCqSt fn q x).wellsOut = s.wellsOut := rfl
@[simp] theorem State.setCqSt_wellHw (s : State) (fn q : Nat) (x : CqSt) : (s.setCqSt fn q x).wellHw = s.wellHw := rfl
@[simp] theorem State.setCqSt_colls (s : State) (fn q : Nat) (x : CqSt) : (s.setCqSt fn q x).colls = s.colls := rfl
@[simp] theorem State.setCqSt_models (s : State) (fn q : Nat) (x : CqSt) : (s.setCqSt fn q x).models = s.models := rfl
@[simp] theorem State.setCqSt_mems (s : State) (fn q : Nat) (x : CqSt) : (s.setCqSt fn q x).mems = s.mems := rfl
@[simp] theorem State.setCqSt_grammars (s : State) (fn q : Nat) (x : CqSt) : (s.setCqSt fn q x).grammars = s.grammars := rfl
@[simp] theorem State.setCqSt_progs (s : State) (fn q : Nat) (x : CqSt) : (s.setCqSt fn q x).progs = s.progs := rfl
@[simp] theorem State.setCqSt_units (s : State) (fn q : Nat) (x : CqSt) : (s.setCqSt fn q x).units = s.units := rfl
@[simp] theorem State.setCqSt_moves (s : State) (fn q : Nat) (x : CqSt) : (s.setCqSt fn q x).moves = s.moves := rfl
@[simp] theorem State.setCqSt_nextMove (s : State) (fn q : Nat) (x : CqSt) : (s.setCqSt fn q x).nextMove = s.nextMove := rfl
@[simp] theorem State.setCqSt_movedBytes (s : State) (fn q : Nat) (x : CqSt) : (s.setCqSt fn q x).movedBytes = s.movedBytes := rfl
@[simp] theorem State.setCqSt_oldRanges (s : State) (fn q : Nat) (x : CqSt) : (s.setCqSt fn q x).oldRanges = s.oldRanges := rfl
@[simp] theorem State.setCqSt_parts (s : State) (fn q : Nat) (x : CqSt) : (s.setCqSt fn q x).parts = s.parts := rfl
@[simp] theorem State.setCqSt_flash (s : State) (fn q : Nat) (x : CqSt) : (s.setCqSt fn q x).flash = s.flash := rfl
@[simp] theorem State.setCqSt_fab (s : State) (fn q : Nat) (x : CqSt) : (s.setCqSt fn q x).fab = s.fab := rfl
@[simp] theorem State.setCqSt_gates (s : State) (fn q : Nat) (x : CqSt) : (s.setCqSt fn q x).gates = s.gates := rfl
@[simp] theorem State.setCqSt_fuses (s : State) (fn q : Nat) (x : CqSt) : (s.setCqSt fn q x).fuses = s.fuses := rfl
@[simp] theorem State.setCqSt_firmware (s : State) (fn q : Nat) (x : CqSt) : (s.setCqSt fn q x).firmware = s.firmware := rfl
@[simp] theorem State.setCqSt_varelm (s : State) (fn q : Nat) (x : CqSt) : (s.setCqSt fn q x).varelm = s.varelm := rfl
@[simp] theorem State.setCqSt_secure (s : State) (fn q : Nat) (x : CqSt) : (s.setCqSt fn q x).secure = s.secure := rfl
@[simp] theorem State.setCqSt_power (s : State) (fn q : Nat) (x : CqSt) : (s.setCqSt fn q x).power = s.power := rfl
@[simp] theorem State.setCqSt_salts (s : State) (fn q : Nat) (x : CqSt) : (s.setCqSt fn q x).salts = s.salts := rfl
@[simp] theorem State.setCqSt_evtUnread (s : State) (fn q : Nat) (x : CqSt) : (s.setCqSt fn q x).evtUnread = s.evtUnread := rfl
@[simp] theorem State.setCqSt_evtSeq (s : State) (fn q : Nat) (x : CqSt) : (s.setCqSt fn q x).evtSeq = s.evtSeq := rfl
@[simp] theorem State.setCqSt_clock (s : State) (fn q : Nat) (x : CqSt) : (s.setCqSt fn q x).clock = s.clock := rfl
@[simp] theorem State.setCqSt_free (s : State) (fn q : Nat) (x : CqSt) : (s.setCqSt fn q x).free = s.free := rfl

@[simp] theorem State.setBar4_pending (s : State) (fn o : Nat) (w : Word) : (s.setBar4 fn o w).pending = s.pending := rfl
@[simp] theorem State.setBar4_out (s : State) (fn o : Nat) (w : Word) : (s.setBar4 fn o w).out = s.out := rfl
@[simp] theorem State.setBar4_regs (s : State) (fn o : Nat) (w : Word) : (s.setBar4 fn o w).regs = s.regs := rfl
@[simp] theorem State.setBar4_hq (s : State) (fn o : Nat) (w : Word) : (s.setBar4 fn o w).hq = s.hq := rfl
@[simp] theorem State.setBar4_pslot (s : State) (fn o : Nat) (w : Word) : (s.setBar4 fn o w).pslot = s.pslot := rfl
@[simp] theorem State.setBar4_wrst (s : State) (fn o : Nat) (w : Word) : (s.setBar4 fn o w).wrst = s.wrst := rfl
@[simp] theorem State.setBar4_sq (s : State) (fn o : Nat) (w : Word) : (s.setBar4 fn o w).sq = s.sq := rfl
@[simp] theorem State.setBar4_cq (s : State) (fn o : Nat) (w : Word) : (s.setBar4 fn o w).cq = s.cq := rfl
@[simp] theorem State.setBar4_cmds (s : State) (fn o : Nat) (w : Word) : (s.setBar4 fn o w).cmds = s.cmds := rfl
@[simp] theorem State.setBar4_nextCmd (s : State) (fn o : Nat) (w : Word) : (s.setBar4 fn o w).nextCmd = s.nextCmd := rfl
@[simp] theorem State.setBar4_nextSeq (s : State) (fn o : Nat) (w : Word) : (s.setBar4 fn o w).nextSeq = s.nextSeq := rfl
@[simp] theorem State.setBar4_sched (s : State) (fn o : Nat) (w : Word) : (s.setBar4 fn o w).sched = s.sched := rfl
@[simp] theorem State.setBar4_frags (s : State) (fn o : Nat) (w : Word) : (s.setBar4 fn o w).frags = s.frags := rfl
@[simp] theorem State.setBar4_nextFrag (s : State) (fn o : Nat) (w : Word) : (s.setBar4 fn o w).nextFrag = s.nextFrag := rfl
@[simp] theorem State.setBar4_nextGroup (s : State) (fn o : Nat) (w : Word) : (s.setBar4 fn o w).nextGroup = s.nextGroup := rfl
@[simp] theorem State.setBar4_clusters (s : State) (fn o : Nat) (w : Word) : (s.setBar4 fn o w).clusters = s.clusters := rfl
@[simp] theorem State.setBar4_phys (s : State) (fn o : Nat) (w : Word) : (s.setBar4 fn o w).phys = s.phys := rfl
@[simp] theorem State.setBar4_logical (s : State) (fn o : Nat) (w : Word) : (s.setBar4 fn o w).logical = s.logical := rfl
@[simp] theorem State.setBar4_dev (s : State) (fn o : Nat) (w : Word) : (s.setBar4 fn o w).dev = s.dev := rfl
@[simp] theorem State.setBar4_cis (s : State) (fn o : Nat) (w : Word) : (s.setBar4 fn o w).cis = s.cis := rfl
@[simp] theorem State.setBar4_allocs (s : State) (fn o : Nat) (w : Word) : (s.setBar4 fn o w).allocs = s.allocs := rfl
@[simp] theorem State.setBar4_ranges (s : State) (fn o : Nat) (w : Word) : (s.setBar4 fn o w).ranges = s.ranges := rfl
@[simp] theorem State.setBar4_poison (s : State) (fn o : Nat) (w : Word) : (s.setBar4 fn o w).poison = s.poison := rfl
@[simp] theorem State.setBar4_wells (s : State) (fn o : Nat) (w : Word) : (s.setBar4 fn o w).wells = s.wells := rfl
@[simp] theorem State.setBar4_nextWell (s : State) (fn o : Nat) (w : Word) : (s.setBar4 fn o w).nextWell = s.nextWell := rfl
@[simp] theorem State.setBar4_wellsOut (s : State) (fn o : Nat) (w : Word) : (s.setBar4 fn o w).wellsOut = s.wellsOut := rfl
@[simp] theorem State.setBar4_wellHw (s : State) (fn o : Nat) (w : Word) : (s.setBar4 fn o w).wellHw = s.wellHw := rfl
@[simp] theorem State.setBar4_colls (s : State) (fn o : Nat) (w : Word) : (s.setBar4 fn o w).colls = s.colls := rfl
@[simp] theorem State.setBar4_models (s : State) (fn o : Nat) (w : Word) : (s.setBar4 fn o w).models = s.models := rfl
@[simp] theorem State.setBar4_mems (s : State) (fn o : Nat) (w : Word) : (s.setBar4 fn o w).mems = s.mems := rfl
@[simp] theorem State.setBar4_grammars (s : State) (fn o : Nat) (w : Word) : (s.setBar4 fn o w).grammars = s.grammars := rfl
@[simp] theorem State.setBar4_progs (s : State) (fn o : Nat) (w : Word) : (s.setBar4 fn o w).progs = s.progs := rfl
@[simp] theorem State.setBar4_units (s : State) (fn o : Nat) (w : Word) : (s.setBar4 fn o w).units = s.units := rfl
@[simp] theorem State.setBar4_moves (s : State) (fn o : Nat) (w : Word) : (s.setBar4 fn o w).moves = s.moves := rfl
@[simp] theorem State.setBar4_nextMove (s : State) (fn o : Nat) (w : Word) : (s.setBar4 fn o w).nextMove = s.nextMove := rfl
@[simp] theorem State.setBar4_movedBytes (s : State) (fn o : Nat) (w : Word) : (s.setBar4 fn o w).movedBytes = s.movedBytes := rfl
@[simp] theorem State.setBar4_oldRanges (s : State) (fn o : Nat) (w : Word) : (s.setBar4 fn o w).oldRanges = s.oldRanges := rfl
@[simp] theorem State.setBar4_parts (s : State) (fn o : Nat) (w : Word) : (s.setBar4 fn o w).parts = s.parts := rfl
@[simp] theorem State.setBar4_flash (s : State) (fn o : Nat) (w : Word) : (s.setBar4 fn o w).flash = s.flash := rfl
@[simp] theorem State.setBar4_fab (s : State) (fn o : Nat) (w : Word) : (s.setBar4 fn o w).fab = s.fab := rfl
@[simp] theorem State.setBar4_gates (s : State) (fn o : Nat) (w : Word) : (s.setBar4 fn o w).gates = s.gates := rfl
@[simp] theorem State.setBar4_fuses (s : State) (fn o : Nat) (w : Word) : (s.setBar4 fn o w).fuses = s.fuses := rfl
@[simp] theorem State.setBar4_firmware (s : State) (fn o : Nat) (w : Word) : (s.setBar4 fn o w).firmware = s.firmware := rfl
@[simp] theorem State.setBar4_varelm (s : State) (fn o : Nat) (w : Word) : (s.setBar4 fn o w).varelm = s.varelm := rfl
@[simp] theorem State.setBar4_secure (s : State) (fn o : Nat) (w : Word) : (s.setBar4 fn o w).secure = s.secure := rfl
@[simp] theorem State.setBar4_power (s : State) (fn o : Nat) (w : Word) : (s.setBar4 fn o w).power = s.power := rfl
@[simp] theorem State.setBar4_salts (s : State) (fn o : Nat) (w : Word) : (s.setBar4 fn o w).salts = s.salts := rfl
@[simp] theorem State.setBar4_evtUnread (s : State) (fn o : Nat) (w : Word) : (s.setBar4 fn o w).evtUnread = s.evtUnread := rfl
@[simp] theorem State.setBar4_evtSeq (s : State) (fn o : Nat) (w : Word) : (s.setBar4 fn o w).evtSeq = s.evtSeq := rfl
@[simp] theorem State.setBar4_clock (s : State) (fn o : Nat) (w : Word) : (s.setBar4 fn o w).clock = s.clock := rfl
@[simp] theorem State.setBar4_free (s : State) (fn o : Nat) (w : Word) : (s.setBar4 fn o w).free = s.free := rfl

@[simp] theorem State.sendIbi_pending (s : State) (code : Nat) : (s.sendIbi code).pending = s.pending := rfl
@[simp] theorem State.sendIbi_regs (s : State) (code : Nat) : (s.sendIbi code).regs = s.regs := rfl
@[simp] theorem State.sendIbi_hq (s : State) (code : Nat) : (s.sendIbi code).hq = s.hq := rfl
@[simp] theorem State.sendIbi_pslot (s : State) (code : Nat) : (s.sendIbi code).pslot = s.pslot := rfl
@[simp] theorem State.sendIbi_bar4 (s : State) (code : Nat) : (s.sendIbi code).bar4 = s.bar4 := rfl
@[simp] theorem State.sendIbi_wrst (s : State) (code : Nat) : (s.sendIbi code).wrst = s.wrst := rfl
@[simp] theorem State.sendIbi_sq (s : State) (code : Nat) : (s.sendIbi code).sq = s.sq := rfl
@[simp] theorem State.sendIbi_cq (s : State) (code : Nat) : (s.sendIbi code).cq = s.cq := rfl
@[simp] theorem State.sendIbi_cmds (s : State) (code : Nat) : (s.sendIbi code).cmds = s.cmds := rfl
@[simp] theorem State.sendIbi_nextCmd (s : State) (code : Nat) : (s.sendIbi code).nextCmd = s.nextCmd := rfl
@[simp] theorem State.sendIbi_nextSeq (s : State) (code : Nat) : (s.sendIbi code).nextSeq = s.nextSeq := rfl
@[simp] theorem State.sendIbi_sched (s : State) (code : Nat) : (s.sendIbi code).sched = s.sched := rfl
@[simp] theorem State.sendIbi_frags (s : State) (code : Nat) : (s.sendIbi code).frags = s.frags := rfl
@[simp] theorem State.sendIbi_nextFrag (s : State) (code : Nat) : (s.sendIbi code).nextFrag = s.nextFrag := rfl
@[simp] theorem State.sendIbi_nextGroup (s : State) (code : Nat) : (s.sendIbi code).nextGroup = s.nextGroup := rfl
@[simp] theorem State.sendIbi_clusters (s : State) (code : Nat) : (s.sendIbi code).clusters = s.clusters := rfl
@[simp] theorem State.sendIbi_phys (s : State) (code : Nat) : (s.sendIbi code).phys = s.phys := rfl
@[simp] theorem State.sendIbi_logical (s : State) (code : Nat) : (s.sendIbi code).logical = s.logical := rfl
@[simp] theorem State.sendIbi_dev (s : State) (code : Nat) : (s.sendIbi code).dev = s.dev := rfl
@[simp] theorem State.sendIbi_cis (s : State) (code : Nat) : (s.sendIbi code).cis = s.cis := rfl
@[simp] theorem State.sendIbi_allocs (s : State) (code : Nat) : (s.sendIbi code).allocs = s.allocs := rfl
@[simp] theorem State.sendIbi_ranges (s : State) (code : Nat) : (s.sendIbi code).ranges = s.ranges := rfl
@[simp] theorem State.sendIbi_poison (s : State) (code : Nat) : (s.sendIbi code).poison = s.poison := rfl
@[simp] theorem State.sendIbi_wells (s : State) (code : Nat) : (s.sendIbi code).wells = s.wells := rfl
@[simp] theorem State.sendIbi_nextWell (s : State) (code : Nat) : (s.sendIbi code).nextWell = s.nextWell := rfl
@[simp] theorem State.sendIbi_wellsOut (s : State) (code : Nat) : (s.sendIbi code).wellsOut = s.wellsOut := rfl
@[simp] theorem State.sendIbi_wellHw (s : State) (code : Nat) : (s.sendIbi code).wellHw = s.wellHw := rfl
@[simp] theorem State.sendIbi_colls (s : State) (code : Nat) : (s.sendIbi code).colls = s.colls := rfl
@[simp] theorem State.sendIbi_models (s : State) (code : Nat) : (s.sendIbi code).models = s.models := rfl
@[simp] theorem State.sendIbi_mems (s : State) (code : Nat) : (s.sendIbi code).mems = s.mems := rfl
@[simp] theorem State.sendIbi_grammars (s : State) (code : Nat) : (s.sendIbi code).grammars = s.grammars := rfl
@[simp] theorem State.sendIbi_progs (s : State) (code : Nat) : (s.sendIbi code).progs = s.progs := rfl
@[simp] theorem State.sendIbi_units (s : State) (code : Nat) : (s.sendIbi code).units = s.units := rfl
@[simp] theorem State.sendIbi_moves (s : State) (code : Nat) : (s.sendIbi code).moves = s.moves := rfl
@[simp] theorem State.sendIbi_nextMove (s : State) (code : Nat) : (s.sendIbi code).nextMove = s.nextMove := rfl
@[simp] theorem State.sendIbi_movedBytes (s : State) (code : Nat) : (s.sendIbi code).movedBytes = s.movedBytes := rfl
@[simp] theorem State.sendIbi_oldRanges (s : State) (code : Nat) : (s.sendIbi code).oldRanges = s.oldRanges := rfl
@[simp] theorem State.sendIbi_parts (s : State) (code : Nat) : (s.sendIbi code).parts = s.parts := rfl
@[simp] theorem State.sendIbi_flash (s : State) (code : Nat) : (s.sendIbi code).flash = s.flash := rfl
@[simp] theorem State.sendIbi_fab (s : State) (code : Nat) : (s.sendIbi code).fab = s.fab := rfl
@[simp] theorem State.sendIbi_gates (s : State) (code : Nat) : (s.sendIbi code).gates = s.gates := rfl
@[simp] theorem State.sendIbi_fuses (s : State) (code : Nat) : (s.sendIbi code).fuses = s.fuses := rfl
@[simp] theorem State.sendIbi_firmware (s : State) (code : Nat) : (s.sendIbi code).firmware = s.firmware := rfl
@[simp] theorem State.sendIbi_varelm (s : State) (code : Nat) : (s.sendIbi code).varelm = s.varelm := rfl
@[simp] theorem State.sendIbi_secure (s : State) (code : Nat) : (s.sendIbi code).secure = s.secure := rfl
@[simp] theorem State.sendIbi_power (s : State) (code : Nat) : (s.sendIbi code).power = s.power := rfl
@[simp] theorem State.sendIbi_salts (s : State) (code : Nat) : (s.sendIbi code).salts = s.salts := rfl
@[simp] theorem State.sendIbi_evtUnread (s : State) (code : Nat) : (s.sendIbi code).evtUnread = s.evtUnread := rfl
@[simp] theorem State.sendIbi_evtSeq (s : State) (code : Nat) : (s.sendIbi code).evtSeq = s.evtSeq := rfl
@[simp] theorem State.sendIbi_clock (s : State) (code : Nat) : (s.sendIbi code).clock = s.clock := rfl
@[simp] theorem State.sendIbi_free (s : State) (code : Nat) : (s.sendIbi code).free = s.free := rfl

@[simp] theorem State.reply_pending (s : State) (src : ReqSource) (code status : Nat) (data : List Byte) : (s.reply src code status data).pending = s.pending := rfl
@[simp] theorem State.reply_regs (s : State) (src : ReqSource) (code status : Nat) (data : List Byte) : (s.reply src code status data).regs = s.regs := rfl
@[simp] theorem State.reply_hq (s : State) (src : ReqSource) (code status : Nat) (data : List Byte) : (s.reply src code status data).hq = s.hq := rfl
@[simp] theorem State.reply_pslot (s : State) (src : ReqSource) (code status : Nat) (data : List Byte) : (s.reply src code status data).pslot = s.pslot := rfl
@[simp] theorem State.reply_bar4 (s : State) (src : ReqSource) (code status : Nat) (data : List Byte) : (s.reply src code status data).bar4 = s.bar4 := rfl
@[simp] theorem State.reply_wrst (s : State) (src : ReqSource) (code status : Nat) (data : List Byte) : (s.reply src code status data).wrst = s.wrst := rfl
@[simp] theorem State.reply_sq (s : State) (src : ReqSource) (code status : Nat) (data : List Byte) : (s.reply src code status data).sq = s.sq := rfl
@[simp] theorem State.reply_cq (s : State) (src : ReqSource) (code status : Nat) (data : List Byte) : (s.reply src code status data).cq = s.cq := rfl
@[simp] theorem State.reply_cmds (s : State) (src : ReqSource) (code status : Nat) (data : List Byte) : (s.reply src code status data).cmds = s.cmds := rfl
@[simp] theorem State.reply_nextCmd (s : State) (src : ReqSource) (code status : Nat) (data : List Byte) : (s.reply src code status data).nextCmd = s.nextCmd := rfl
@[simp] theorem State.reply_nextSeq (s : State) (src : ReqSource) (code status : Nat) (data : List Byte) : (s.reply src code status data).nextSeq = s.nextSeq := rfl
@[simp] theorem State.reply_sched (s : State) (src : ReqSource) (code status : Nat) (data : List Byte) : (s.reply src code status data).sched = s.sched := rfl
@[simp] theorem State.reply_frags (s : State) (src : ReqSource) (code status : Nat) (data : List Byte) : (s.reply src code status data).frags = s.frags := rfl
@[simp] theorem State.reply_nextFrag (s : State) (src : ReqSource) (code status : Nat) (data : List Byte) : (s.reply src code status data).nextFrag = s.nextFrag := rfl
@[simp] theorem State.reply_nextGroup (s : State) (src : ReqSource) (code status : Nat) (data : List Byte) : (s.reply src code status data).nextGroup = s.nextGroup := rfl
@[simp] theorem State.reply_clusters (s : State) (src : ReqSource) (code status : Nat) (data : List Byte) : (s.reply src code status data).clusters = s.clusters := rfl
@[simp] theorem State.reply_phys (s : State) (src : ReqSource) (code status : Nat) (data : List Byte) : (s.reply src code status data).phys = s.phys := rfl
@[simp] theorem State.reply_logical (s : State) (src : ReqSource) (code status : Nat) (data : List Byte) : (s.reply src code status data).logical = s.logical := rfl
@[simp] theorem State.reply_dev (s : State) (src : ReqSource) (code status : Nat) (data : List Byte) : (s.reply src code status data).dev = s.dev := rfl
@[simp] theorem State.reply_cis (s : State) (src : ReqSource) (code status : Nat) (data : List Byte) : (s.reply src code status data).cis = s.cis := rfl
@[simp] theorem State.reply_allocs (s : State) (src : ReqSource) (code status : Nat) (data : List Byte) : (s.reply src code status data).allocs = s.allocs := rfl
@[simp] theorem State.reply_ranges (s : State) (src : ReqSource) (code status : Nat) (data : List Byte) : (s.reply src code status data).ranges = s.ranges := rfl
@[simp] theorem State.reply_poison (s : State) (src : ReqSource) (code status : Nat) (data : List Byte) : (s.reply src code status data).poison = s.poison := rfl
@[simp] theorem State.reply_wells (s : State) (src : ReqSource) (code status : Nat) (data : List Byte) : (s.reply src code status data).wells = s.wells := rfl
@[simp] theorem State.reply_nextWell (s : State) (src : ReqSource) (code status : Nat) (data : List Byte) : (s.reply src code status data).nextWell = s.nextWell := rfl
@[simp] theorem State.reply_wellsOut (s : State) (src : ReqSource) (code status : Nat) (data : List Byte) : (s.reply src code status data).wellsOut = s.wellsOut := rfl
@[simp] theorem State.reply_wellHw (s : State) (src : ReqSource) (code status : Nat) (data : List Byte) : (s.reply src code status data).wellHw = s.wellHw := rfl
@[simp] theorem State.reply_colls (s : State) (src : ReqSource) (code status : Nat) (data : List Byte) : (s.reply src code status data).colls = s.colls := rfl
@[simp] theorem State.reply_models (s : State) (src : ReqSource) (code status : Nat) (data : List Byte) : (s.reply src code status data).models = s.models := rfl
@[simp] theorem State.reply_mems (s : State) (src : ReqSource) (code status : Nat) (data : List Byte) : (s.reply src code status data).mems = s.mems := rfl
@[simp] theorem State.reply_grammars (s : State) (src : ReqSource) (code status : Nat) (data : List Byte) : (s.reply src code status data).grammars = s.grammars := rfl
@[simp] theorem State.reply_progs (s : State) (src : ReqSource) (code status : Nat) (data : List Byte) : (s.reply src code status data).progs = s.progs := rfl
@[simp] theorem State.reply_units (s : State) (src : ReqSource) (code status : Nat) (data : List Byte) : (s.reply src code status data).units = s.units := rfl
@[simp] theorem State.reply_moves (s : State) (src : ReqSource) (code status : Nat) (data : List Byte) : (s.reply src code status data).moves = s.moves := rfl
@[simp] theorem State.reply_nextMove (s : State) (src : ReqSource) (code status : Nat) (data : List Byte) : (s.reply src code status data).nextMove = s.nextMove := rfl
@[simp] theorem State.reply_movedBytes (s : State) (src : ReqSource) (code status : Nat) (data : List Byte) : (s.reply src code status data).movedBytes = s.movedBytes := rfl
@[simp] theorem State.reply_oldRanges (s : State) (src : ReqSource) (code status : Nat) (data : List Byte) : (s.reply src code status data).oldRanges = s.oldRanges := rfl
@[simp] theorem State.reply_parts (s : State) (src : ReqSource) (code status : Nat) (data : List Byte) : (s.reply src code status data).parts = s.parts := rfl
@[simp] theorem State.reply_flash (s : State) (src : ReqSource) (code status : Nat) (data : List Byte) : (s.reply src code status data).flash = s.flash := rfl
@[simp] theorem State.reply_fab (s : State) (src : ReqSource) (code status : Nat) (data : List Byte) : (s.reply src code status data).fab = s.fab := rfl
@[simp] theorem State.reply_gates (s : State) (src : ReqSource) (code status : Nat) (data : List Byte) : (s.reply src code status data).gates = s.gates := rfl
@[simp] theorem State.reply_fuses (s : State) (src : ReqSource) (code status : Nat) (data : List Byte) : (s.reply src code status data).fuses = s.fuses := rfl
@[simp] theorem State.reply_firmware (s : State) (src : ReqSource) (code status : Nat) (data : List Byte) : (s.reply src code status data).firmware = s.firmware := rfl
@[simp] theorem State.reply_varelm (s : State) (src : ReqSource) (code status : Nat) (data : List Byte) : (s.reply src code status data).varelm = s.varelm := rfl
@[simp] theorem State.reply_secure (s : State) (src : ReqSource) (code status : Nat) (data : List Byte) : (s.reply src code status data).secure = s.secure := rfl
@[simp] theorem State.reply_power (s : State) (src : ReqSource) (code status : Nat) (data : List Byte) : (s.reply src code status data).power = s.power := rfl
@[simp] theorem State.reply_salts (s : State) (src : ReqSource) (code status : Nat) (data : List Byte) : (s.reply src code status data).salts = s.salts := rfl
@[simp] theorem State.reply_evtUnread (s : State) (src : ReqSource) (code status : Nat) (data : List Byte) : (s.reply src code status data).evtUnread = s.evtUnread := rfl
@[simp] theorem State.reply_evtSeq (s : State) (src : ReqSource) (code status : Nat) (data : List Byte) : (s.reply src code status data).evtSeq = s.evtSeq := rfl
@[simp] theorem State.reply_clock (s : State) (src : ReqSource) (code status : Nat) (data : List Byte) : (s.reply src code status data).clock = s.clock := rfl
@[simp] theorem State.reply_free (s : State) (src : ReqSource) (code status : Nat) (data : List Byte) : (s.reply src code status data).free = s.free := rfl

@[simp] theorem State.drew_pending (s : State) (n : Nat) : (s.drew n).pending = s.pending := rfl
@[simp] theorem State.drew_out (s : State) (n : Nat) : (s.drew n).out = s.out := rfl
@[simp] theorem State.drew_regs (s : State) (n : Nat) : (s.drew n).regs = s.regs := rfl
@[simp] theorem State.drew_hq (s : State) (n : Nat) : (s.drew n).hq = s.hq := rfl
@[simp] theorem State.drew_pslot (s : State) (n : Nat) : (s.drew n).pslot = s.pslot := rfl
@[simp] theorem State.drew_bar4 (s : State) (n : Nat) : (s.drew n).bar4 = s.bar4 := rfl
@[simp] theorem State.drew_wrst (s : State) (n : Nat) : (s.drew n).wrst = s.wrst := rfl
@[simp] theorem State.drew_sq (s : State) (n : Nat) : (s.drew n).sq = s.sq := rfl
@[simp] theorem State.drew_cq (s : State) (n : Nat) : (s.drew n).cq = s.cq := rfl
@[simp] theorem State.drew_cmds (s : State) (n : Nat) : (s.drew n).cmds = s.cmds := rfl
@[simp] theorem State.drew_nextCmd (s : State) (n : Nat) : (s.drew n).nextCmd = s.nextCmd := rfl
@[simp] theorem State.drew_nextSeq (s : State) (n : Nat) : (s.drew n).nextSeq = s.nextSeq := rfl
@[simp] theorem State.drew_sched (s : State) (n : Nat) : (s.drew n).sched = s.sched := rfl
@[simp] theorem State.drew_frags (s : State) (n : Nat) : (s.drew n).frags = s.frags := rfl
@[simp] theorem State.drew_nextFrag (s : State) (n : Nat) : (s.drew n).nextFrag = s.nextFrag := rfl
@[simp] theorem State.drew_nextGroup (s : State) (n : Nat) : (s.drew n).nextGroup = s.nextGroup := rfl
@[simp] theorem State.drew_clusters (s : State) (n : Nat) : (s.drew n).clusters = s.clusters := rfl
@[simp] theorem State.drew_phys (s : State) (n : Nat) : (s.drew n).phys = s.phys := rfl
@[simp] theorem State.drew_logical (s : State) (n : Nat) : (s.drew n).logical = s.logical := rfl
@[simp] theorem State.drew_dev (s : State) (n : Nat) : (s.drew n).dev = s.dev := rfl
@[simp] theorem State.drew_cis (s : State) (n : Nat) : (s.drew n).cis = s.cis := rfl
@[simp] theorem State.drew_allocs (s : State) (n : Nat) : (s.drew n).allocs = s.allocs := rfl
@[simp] theorem State.drew_ranges (s : State) (n : Nat) : (s.drew n).ranges = s.ranges := rfl
@[simp] theorem State.drew_poison (s : State) (n : Nat) : (s.drew n).poison = s.poison := rfl
@[simp] theorem State.drew_wells (s : State) (n : Nat) : (s.drew n).wells = s.wells := rfl
@[simp] theorem State.drew_nextWell (s : State) (n : Nat) : (s.drew n).nextWell = s.nextWell := rfl
@[simp] theorem State.drew_wellsOut (s : State) (n : Nat) : (s.drew n).wellsOut = s.wellsOut := rfl
@[simp] theorem State.drew_wellHw (s : State) (n : Nat) : (s.drew n).wellHw = s.wellHw := rfl
@[simp] theorem State.drew_colls (s : State) (n : Nat) : (s.drew n).colls = s.colls := rfl
@[simp] theorem State.drew_models (s : State) (n : Nat) : (s.drew n).models = s.models := rfl
@[simp] theorem State.drew_mems (s : State) (n : Nat) : (s.drew n).mems = s.mems := rfl
@[simp] theorem State.drew_grammars (s : State) (n : Nat) : (s.drew n).grammars = s.grammars := rfl
@[simp] theorem State.drew_progs (s : State) (n : Nat) : (s.drew n).progs = s.progs := rfl
@[simp] theorem State.drew_units (s : State) (n : Nat) : (s.drew n).units = s.units := rfl
@[simp] theorem State.drew_moves (s : State) (n : Nat) : (s.drew n).moves = s.moves := rfl
@[simp] theorem State.drew_nextMove (s : State) (n : Nat) : (s.drew n).nextMove = s.nextMove := rfl
@[simp] theorem State.drew_movedBytes (s : State) (n : Nat) : (s.drew n).movedBytes = s.movedBytes := rfl
@[simp] theorem State.drew_oldRanges (s : State) (n : Nat) : (s.drew n).oldRanges = s.oldRanges := rfl
@[simp] theorem State.drew_parts (s : State) (n : Nat) : (s.drew n).parts = s.parts := rfl
@[simp] theorem State.drew_flash (s : State) (n : Nat) : (s.drew n).flash = s.flash := rfl
@[simp] theorem State.drew_fab (s : State) (n : Nat) : (s.drew n).fab = s.fab := rfl
@[simp] theorem State.drew_gates (s : State) (n : Nat) : (s.drew n).gates = s.gates := rfl
@[simp] theorem State.drew_fuses (s : State) (n : Nat) : (s.drew n).fuses = s.fuses := rfl
@[simp] theorem State.drew_firmware (s : State) (n : Nat) : (s.drew n).firmware = s.firmware := rfl
@[simp] theorem State.drew_varelm (s : State) (n : Nat) : (s.drew n).varelm = s.varelm := rfl
@[simp] theorem State.drew_secure (s : State) (n : Nat) : (s.drew n).secure = s.secure := rfl
@[simp] theorem State.drew_power (s : State) (n : Nat) : (s.drew n).power = s.power := rfl
@[simp] theorem State.drew_salts (s : State) (n : Nat) : (s.drew n).salts = s.salts := rfl
@[simp] theorem State.drew_evtUnread (s : State) (n : Nat) : (s.drew n).evtUnread = s.evtUnread := rfl
@[simp] theorem State.drew_evtSeq (s : State) (n : Nat) : (s.drew n).evtSeq = s.evtSeq := rfl
@[simp] theorem State.drew_clock (s : State) (n : Nat) : (s.drew n).clock = s.clock := rfl

@[simp] theorem State.updCmd_pending (s : State) (c : Nat) (f : Cmd → Cmd) : (s.updCmd c f).pending = s.pending := rfl
@[simp] theorem State.updCmd_out (s : State) (c : Nat) (f : Cmd → Cmd) : (s.updCmd c f).out = s.out := rfl
@[simp] theorem State.updCmd_regs (s : State) (c : Nat) (f : Cmd → Cmd) : (s.updCmd c f).regs = s.regs := rfl
@[simp] theorem State.updCmd_hq (s : State) (c : Nat) (f : Cmd → Cmd) : (s.updCmd c f).hq = s.hq := rfl
@[simp] theorem State.updCmd_pslot (s : State) (c : Nat) (f : Cmd → Cmd) : (s.updCmd c f).pslot = s.pslot := rfl
@[simp] theorem State.updCmd_bar4 (s : State) (c : Nat) (f : Cmd → Cmd) : (s.updCmd c f).bar4 = s.bar4 := rfl
@[simp] theorem State.updCmd_wrst (s : State) (c : Nat) (f : Cmd → Cmd) : (s.updCmd c f).wrst = s.wrst := rfl
@[simp] theorem State.updCmd_sq (s : State) (c : Nat) (f : Cmd → Cmd) : (s.updCmd c f).sq = s.sq := rfl
@[simp] theorem State.updCmd_cq (s : State) (c : Nat) (f : Cmd → Cmd) : (s.updCmd c f).cq = s.cq := rfl
@[simp] theorem State.updCmd_nextCmd (s : State) (c : Nat) (f : Cmd → Cmd) : (s.updCmd c f).nextCmd = s.nextCmd := rfl
@[simp] theorem State.updCmd_nextSeq (s : State) (c : Nat) (f : Cmd → Cmd) : (s.updCmd c f).nextSeq = s.nextSeq := rfl
@[simp] theorem State.updCmd_sched (s : State) (c : Nat) (f : Cmd → Cmd) : (s.updCmd c f).sched = s.sched := rfl
@[simp] theorem State.updCmd_frags (s : State) (c : Nat) (f : Cmd → Cmd) : (s.updCmd c f).frags = s.frags := rfl
@[simp] theorem State.updCmd_nextFrag (s : State) (c : Nat) (f : Cmd → Cmd) : (s.updCmd c f).nextFrag = s.nextFrag := rfl
@[simp] theorem State.updCmd_nextGroup (s : State) (c : Nat) (f : Cmd → Cmd) : (s.updCmd c f).nextGroup = s.nextGroup := rfl
@[simp] theorem State.updCmd_clusters (s : State) (c : Nat) (f : Cmd → Cmd) : (s.updCmd c f).clusters = s.clusters := rfl
@[simp] theorem State.updCmd_phys (s : State) (c : Nat) (f : Cmd → Cmd) : (s.updCmd c f).phys = s.phys := rfl
@[simp] theorem State.updCmd_logical (s : State) (c : Nat) (f : Cmd → Cmd) : (s.updCmd c f).logical = s.logical := rfl
@[simp] theorem State.updCmd_dev (s : State) (c : Nat) (f : Cmd → Cmd) : (s.updCmd c f).dev = s.dev := rfl
@[simp] theorem State.updCmd_cis (s : State) (c : Nat) (f : Cmd → Cmd) : (s.updCmd c f).cis = s.cis := rfl
@[simp] theorem State.updCmd_allocs (s : State) (c : Nat) (f : Cmd → Cmd) : (s.updCmd c f).allocs = s.allocs := rfl
@[simp] theorem State.updCmd_ranges (s : State) (c : Nat) (f : Cmd → Cmd) : (s.updCmd c f).ranges = s.ranges := rfl
@[simp] theorem State.updCmd_poison (s : State) (c : Nat) (f : Cmd → Cmd) : (s.updCmd c f).poison = s.poison := rfl
@[simp] theorem State.updCmd_wells (s : State) (c : Nat) (f : Cmd → Cmd) : (s.updCmd c f).wells = s.wells := rfl
@[simp] theorem State.updCmd_nextWell (s : State) (c : Nat) (f : Cmd → Cmd) : (s.updCmd c f).nextWell = s.nextWell := rfl
@[simp] theorem State.updCmd_wellsOut (s : State) (c : Nat) (f : Cmd → Cmd) : (s.updCmd c f).wellsOut = s.wellsOut := rfl
@[simp] theorem State.updCmd_wellHw (s : State) (c : Nat) (f : Cmd → Cmd) : (s.updCmd c f).wellHw = s.wellHw := rfl
@[simp] theorem State.updCmd_colls (s : State) (c : Nat) (f : Cmd → Cmd) : (s.updCmd c f).colls = s.colls := rfl
@[simp] theorem State.updCmd_models (s : State) (c : Nat) (f : Cmd → Cmd) : (s.updCmd c f).models = s.models := rfl
@[simp] theorem State.updCmd_mems (s : State) (c : Nat) (f : Cmd → Cmd) : (s.updCmd c f).mems = s.mems := rfl
@[simp] theorem State.updCmd_grammars (s : State) (c : Nat) (f : Cmd → Cmd) : (s.updCmd c f).grammars = s.grammars := rfl
@[simp] theorem State.updCmd_progs (s : State) (c : Nat) (f : Cmd → Cmd) : (s.updCmd c f).progs = s.progs := rfl
@[simp] theorem State.updCmd_units (s : State) (c : Nat) (f : Cmd → Cmd) : (s.updCmd c f).units = s.units := rfl
@[simp] theorem State.updCmd_moves (s : State) (c : Nat) (f : Cmd → Cmd) : (s.updCmd c f).moves = s.moves := rfl
@[simp] theorem State.updCmd_nextMove (s : State) (c : Nat) (f : Cmd → Cmd) : (s.updCmd c f).nextMove = s.nextMove := rfl
@[simp] theorem State.updCmd_movedBytes (s : State) (c : Nat) (f : Cmd → Cmd) : (s.updCmd c f).movedBytes = s.movedBytes := rfl
@[simp] theorem State.updCmd_oldRanges (s : State) (c : Nat) (f : Cmd → Cmd) : (s.updCmd c f).oldRanges = s.oldRanges := rfl
@[simp] theorem State.updCmd_parts (s : State) (c : Nat) (f : Cmd → Cmd) : (s.updCmd c f).parts = s.parts := rfl
@[simp] theorem State.updCmd_flash (s : State) (c : Nat) (f : Cmd → Cmd) : (s.updCmd c f).flash = s.flash := rfl
@[simp] theorem State.updCmd_fab (s : State) (c : Nat) (f : Cmd → Cmd) : (s.updCmd c f).fab = s.fab := rfl
@[simp] theorem State.updCmd_gates (s : State) (c : Nat) (f : Cmd → Cmd) : (s.updCmd c f).gates = s.gates := rfl
@[simp] theorem State.updCmd_fuses (s : State) (c : Nat) (f : Cmd → Cmd) : (s.updCmd c f).fuses = s.fuses := rfl
@[simp] theorem State.updCmd_firmware (s : State) (c : Nat) (f : Cmd → Cmd) : (s.updCmd c f).firmware = s.firmware := rfl
@[simp] theorem State.updCmd_varelm (s : State) (c : Nat) (f : Cmd → Cmd) : (s.updCmd c f).varelm = s.varelm := rfl
@[simp] theorem State.updCmd_secure (s : State) (c : Nat) (f : Cmd → Cmd) : (s.updCmd c f).secure = s.secure := rfl
@[simp] theorem State.updCmd_power (s : State) (c : Nat) (f : Cmd → Cmd) : (s.updCmd c f).power = s.power := rfl
@[simp] theorem State.updCmd_salts (s : State) (c : Nat) (f : Cmd → Cmd) : (s.updCmd c f).salts = s.salts := rfl
@[simp] theorem State.updCmd_evtUnread (s : State) (c : Nat) (f : Cmd → Cmd) : (s.updCmd c f).evtUnread = s.evtUnread := rfl
@[simp] theorem State.updCmd_evtSeq (s : State) (c : Nat) (f : Cmd → Cmd) : (s.updCmd c f).evtSeq = s.evtSeq := rfl
@[simp] theorem State.updCmd_clock (s : State) (c : Nat) (f : Cmd → Cmd) : (s.updCmd c f).clock = s.clock := rfl
@[simp] theorem State.updCmd_free (s : State) (c : Nat) (f : Cmd → Cmd) : (s.updCmd c f).free = s.free := rfl

@[simp] theorem State.updFrag_pending (s : State) (f : Nat) (g : Frag → Frag) : (s.updFrag f g).pending = s.pending := rfl
@[simp] theorem State.updFrag_out (s : State) (f : Nat) (g : Frag → Frag) : (s.updFrag f g).out = s.out := rfl
@[simp] theorem State.updFrag_regs (s : State) (f : Nat) (g : Frag → Frag) : (s.updFrag f g).regs = s.regs := rfl
@[simp] theorem State.updFrag_hq (s : State) (f : Nat) (g : Frag → Frag) : (s.updFrag f g).hq = s.hq := rfl
@[simp] theorem State.updFrag_pslot (s : State) (f : Nat) (g : Frag → Frag) : (s.updFrag f g).pslot = s.pslot := rfl
@[simp] theorem State.updFrag_bar4 (s : State) (f : Nat) (g : Frag → Frag) : (s.updFrag f g).bar4 = s.bar4 := rfl
@[simp] theorem State.updFrag_wrst (s : State) (f : Nat) (g : Frag → Frag) : (s.updFrag f g).wrst = s.wrst := rfl
@[simp] theorem State.updFrag_sq (s : State) (f : Nat) (g : Frag → Frag) : (s.updFrag f g).sq = s.sq := rfl
@[simp] theorem State.updFrag_cq (s : State) (f : Nat) (g : Frag → Frag) : (s.updFrag f g).cq = s.cq := rfl
@[simp] theorem State.updFrag_cmds (s : State) (f : Nat) (g : Frag → Frag) : (s.updFrag f g).cmds = s.cmds := rfl
@[simp] theorem State.updFrag_nextCmd (s : State) (f : Nat) (g : Frag → Frag) : (s.updFrag f g).nextCmd = s.nextCmd := rfl
@[simp] theorem State.updFrag_nextSeq (s : State) (f : Nat) (g : Frag → Frag) : (s.updFrag f g).nextSeq = s.nextSeq := rfl
@[simp] theorem State.updFrag_sched (s : State) (f : Nat) (g : Frag → Frag) : (s.updFrag f g).sched = s.sched := rfl
@[simp] theorem State.updFrag_nextFrag (s : State) (f : Nat) (g : Frag → Frag) : (s.updFrag f g).nextFrag = s.nextFrag := rfl
@[simp] theorem State.updFrag_nextGroup (s : State) (f : Nat) (g : Frag → Frag) : (s.updFrag f g).nextGroup = s.nextGroup := rfl
@[simp] theorem State.updFrag_clusters (s : State) (f : Nat) (g : Frag → Frag) : (s.updFrag f g).clusters = s.clusters := rfl
@[simp] theorem State.updFrag_phys (s : State) (f : Nat) (g : Frag → Frag) : (s.updFrag f g).phys = s.phys := rfl
@[simp] theorem State.updFrag_logical (s : State) (f : Nat) (g : Frag → Frag) : (s.updFrag f g).logical = s.logical := rfl
@[simp] theorem State.updFrag_dev (s : State) (f : Nat) (g : Frag → Frag) : (s.updFrag f g).dev = s.dev := rfl
@[simp] theorem State.updFrag_cis (s : State) (f : Nat) (g : Frag → Frag) : (s.updFrag f g).cis = s.cis := rfl
@[simp] theorem State.updFrag_allocs (s : State) (f : Nat) (g : Frag → Frag) : (s.updFrag f g).allocs = s.allocs := rfl
@[simp] theorem State.updFrag_ranges (s : State) (f : Nat) (g : Frag → Frag) : (s.updFrag f g).ranges = s.ranges := rfl
@[simp] theorem State.updFrag_poison (s : State) (f : Nat) (g : Frag → Frag) : (s.updFrag f g).poison = s.poison := rfl
@[simp] theorem State.updFrag_wells (s : State) (f : Nat) (g : Frag → Frag) : (s.updFrag f g).wells = s.wells := rfl
@[simp] theorem State.updFrag_nextWell (s : State) (f : Nat) (g : Frag → Frag) : (s.updFrag f g).nextWell = s.nextWell := rfl
@[simp] theorem State.updFrag_wellsOut (s : State) (f : Nat) (g : Frag → Frag) : (s.updFrag f g).wellsOut = s.wellsOut := rfl
@[simp] theorem State.updFrag_wellHw (s : State) (f : Nat) (g : Frag → Frag) : (s.updFrag f g).wellHw = s.wellHw := rfl
@[simp] theorem State.updFrag_colls (s : State) (f : Nat) (g : Frag → Frag) : (s.updFrag f g).colls = s.colls := rfl
@[simp] theorem State.updFrag_models (s : State) (f : Nat) (g : Frag → Frag) : (s.updFrag f g).models = s.models := rfl
@[simp] theorem State.updFrag_mems (s : State) (f : Nat) (g : Frag → Frag) : (s.updFrag f g).mems = s.mems := rfl
@[simp] theorem State.updFrag_grammars (s : State) (f : Nat) (g : Frag → Frag) : (s.updFrag f g).grammars = s.grammars := rfl
@[simp] theorem State.updFrag_progs (s : State) (f : Nat) (g : Frag → Frag) : (s.updFrag f g).progs = s.progs := rfl
@[simp] theorem State.updFrag_units (s : State) (f : Nat) (g : Frag → Frag) : (s.updFrag f g).units = s.units := rfl
@[simp] theorem State.updFrag_moves (s : State) (f : Nat) (g : Frag → Frag) : (s.updFrag f g).moves = s.moves := rfl
@[simp] theorem State.updFrag_nextMove (s : State) (f : Nat) (g : Frag → Frag) : (s.updFrag f g).nextMove = s.nextMove := rfl
@[simp] theorem State.updFrag_movedBytes (s : State) (f : Nat) (g : Frag → Frag) : (s.updFrag f g).movedBytes = s.movedBytes := rfl
@[simp] theorem State.updFrag_oldRanges (s : State) (f : Nat) (g : Frag → Frag) : (s.updFrag f g).oldRanges = s.oldRanges := rfl
@[simp] theorem State.updFrag_parts (s : State) (f : Nat) (g : Frag → Frag) : (s.updFrag f g).parts = s.parts := rfl
@[simp] theorem State.updFrag_flash (s : State) (f : Nat) (g : Frag → Frag) : (s.updFrag f g).flash = s.flash := rfl
@[simp] theorem State.updFrag_fab (s : State) (f : Nat) (g : Frag → Frag) : (s.updFrag f g).fab = s.fab := rfl
@[simp] theorem State.updFrag_gates (s : State) (f : Nat) (g : Frag → Frag) : (s.updFrag f g).gates = s.gates := rfl
@[simp] theorem State.updFrag_fuses (s : State) (f : Nat) (g : Frag → Frag) : (s.updFrag f g).fuses = s.fuses := rfl
@[simp] theorem State.updFrag_firmware (s : State) (f : Nat) (g : Frag → Frag) : (s.updFrag f g).firmware = s.firmware := rfl
@[simp] theorem State.updFrag_varelm (s : State) (f : Nat) (g : Frag → Frag) : (s.updFrag f g).varelm = s.varelm := rfl
@[simp] theorem State.updFrag_secure (s : State) (f : Nat) (g : Frag → Frag) : (s.updFrag f g).secure = s.secure := rfl
@[simp] theorem State.updFrag_power (s : State) (f : Nat) (g : Frag → Frag) : (s.updFrag f g).power = s.power := rfl
@[simp] theorem State.updFrag_salts (s : State) (f : Nat) (g : Frag → Frag) : (s.updFrag f g).salts = s.salts := rfl
@[simp] theorem State.updFrag_evtUnread (s : State) (f : Nat) (g : Frag → Frag) : (s.updFrag f g).evtUnread = s.evtUnread := rfl
@[simp] theorem State.updFrag_evtSeq (s : State) (f : Nat) (g : Frag → Frag) : (s.updFrag f g).evtSeq = s.evtSeq := rfl
@[simp] theorem State.updFrag_clock (s : State) (f : Nat) (g : Frag → Frag) : (s.updFrag f g).clock = s.clock := rfl
@[simp] theorem State.updFrag_free (s : State) (f : Nat) (g : Frag → Frag) : (s.updFrag f g).free = s.free := rfl

@[simp] theorem State.updMember_pending (s : State) (t : Tid) (f : Member → Member) : (s.updMember t f).pending = s.pending := rfl
@[simp] theorem State.updMember_out (s : State) (t : Tid) (f : Member → Member) : (s.updMember t f).out = s.out := rfl
@[simp] theorem State.updMember_regs (s : State) (t : Tid) (f : Member → Member) : (s.updMember t f).regs = s.regs := rfl
@[simp] theorem State.updMember_hq (s : State) (t : Tid) (f : Member → Member) : (s.updMember t f).hq = s.hq := rfl
@[simp] theorem State.updMember_pslot (s : State) (t : Tid) (f : Member → Member) : (s.updMember t f).pslot = s.pslot := rfl
@[simp] theorem State.updMember_bar4 (s : State) (t : Tid) (f : Member → Member) : (s.updMember t f).bar4 = s.bar4 := rfl
@[simp] theorem State.updMember_wrst (s : State) (t : Tid) (f : Member → Member) : (s.updMember t f).wrst = s.wrst := rfl
@[simp] theorem State.updMember_sq (s : State) (t : Tid) (f : Member → Member) : (s.updMember t f).sq = s.sq := rfl
@[simp] theorem State.updMember_cq (s : State) (t : Tid) (f : Member → Member) : (s.updMember t f).cq = s.cq := rfl
@[simp] theorem State.updMember_cmds (s : State) (t : Tid) (f : Member → Member) : (s.updMember t f).cmds = s.cmds := rfl
@[simp] theorem State.updMember_nextCmd (s : State) (t : Tid) (f : Member → Member) : (s.updMember t f).nextCmd = s.nextCmd := rfl
@[simp] theorem State.updMember_nextSeq (s : State) (t : Tid) (f : Member → Member) : (s.updMember t f).nextSeq = s.nextSeq := rfl
@[simp] theorem State.updMember_sched (s : State) (t : Tid) (f : Member → Member) : (s.updMember t f).sched = s.sched := rfl
@[simp] theorem State.updMember_nextFrag (s : State) (t : Tid) (f : Member → Member) : (s.updMember t f).nextFrag = s.nextFrag := rfl
@[simp] theorem State.updMember_nextGroup (s : State) (t : Tid) (f : Member → Member) : (s.updMember t f).nextGroup = s.nextGroup := rfl
@[simp] theorem State.updMember_clusters (s : State) (t : Tid) (f : Member → Member) : (s.updMember t f).clusters = s.clusters := rfl
@[simp] theorem State.updMember_phys (s : State) (t : Tid) (f : Member → Member) : (s.updMember t f).phys = s.phys := rfl
@[simp] theorem State.updMember_logical (s : State) (t : Tid) (f : Member → Member) : (s.updMember t f).logical = s.logical := rfl
@[simp] theorem State.updMember_dev (s : State) (t : Tid) (f : Member → Member) : (s.updMember t f).dev = s.dev := rfl
@[simp] theorem State.updMember_cis (s : State) (t : Tid) (f : Member → Member) : (s.updMember t f).cis = s.cis := rfl
@[simp] theorem State.updMember_allocs (s : State) (t : Tid) (f : Member → Member) : (s.updMember t f).allocs = s.allocs := rfl
@[simp] theorem State.updMember_ranges (s : State) (t : Tid) (f : Member → Member) : (s.updMember t f).ranges = s.ranges := rfl
@[simp] theorem State.updMember_poison (s : State) (t : Tid) (f : Member → Member) : (s.updMember t f).poison = s.poison := rfl
@[simp] theorem State.updMember_wells (s : State) (t : Tid) (f : Member → Member) : (s.updMember t f).wells = s.wells := rfl
@[simp] theorem State.updMember_nextWell (s : State) (t : Tid) (f : Member → Member) : (s.updMember t f).nextWell = s.nextWell := rfl
@[simp] theorem State.updMember_wellsOut (s : State) (t : Tid) (f : Member → Member) : (s.updMember t f).wellsOut = s.wellsOut := rfl
@[simp] theorem State.updMember_wellHw (s : State) (t : Tid) (f : Member → Member) : (s.updMember t f).wellHw = s.wellHw := rfl
@[simp] theorem State.updMember_colls (s : State) (t : Tid) (f : Member → Member) : (s.updMember t f).colls = s.colls := rfl
@[simp] theorem State.updMember_models (s : State) (t : Tid) (f : Member → Member) : (s.updMember t f).models = s.models := rfl
@[simp] theorem State.updMember_mems (s : State) (t : Tid) (f : Member → Member) : (s.updMember t f).mems = s.mems := rfl
@[simp] theorem State.updMember_grammars (s : State) (t : Tid) (f : Member → Member) : (s.updMember t f).grammars = s.grammars := rfl
@[simp] theorem State.updMember_progs (s : State) (t : Tid) (f : Member → Member) : (s.updMember t f).progs = s.progs := rfl
@[simp] theorem State.updMember_units (s : State) (t : Tid) (f : Member → Member) : (s.updMember t f).units = s.units := rfl
@[simp] theorem State.updMember_moves (s : State) (t : Tid) (f : Member → Member) : (s.updMember t f).moves = s.moves := rfl
@[simp] theorem State.updMember_nextMove (s : State) (t : Tid) (f : Member → Member) : (s.updMember t f).nextMove = s.nextMove := rfl
@[simp] theorem State.updMember_movedBytes (s : State) (t : Tid) (f : Member → Member) : (s.updMember t f).movedBytes = s.movedBytes := rfl
@[simp] theorem State.updMember_oldRanges (s : State) (t : Tid) (f : Member → Member) : (s.updMember t f).oldRanges = s.oldRanges := rfl
@[simp] theorem State.updMember_parts (s : State) (t : Tid) (f : Member → Member) : (s.updMember t f).parts = s.parts := rfl
@[simp] theorem State.updMember_flash (s : State) (t : Tid) (f : Member → Member) : (s.updMember t f).flash = s.flash := rfl
@[simp] theorem State.updMember_fab (s : State) (t : Tid) (f : Member → Member) : (s.updMember t f).fab = s.fab := rfl
@[simp] theorem State.updMember_gates (s : State) (t : Tid) (f : Member → Member) : (s.updMember t f).gates = s.gates := rfl
@[simp] theorem State.updMember_fuses (s : State) (t : Tid) (f : Member → Member) : (s.updMember t f).fuses = s.fuses := rfl
@[simp] theorem State.updMember_firmware (s : State) (t : Tid) (f : Member → Member) : (s.updMember t f).firmware = s.firmware := rfl
@[simp] theorem State.updMember_varelm (s : State) (t : Tid) (f : Member → Member) : (s.updMember t f).varelm = s.varelm := rfl
@[simp] theorem State.updMember_secure (s : State) (t : Tid) (f : Member → Member) : (s.updMember t f).secure = s.secure := rfl
@[simp] theorem State.updMember_power (s : State) (t : Tid) (f : Member → Member) : (s.updMember t f).power = s.power := rfl
@[simp] theorem State.updMember_salts (s : State) (t : Tid) (f : Member → Member) : (s.updMember t f).salts = s.salts := rfl
@[simp] theorem State.updMember_evtUnread (s : State) (t : Tid) (f : Member → Member) : (s.updMember t f).evtUnread = s.evtUnread := rfl
@[simp] theorem State.updMember_evtSeq (s : State) (t : Tid) (f : Member → Member) : (s.updMember t f).evtSeq = s.evtSeq := rfl
@[simp] theorem State.updMember_clock (s : State) (t : Tid) (f : Member → Member) : (s.updMember t f).clock = s.clock := rfl
@[simp] theorem State.updMember_free (s : State) (t : Tid) (f : Member → Member) : (s.updMember t f).free = s.free := rfl

@[simp] theorem State.updThread_pending (s : State) (t : Tid) (f : Thread → Thread) : (s.updThread t f).pending = s.pending := rfl
@[simp] theorem State.updThread_out (s : State) (t : Tid) (f : Thread → Thread) : (s.updThread t f).out = s.out := rfl
@[simp] theorem State.updThread_regs (s : State) (t : Tid) (f : Thread → Thread) : (s.updThread t f).regs = s.regs := rfl
@[simp] theorem State.updThread_hq (s : State) (t : Tid) (f : Thread → Thread) : (s.updThread t f).hq = s.hq := rfl
@[simp] theorem State.updThread_pslot (s : State) (t : Tid) (f : Thread → Thread) : (s.updThread t f).pslot = s.pslot := rfl
@[simp] theorem State.updThread_bar4 (s : State) (t : Tid) (f : Thread → Thread) : (s.updThread t f).bar4 = s.bar4 := rfl
@[simp] theorem State.updThread_wrst (s : State) (t : Tid) (f : Thread → Thread) : (s.updThread t f).wrst = s.wrst := rfl
@[simp] theorem State.updThread_sq (s : State) (t : Tid) (f : Thread → Thread) : (s.updThread t f).sq = s.sq := rfl
@[simp] theorem State.updThread_cq (s : State) (t : Tid) (f : Thread → Thread) : (s.updThread t f).cq = s.cq := rfl
@[simp] theorem State.updThread_cmds (s : State) (t : Tid) (f : Thread → Thread) : (s.updThread t f).cmds = s.cmds := rfl
@[simp] theorem State.updThread_nextCmd (s : State) (t : Tid) (f : Thread → Thread) : (s.updThread t f).nextCmd = s.nextCmd := rfl
@[simp] theorem State.updThread_nextSeq (s : State) (t : Tid) (f : Thread → Thread) : (s.updThread t f).nextSeq = s.nextSeq := rfl
@[simp] theorem State.updThread_sched (s : State) (t : Tid) (f : Thread → Thread) : (s.updThread t f).sched = s.sched := rfl
@[simp] theorem State.updThread_nextFrag (s : State) (t : Tid) (f : Thread → Thread) : (s.updThread t f).nextFrag = s.nextFrag := rfl
@[simp] theorem State.updThread_nextGroup (s : State) (t : Tid) (f : Thread → Thread) : (s.updThread t f).nextGroup = s.nextGroup := rfl
@[simp] theorem State.updThread_clusters (s : State) (t : Tid) (f : Thread → Thread) : (s.updThread t f).clusters = s.clusters := rfl
@[simp] theorem State.updThread_phys (s : State) (t : Tid) (f : Thread → Thread) : (s.updThread t f).phys = s.phys := rfl
@[simp] theorem State.updThread_logical (s : State) (t : Tid) (f : Thread → Thread) : (s.updThread t f).logical = s.logical := rfl
@[simp] theorem State.updThread_dev (s : State) (t : Tid) (f : Thread → Thread) : (s.updThread t f).dev = s.dev := rfl
@[simp] theorem State.updThread_cis (s : State) (t : Tid) (f : Thread → Thread) : (s.updThread t f).cis = s.cis := rfl
@[simp] theorem State.updThread_allocs (s : State) (t : Tid) (f : Thread → Thread) : (s.updThread t f).allocs = s.allocs := rfl
@[simp] theorem State.updThread_ranges (s : State) (t : Tid) (f : Thread → Thread) : (s.updThread t f).ranges = s.ranges := rfl
@[simp] theorem State.updThread_poison (s : State) (t : Tid) (f : Thread → Thread) : (s.updThread t f).poison = s.poison := rfl
@[simp] theorem State.updThread_wells (s : State) (t : Tid) (f : Thread → Thread) : (s.updThread t f).wells = s.wells := rfl
@[simp] theorem State.updThread_nextWell (s : State) (t : Tid) (f : Thread → Thread) : (s.updThread t f).nextWell = s.nextWell := rfl
@[simp] theorem State.updThread_wellsOut (s : State) (t : Tid) (f : Thread → Thread) : (s.updThread t f).wellsOut = s.wellsOut := rfl
@[simp] theorem State.updThread_wellHw (s : State) (t : Tid) (f : Thread → Thread) : (s.updThread t f).wellHw = s.wellHw := rfl
@[simp] theorem State.updThread_colls (s : State) (t : Tid) (f : Thread → Thread) : (s.updThread t f).colls = s.colls := rfl
@[simp] theorem State.updThread_models (s : State) (t : Tid) (f : Thread → Thread) : (s.updThread t f).models = s.models := rfl
@[simp] theorem State.updThread_mems (s : State) (t : Tid) (f : Thread → Thread) : (s.updThread t f).mems = s.mems := rfl
@[simp] theorem State.updThread_grammars (s : State) (t : Tid) (f : Thread → Thread) : (s.updThread t f).grammars = s.grammars := rfl
@[simp] theorem State.updThread_progs (s : State) (t : Tid) (f : Thread → Thread) : (s.updThread t f).progs = s.progs := rfl
@[simp] theorem State.updThread_units (s : State) (t : Tid) (f : Thread → Thread) : (s.updThread t f).units = s.units := rfl
@[simp] theorem State.updThread_moves (s : State) (t : Tid) (f : Thread → Thread) : (s.updThread t f).moves = s.moves := rfl
@[simp] theorem State.updThread_nextMove (s : State) (t : Tid) (f : Thread → Thread) : (s.updThread t f).nextMove = s.nextMove := rfl
@[simp] theorem State.updThread_movedBytes (s : State) (t : Tid) (f : Thread → Thread) : (s.updThread t f).movedBytes = s.movedBytes := rfl
@[simp] theorem State.updThread_oldRanges (s : State) (t : Tid) (f : Thread → Thread) : (s.updThread t f).oldRanges = s.oldRanges := rfl
@[simp] theorem State.updThread_parts (s : State) (t : Tid) (f : Thread → Thread) : (s.updThread t f).parts = s.parts := rfl
@[simp] theorem State.updThread_flash (s : State) (t : Tid) (f : Thread → Thread) : (s.updThread t f).flash = s.flash := rfl
@[simp] theorem State.updThread_fab (s : State) (t : Tid) (f : Thread → Thread) : (s.updThread t f).fab = s.fab := rfl
@[simp] theorem State.updThread_gates (s : State) (t : Tid) (f : Thread → Thread) : (s.updThread t f).gates = s.gates := rfl
@[simp] theorem State.updThread_fuses (s : State) (t : Tid) (f : Thread → Thread) : (s.updThread t f).fuses = s.fuses := rfl
@[simp] theorem State.updThread_firmware (s : State) (t : Tid) (f : Thread → Thread) : (s.updThread t f).firmware = s.firmware := rfl
@[simp] theorem State.updThread_varelm (s : State) (t : Tid) (f : Thread → Thread) : (s.updThread t f).varelm = s.varelm := rfl
@[simp] theorem State.updThread_secure (s : State) (t : Tid) (f : Thread → Thread) : (s.updThread t f).secure = s.secure := rfl
@[simp] theorem State.updThread_power (s : State) (t : Tid) (f : Thread → Thread) : (s.updThread t f).power = s.power := rfl
@[simp] theorem State.updThread_salts (s : State) (t : Tid) (f : Thread → Thread) : (s.updThread t f).salts = s.salts := rfl
@[simp] theorem State.updThread_evtUnread (s : State) (t : Tid) (f : Thread → Thread) : (s.updThread t f).evtUnread = s.evtUnread := rfl
@[simp] theorem State.updThread_evtSeq (s : State) (t : Tid) (f : Thread → Thread) : (s.updThread t f).evtSeq = s.evtSeq := rfl
@[simp] theorem State.updThread_clock (s : State) (t : Tid) (f : Thread → Thread) : (s.updThread t f).clock = s.clock := rfl
@[simp] theorem State.updThread_free (s : State) (t : Tid) (f : Thread → Thread) : (s.updThread t f).free = s.free := rfl

@[simp] theorem State.updColl_pending (s : State) (h : Nat) (f : Coll → Coll) : (s.updColl h f).pending = s.pending := rfl
@[simp] theorem State.updColl_out (s : State) (h : Nat) (f : Coll → Coll) : (s.updColl h f).out = s.out := rfl
@[simp] theorem State.updColl_regs (s : State) (h : Nat) (f : Coll → Coll) : (s.updColl h f).regs = s.regs := rfl
@[simp] theorem State.updColl_hq (s : State) (h : Nat) (f : Coll → Coll) : (s.updColl h f).hq = s.hq := rfl
@[simp] theorem State.updColl_pslot (s : State) (h : Nat) (f : Coll → Coll) : (s.updColl h f).pslot = s.pslot := rfl
@[simp] theorem State.updColl_bar4 (s : State) (h : Nat) (f : Coll → Coll) : (s.updColl h f).bar4 = s.bar4 := rfl
@[simp] theorem State.updColl_wrst (s : State) (h : Nat) (f : Coll → Coll) : (s.updColl h f).wrst = s.wrst := rfl
@[simp] theorem State.updColl_sq (s : State) (h : Nat) (f : Coll → Coll) : (s.updColl h f).sq = s.sq := rfl
@[simp] theorem State.updColl_cq (s : State) (h : Nat) (f : Coll → Coll) : (s.updColl h f).cq = s.cq := rfl
@[simp] theorem State.updColl_cmds (s : State) (h : Nat) (f : Coll → Coll) : (s.updColl h f).cmds = s.cmds := rfl
@[simp] theorem State.updColl_nextCmd (s : State) (h : Nat) (f : Coll → Coll) : (s.updColl h f).nextCmd = s.nextCmd := rfl
@[simp] theorem State.updColl_nextSeq (s : State) (h : Nat) (f : Coll → Coll) : (s.updColl h f).nextSeq = s.nextSeq := rfl
@[simp] theorem State.updColl_sched (s : State) (h : Nat) (f : Coll → Coll) : (s.updColl h f).sched = s.sched := rfl
@[simp] theorem State.updColl_frags (s : State) (h : Nat) (f : Coll → Coll) : (s.updColl h f).frags = s.frags := rfl
@[simp] theorem State.updColl_nextFrag (s : State) (h : Nat) (f : Coll → Coll) : (s.updColl h f).nextFrag = s.nextFrag := rfl
@[simp] theorem State.updColl_nextGroup (s : State) (h : Nat) (f : Coll → Coll) : (s.updColl h f).nextGroup = s.nextGroup := rfl
@[simp] theorem State.updColl_clusters (s : State) (h : Nat) (f : Coll → Coll) : (s.updColl h f).clusters = s.clusters := rfl
@[simp] theorem State.updColl_phys (s : State) (h : Nat) (f : Coll → Coll) : (s.updColl h f).phys = s.phys := rfl
@[simp] theorem State.updColl_logical (s : State) (h : Nat) (f : Coll → Coll) : (s.updColl h f).logical = s.logical := rfl
@[simp] theorem State.updColl_dev (s : State) (h : Nat) (f : Coll → Coll) : (s.updColl h f).dev = s.dev := rfl
@[simp] theorem State.updColl_cis (s : State) (h : Nat) (f : Coll → Coll) : (s.updColl h f).cis = s.cis := rfl
@[simp] theorem State.updColl_allocs (s : State) (h : Nat) (f : Coll → Coll) : (s.updColl h f).allocs = s.allocs := rfl
@[simp] theorem State.updColl_ranges (s : State) (h : Nat) (f : Coll → Coll) : (s.updColl h f).ranges = s.ranges := rfl
@[simp] theorem State.updColl_poison (s : State) (h : Nat) (f : Coll → Coll) : (s.updColl h f).poison = s.poison := rfl
@[simp] theorem State.updColl_wells (s : State) (h : Nat) (f : Coll → Coll) : (s.updColl h f).wells = s.wells := rfl
@[simp] theorem State.updColl_nextWell (s : State) (h : Nat) (f : Coll → Coll) : (s.updColl h f).nextWell = s.nextWell := rfl
@[simp] theorem State.updColl_wellsOut (s : State) (h : Nat) (f : Coll → Coll) : (s.updColl h f).wellsOut = s.wellsOut := rfl
@[simp] theorem State.updColl_wellHw (s : State) (h : Nat) (f : Coll → Coll) : (s.updColl h f).wellHw = s.wellHw := rfl
@[simp] theorem State.updColl_models (s : State) (h : Nat) (f : Coll → Coll) : (s.updColl h f).models = s.models := rfl
@[simp] theorem State.updColl_mems (s : State) (h : Nat) (f : Coll → Coll) : (s.updColl h f).mems = s.mems := rfl
@[simp] theorem State.updColl_grammars (s : State) (h : Nat) (f : Coll → Coll) : (s.updColl h f).grammars = s.grammars := rfl
@[simp] theorem State.updColl_progs (s : State) (h : Nat) (f : Coll → Coll) : (s.updColl h f).progs = s.progs := rfl
@[simp] theorem State.updColl_units (s : State) (h : Nat) (f : Coll → Coll) : (s.updColl h f).units = s.units := rfl
@[simp] theorem State.updColl_moves (s : State) (h : Nat) (f : Coll → Coll) : (s.updColl h f).moves = s.moves := rfl
@[simp] theorem State.updColl_nextMove (s : State) (h : Nat) (f : Coll → Coll) : (s.updColl h f).nextMove = s.nextMove := rfl
@[simp] theorem State.updColl_movedBytes (s : State) (h : Nat) (f : Coll → Coll) : (s.updColl h f).movedBytes = s.movedBytes := rfl
@[simp] theorem State.updColl_oldRanges (s : State) (h : Nat) (f : Coll → Coll) : (s.updColl h f).oldRanges = s.oldRanges := rfl
@[simp] theorem State.updColl_parts (s : State) (h : Nat) (f : Coll → Coll) : (s.updColl h f).parts = s.parts := rfl
@[simp] theorem State.updColl_flash (s : State) (h : Nat) (f : Coll → Coll) : (s.updColl h f).flash = s.flash := rfl
@[simp] theorem State.updColl_fab (s : State) (h : Nat) (f : Coll → Coll) : (s.updColl h f).fab = s.fab := rfl
@[simp] theorem State.updColl_gates (s : State) (h : Nat) (f : Coll → Coll) : (s.updColl h f).gates = s.gates := rfl
@[simp] theorem State.updColl_fuses (s : State) (h : Nat) (f : Coll → Coll) : (s.updColl h f).fuses = s.fuses := rfl
@[simp] theorem State.updColl_firmware (s : State) (h : Nat) (f : Coll → Coll) : (s.updColl h f).firmware = s.firmware := rfl
@[simp] theorem State.updColl_varelm (s : State) (h : Nat) (f : Coll → Coll) : (s.updColl h f).varelm = s.varelm := rfl
@[simp] theorem State.updColl_secure (s : State) (h : Nat) (f : Coll → Coll) : (s.updColl h f).secure = s.secure := rfl
@[simp] theorem State.updColl_power (s : State) (h : Nat) (f : Coll → Coll) : (s.updColl h f).power = s.power := rfl
@[simp] theorem State.updColl_salts (s : State) (h : Nat) (f : Coll → Coll) : (s.updColl h f).salts = s.salts := rfl
@[simp] theorem State.updColl_evtUnread (s : State) (h : Nat) (f : Coll → Coll) : (s.updColl h f).evtUnread = s.evtUnread := rfl
@[simp] theorem State.updColl_evtSeq (s : State) (h : Nat) (f : Coll → Coll) : (s.updColl h f).evtSeq = s.evtSeq := rfl
@[simp] theorem State.updColl_clock (s : State) (h : Nat) (f : Coll → Coll) : (s.updColl h f).clock = s.clock := rfl
@[simp] theorem State.updColl_free (s : State) (h : Nat) (f : Coll → Coll) : (s.updColl h f).free = s.free := rfl

@[simp] theorem State.updMem_pending (s : State) (h : Nat) (f : AgentMem → AgentMem) : (s.updMem h f).pending = s.pending := rfl
@[simp] theorem State.updMem_out (s : State) (h : Nat) (f : AgentMem → AgentMem) : (s.updMem h f).out = s.out := rfl
@[simp] theorem State.updMem_regs (s : State) (h : Nat) (f : AgentMem → AgentMem) : (s.updMem h f).regs = s.regs := rfl
@[simp] theorem State.updMem_hq (s : State) (h : Nat) (f : AgentMem → AgentMem) : (s.updMem h f).hq = s.hq := rfl
@[simp] theorem State.updMem_pslot (s : State) (h : Nat) (f : AgentMem → AgentMem) : (s.updMem h f).pslot = s.pslot := rfl
@[simp] theorem State.updMem_bar4 (s : State) (h : Nat) (f : AgentMem → AgentMem) : (s.updMem h f).bar4 = s.bar4 := rfl
@[simp] theorem State.updMem_wrst (s : State) (h : Nat) (f : AgentMem → AgentMem) : (s.updMem h f).wrst = s.wrst := rfl
@[simp] theorem State.updMem_sq (s : State) (h : Nat) (f : AgentMem → AgentMem) : (s.updMem h f).sq = s.sq := rfl
@[simp] theorem State.updMem_cq (s : State) (h : Nat) (f : AgentMem → AgentMem) : (s.updMem h f).cq = s.cq := rfl
@[simp] theorem State.updMem_cmds (s : State) (h : Nat) (f : AgentMem → AgentMem) : (s.updMem h f).cmds = s.cmds := rfl
@[simp] theorem State.updMem_nextCmd (s : State) (h : Nat) (f : AgentMem → AgentMem) : (s.updMem h f).nextCmd = s.nextCmd := rfl
@[simp] theorem State.updMem_nextSeq (s : State) (h : Nat) (f : AgentMem → AgentMem) : (s.updMem h f).nextSeq = s.nextSeq := rfl
@[simp] theorem State.updMem_sched (s : State) (h : Nat) (f : AgentMem → AgentMem) : (s.updMem h f).sched = s.sched := rfl
@[simp] theorem State.updMem_frags (s : State) (h : Nat) (f : AgentMem → AgentMem) : (s.updMem h f).frags = s.frags := rfl
@[simp] theorem State.updMem_nextFrag (s : State) (h : Nat) (f : AgentMem → AgentMem) : (s.updMem h f).nextFrag = s.nextFrag := rfl
@[simp] theorem State.updMem_nextGroup (s : State) (h : Nat) (f : AgentMem → AgentMem) : (s.updMem h f).nextGroup = s.nextGroup := rfl
@[simp] theorem State.updMem_clusters (s : State) (h : Nat) (f : AgentMem → AgentMem) : (s.updMem h f).clusters = s.clusters := rfl
@[simp] theorem State.updMem_phys (s : State) (h : Nat) (f : AgentMem → AgentMem) : (s.updMem h f).phys = s.phys := rfl
@[simp] theorem State.updMem_logical (s : State) (h : Nat) (f : AgentMem → AgentMem) : (s.updMem h f).logical = s.logical := rfl
@[simp] theorem State.updMem_dev (s : State) (h : Nat) (f : AgentMem → AgentMem) : (s.updMem h f).dev = s.dev := rfl
@[simp] theorem State.updMem_cis (s : State) (h : Nat) (f : AgentMem → AgentMem) : (s.updMem h f).cis = s.cis := rfl
@[simp] theorem State.updMem_allocs (s : State) (h : Nat) (f : AgentMem → AgentMem) : (s.updMem h f).allocs = s.allocs := rfl
@[simp] theorem State.updMem_ranges (s : State) (h : Nat) (f : AgentMem → AgentMem) : (s.updMem h f).ranges = s.ranges := rfl
@[simp] theorem State.updMem_poison (s : State) (h : Nat) (f : AgentMem → AgentMem) : (s.updMem h f).poison = s.poison := rfl
@[simp] theorem State.updMem_wells (s : State) (h : Nat) (f : AgentMem → AgentMem) : (s.updMem h f).wells = s.wells := rfl
@[simp] theorem State.updMem_nextWell (s : State) (h : Nat) (f : AgentMem → AgentMem) : (s.updMem h f).nextWell = s.nextWell := rfl
@[simp] theorem State.updMem_wellsOut (s : State) (h : Nat) (f : AgentMem → AgentMem) : (s.updMem h f).wellsOut = s.wellsOut := rfl
@[simp] theorem State.updMem_wellHw (s : State) (h : Nat) (f : AgentMem → AgentMem) : (s.updMem h f).wellHw = s.wellHw := rfl
@[simp] theorem State.updMem_colls (s : State) (h : Nat) (f : AgentMem → AgentMem) : (s.updMem h f).colls = s.colls := rfl
@[simp] theorem State.updMem_models (s : State) (h : Nat) (f : AgentMem → AgentMem) : (s.updMem h f).models = s.models := rfl
@[simp] theorem State.updMem_grammars (s : State) (h : Nat) (f : AgentMem → AgentMem) : (s.updMem h f).grammars = s.grammars := rfl
@[simp] theorem State.updMem_progs (s : State) (h : Nat) (f : AgentMem → AgentMem) : (s.updMem h f).progs = s.progs := rfl
@[simp] theorem State.updMem_units (s : State) (h : Nat) (f : AgentMem → AgentMem) : (s.updMem h f).units = s.units := rfl
@[simp] theorem State.updMem_moves (s : State) (h : Nat) (f : AgentMem → AgentMem) : (s.updMem h f).moves = s.moves := rfl
@[simp] theorem State.updMem_nextMove (s : State) (h : Nat) (f : AgentMem → AgentMem) : (s.updMem h f).nextMove = s.nextMove := rfl
@[simp] theorem State.updMem_movedBytes (s : State) (h : Nat) (f : AgentMem → AgentMem) : (s.updMem h f).movedBytes = s.movedBytes := rfl
@[simp] theorem State.updMem_oldRanges (s : State) (h : Nat) (f : AgentMem → AgentMem) : (s.updMem h f).oldRanges = s.oldRanges := rfl
@[simp] theorem State.updMem_parts (s : State) (h : Nat) (f : AgentMem → AgentMem) : (s.updMem h f).parts = s.parts := rfl
@[simp] theorem State.updMem_flash (s : State) (h : Nat) (f : AgentMem → AgentMem) : (s.updMem h f).flash = s.flash := rfl
@[simp] theorem State.updMem_fab (s : State) (h : Nat) (f : AgentMem → AgentMem) : (s.updMem h f).fab = s.fab := rfl
@[simp] theorem State.updMem_gates (s : State) (h : Nat) (f : AgentMem → AgentMem) : (s.updMem h f).gates = s.gates := rfl
@[simp] theorem State.updMem_fuses (s : State) (h : Nat) (f : AgentMem → AgentMem) : (s.updMem h f).fuses = s.fuses := rfl
@[simp] theorem State.updMem_firmware (s : State) (h : Nat) (f : AgentMem → AgentMem) : (s.updMem h f).firmware = s.firmware := rfl
@[simp] theorem State.updMem_varelm (s : State) (h : Nat) (f : AgentMem → AgentMem) : (s.updMem h f).varelm = s.varelm := rfl
@[simp] theorem State.updMem_secure (s : State) (h : Nat) (f : AgentMem → AgentMem) : (s.updMem h f).secure = s.secure := rfl
@[simp] theorem State.updMem_power (s : State) (h : Nat) (f : AgentMem → AgentMem) : (s.updMem h f).power = s.power := rfl
@[simp] theorem State.updMem_salts (s : State) (h : Nat) (f : AgentMem → AgentMem) : (s.updMem h f).salts = s.salts := rfl
@[simp] theorem State.updMem_evtUnread (s : State) (h : Nat) (f : AgentMem → AgentMem) : (s.updMem h f).evtUnread = s.evtUnread := rfl
@[simp] theorem State.updMem_evtSeq (s : State) (h : Nat) (f : AgentMem → AgentMem) : (s.updMem h f).evtSeq = s.evtSeq := rfl
@[simp] theorem State.updMem_clock (s : State) (h : Nat) (f : AgentMem → AgentMem) : (s.updMem h f).clock = s.clock := rfl
@[simp] theorem State.updMem_free (s : State) (h : Nat) (f : AgentMem → AgentMem) : (s.updMem h f).free = s.free := rfl

@[simp] theorem State.tookHandle_pending (s : State) : (s.tookHandle).pending = s.pending := rfl
@[simp] theorem State.tookHandle_out (s : State) : (s.tookHandle).out = s.out := rfl
@[simp] theorem State.tookHandle_regs (s : State) : (s.tookHandle).regs = s.regs := rfl
@[simp] theorem State.tookHandle_hq (s : State) : (s.tookHandle).hq = s.hq := rfl
@[simp] theorem State.tookHandle_pslot (s : State) : (s.tookHandle).pslot = s.pslot := rfl
@[simp] theorem State.tookHandle_bar4 (s : State) : (s.tookHandle).bar4 = s.bar4 := rfl
@[simp] theorem State.tookHandle_wrst (s : State) : (s.tookHandle).wrst = s.wrst := rfl
@[simp] theorem State.tookHandle_sq (s : State) : (s.tookHandle).sq = s.sq := rfl
@[simp] theorem State.tookHandle_cq (s : State) : (s.tookHandle).cq = s.cq := rfl
@[simp] theorem State.tookHandle_cmds (s : State) : (s.tookHandle).cmds = s.cmds := rfl
@[simp] theorem State.tookHandle_nextCmd (s : State) : (s.tookHandle).nextCmd = s.nextCmd := rfl
@[simp] theorem State.tookHandle_nextSeq (s : State) : (s.tookHandle).nextSeq = s.nextSeq := rfl
@[simp] theorem State.tookHandle_sched (s : State) : (s.tookHandle).sched = s.sched := rfl
@[simp] theorem State.tookHandle_frags (s : State) : (s.tookHandle).frags = s.frags := rfl
@[simp] theorem State.tookHandle_nextFrag (s : State) : (s.tookHandle).nextFrag = s.nextFrag := rfl
@[simp] theorem State.tookHandle_nextGroup (s : State) : (s.tookHandle).nextGroup = s.nextGroup := rfl
@[simp] theorem State.tookHandle_clusters (s : State) : (s.tookHandle).clusters = s.clusters := rfl
@[simp] theorem State.tookHandle_phys (s : State) : (s.tookHandle).phys = s.phys := rfl
@[simp] theorem State.tookHandle_logical (s : State) : (s.tookHandle).logical = s.logical := rfl
@[simp] theorem State.tookHandle_dev (s : State) : (s.tookHandle).dev = s.dev := rfl
@[simp] theorem State.tookHandle_cis (s : State) : (s.tookHandle).cis = s.cis := rfl
@[simp] theorem State.tookHandle_allocs (s : State) : (s.tookHandle).allocs = s.allocs := rfl
@[simp] theorem State.tookHandle_ranges (s : State) : (s.tookHandle).ranges = s.ranges := rfl
@[simp] theorem State.tookHandle_poison (s : State) : (s.tookHandle).poison = s.poison := rfl
@[simp] theorem State.tookHandle_wells (s : State) : (s.tookHandle).wells = s.wells := rfl
@[simp] theorem State.tookHandle_nextWell (s : State) : (s.tookHandle).nextWell = s.nextWell := rfl
@[simp] theorem State.tookHandle_wellsOut (s : State) : (s.tookHandle).wellsOut = s.wellsOut := rfl
@[simp] theorem State.tookHandle_wellHw (s : State) : (s.tookHandle).wellHw = s.wellHw := rfl
@[simp] theorem State.tookHandle_colls (s : State) : (s.tookHandle).colls = s.colls := rfl
@[simp] theorem State.tookHandle_models (s : State) : (s.tookHandle).models = s.models := rfl
@[simp] theorem State.tookHandle_mems (s : State) : (s.tookHandle).mems = s.mems := rfl
@[simp] theorem State.tookHandle_grammars (s : State) : (s.tookHandle).grammars = s.grammars := rfl
@[simp] theorem State.tookHandle_progs (s : State) : (s.tookHandle).progs = s.progs := rfl
@[simp] theorem State.tookHandle_units (s : State) : (s.tookHandle).units = s.units := rfl
@[simp] theorem State.tookHandle_moves (s : State) : (s.tookHandle).moves = s.moves := rfl
@[simp] theorem State.tookHandle_nextMove (s : State) : (s.tookHandle).nextMove = s.nextMove := rfl
@[simp] theorem State.tookHandle_movedBytes (s : State) : (s.tookHandle).movedBytes = s.movedBytes := rfl
@[simp] theorem State.tookHandle_oldRanges (s : State) : (s.tookHandle).oldRanges = s.oldRanges := rfl
@[simp] theorem State.tookHandle_parts (s : State) : (s.tookHandle).parts = s.parts := rfl
@[simp] theorem State.tookHandle_flash (s : State) : (s.tookHandle).flash = s.flash := rfl
@[simp] theorem State.tookHandle_fab (s : State) : (s.tookHandle).fab = s.fab := rfl
@[simp] theorem State.tookHandle_gates (s : State) : (s.tookHandle).gates = s.gates := rfl
@[simp] theorem State.tookHandle_fuses (s : State) : (s.tookHandle).fuses = s.fuses := rfl
@[simp] theorem State.tookHandle_firmware (s : State) : (s.tookHandle).firmware = s.firmware := rfl
@[simp] theorem State.tookHandle_varelm (s : State) : (s.tookHandle).varelm = s.varelm := rfl
@[simp] theorem State.tookHandle_secure (s : State) : (s.tookHandle).secure = s.secure := rfl
@[simp] theorem State.tookHandle_power (s : State) : (s.tookHandle).power = s.power := rfl
@[simp] theorem State.tookHandle_salts (s : State) : (s.tookHandle).salts = s.salts := rfl
@[simp] theorem State.tookHandle_evtUnread (s : State) : (s.tookHandle).evtUnread = s.evtUnread := rfl
@[simp] theorem State.tookHandle_evtSeq (s : State) : (s.tookHandle).evtSeq = s.evtSeq := rfl
@[simp] theorem State.tookHandle_clock (s : State) : (s.tookHandle).clock = s.clock := rfl

@[simp] theorem State.devWr_pending (s : State) (t a : Nat) (bs : List Byte) : (s.devWr t a bs).pending = s.pending := rfl
@[simp] theorem State.devWr_out (s : State) (t a : Nat) (bs : List Byte) : (s.devWr t a bs).out = s.out := rfl
@[simp] theorem State.devWr_regs (s : State) (t a : Nat) (bs : List Byte) : (s.devWr t a bs).regs = s.regs := rfl
@[simp] theorem State.devWr_hq (s : State) (t a : Nat) (bs : List Byte) : (s.devWr t a bs).hq = s.hq := rfl
@[simp] theorem State.devWr_pslot (s : State) (t a : Nat) (bs : List Byte) : (s.devWr t a bs).pslot = s.pslot := rfl
@[simp] theorem State.devWr_bar4 (s : State) (t a : Nat) (bs : List Byte) : (s.devWr t a bs).bar4 = s.bar4 := rfl
@[simp] theorem State.devWr_wrst (s : State) (t a : Nat) (bs : List Byte) : (s.devWr t a bs).wrst = s.wrst := rfl
@[simp] theorem State.devWr_sq (s : State) (t a : Nat) (bs : List Byte) : (s.devWr t a bs).sq = s.sq := rfl
@[simp] theorem State.devWr_cq (s : State) (t a : Nat) (bs : List Byte) : (s.devWr t a bs).cq = s.cq := rfl
@[simp] theorem State.devWr_cmds (s : State) (t a : Nat) (bs : List Byte) : (s.devWr t a bs).cmds = s.cmds := rfl
@[simp] theorem State.devWr_nextCmd (s : State) (t a : Nat) (bs : List Byte) : (s.devWr t a bs).nextCmd = s.nextCmd := rfl
@[simp] theorem State.devWr_nextSeq (s : State) (t a : Nat) (bs : List Byte) : (s.devWr t a bs).nextSeq = s.nextSeq := rfl
@[simp] theorem State.devWr_sched (s : State) (t a : Nat) (bs : List Byte) : (s.devWr t a bs).sched = s.sched := rfl
@[simp] theorem State.devWr_frags (s : State) (t a : Nat) (bs : List Byte) : (s.devWr t a bs).frags = s.frags := rfl
@[simp] theorem State.devWr_nextFrag (s : State) (t a : Nat) (bs : List Byte) : (s.devWr t a bs).nextFrag = s.nextFrag := rfl
@[simp] theorem State.devWr_nextGroup (s : State) (t a : Nat) (bs : List Byte) : (s.devWr t a bs).nextGroup = s.nextGroup := rfl
@[simp] theorem State.devWr_clusters (s : State) (t a : Nat) (bs : List Byte) : (s.devWr t a bs).clusters = s.clusters := rfl
@[simp] theorem State.devWr_phys (s : State) (t a : Nat) (bs : List Byte) : (s.devWr t a bs).phys = s.phys := rfl
@[simp] theorem State.devWr_logical (s : State) (t a : Nat) (bs : List Byte) : (s.devWr t a bs).logical = s.logical := rfl
@[simp] theorem State.devWr_cis (s : State) (t a : Nat) (bs : List Byte) : (s.devWr t a bs).cis = s.cis := rfl
@[simp] theorem State.devWr_allocs (s : State) (t a : Nat) (bs : List Byte) : (s.devWr t a bs).allocs = s.allocs := rfl
@[simp] theorem State.devWr_ranges (s : State) (t a : Nat) (bs : List Byte) : (s.devWr t a bs).ranges = s.ranges := rfl
@[simp] theorem State.devWr_wells (s : State) (t a : Nat) (bs : List Byte) : (s.devWr t a bs).wells = s.wells := rfl
@[simp] theorem State.devWr_nextWell (s : State) (t a : Nat) (bs : List Byte) : (s.devWr t a bs).nextWell = s.nextWell := rfl
@[simp] theorem State.devWr_wellsOut (s : State) (t a : Nat) (bs : List Byte) : (s.devWr t a bs).wellsOut = s.wellsOut := rfl
@[simp] theorem State.devWr_wellHw (s : State) (t a : Nat) (bs : List Byte) : (s.devWr t a bs).wellHw = s.wellHw := rfl
@[simp] theorem State.devWr_colls (s : State) (t a : Nat) (bs : List Byte) : (s.devWr t a bs).colls = s.colls := rfl
@[simp] theorem State.devWr_models (s : State) (t a : Nat) (bs : List Byte) : (s.devWr t a bs).models = s.models := rfl
@[simp] theorem State.devWr_mems (s : State) (t a : Nat) (bs : List Byte) : (s.devWr t a bs).mems = s.mems := rfl
@[simp] theorem State.devWr_grammars (s : State) (t a : Nat) (bs : List Byte) : (s.devWr t a bs).grammars = s.grammars := rfl
@[simp] theorem State.devWr_progs (s : State) (t a : Nat) (bs : List Byte) : (s.devWr t a bs).progs = s.progs := rfl
@[simp] theorem State.devWr_units (s : State) (t a : Nat) (bs : List Byte) : (s.devWr t a bs).units = s.units := rfl
@[simp] theorem State.devWr_moves (s : State) (t a : Nat) (bs : List Byte) : (s.devWr t a bs).moves = s.moves := rfl
@[simp] theorem State.devWr_nextMove (s : State) (t a : Nat) (bs : List Byte) : (s.devWr t a bs).nextMove = s.nextMove := rfl
@[simp] theorem State.devWr_movedBytes (s : State) (t a : Nat) (bs : List Byte) : (s.devWr t a bs).movedBytes = s.movedBytes := rfl
@[simp] theorem State.devWr_oldRanges (s : State) (t a : Nat) (bs : List Byte) : (s.devWr t a bs).oldRanges = s.oldRanges := rfl
@[simp] theorem State.devWr_parts (s : State) (t a : Nat) (bs : List Byte) : (s.devWr t a bs).parts = s.parts := rfl
@[simp] theorem State.devWr_flash (s : State) (t a : Nat) (bs : List Byte) : (s.devWr t a bs).flash = s.flash := rfl
@[simp] theorem State.devWr_fab (s : State) (t a : Nat) (bs : List Byte) : (s.devWr t a bs).fab = s.fab := rfl
@[simp] theorem State.devWr_gates (s : State) (t a : Nat) (bs : List Byte) : (s.devWr t a bs).gates = s.gates := rfl
@[simp] theorem State.devWr_fuses (s : State) (t a : Nat) (bs : List Byte) : (s.devWr t a bs).fuses = s.fuses := rfl
@[simp] theorem State.devWr_firmware (s : State) (t a : Nat) (bs : List Byte) : (s.devWr t a bs).firmware = s.firmware := rfl
@[simp] theorem State.devWr_varelm (s : State) (t a : Nat) (bs : List Byte) : (s.devWr t a bs).varelm = s.varelm := rfl
@[simp] theorem State.devWr_secure (s : State) (t a : Nat) (bs : List Byte) : (s.devWr t a bs).secure = s.secure := rfl
@[simp] theorem State.devWr_power (s : State) (t a : Nat) (bs : List Byte) : (s.devWr t a bs).power = s.power := rfl
@[simp] theorem State.devWr_salts (s : State) (t a : Nat) (bs : List Byte) : (s.devWr t a bs).salts = s.salts := rfl
@[simp] theorem State.devWr_evtUnread (s : State) (t a : Nat) (bs : List Byte) : (s.devWr t a bs).evtUnread = s.evtUnread := rfl
@[simp] theorem State.devWr_evtSeq (s : State) (t a : Nat) (bs : List Byte) : (s.devWr t a bs).evtSeq = s.evtSeq := rfl
@[simp] theorem State.devWr_clock (s : State) (t a : Nat) (bs : List Byte) : (s.devWr t a bs).clock = s.clock := rfl
@[simp] theorem State.devWr_free (s : State) (t a : Nat) (bs : List Byte) : (s.devWr t a bs).free = s.free := rfl

@[simp] theorem State.updUnit_pending (s : State) (u : UnitId) (f : PUnit → PUnit) : (s.updUnit u f).pending = s.pending := rfl
@[simp] theorem State.updUnit_out (s : State) (u : UnitId) (f : PUnit → PUnit) : (s.updUnit u f).out = s.out := rfl
@[simp] theorem State.updUnit_regs (s : State) (u : UnitId) (f : PUnit → PUnit) : (s.updUnit u f).regs = s.regs := rfl
@[simp] theorem State.updUnit_hq (s : State) (u : UnitId) (f : PUnit → PUnit) : (s.updUnit u f).hq = s.hq := rfl
@[simp] theorem State.updUnit_pslot (s : State) (u : UnitId) (f : PUnit → PUnit) : (s.updUnit u f).pslot = s.pslot := rfl
@[simp] theorem State.updUnit_bar4 (s : State) (u : UnitId) (f : PUnit → PUnit) : (s.updUnit u f).bar4 = s.bar4 := rfl
@[simp] theorem State.updUnit_wrst (s : State) (u : UnitId) (f : PUnit → PUnit) : (s.updUnit u f).wrst = s.wrst := rfl
@[simp] theorem State.updUnit_sq (s : State) (u : UnitId) (f : PUnit → PUnit) : (s.updUnit u f).sq = s.sq := rfl
@[simp] theorem State.updUnit_cq (s : State) (u : UnitId) (f : PUnit → PUnit) : (s.updUnit u f).cq = s.cq := rfl
@[simp] theorem State.updUnit_cmds (s : State) (u : UnitId) (f : PUnit → PUnit) : (s.updUnit u f).cmds = s.cmds := rfl
@[simp] theorem State.updUnit_nextCmd (s : State) (u : UnitId) (f : PUnit → PUnit) : (s.updUnit u f).nextCmd = s.nextCmd := rfl
@[simp] theorem State.updUnit_nextSeq (s : State) (u : UnitId) (f : PUnit → PUnit) : (s.updUnit u f).nextSeq = s.nextSeq := rfl
@[simp] theorem State.updUnit_sched (s : State) (u : UnitId) (f : PUnit → PUnit) : (s.updUnit u f).sched = s.sched := rfl
@[simp] theorem State.updUnit_frags (s : State) (u : UnitId) (f : PUnit → PUnit) : (s.updUnit u f).frags = s.frags := rfl
@[simp] theorem State.updUnit_nextFrag (s : State) (u : UnitId) (f : PUnit → PUnit) : (s.updUnit u f).nextFrag = s.nextFrag := rfl
@[simp] theorem State.updUnit_nextGroup (s : State) (u : UnitId) (f : PUnit → PUnit) : (s.updUnit u f).nextGroup = s.nextGroup := rfl
@[simp] theorem State.updUnit_clusters (s : State) (u : UnitId) (f : PUnit → PUnit) : (s.updUnit u f).clusters = s.clusters := rfl
@[simp] theorem State.updUnit_phys (s : State) (u : UnitId) (f : PUnit → PUnit) : (s.updUnit u f).phys = s.phys := rfl
@[simp] theorem State.updUnit_logical (s : State) (u : UnitId) (f : PUnit → PUnit) : (s.updUnit u f).logical = s.logical := rfl
@[simp] theorem State.updUnit_dev (s : State) (u : UnitId) (f : PUnit → PUnit) : (s.updUnit u f).dev = s.dev := rfl
@[simp] theorem State.updUnit_cis (s : State) (u : UnitId) (f : PUnit → PUnit) : (s.updUnit u f).cis = s.cis := rfl
@[simp] theorem State.updUnit_allocs (s : State) (u : UnitId) (f : PUnit → PUnit) : (s.updUnit u f).allocs = s.allocs := rfl
@[simp] theorem State.updUnit_ranges (s : State) (u : UnitId) (f : PUnit → PUnit) : (s.updUnit u f).ranges = s.ranges := rfl
@[simp] theorem State.updUnit_poison (s : State) (u : UnitId) (f : PUnit → PUnit) : (s.updUnit u f).poison = s.poison := rfl
@[simp] theorem State.updUnit_wells (s : State) (u : UnitId) (f : PUnit → PUnit) : (s.updUnit u f).wells = s.wells := rfl
@[simp] theorem State.updUnit_nextWell (s : State) (u : UnitId) (f : PUnit → PUnit) : (s.updUnit u f).nextWell = s.nextWell := rfl
@[simp] theorem State.updUnit_wellsOut (s : State) (u : UnitId) (f : PUnit → PUnit) : (s.updUnit u f).wellsOut = s.wellsOut := rfl
@[simp] theorem State.updUnit_wellHw (s : State) (u : UnitId) (f : PUnit → PUnit) : (s.updUnit u f).wellHw = s.wellHw := rfl
@[simp] theorem State.updUnit_colls (s : State) (u : UnitId) (f : PUnit → PUnit) : (s.updUnit u f).colls = s.colls := rfl
@[simp] theorem State.updUnit_models (s : State) (u : UnitId) (f : PUnit → PUnit) : (s.updUnit u f).models = s.models := rfl
@[simp] theorem State.updUnit_mems (s : State) (u : UnitId) (f : PUnit → PUnit) : (s.updUnit u f).mems = s.mems := rfl
@[simp] theorem State.updUnit_grammars (s : State) (u : UnitId) (f : PUnit → PUnit) : (s.updUnit u f).grammars = s.grammars := rfl
@[simp] theorem State.updUnit_progs (s : State) (u : UnitId) (f : PUnit → PUnit) : (s.updUnit u f).progs = s.progs := rfl
@[simp] theorem State.updUnit_moves (s : State) (u : UnitId) (f : PUnit → PUnit) : (s.updUnit u f).moves = s.moves := rfl
@[simp] theorem State.updUnit_nextMove (s : State) (u : UnitId) (f : PUnit → PUnit) : (s.updUnit u f).nextMove = s.nextMove := rfl
@[simp] theorem State.updUnit_movedBytes (s : State) (u : UnitId) (f : PUnit → PUnit) : (s.updUnit u f).movedBytes = s.movedBytes := rfl
@[simp] theorem State.updUnit_oldRanges (s : State) (u : UnitId) (f : PUnit → PUnit) : (s.updUnit u f).oldRanges = s.oldRanges := rfl
@[simp] theorem State.updUnit_parts (s : State) (u : UnitId) (f : PUnit → PUnit) : (s.updUnit u f).parts = s.parts := rfl
@[simp] theorem State.updUnit_flash (s : State) (u : UnitId) (f : PUnit → PUnit) : (s.updUnit u f).flash = s.flash := rfl
@[simp] theorem State.updUnit_fab (s : State) (u : UnitId) (f : PUnit → PUnit) : (s.updUnit u f).fab = s.fab := rfl
@[simp] theorem State.updUnit_gates (s : State) (u : UnitId) (f : PUnit → PUnit) : (s.updUnit u f).gates = s.gates := rfl
@[simp] theorem State.updUnit_fuses (s : State) (u : UnitId) (f : PUnit → PUnit) : (s.updUnit u f).fuses = s.fuses := rfl
@[simp] theorem State.updUnit_firmware (s : State) (u : UnitId) (f : PUnit → PUnit) : (s.updUnit u f).firmware = s.firmware := rfl
@[simp] theorem State.updUnit_varelm (s : State) (u : UnitId) (f : PUnit → PUnit) : (s.updUnit u f).varelm = s.varelm := rfl
@[simp] theorem State.updUnit_secure (s : State) (u : UnitId) (f : PUnit → PUnit) : (s.updUnit u f).secure = s.secure := rfl
@[simp] theorem State.updUnit_power (s : State) (u : UnitId) (f : PUnit → PUnit) : (s.updUnit u f).power = s.power := rfl
@[simp] theorem State.updUnit_salts (s : State) (u : UnitId) (f : PUnit → PUnit) : (s.updUnit u f).salts = s.salts := rfl
@[simp] theorem State.updUnit_evtUnread (s : State) (u : UnitId) (f : PUnit → PUnit) : (s.updUnit u f).evtUnread = s.evtUnread := rfl
@[simp] theorem State.updUnit_evtSeq (s : State) (u : UnitId) (f : PUnit → PUnit) : (s.updUnit u f).evtSeq = s.evtSeq := rfl
@[simp] theorem State.updUnit_clock (s : State) (u : UnitId) (f : PUnit → PUnit) : (s.updUnit u f).clock = s.clock := rfl
@[simp] theorem State.updUnit_free (s : State) (u : UnitId) (f : PUnit → PUnit) : (s.updUnit u f).free = s.free := rfl

@[simp] theorem State.addUnit_pending (s : State) (u : UnitId) (t : Nat) (home : Home) (n : Nat) : (s.addUnit u t home n).pending = s.pending := rfl
@[simp] theorem State.addUnit_out (s : State) (u : UnitId) (t : Nat) (home : Home) (n : Nat) : (s.addUnit u t home n).out = s.out := rfl
@[simp] theorem State.addUnit_regs (s : State) (u : UnitId) (t : Nat) (home : Home) (n : Nat) : (s.addUnit u t home n).regs = s.regs := rfl
@[simp] theorem State.addUnit_hq (s : State) (u : UnitId) (t : Nat) (home : Home) (n : Nat) : (s.addUnit u t home n).hq = s.hq := rfl
@[simp] theorem State.addUnit_pslot (s : State) (u : UnitId) (t : Nat) (home : Home) (n : Nat) : (s.addUnit u t home n).pslot = s.pslot := rfl
@[simp] theorem State.addUnit_bar4 (s : State) (u : UnitId) (t : Nat) (home : Home) (n : Nat) : (s.addUnit u t home n).bar4 = s.bar4 := rfl
@[simp] theorem State.addUnit_wrst (s : State) (u : UnitId) (t : Nat) (home : Home) (n : Nat) : (s.addUnit u t home n).wrst = s.wrst := rfl
@[simp] theorem State.addUnit_sq (s : State) (u : UnitId) (t : Nat) (home : Home) (n : Nat) : (s.addUnit u t home n).sq = s.sq := rfl
@[simp] theorem State.addUnit_cq (s : State) (u : UnitId) (t : Nat) (home : Home) (n : Nat) : (s.addUnit u t home n).cq = s.cq := rfl
@[simp] theorem State.addUnit_cmds (s : State) (u : UnitId) (t : Nat) (home : Home) (n : Nat) : (s.addUnit u t home n).cmds = s.cmds := rfl
@[simp] theorem State.addUnit_nextCmd (s : State) (u : UnitId) (t : Nat) (home : Home) (n : Nat) : (s.addUnit u t home n).nextCmd = s.nextCmd := rfl
@[simp] theorem State.addUnit_nextSeq (s : State) (u : UnitId) (t : Nat) (home : Home) (n : Nat) : (s.addUnit u t home n).nextSeq = s.nextSeq := rfl
@[simp] theorem State.addUnit_sched (s : State) (u : UnitId) (t : Nat) (home : Home) (n : Nat) : (s.addUnit u t home n).sched = s.sched := rfl
@[simp] theorem State.addUnit_frags (s : State) (u : UnitId) (t : Nat) (home : Home) (n : Nat) : (s.addUnit u t home n).frags = s.frags := rfl
@[simp] theorem State.addUnit_nextFrag (s : State) (u : UnitId) (t : Nat) (home : Home) (n : Nat) : (s.addUnit u t home n).nextFrag = s.nextFrag := rfl
@[simp] theorem State.addUnit_nextGroup (s : State) (u : UnitId) (t : Nat) (home : Home) (n : Nat) : (s.addUnit u t home n).nextGroup = s.nextGroup := rfl
@[simp] theorem State.addUnit_clusters (s : State) (u : UnitId) (t : Nat) (home : Home) (n : Nat) : (s.addUnit u t home n).clusters = s.clusters := rfl
@[simp] theorem State.addUnit_phys (s : State) (u : UnitId) (t : Nat) (home : Home) (n : Nat) : (s.addUnit u t home n).phys = s.phys := rfl
@[simp] theorem State.addUnit_logical (s : State) (u : UnitId) (t : Nat) (home : Home) (n : Nat) : (s.addUnit u t home n).logical = s.logical := rfl
@[simp] theorem State.addUnit_dev (s : State) (u : UnitId) (t : Nat) (home : Home) (n : Nat) : (s.addUnit u t home n).dev = s.dev := rfl
@[simp] theorem State.addUnit_cis (s : State) (u : UnitId) (t : Nat) (home : Home) (n : Nat) : (s.addUnit u t home n).cis = s.cis := rfl
@[simp] theorem State.addUnit_allocs (s : State) (u : UnitId) (t : Nat) (home : Home) (n : Nat) : (s.addUnit u t home n).allocs = s.allocs := rfl
@[simp] theorem State.addUnit_ranges (s : State) (u : UnitId) (t : Nat) (home : Home) (n : Nat) : (s.addUnit u t home n).ranges = s.ranges := rfl
@[simp] theorem State.addUnit_poison (s : State) (u : UnitId) (t : Nat) (home : Home) (n : Nat) : (s.addUnit u t home n).poison = s.poison := rfl
@[simp] theorem State.addUnit_wells (s : State) (u : UnitId) (t : Nat) (home : Home) (n : Nat) : (s.addUnit u t home n).wells = s.wells := rfl
@[simp] theorem State.addUnit_nextWell (s : State) (u : UnitId) (t : Nat) (home : Home) (n : Nat) : (s.addUnit u t home n).nextWell = s.nextWell := rfl
@[simp] theorem State.addUnit_wellsOut (s : State) (u : UnitId) (t : Nat) (home : Home) (n : Nat) : (s.addUnit u t home n).wellsOut = s.wellsOut := rfl
@[simp] theorem State.addUnit_wellHw (s : State) (u : UnitId) (t : Nat) (home : Home) (n : Nat) : (s.addUnit u t home n).wellHw = s.wellHw := rfl
@[simp] theorem State.addUnit_colls (s : State) (u : UnitId) (t : Nat) (home : Home) (n : Nat) : (s.addUnit u t home n).colls = s.colls := rfl
@[simp] theorem State.addUnit_models (s : State) (u : UnitId) (t : Nat) (home : Home) (n : Nat) : (s.addUnit u t home n).models = s.models := rfl
@[simp] theorem State.addUnit_mems (s : State) (u : UnitId) (t : Nat) (home : Home) (n : Nat) : (s.addUnit u t home n).mems = s.mems := rfl
@[simp] theorem State.addUnit_grammars (s : State) (u : UnitId) (t : Nat) (home : Home) (n : Nat) : (s.addUnit u t home n).grammars = s.grammars := rfl
@[simp] theorem State.addUnit_progs (s : State) (u : UnitId) (t : Nat) (home : Home) (n : Nat) : (s.addUnit u t home n).progs = s.progs := rfl
@[simp] theorem State.addUnit_moves (s : State) (u : UnitId) (t : Nat) (home : Home) (n : Nat) : (s.addUnit u t home n).moves = s.moves := rfl
@[simp] theorem State.addUnit_nextMove (s : State) (u : UnitId) (t : Nat) (home : Home) (n : Nat) : (s.addUnit u t home n).nextMove = s.nextMove := rfl
@[simp] theorem State.addUnit_movedBytes (s : State) (u : UnitId) (t : Nat) (home : Home) (n : Nat) : (s.addUnit u t home n).movedBytes = s.movedBytes := rfl
@[simp] theorem State.addUnit_oldRanges (s : State) (u : UnitId) (t : Nat) (home : Home) (n : Nat) : (s.addUnit u t home n).oldRanges = s.oldRanges := rfl
@[simp] theorem State.addUnit_parts (s : State) (u : UnitId) (t : Nat) (home : Home) (n : Nat) : (s.addUnit u t home n).parts = s.parts := rfl
@[simp] theorem State.addUnit_flash (s : State) (u : UnitId) (t : Nat) (home : Home) (n : Nat) : (s.addUnit u t home n).flash = s.flash := rfl
@[simp] theorem State.addUnit_fab (s : State) (u : UnitId) (t : Nat) (home : Home) (n : Nat) : (s.addUnit u t home n).fab = s.fab := rfl
@[simp] theorem State.addUnit_gates (s : State) (u : UnitId) (t : Nat) (home : Home) (n : Nat) : (s.addUnit u t home n).gates = s.gates := rfl
@[simp] theorem State.addUnit_fuses (s : State) (u : UnitId) (t : Nat) (home : Home) (n : Nat) : (s.addUnit u t home n).fuses = s.fuses := rfl
@[simp] theorem State.addUnit_firmware (s : State) (u : UnitId) (t : Nat) (home : Home) (n : Nat) : (s.addUnit u t home n).firmware = s.firmware := rfl
@[simp] theorem State.addUnit_varelm (s : State) (u : UnitId) (t : Nat) (home : Home) (n : Nat) : (s.addUnit u t home n).varelm = s.varelm := rfl
@[simp] theorem State.addUnit_secure (s : State) (u : UnitId) (t : Nat) (home : Home) (n : Nat) : (s.addUnit u t home n).secure = s.secure := rfl
@[simp] theorem State.addUnit_power (s : State) (u : UnitId) (t : Nat) (home : Home) (n : Nat) : (s.addUnit u t home n).power = s.power := rfl
@[simp] theorem State.addUnit_salts (s : State) (u : UnitId) (t : Nat) (home : Home) (n : Nat) : (s.addUnit u t home n).salts = s.salts := rfl
@[simp] theorem State.addUnit_evtUnread (s : State) (u : UnitId) (t : Nat) (home : Home) (n : Nat) : (s.addUnit u t home n).evtUnread = s.evtUnread := rfl
@[simp] theorem State.addUnit_evtSeq (s : State) (u : UnitId) (t : Nat) (home : Home) (n : Nat) : (s.addUnit u t home n).evtSeq = s.evtSeq := rfl
@[simp] theorem State.addUnit_clock (s : State) (u : UnitId) (t : Nat) (home : Home) (n : Nat) : (s.addUnit u t home n).clock = s.clock := rfl
@[simp] theorem State.addUnit_free (s : State) (u : UnitId) (t : Nat) (home : Home) (n : Nat) : (s.addUnit u t home n).free = s.free := rfl

@[simp] theorem State.updPart_pending (s : State) (t pid : Nat) (f : Part → Part) : (s.updPart t pid f).pending = s.pending := rfl
@[simp] theorem State.updPart_out (s : State) (t pid : Nat) (f : Part → Part) : (s.updPart t pid f).out = s.out := rfl
@[simp] theorem State.updPart_regs (s : State) (t pid : Nat) (f : Part → Part) : (s.updPart t pid f).regs = s.regs := rfl
@[simp] theorem State.updPart_hq (s : State) (t pid : Nat) (f : Part → Part) : (s.updPart t pid f).hq = s.hq := rfl
@[simp] theorem State.updPart_pslot (s : State) (t pid : Nat) (f : Part → Part) : (s.updPart t pid f).pslot = s.pslot := rfl
@[simp] theorem State.updPart_bar4 (s : State) (t pid : Nat) (f : Part → Part) : (s.updPart t pid f).bar4 = s.bar4 := rfl
@[simp] theorem State.updPart_wrst (s : State) (t pid : Nat) (f : Part → Part) : (s.updPart t pid f).wrst = s.wrst := rfl
@[simp] theorem State.updPart_sq (s : State) (t pid : Nat) (f : Part → Part) : (s.updPart t pid f).sq = s.sq := rfl
@[simp] theorem State.updPart_cq (s : State) (t pid : Nat) (f : Part → Part) : (s.updPart t pid f).cq = s.cq := rfl
@[simp] theorem State.updPart_cmds (s : State) (t pid : Nat) (f : Part → Part) : (s.updPart t pid f).cmds = s.cmds := rfl
@[simp] theorem State.updPart_nextCmd (s : State) (t pid : Nat) (f : Part → Part) : (s.updPart t pid f).nextCmd = s.nextCmd := rfl
@[simp] theorem State.updPart_nextSeq (s : State) (t pid : Nat) (f : Part → Part) : (s.updPart t pid f).nextSeq = s.nextSeq := rfl
@[simp] theorem State.updPart_sched (s : State) (t pid : Nat) (f : Part → Part) : (s.updPart t pid f).sched = s.sched := rfl
@[simp] theorem State.updPart_frags (s : State) (t pid : Nat) (f : Part → Part) : (s.updPart t pid f).frags = s.frags := rfl
@[simp] theorem State.updPart_nextFrag (s : State) (t pid : Nat) (f : Part → Part) : (s.updPart t pid f).nextFrag = s.nextFrag := rfl
@[simp] theorem State.updPart_nextGroup (s : State) (t pid : Nat) (f : Part → Part) : (s.updPart t pid f).nextGroup = s.nextGroup := rfl
@[simp] theorem State.updPart_clusters (s : State) (t pid : Nat) (f : Part → Part) : (s.updPart t pid f).clusters = s.clusters := rfl
@[simp] theorem State.updPart_phys (s : State) (t pid : Nat) (f : Part → Part) : (s.updPart t pid f).phys = s.phys := rfl
@[simp] theorem State.updPart_logical (s : State) (t pid : Nat) (f : Part → Part) : (s.updPart t pid f).logical = s.logical := rfl
@[simp] theorem State.updPart_dev (s : State) (t pid : Nat) (f : Part → Part) : (s.updPart t pid f).dev = s.dev := rfl
@[simp] theorem State.updPart_cis (s : State) (t pid : Nat) (f : Part → Part) : (s.updPart t pid f).cis = s.cis := rfl
@[simp] theorem State.updPart_allocs (s : State) (t pid : Nat) (f : Part → Part) : (s.updPart t pid f).allocs = s.allocs := rfl
@[simp] theorem State.updPart_ranges (s : State) (t pid : Nat) (f : Part → Part) : (s.updPart t pid f).ranges = s.ranges := rfl
@[simp] theorem State.updPart_poison (s : State) (t pid : Nat) (f : Part → Part) : (s.updPart t pid f).poison = s.poison := rfl
@[simp] theorem State.updPart_wells (s : State) (t pid : Nat) (f : Part → Part) : (s.updPart t pid f).wells = s.wells := rfl
@[simp] theorem State.updPart_nextWell (s : State) (t pid : Nat) (f : Part → Part) : (s.updPart t pid f).nextWell = s.nextWell := rfl
@[simp] theorem State.updPart_wellsOut (s : State) (t pid : Nat) (f : Part → Part) : (s.updPart t pid f).wellsOut = s.wellsOut := rfl
@[simp] theorem State.updPart_wellHw (s : State) (t pid : Nat) (f : Part → Part) : (s.updPart t pid f).wellHw = s.wellHw := rfl
@[simp] theorem State.updPart_colls (s : State) (t pid : Nat) (f : Part → Part) : (s.updPart t pid f).colls = s.colls := rfl
@[simp] theorem State.updPart_models (s : State) (t pid : Nat) (f : Part → Part) : (s.updPart t pid f).models = s.models := rfl
@[simp] theorem State.updPart_mems (s : State) (t pid : Nat) (f : Part → Part) : (s.updPart t pid f).mems = s.mems := rfl
@[simp] theorem State.updPart_grammars (s : State) (t pid : Nat) (f : Part → Part) : (s.updPart t pid f).grammars = s.grammars := rfl
@[simp] theorem State.updPart_progs (s : State) (t pid : Nat) (f : Part → Part) : (s.updPart t pid f).progs = s.progs := rfl
@[simp] theorem State.updPart_units (s : State) (t pid : Nat) (f : Part → Part) : (s.updPart t pid f).units = s.units := rfl
@[simp] theorem State.updPart_moves (s : State) (t pid : Nat) (f : Part → Part) : (s.updPart t pid f).moves = s.moves := rfl
@[simp] theorem State.updPart_nextMove (s : State) (t pid : Nat) (f : Part → Part) : (s.updPart t pid f).nextMove = s.nextMove := rfl
@[simp] theorem State.updPart_movedBytes (s : State) (t pid : Nat) (f : Part → Part) : (s.updPart t pid f).movedBytes = s.movedBytes := rfl
@[simp] theorem State.updPart_oldRanges (s : State) (t pid : Nat) (f : Part → Part) : (s.updPart t pid f).oldRanges = s.oldRanges := rfl
@[simp] theorem State.updPart_flash (s : State) (t pid : Nat) (f : Part → Part) : (s.updPart t pid f).flash = s.flash := rfl
@[simp] theorem State.updPart_fab (s : State) (t pid : Nat) (f : Part → Part) : (s.updPart t pid f).fab = s.fab := rfl
@[simp] theorem State.updPart_gates (s : State) (t pid : Nat) (f : Part → Part) : (s.updPart t pid f).gates = s.gates := rfl
@[simp] theorem State.updPart_fuses (s : State) (t pid : Nat) (f : Part → Part) : (s.updPart t pid f).fuses = s.fuses := rfl
@[simp] theorem State.updPart_firmware (s : State) (t pid : Nat) (f : Part → Part) : (s.updPart t pid f).firmware = s.firmware := rfl
@[simp] theorem State.updPart_varelm (s : State) (t pid : Nat) (f : Part → Part) : (s.updPart t pid f).varelm = s.varelm := rfl
@[simp] theorem State.updPart_secure (s : State) (t pid : Nat) (f : Part → Part) : (s.updPart t pid f).secure = s.secure := rfl
@[simp] theorem State.updPart_power (s : State) (t pid : Nat) (f : Part → Part) : (s.updPart t pid f).power = s.power := rfl
@[simp] theorem State.updPart_salts (s : State) (t pid : Nat) (f : Part → Part) : (s.updPart t pid f).salts = s.salts := rfl
@[simp] theorem State.updPart_evtUnread (s : State) (t pid : Nat) (f : Part → Part) : (s.updPart t pid f).evtUnread = s.evtUnread := rfl
@[simp] theorem State.updPart_evtSeq (s : State) (t pid : Nat) (f : Part → Part) : (s.updPart t pid f).evtSeq = s.evtSeq := rfl
@[simp] theorem State.updPart_clock (s : State) (t pid : Nat) (f : Part → Part) : (s.updPart t pid f).clock = s.clock := rfl
@[simp] theorem State.updPart_free (s : State) (t pid : Nat) (f : Part → Part) : (s.updPart t pid f).free = s.free := rfl

@[simp] theorem State.updBlock_pending (s : State) (b : Nat) (f : Block → Block) : (s.updBlock b f).pending = s.pending := rfl
@[simp] theorem State.updBlock_out (s : State) (b : Nat) (f : Block → Block) : (s.updBlock b f).out = s.out := rfl
@[simp] theorem State.updBlock_regs (s : State) (b : Nat) (f : Block → Block) : (s.updBlock b f).regs = s.regs := rfl
@[simp] theorem State.updBlock_hq (s : State) (b : Nat) (f : Block → Block) : (s.updBlock b f).hq = s.hq := rfl
@[simp] theorem State.updBlock_pslot (s : State) (b : Nat) (f : Block → Block) : (s.updBlock b f).pslot = s.pslot := rfl
@[simp] theorem State.updBlock_bar4 (s : State) (b : Nat) (f : Block → Block) : (s.updBlock b f).bar4 = s.bar4 := rfl
@[simp] theorem State.updBlock_wrst (s : State) (b : Nat) (f : Block → Block) : (s.updBlock b f).wrst = s.wrst := rfl
@[simp] theorem State.updBlock_sq (s : State) (b : Nat) (f : Block → Block) : (s.updBlock b f).sq = s.sq := rfl
@[simp] theorem State.updBlock_cq (s : State) (b : Nat) (f : Block → Block) : (s.updBlock b f).cq = s.cq := rfl
@[simp] theorem State.updBlock_cmds (s : State) (b : Nat) (f : Block → Block) : (s.updBlock b f).cmds = s.cmds := rfl
@[simp] theorem State.updBlock_nextCmd (s : State) (b : Nat) (f : Block → Block) : (s.updBlock b f).nextCmd = s.nextCmd := rfl
@[simp] theorem State.updBlock_nextSeq (s : State) (b : Nat) (f : Block → Block) : (s.updBlock b f).nextSeq = s.nextSeq := rfl
@[simp] theorem State.updBlock_sched (s : State) (b : Nat) (f : Block → Block) : (s.updBlock b f).sched = s.sched := rfl
@[simp] theorem State.updBlock_frags (s : State) (b : Nat) (f : Block → Block) : (s.updBlock b f).frags = s.frags := rfl
@[simp] theorem State.updBlock_nextFrag (s : State) (b : Nat) (f : Block → Block) : (s.updBlock b f).nextFrag = s.nextFrag := rfl
@[simp] theorem State.updBlock_nextGroup (s : State) (b : Nat) (f : Block → Block) : (s.updBlock b f).nextGroup = s.nextGroup := rfl
@[simp] theorem State.updBlock_clusters (s : State) (b : Nat) (f : Block → Block) : (s.updBlock b f).clusters = s.clusters := rfl
@[simp] theorem State.updBlock_phys (s : State) (b : Nat) (f : Block → Block) : (s.updBlock b f).phys = s.phys := rfl
@[simp] theorem State.updBlock_logical (s : State) (b : Nat) (f : Block → Block) : (s.updBlock b f).logical = s.logical := rfl
@[simp] theorem State.updBlock_dev (s : State) (b : Nat) (f : Block → Block) : (s.updBlock b f).dev = s.dev := rfl
@[simp] theorem State.updBlock_cis (s : State) (b : Nat) (f : Block → Block) : (s.updBlock b f).cis = s.cis := rfl
@[simp] theorem State.updBlock_allocs (s : State) (b : Nat) (f : Block → Block) : (s.updBlock b f).allocs = s.allocs := rfl
@[simp] theorem State.updBlock_ranges (s : State) (b : Nat) (f : Block → Block) : (s.updBlock b f).ranges = s.ranges := rfl
@[simp] theorem State.updBlock_poison (s : State) (b : Nat) (f : Block → Block) : (s.updBlock b f).poison = s.poison := rfl
@[simp] theorem State.updBlock_wells (s : State) (b : Nat) (f : Block → Block) : (s.updBlock b f).wells = s.wells := rfl
@[simp] theorem State.updBlock_nextWell (s : State) (b : Nat) (f : Block → Block) : (s.updBlock b f).nextWell = s.nextWell := rfl
@[simp] theorem State.updBlock_wellsOut (s : State) (b : Nat) (f : Block → Block) : (s.updBlock b f).wellsOut = s.wellsOut := rfl
@[simp] theorem State.updBlock_wellHw (s : State) (b : Nat) (f : Block → Block) : (s.updBlock b f).wellHw = s.wellHw := rfl
@[simp] theorem State.updBlock_colls (s : State) (b : Nat) (f : Block → Block) : (s.updBlock b f).colls = s.colls := rfl
@[simp] theorem State.updBlock_models (s : State) (b : Nat) (f : Block → Block) : (s.updBlock b f).models = s.models := rfl
@[simp] theorem State.updBlock_mems (s : State) (b : Nat) (f : Block → Block) : (s.updBlock b f).mems = s.mems := rfl
@[simp] theorem State.updBlock_grammars (s : State) (b : Nat) (f : Block → Block) : (s.updBlock b f).grammars = s.grammars := rfl
@[simp] theorem State.updBlock_progs (s : State) (b : Nat) (f : Block → Block) : (s.updBlock b f).progs = s.progs := rfl
@[simp] theorem State.updBlock_units (s : State) (b : Nat) (f : Block → Block) : (s.updBlock b f).units = s.units := rfl
@[simp] theorem State.updBlock_moves (s : State) (b : Nat) (f : Block → Block) : (s.updBlock b f).moves = s.moves := rfl
@[simp] theorem State.updBlock_nextMove (s : State) (b : Nat) (f : Block → Block) : (s.updBlock b f).nextMove = s.nextMove := rfl
@[simp] theorem State.updBlock_movedBytes (s : State) (b : Nat) (f : Block → Block) : (s.updBlock b f).movedBytes = s.movedBytes := rfl
@[simp] theorem State.updBlock_oldRanges (s : State) (b : Nat) (f : Block → Block) : (s.updBlock b f).oldRanges = s.oldRanges := rfl
@[simp] theorem State.updBlock_parts (s : State) (b : Nat) (f : Block → Block) : (s.updBlock b f).parts = s.parts := rfl
@[simp] theorem State.updBlock_fab (s : State) (b : Nat) (f : Block → Block) : (s.updBlock b f).fab = s.fab := rfl
@[simp] theorem State.updBlock_gates (s : State) (b : Nat) (f : Block → Block) : (s.updBlock b f).gates = s.gates := rfl
@[simp] theorem State.updBlock_fuses (s : State) (b : Nat) (f : Block → Block) : (s.updBlock b f).fuses = s.fuses := rfl
@[simp] theorem State.updBlock_firmware (s : State) (b : Nat) (f : Block → Block) : (s.updBlock b f).firmware = s.firmware := rfl
@[simp] theorem State.updBlock_varelm (s : State) (b : Nat) (f : Block → Block) : (s.updBlock b f).varelm = s.varelm := rfl
@[simp] theorem State.updBlock_secure (s : State) (b : Nat) (f : Block → Block) : (s.updBlock b f).secure = s.secure := rfl
@[simp] theorem State.updBlock_power (s : State) (b : Nat) (f : Block → Block) : (s.updBlock b f).power = s.power := rfl
@[simp] theorem State.updBlock_salts (s : State) (b : Nat) (f : Block → Block) : (s.updBlock b f).salts = s.salts := rfl
@[simp] theorem State.updBlock_evtUnread (s : State) (b : Nat) (f : Block → Block) : (s.updBlock b f).evtUnread = s.evtUnread := rfl
@[simp] theorem State.updBlock_evtSeq (s : State) (b : Nat) (f : Block → Block) : (s.updBlock b f).evtSeq = s.evtSeq := rfl
@[simp] theorem State.updBlock_clock (s : State) (b : Nat) (f : Block → Block) : (s.updBlock b f).clock = s.clock := rfl
@[simp] theorem State.updBlock_free (s : State) (b : Nat) (f : Block → Block) : (s.updBlock b f).free = s.free := rfl

@[simp] theorem State.updCluster_pending (s : State) (l : Nat) (f : Cluster → Cluster) : (s.updCluster l f).pending = s.pending := rfl
@[simp] theorem State.updCluster_out (s : State) (l : Nat) (f : Cluster → Cluster) : (s.updCluster l f).out = s.out := rfl
@[simp] theorem State.updCluster_regs (s : State) (l : Nat) (f : Cluster → Cluster) : (s.updCluster l f).regs = s.regs := rfl
@[simp] theorem State.updCluster_hq (s : State) (l : Nat) (f : Cluster → Cluster) : (s.updCluster l f).hq = s.hq := rfl
@[simp] theorem State.updCluster_pslot (s : State) (l : Nat) (f : Cluster → Cluster) : (s.updCluster l f).pslot = s.pslot := rfl
@[simp] theorem State.updCluster_bar4 (s : State) (l : Nat) (f : Cluster → Cluster) : (s.updCluster l f).bar4 = s.bar4 := rfl
@[simp] theorem State.updCluster_wrst (s : State) (l : Nat) (f : Cluster → Cluster) : (s.updCluster l f).wrst = s.wrst := rfl
@[simp] theorem State.updCluster_sq (s : State) (l : Nat) (f : Cluster → Cluster) : (s.updCluster l f).sq = s.sq := rfl
@[simp] theorem State.updCluster_cq (s : State) (l : Nat) (f : Cluster → Cluster) : (s.updCluster l f).cq = s.cq := rfl
@[simp] theorem State.updCluster_cmds (s : State) (l : Nat) (f : Cluster → Cluster) : (s.updCluster l f).cmds = s.cmds := rfl
@[simp] theorem State.updCluster_nextCmd (s : State) (l : Nat) (f : Cluster → Cluster) : (s.updCluster l f).nextCmd = s.nextCmd := rfl
@[simp] theorem State.updCluster_nextSeq (s : State) (l : Nat) (f : Cluster → Cluster) : (s.updCluster l f).nextSeq = s.nextSeq := rfl
@[simp] theorem State.updCluster_sched (s : State) (l : Nat) (f : Cluster → Cluster) : (s.updCluster l f).sched = s.sched := rfl
@[simp] theorem State.updCluster_frags (s : State) (l : Nat) (f : Cluster → Cluster) : (s.updCluster l f).frags = s.frags := rfl
@[simp] theorem State.updCluster_nextFrag (s : State) (l : Nat) (f : Cluster → Cluster) : (s.updCluster l f).nextFrag = s.nextFrag := rfl
@[simp] theorem State.updCluster_nextGroup (s : State) (l : Nat) (f : Cluster → Cluster) : (s.updCluster l f).nextGroup = s.nextGroup := rfl
@[simp] theorem State.updCluster_phys (s : State) (l : Nat) (f : Cluster → Cluster) : (s.updCluster l f).phys = s.phys := rfl
@[simp] theorem State.updCluster_logical (s : State) (l : Nat) (f : Cluster → Cluster) : (s.updCluster l f).logical = s.logical := rfl
@[simp] theorem State.updCluster_dev (s : State) (l : Nat) (f : Cluster → Cluster) : (s.updCluster l f).dev = s.dev := rfl
@[simp] theorem State.updCluster_cis (s : State) (l : Nat) (f : Cluster → Cluster) : (s.updCluster l f).cis = s.cis := rfl
@[simp] theorem State.updCluster_allocs (s : State) (l : Nat) (f : Cluster → Cluster) : (s.updCluster l f).allocs = s.allocs := rfl
@[simp] theorem State.updCluster_ranges (s : State) (l : Nat) (f : Cluster → Cluster) : (s.updCluster l f).ranges = s.ranges := rfl
@[simp] theorem State.updCluster_poison (s : State) (l : Nat) (f : Cluster → Cluster) : (s.updCluster l f).poison = s.poison := rfl
@[simp] theorem State.updCluster_wells (s : State) (l : Nat) (f : Cluster → Cluster) : (s.updCluster l f).wells = s.wells := rfl
@[simp] theorem State.updCluster_nextWell (s : State) (l : Nat) (f : Cluster → Cluster) : (s.updCluster l f).nextWell = s.nextWell := rfl
@[simp] theorem State.updCluster_wellsOut (s : State) (l : Nat) (f : Cluster → Cluster) : (s.updCluster l f).wellsOut = s.wellsOut := rfl
@[simp] theorem State.updCluster_wellHw (s : State) (l : Nat) (f : Cluster → Cluster) : (s.updCluster l f).wellHw = s.wellHw := rfl
@[simp] theorem State.updCluster_colls (s : State) (l : Nat) (f : Cluster → Cluster) : (s.updCluster l f).colls = s.colls := rfl
@[simp] theorem State.updCluster_models (s : State) (l : Nat) (f : Cluster → Cluster) : (s.updCluster l f).models = s.models := rfl
@[simp] theorem State.updCluster_mems (s : State) (l : Nat) (f : Cluster → Cluster) : (s.updCluster l f).mems = s.mems := rfl
@[simp] theorem State.updCluster_grammars (s : State) (l : Nat) (f : Cluster → Cluster) : (s.updCluster l f).grammars = s.grammars := rfl
@[simp] theorem State.updCluster_progs (s : State) (l : Nat) (f : Cluster → Cluster) : (s.updCluster l f).progs = s.progs := rfl
@[simp] theorem State.updCluster_units (s : State) (l : Nat) (f : Cluster → Cluster) : (s.updCluster l f).units = s.units := rfl
@[simp] theorem State.updCluster_moves (s : State) (l : Nat) (f : Cluster → Cluster) : (s.updCluster l f).moves = s.moves := rfl
@[simp] theorem State.updCluster_nextMove (s : State) (l : Nat) (f : Cluster → Cluster) : (s.updCluster l f).nextMove = s.nextMove := rfl
@[simp] theorem State.updCluster_movedBytes (s : State) (l : Nat) (f : Cluster → Cluster) : (s.updCluster l f).movedBytes = s.movedBytes := rfl
@[simp] theorem State.updCluster_oldRanges (s : State) (l : Nat) (f : Cluster → Cluster) : (s.updCluster l f).oldRanges = s.oldRanges := rfl
@[simp] theorem State.updCluster_parts (s : State) (l : Nat) (f : Cluster → Cluster) : (s.updCluster l f).parts = s.parts := rfl
@[simp] theorem State.updCluster_flash (s : State) (l : Nat) (f : Cluster → Cluster) : (s.updCluster l f).flash = s.flash := rfl
@[simp] theorem State.updCluster_fab (s : State) (l : Nat) (f : Cluster → Cluster) : (s.updCluster l f).fab = s.fab := rfl
@[simp] theorem State.updCluster_gates (s : State) (l : Nat) (f : Cluster → Cluster) : (s.updCluster l f).gates = s.gates := rfl
@[simp] theorem State.updCluster_fuses (s : State) (l : Nat) (f : Cluster → Cluster) : (s.updCluster l f).fuses = s.fuses := rfl
@[simp] theorem State.updCluster_firmware (s : State) (l : Nat) (f : Cluster → Cluster) : (s.updCluster l f).firmware = s.firmware := rfl
@[simp] theorem State.updCluster_varelm (s : State) (l : Nat) (f : Cluster → Cluster) : (s.updCluster l f).varelm = s.varelm := rfl
@[simp] theorem State.updCluster_secure (s : State) (l : Nat) (f : Cluster → Cluster) : (s.updCluster l f).secure = s.secure := rfl
@[simp] theorem State.updCluster_power (s : State) (l : Nat) (f : Cluster → Cluster) : (s.updCluster l f).power = s.power := rfl
@[simp] theorem State.updCluster_salts (s : State) (l : Nat) (f : Cluster → Cluster) : (s.updCluster l f).salts = s.salts := rfl
@[simp] theorem State.updCluster_evtUnread (s : State) (l : Nat) (f : Cluster → Cluster) : (s.updCluster l f).evtUnread = s.evtUnread := rfl
@[simp] theorem State.updCluster_evtSeq (s : State) (l : Nat) (f : Cluster → Cluster) : (s.updCluster l f).evtSeq = s.evtSeq := rfl
@[simp] theorem State.updCluster_clock (s : State) (l : Nat) (f : Cluster → Cluster) : (s.updCluster l f).clock = s.clock := rfl
@[simp] theorem State.updCluster_free (s : State) (l : Nat) (f : Cluster → Cluster) : (s.updCluster l f).free = s.free := rfl

@[simp] theorem State.setPhys_pending (s : State) (p : Nat) (k : PhysCluster) : (s.setPhys p k).pending = s.pending := rfl
@[simp] theorem State.setPhys_out (s : State) (p : Nat) (k : PhysCluster) : (s.setPhys p k).out = s.out := rfl
@[simp] theorem State.setPhys_regs (s : State) (p : Nat) (k : PhysCluster) : (s.setPhys p k).regs = s.regs := rfl
@[simp] theorem State.setPhys_hq (s : State) (p : Nat) (k : PhysCluster) : (s.setPhys p k).hq = s.hq := rfl
@[simp] theorem State.setPhys_pslot (s : State) (p : Nat) (k : PhysCluster) : (s.setPhys p k).pslot = s.pslot := rfl
@[simp] theorem State.setPhys_bar4 (s : State) (p : Nat) (k : PhysCluster) : (s.setPhys p k).bar4 = s.bar4 := rfl
@[simp] theorem State.setPhys_wrst (s : State) (p : Nat) (k : PhysCluster) : (s.setPhys p k).wrst = s.wrst := rfl
@[simp] theorem State.setPhys_sq (s : State) (p : Nat) (k : PhysCluster) : (s.setPhys p k).sq = s.sq := rfl
@[simp] theorem State.setPhys_cq (s : State) (p : Nat) (k : PhysCluster) : (s.setPhys p k).cq = s.cq := rfl
@[simp] theorem State.setPhys_cmds (s : State) (p : Nat) (k : PhysCluster) : (s.setPhys p k).cmds = s.cmds := rfl
@[simp] theorem State.setPhys_nextCmd (s : State) (p : Nat) (k : PhysCluster) : (s.setPhys p k).nextCmd = s.nextCmd := rfl
@[simp] theorem State.setPhys_nextSeq (s : State) (p : Nat) (k : PhysCluster) : (s.setPhys p k).nextSeq = s.nextSeq := rfl
@[simp] theorem State.setPhys_sched (s : State) (p : Nat) (k : PhysCluster) : (s.setPhys p k).sched = s.sched := rfl
@[simp] theorem State.setPhys_frags (s : State) (p : Nat) (k : PhysCluster) : (s.setPhys p k).frags = s.frags := rfl
@[simp] theorem State.setPhys_nextFrag (s : State) (p : Nat) (k : PhysCluster) : (s.setPhys p k).nextFrag = s.nextFrag := rfl
@[simp] theorem State.setPhys_nextGroup (s : State) (p : Nat) (k : PhysCluster) : (s.setPhys p k).nextGroup = s.nextGroup := rfl
@[simp] theorem State.setPhys_clusters (s : State) (p : Nat) (k : PhysCluster) : (s.setPhys p k).clusters = s.clusters := rfl
@[simp] theorem State.setPhys_logical (s : State) (p : Nat) (k : PhysCluster) : (s.setPhys p k).logical = s.logical := rfl
@[simp] theorem State.setPhys_dev (s : State) (p : Nat) (k : PhysCluster) : (s.setPhys p k).dev = s.dev := rfl
@[simp] theorem State.setPhys_cis (s : State) (p : Nat) (k : PhysCluster) : (s.setPhys p k).cis = s.cis := rfl
@[simp] theorem State.setPhys_allocs (s : State) (p : Nat) (k : PhysCluster) : (s.setPhys p k).allocs = s.allocs := rfl
@[simp] theorem State.setPhys_ranges (s : State) (p : Nat) (k : PhysCluster) : (s.setPhys p k).ranges = s.ranges := rfl
@[simp] theorem State.setPhys_poison (s : State) (p : Nat) (k : PhysCluster) : (s.setPhys p k).poison = s.poison := rfl
@[simp] theorem State.setPhys_wells (s : State) (p : Nat) (k : PhysCluster) : (s.setPhys p k).wells = s.wells := rfl
@[simp] theorem State.setPhys_nextWell (s : State) (p : Nat) (k : PhysCluster) : (s.setPhys p k).nextWell = s.nextWell := rfl
@[simp] theorem State.setPhys_wellsOut (s : State) (p : Nat) (k : PhysCluster) : (s.setPhys p k).wellsOut = s.wellsOut := rfl
@[simp] theorem State.setPhys_wellHw (s : State) (p : Nat) (k : PhysCluster) : (s.setPhys p k).wellHw = s.wellHw := rfl
@[simp] theorem State.setPhys_colls (s : State) (p : Nat) (k : PhysCluster) : (s.setPhys p k).colls = s.colls := rfl
@[simp] theorem State.setPhys_models (s : State) (p : Nat) (k : PhysCluster) : (s.setPhys p k).models = s.models := rfl
@[simp] theorem State.setPhys_mems (s : State) (p : Nat) (k : PhysCluster) : (s.setPhys p k).mems = s.mems := rfl
@[simp] theorem State.setPhys_grammars (s : State) (p : Nat) (k : PhysCluster) : (s.setPhys p k).grammars = s.grammars := rfl
@[simp] theorem State.setPhys_progs (s : State) (p : Nat) (k : PhysCluster) : (s.setPhys p k).progs = s.progs := rfl
@[simp] theorem State.setPhys_units (s : State) (p : Nat) (k : PhysCluster) : (s.setPhys p k).units = s.units := rfl
@[simp] theorem State.setPhys_moves (s : State) (p : Nat) (k : PhysCluster) : (s.setPhys p k).moves = s.moves := rfl
@[simp] theorem State.setPhys_nextMove (s : State) (p : Nat) (k : PhysCluster) : (s.setPhys p k).nextMove = s.nextMove := rfl
@[simp] theorem State.setPhys_movedBytes (s : State) (p : Nat) (k : PhysCluster) : (s.setPhys p k).movedBytes = s.movedBytes := rfl
@[simp] theorem State.setPhys_oldRanges (s : State) (p : Nat) (k : PhysCluster) : (s.setPhys p k).oldRanges = s.oldRanges := rfl
@[simp] theorem State.setPhys_parts (s : State) (p : Nat) (k : PhysCluster) : (s.setPhys p k).parts = s.parts := rfl
@[simp] theorem State.setPhys_flash (s : State) (p : Nat) (k : PhysCluster) : (s.setPhys p k).flash = s.flash := rfl
@[simp] theorem State.setPhys_fab (s : State) (p : Nat) (k : PhysCluster) : (s.setPhys p k).fab = s.fab := rfl
@[simp] theorem State.setPhys_gates (s : State) (p : Nat) (k : PhysCluster) : (s.setPhys p k).gates = s.gates := rfl
@[simp] theorem State.setPhys_fuses (s : State) (p : Nat) (k : PhysCluster) : (s.setPhys p k).fuses = s.fuses := rfl
@[simp] theorem State.setPhys_firmware (s : State) (p : Nat) (k : PhysCluster) : (s.setPhys p k).firmware = s.firmware := rfl
@[simp] theorem State.setPhys_varelm (s : State) (p : Nat) (k : PhysCluster) : (s.setPhys p k).varelm = s.varelm := rfl
@[simp] theorem State.setPhys_secure (s : State) (p : Nat) (k : PhysCluster) : (s.setPhys p k).secure = s.secure := rfl
@[simp] theorem State.setPhys_power (s : State) (p : Nat) (k : PhysCluster) : (s.setPhys p k).power = s.power := rfl
@[simp] theorem State.setPhys_salts (s : State) (p : Nat) (k : PhysCluster) : (s.setPhys p k).salts = s.salts := rfl
@[simp] theorem State.setPhys_evtUnread (s : State) (p : Nat) (k : PhysCluster) : (s.setPhys p k).evtUnread = s.evtUnread := rfl
@[simp] theorem State.setPhys_evtSeq (s : State) (p : Nat) (k : PhysCluster) : (s.setPhys p k).evtSeq = s.evtSeq := rfl
@[simp] theorem State.setPhys_clock (s : State) (p : Nat) (k : PhysCluster) : (s.setPhys p k).clock = s.clock := rfl
@[simp] theorem State.setPhys_free (s : State) (p : Nat) (k : PhysCluster) : (s.setPhys p k).free = s.free := rfl

@[simp] theorem State.setGate_pending (s : State) (l : Nat) (g : GateRt) : (s.setGate l g).pending = s.pending := rfl
@[simp] theorem State.setGate_out (s : State) (l : Nat) (g : GateRt) : (s.setGate l g).out = s.out := rfl
@[simp] theorem State.setGate_regs (s : State) (l : Nat) (g : GateRt) : (s.setGate l g).regs = s.regs := rfl
@[simp] theorem State.setGate_hq (s : State) (l : Nat) (g : GateRt) : (s.setGate l g).hq = s.hq := rfl
@[simp] theorem State.setGate_pslot (s : State) (l : Nat) (g : GateRt) : (s.setGate l g).pslot = s.pslot := rfl
@[simp] theorem State.setGate_bar4 (s : State) (l : Nat) (g : GateRt) : (s.setGate l g).bar4 = s.bar4 := rfl
@[simp] theorem State.setGate_wrst (s : State) (l : Nat) (g : GateRt) : (s.setGate l g).wrst = s.wrst := rfl
@[simp] theorem State.setGate_sq (s : State) (l : Nat) (g : GateRt) : (s.setGate l g).sq = s.sq := rfl
@[simp] theorem State.setGate_cq (s : State) (l : Nat) (g : GateRt) : (s.setGate l g).cq = s.cq := rfl
@[simp] theorem State.setGate_cmds (s : State) (l : Nat) (g : GateRt) : (s.setGate l g).cmds = s.cmds := rfl
@[simp] theorem State.setGate_nextCmd (s : State) (l : Nat) (g : GateRt) : (s.setGate l g).nextCmd = s.nextCmd := rfl
@[simp] theorem State.setGate_nextSeq (s : State) (l : Nat) (g : GateRt) : (s.setGate l g).nextSeq = s.nextSeq := rfl
@[simp] theorem State.setGate_sched (s : State) (l : Nat) (g : GateRt) : (s.setGate l g).sched = s.sched := rfl
@[simp] theorem State.setGate_frags (s : State) (l : Nat) (g : GateRt) : (s.setGate l g).frags = s.frags := rfl
@[simp] theorem State.setGate_nextFrag (s : State) (l : Nat) (g : GateRt) : (s.setGate l g).nextFrag = s.nextFrag := rfl
@[simp] theorem State.setGate_nextGroup (s : State) (l : Nat) (g : GateRt) : (s.setGate l g).nextGroup = s.nextGroup := rfl
@[simp] theorem State.setGate_clusters (s : State) (l : Nat) (g : GateRt) : (s.setGate l g).clusters = s.clusters := rfl
@[simp] theorem State.setGate_phys (s : State) (l : Nat) (g : GateRt) : (s.setGate l g).phys = s.phys := rfl
@[simp] theorem State.setGate_logical (s : State) (l : Nat) (g : GateRt) : (s.setGate l g).logical = s.logical := rfl
@[simp] theorem State.setGate_dev (s : State) (l : Nat) (g : GateRt) : (s.setGate l g).dev = s.dev := rfl
@[simp] theorem State.setGate_cis (s : State) (l : Nat) (g : GateRt) : (s.setGate l g).cis = s.cis := rfl
@[simp] theorem State.setGate_allocs (s : State) (l : Nat) (g : GateRt) : (s.setGate l g).allocs = s.allocs := rfl
@[simp] theorem State.setGate_ranges (s : State) (l : Nat) (g : GateRt) : (s.setGate l g).ranges = s.ranges := rfl
@[simp] theorem State.setGate_poison (s : State) (l : Nat) (g : GateRt) : (s.setGate l g).poison = s.poison := rfl
@[simp] theorem State.setGate_wells (s : State) (l : Nat) (g : GateRt) : (s.setGate l g).wells = s.wells := rfl
@[simp] theorem State.setGate_nextWell (s : State) (l : Nat) (g : GateRt) : (s.setGate l g).nextWell = s.nextWell := rfl
@[simp] theorem State.setGate_wellsOut (s : State) (l : Nat) (g : GateRt) : (s.setGate l g).wellsOut = s.wellsOut := rfl
@[simp] theorem State.setGate_wellHw (s : State) (l : Nat) (g : GateRt) : (s.setGate l g).wellHw = s.wellHw := rfl
@[simp] theorem State.setGate_colls (s : State) (l : Nat) (g : GateRt) : (s.setGate l g).colls = s.colls := rfl
@[simp] theorem State.setGate_models (s : State) (l : Nat) (g : GateRt) : (s.setGate l g).models = s.models := rfl
@[simp] theorem State.setGate_mems (s : State) (l : Nat) (g : GateRt) : (s.setGate l g).mems = s.mems := rfl
@[simp] theorem State.setGate_grammars (s : State) (l : Nat) (g : GateRt) : (s.setGate l g).grammars = s.grammars := rfl
@[simp] theorem State.setGate_progs (s : State) (l : Nat) (g : GateRt) : (s.setGate l g).progs = s.progs := rfl
@[simp] theorem State.setGate_units (s : State) (l : Nat) (g : GateRt) : (s.setGate l g).units = s.units := rfl
@[simp] theorem State.setGate_moves (s : State) (l : Nat) (g : GateRt) : (s.setGate l g).moves = s.moves := rfl
@[simp] theorem State.setGate_nextMove (s : State) (l : Nat) (g : GateRt) : (s.setGate l g).nextMove = s.nextMove := rfl
@[simp] theorem State.setGate_movedBytes (s : State) (l : Nat) (g : GateRt) : (s.setGate l g).movedBytes = s.movedBytes := rfl
@[simp] theorem State.setGate_oldRanges (s : State) (l : Nat) (g : GateRt) : (s.setGate l g).oldRanges = s.oldRanges := rfl
@[simp] theorem State.setGate_parts (s : State) (l : Nat) (g : GateRt) : (s.setGate l g).parts = s.parts := rfl
@[simp] theorem State.setGate_flash (s : State) (l : Nat) (g : GateRt) : (s.setGate l g).flash = s.flash := rfl
@[simp] theorem State.setGate_fab (s : State) (l : Nat) (g : GateRt) : (s.setGate l g).fab = s.fab := rfl
@[simp] theorem State.setGate_fuses (s : State) (l : Nat) (g : GateRt) : (s.setGate l g).fuses = s.fuses := rfl
@[simp] theorem State.setGate_firmware (s : State) (l : Nat) (g : GateRt) : (s.setGate l g).firmware = s.firmware := rfl
@[simp] theorem State.setGate_varelm (s : State) (l : Nat) (g : GateRt) : (s.setGate l g).varelm = s.varelm := rfl
@[simp] theorem State.setGate_secure (s : State) (l : Nat) (g : GateRt) : (s.setGate l g).secure = s.secure := rfl
@[simp] theorem State.setGate_power (s : State) (l : Nat) (g : GateRt) : (s.setGate l g).power = s.power := rfl
@[simp] theorem State.setGate_salts (s : State) (l : Nat) (g : GateRt) : (s.setGate l g).salts = s.salts := rfl
@[simp] theorem State.setGate_evtUnread (s : State) (l : Nat) (g : GateRt) : (s.setGate l g).evtUnread = s.evtUnread := rfl
@[simp] theorem State.setGate_evtSeq (s : State) (l : Nat) (g : GateRt) : (s.setGate l g).evtSeq = s.evtSeq := rfl
@[simp] theorem State.setGate_clock (s : State) (l : Nat) (g : GateRt) : (s.setGate l g).clock = s.clock := rfl
@[simp] theorem State.setGate_free (s : State) (l : Nat) (g : GateRt) : (s.setGate l g).free = s.free := rfl

@[simp] theorem State.setPeer_pending (s : State) (peer cls : Nat) (p : Peer) : (s.setPeer peer cls p).pending = s.pending := rfl
@[simp] theorem State.setPeer_out (s : State) (peer cls : Nat) (p : Peer) : (s.setPeer peer cls p).out = s.out := rfl
@[simp] theorem State.setPeer_regs (s : State) (peer cls : Nat) (p : Peer) : (s.setPeer peer cls p).regs = s.regs := rfl
@[simp] theorem State.setPeer_hq (s : State) (peer cls : Nat) (p : Peer) : (s.setPeer peer cls p).hq = s.hq := rfl
@[simp] theorem State.setPeer_pslot (s : State) (peer cls : Nat) (p : Peer) : (s.setPeer peer cls p).pslot = s.pslot := rfl
@[simp] theorem State.setPeer_bar4 (s : State) (peer cls : Nat) (p : Peer) : (s.setPeer peer cls p).bar4 = s.bar4 := rfl
@[simp] theorem State.setPeer_wrst (s : State) (peer cls : Nat) (p : Peer) : (s.setPeer peer cls p).wrst = s.wrst := rfl
@[simp] theorem State.setPeer_sq (s : State) (peer cls : Nat) (p : Peer) : (s.setPeer peer cls p).sq = s.sq := rfl
@[simp] theorem State.setPeer_cq (s : State) (peer cls : Nat) (p : Peer) : (s.setPeer peer cls p).cq = s.cq := rfl
@[simp] theorem State.setPeer_cmds (s : State) (peer cls : Nat) (p : Peer) : (s.setPeer peer cls p).cmds = s.cmds := rfl
@[simp] theorem State.setPeer_nextCmd (s : State) (peer cls : Nat) (p : Peer) : (s.setPeer peer cls p).nextCmd = s.nextCmd := rfl
@[simp] theorem State.setPeer_nextSeq (s : State) (peer cls : Nat) (p : Peer) : (s.setPeer peer cls p).nextSeq = s.nextSeq := rfl
@[simp] theorem State.setPeer_sched (s : State) (peer cls : Nat) (p : Peer) : (s.setPeer peer cls p).sched = s.sched := rfl
@[simp] theorem State.setPeer_frags (s : State) (peer cls : Nat) (p : Peer) : (s.setPeer peer cls p).frags = s.frags := rfl
@[simp] theorem State.setPeer_nextFrag (s : State) (peer cls : Nat) (p : Peer) : (s.setPeer peer cls p).nextFrag = s.nextFrag := rfl
@[simp] theorem State.setPeer_nextGroup (s : State) (peer cls : Nat) (p : Peer) : (s.setPeer peer cls p).nextGroup = s.nextGroup := rfl
@[simp] theorem State.setPeer_clusters (s : State) (peer cls : Nat) (p : Peer) : (s.setPeer peer cls p).clusters = s.clusters := rfl
@[simp] theorem State.setPeer_phys (s : State) (peer cls : Nat) (p : Peer) : (s.setPeer peer cls p).phys = s.phys := rfl
@[simp] theorem State.setPeer_logical (s : State) (peer cls : Nat) (p : Peer) : (s.setPeer peer cls p).logical = s.logical := rfl
@[simp] theorem State.setPeer_dev (s : State) (peer cls : Nat) (p : Peer) : (s.setPeer peer cls p).dev = s.dev := rfl
@[simp] theorem State.setPeer_cis (s : State) (peer cls : Nat) (p : Peer) : (s.setPeer peer cls p).cis = s.cis := rfl
@[simp] theorem State.setPeer_allocs (s : State) (peer cls : Nat) (p : Peer) : (s.setPeer peer cls p).allocs = s.allocs := rfl
@[simp] theorem State.setPeer_ranges (s : State) (peer cls : Nat) (p : Peer) : (s.setPeer peer cls p).ranges = s.ranges := rfl
@[simp] theorem State.setPeer_poison (s : State) (peer cls : Nat) (p : Peer) : (s.setPeer peer cls p).poison = s.poison := rfl
@[simp] theorem State.setPeer_wells (s : State) (peer cls : Nat) (p : Peer) : (s.setPeer peer cls p).wells = s.wells := rfl
@[simp] theorem State.setPeer_nextWell (s : State) (peer cls : Nat) (p : Peer) : (s.setPeer peer cls p).nextWell = s.nextWell := rfl
@[simp] theorem State.setPeer_wellsOut (s : State) (peer cls : Nat) (p : Peer) : (s.setPeer peer cls p).wellsOut = s.wellsOut := rfl
@[simp] theorem State.setPeer_wellHw (s : State) (peer cls : Nat) (p : Peer) : (s.setPeer peer cls p).wellHw = s.wellHw := rfl
@[simp] theorem State.setPeer_colls (s : State) (peer cls : Nat) (p : Peer) : (s.setPeer peer cls p).colls = s.colls := rfl
@[simp] theorem State.setPeer_models (s : State) (peer cls : Nat) (p : Peer) : (s.setPeer peer cls p).models = s.models := rfl
@[simp] theorem State.setPeer_mems (s : State) (peer cls : Nat) (p : Peer) : (s.setPeer peer cls p).mems = s.mems := rfl
@[simp] theorem State.setPeer_grammars (s : State) (peer cls : Nat) (p : Peer) : (s.setPeer peer cls p).grammars = s.grammars := rfl
@[simp] theorem State.setPeer_progs (s : State) (peer cls : Nat) (p : Peer) : (s.setPeer peer cls p).progs = s.progs := rfl
@[simp] theorem State.setPeer_units (s : State) (peer cls : Nat) (p : Peer) : (s.setPeer peer cls p).units = s.units := rfl
@[simp] theorem State.setPeer_moves (s : State) (peer cls : Nat) (p : Peer) : (s.setPeer peer cls p).moves = s.moves := rfl
@[simp] theorem State.setPeer_nextMove (s : State) (peer cls : Nat) (p : Peer) : (s.setPeer peer cls p).nextMove = s.nextMove := rfl
@[simp] theorem State.setPeer_movedBytes (s : State) (peer cls : Nat) (p : Peer) : (s.setPeer peer cls p).movedBytes = s.movedBytes := rfl
@[simp] theorem State.setPeer_oldRanges (s : State) (peer cls : Nat) (p : Peer) : (s.setPeer peer cls p).oldRanges = s.oldRanges := rfl
@[simp] theorem State.setPeer_parts (s : State) (peer cls : Nat) (p : Peer) : (s.setPeer peer cls p).parts = s.parts := rfl
@[simp] theorem State.setPeer_flash (s : State) (peer cls : Nat) (p : Peer) : (s.setPeer peer cls p).flash = s.flash := rfl
@[simp] theorem State.setPeer_gates (s : State) (peer cls : Nat) (p : Peer) : (s.setPeer peer cls p).gates = s.gates := rfl
@[simp] theorem State.setPeer_fuses (s : State) (peer cls : Nat) (p : Peer) : (s.setPeer peer cls p).fuses = s.fuses := rfl
@[simp] theorem State.setPeer_firmware (s : State) (peer cls : Nat) (p : Peer) : (s.setPeer peer cls p).firmware = s.firmware := rfl
@[simp] theorem State.setPeer_varelm (s : State) (peer cls : Nat) (p : Peer) : (s.setPeer peer cls p).varelm = s.varelm := rfl
@[simp] theorem State.setPeer_secure (s : State) (peer cls : Nat) (p : Peer) : (s.setPeer peer cls p).secure = s.secure := rfl
@[simp] theorem State.setPeer_power (s : State) (peer cls : Nat) (p : Peer) : (s.setPeer peer cls p).power = s.power := rfl
@[simp] theorem State.setPeer_salts (s : State) (peer cls : Nat) (p : Peer) : (s.setPeer peer cls p).salts = s.salts := rfl
@[simp] theorem State.setPeer_evtUnread (s : State) (peer cls : Nat) (p : Peer) : (s.setPeer peer cls p).evtUnread = s.evtUnread := rfl
@[simp] theorem State.setPeer_evtSeq (s : State) (peer cls : Nat) (p : Peer) : (s.setPeer peer cls p).evtSeq = s.evtSeq := rfl
@[simp] theorem State.setPeer_clock (s : State) (peer cls : Nat) (p : Peer) : (s.setPeer peer cls p).clock = s.clock := rfl
@[simp] theorem State.setPeer_free (s : State) (peer cls : Nat) (p : Peer) : (s.setPeer peer cls p).free = s.free := rfl

@[simp] theorem State.setIds_pending (s : State) (h : Nat) (x : Nat × Nat × Option Nat) : (s.setIds h x).pending = s.pending := rfl
@[simp] theorem State.setIds_out (s : State) (h : Nat) (x : Nat × Nat × Option Nat) : (s.setIds h x).out = s.out := rfl
@[simp] theorem State.setIds_regs (s : State) (h : Nat) (x : Nat × Nat × Option Nat) : (s.setIds h x).regs = s.regs := rfl
@[simp] theorem State.setIds_hq (s : State) (h : Nat) (x : Nat × Nat × Option Nat) : (s.setIds h x).hq = s.hq := rfl
@[simp] theorem State.setIds_pslot (s : State) (h : Nat) (x : Nat × Nat × Option Nat) : (s.setIds h x).pslot = s.pslot := rfl
@[simp] theorem State.setIds_bar4 (s : State) (h : Nat) (x : Nat × Nat × Option Nat) : (s.setIds h x).bar4 = s.bar4 := rfl
@[simp] theorem State.setIds_wrst (s : State) (h : Nat) (x : Nat × Nat × Option Nat) : (s.setIds h x).wrst = s.wrst := rfl
@[simp] theorem State.setIds_sq (s : State) (h : Nat) (x : Nat × Nat × Option Nat) : (s.setIds h x).sq = s.sq := rfl
@[simp] theorem State.setIds_cq (s : State) (h : Nat) (x : Nat × Nat × Option Nat) : (s.setIds h x).cq = s.cq := rfl
@[simp] theorem State.setIds_cmds (s : State) (h : Nat) (x : Nat × Nat × Option Nat) : (s.setIds h x).cmds = s.cmds := rfl
@[simp] theorem State.setIds_nextCmd (s : State) (h : Nat) (x : Nat × Nat × Option Nat) : (s.setIds h x).nextCmd = s.nextCmd := rfl
@[simp] theorem State.setIds_nextSeq (s : State) (h : Nat) (x : Nat × Nat × Option Nat) : (s.setIds h x).nextSeq = s.nextSeq := rfl
@[simp] theorem State.setIds_sched (s : State) (h : Nat) (x : Nat × Nat × Option Nat) : (s.setIds h x).sched = s.sched := rfl
@[simp] theorem State.setIds_frags (s : State) (h : Nat) (x : Nat × Nat × Option Nat) : (s.setIds h x).frags = s.frags := rfl
@[simp] theorem State.setIds_nextFrag (s : State) (h : Nat) (x : Nat × Nat × Option Nat) : (s.setIds h x).nextFrag = s.nextFrag := rfl
@[simp] theorem State.setIds_nextGroup (s : State) (h : Nat) (x : Nat × Nat × Option Nat) : (s.setIds h x).nextGroup = s.nextGroup := rfl
@[simp] theorem State.setIds_clusters (s : State) (h : Nat) (x : Nat × Nat × Option Nat) : (s.setIds h x).clusters = s.clusters := rfl
@[simp] theorem State.setIds_phys (s : State) (h : Nat) (x : Nat × Nat × Option Nat) : (s.setIds h x).phys = s.phys := rfl
@[simp] theorem State.setIds_logical (s : State) (h : Nat) (x : Nat × Nat × Option Nat) : (s.setIds h x).logical = s.logical := rfl
@[simp] theorem State.setIds_dev (s : State) (h : Nat) (x : Nat × Nat × Option Nat) : (s.setIds h x).dev = s.dev := rfl
@[simp] theorem State.setIds_cis (s : State) (h : Nat) (x : Nat × Nat × Option Nat) : (s.setIds h x).cis = s.cis := rfl
@[simp] theorem State.setIds_allocs (s : State) (h : Nat) (x : Nat × Nat × Option Nat) : (s.setIds h x).allocs = s.allocs := rfl
@[simp] theorem State.setIds_ranges (s : State) (h : Nat) (x : Nat × Nat × Option Nat) : (s.setIds h x).ranges = s.ranges := rfl
@[simp] theorem State.setIds_poison (s : State) (h : Nat) (x : Nat × Nat × Option Nat) : (s.setIds h x).poison = s.poison := rfl
@[simp] theorem State.setIds_wells (s : State) (h : Nat) (x : Nat × Nat × Option Nat) : (s.setIds h x).wells = s.wells := rfl
@[simp] theorem State.setIds_nextWell (s : State) (h : Nat) (x : Nat × Nat × Option Nat) : (s.setIds h x).nextWell = s.nextWell := rfl
@[simp] theorem State.setIds_wellsOut (s : State) (h : Nat) (x : Nat × Nat × Option Nat) : (s.setIds h x).wellsOut = s.wellsOut := rfl
@[simp] theorem State.setIds_wellHw (s : State) (h : Nat) (x : Nat × Nat × Option Nat) : (s.setIds h x).wellHw = s.wellHw := rfl
@[simp] theorem State.setIds_colls (s : State) (h : Nat) (x : Nat × Nat × Option Nat) : (s.setIds h x).colls = s.colls := rfl
@[simp] theorem State.setIds_models (s : State) (h : Nat) (x : Nat × Nat × Option Nat) : (s.setIds h x).models = s.models := rfl
@[simp] theorem State.setIds_mems (s : State) (h : Nat) (x : Nat × Nat × Option Nat) : (s.setIds h x).mems = s.mems := rfl
@[simp] theorem State.setIds_grammars (s : State) (h : Nat) (x : Nat × Nat × Option Nat) : (s.setIds h x).grammars = s.grammars := rfl
@[simp] theorem State.setIds_progs (s : State) (h : Nat) (x : Nat × Nat × Option Nat) : (s.setIds h x).progs = s.progs := rfl
@[simp] theorem State.setIds_units (s : State) (h : Nat) (x : Nat × Nat × Option Nat) : (s.setIds h x).units = s.units := rfl
@[simp] theorem State.setIds_moves (s : State) (h : Nat) (x : Nat × Nat × Option Nat) : (s.setIds h x).moves = s.moves := rfl
@[simp] theorem State.setIds_nextMove (s : State) (h : Nat) (x : Nat × Nat × Option Nat) : (s.setIds h x).nextMove = s.nextMove := rfl
@[simp] theorem State.setIds_movedBytes (s : State) (h : Nat) (x : Nat × Nat × Option Nat) : (s.setIds h x).movedBytes = s.movedBytes := rfl
@[simp] theorem State.setIds_oldRanges (s : State) (h : Nat) (x : Nat × Nat × Option Nat) : (s.setIds h x).oldRanges = s.oldRanges := rfl
@[simp] theorem State.setIds_parts (s : State) (h : Nat) (x : Nat × Nat × Option Nat) : (s.setIds h x).parts = s.parts := rfl
@[simp] theorem State.setIds_flash (s : State) (h : Nat) (x : Nat × Nat × Option Nat) : (s.setIds h x).flash = s.flash := rfl
@[simp] theorem State.setIds_gates (s : State) (h : Nat) (x : Nat × Nat × Option Nat) : (s.setIds h x).gates = s.gates := rfl
@[simp] theorem State.setIds_fuses (s : State) (h : Nat) (x : Nat × Nat × Option Nat) : (s.setIds h x).fuses = s.fuses := rfl
@[simp] theorem State.setIds_firmware (s : State) (h : Nat) (x : Nat × Nat × Option Nat) : (s.setIds h x).firmware = s.firmware := rfl
@[simp] theorem State.setIds_varelm (s : State) (h : Nat) (x : Nat × Nat × Option Nat) : (s.setIds h x).varelm = s.varelm := rfl
@[simp] theorem State.setIds_secure (s : State) (h : Nat) (x : Nat × Nat × Option Nat) : (s.setIds h x).secure = s.secure := rfl
@[simp] theorem State.setIds_power (s : State) (h : Nat) (x : Nat × Nat × Option Nat) : (s.setIds h x).power = s.power := rfl
@[simp] theorem State.setIds_salts (s : State) (h : Nat) (x : Nat × Nat × Option Nat) : (s.setIds h x).salts = s.salts := rfl
@[simp] theorem State.setIds_evtUnread (s : State) (h : Nat) (x : Nat × Nat × Option Nat) : (s.setIds h x).evtUnread = s.evtUnread := rfl
@[simp] theorem State.setIds_evtSeq (s : State) (h : Nat) (x : Nat × Nat × Option Nat) : (s.setIds h x).evtSeq = s.evtSeq := rfl
@[simp] theorem State.setIds_clock (s : State) (h : Nat) (x : Nat × Nat × Option Nat) : (s.setIds h x).clock = s.clock := rfl
@[simp] theorem State.setIds_free (s : State) (h : Nat) (x : Nat × Nat × Option Nat) : (s.setIds h x).free = s.free := rfl

end Sys2Proof.Machine
end

