-- ==== Sys2Proof/Laws/Thread.lean ====
section
/-! SUPPORT. What an update of one thread does to the machine, and what taking one instruction does. -/
namespace Sys2Proof.Machine

/-- `updFirst` splits the list at the element that it changes, if there is one. -/
theorem updFirst_cases {α : Type} (p : α → Bool) (f : α → α) (l : List α) :
    (l.find? p = none ∧ updFirst p f l = l) ∨
      ∃ xs a ys, l = xs ++ a :: ys ∧ (∀ x ∈ xs, p x = false) ∧ p a = true ∧ updFirst p f l = xs ++ f a :: ys := by
  induction l with
  | nil => exact .inl ⟨rfl, rfl⟩
  | cons b r ih =>
    cases hb : p b with
    | true => exact .inr ⟨[], b, r, rfl, by simp, hb, by simp [updFirst, hb]⟩
    | false =>
      obtain ⟨h1, h2⟩ | ⟨xs, a, ys, h1, h2, h3, h4⟩ := ih
      · exact .inl (by simp [updFirst, hb, h1, h2])
      · exact .inr ⟨b :: xs, a, ys, by simp [h1], by simpa [hb] using h2, h3, by simp [updFirst, hb, h4]⟩

theorem find?_updFirst {α : Type} (p q : α → Bool) (f : α → α) (l : List α) (hf : ∀ a, q (f a) = q a)
    (hpq : ∀ a, p a = true → q a = false) : (updFirst p f l).find? q = l.find? q := by
  obtain ⟨_, h⟩ | ⟨xs, a, ys, rfl, _, ha, h⟩ := updFirst_cases p f l
  · rw [h]
  · simp [h, hf, hpq a ha]

theorem find?_updFirst_self {α : Type} (p : α → Bool) (f : α → α) (l : List α) (hf : ∀ a, p (f a) = p a) :
    (updFirst p f l).find? p = (l.find? p).map f := by
  obtain ⟨hn, h⟩ | ⟨xs, a, ys, rfl, hx, ha, h⟩ := updFirst_cases p f l
  · simp [h, hn]
  · have hxs : xs.find? p = none := List.find?_eq_none.2 fun x hm => by simp [hx x hm]
    simp [h, hf, ha, hxs]

/-- A change of a fragment that keeps its number. -/
def KeepsId (g : Frag → Frag) : Prop := ∀ x, (g x).id = x.id

theorem frag?_updFrag_self (s : State) (f : Nat) (g : Frag → Frag) (h : KeepsId g) :
    (s.updFrag f g).frag? f = (s.frag? f).map g :=
  find?_updFirst_self _ g _ fun a => by simp [h a]

theorem frag?_updFrag_ne (s : State) {f k : Nat} (g : Frag → Frag) (h : KeepsId g) (hk : k ≠ f) :
    (s.updFrag f g).frag? k = s.frag? k := by
  refine find?_updFirst _ _ g _ (fun a => by simp [h a]) fun a ha => ?_
  simp only [beq_iff_eq] at ha
  simp [ha, Ne.symm hk]

theorem frag?_updFrag (s : State) (f k : Nat) (g : Frag → Frag) (h : KeepsId g) :
    (s.updFrag f g).frag? k = if k = f then (s.frag? k).map g else s.frag? k := by
  by_cases hk : k = f
  · subst hk; simp [frag?_updFrag_self s k g h]
  · simp [hk, frag?_updFrag_ne s g h hk]

theorem member?_updMember (s : State) (t : Tid) (g : Member → Member) (f m : Nat) :
    (s.updMember t g).member? f m = if f = t.frag ∧ m = t.mem then (s.member? f m).map g else s.member? f m := by
  have hk : KeepsId fun x : Frag => { x with members := x.members.modify t.mem g } := fun _ => rfl
  simp only [State.member?, State.updMember, frag?_updFrag _ _ _ _ hk]
  by_cases h : f = t.frag
  · subst h
    cases hx : s.frag? t.frag with
    | none => simp
    | some x =>
      simp only [if_true, Option.map_some, Option.bind_some, List.getElem?_modify, true_and]
      by_cases hm : m = t.mem
      · subst hm; simp
      · simp only [hm, if_false, Ne.symm hm]
        cases x.members[m]? <;> rfl
  · simp [h]

theorem thread?_updThread (s : State) (t u : Tid) (g : Thread → Thread) :
    (s.updThread t g).thread? u = if u = t then (s.thread? u).map g else s.thread? u := by
  simp only [State.thread?, State.updThread, member?_updMember]
  by_cases h : u.frag = t.frag ∧ u.mem = t.mem
  · rw [if_pos h]
    cases hx : s.member? u.frag u.mem with
    | none => simp
    | some x =>
      simp only [Option.map_some, Option.bind_some, List.getElem?_modify]
      by_cases hi : u.idx = t.idx
      · have hu : u = t := by cases u; cases t; simp_all
        subst hu; simp
      · have hu : u ≠ t := fun h => hi (h ▸ rfl)
        simp only [hu, if_false, Ne.symm hi]
        cases x.threads[u.idx]? <;> rfl
  · have hu : u ≠ t := fun h2 => h (h2 ▸ ⟨rfl, rfl⟩)
    simp [h, hu]

theorem SameBytes.refl (s : State) : SameBytes s s := fun _ => ⟨rfl, rfl, rfl⟩

/-- An update of one thread is an update of that thread only. -/
theorem onlyThreadOf_updThread (s : State) (t : Tid) (g : Thread → Thread) (th : Thread) (h : s.thread? t = some th) :
    OnlyThreadOf s (s.updThread t g) t (g th) where
  self := by simp [thread?_updThread, h]
  others u hu := by simp [thread?_updThread, hu]
  members f m := by
    simp only [State.updThread, member?_updMember]
    split
    · cases s.member? f m <;> rfl
    · rfl
  frags f := by
    have hk : KeepsId fun x : Frag => { x with members := x.members.modify t.mem fun m => { m with threads := m.threads.modify t.idx g } } :=
      fun _ => rfl
    simp only [State.updThread, State.updMember, frag?_updFrag _ _ _ _ hk]
    split
    · cases s.frag? f <;> rfl
    · rfl

theorem onlyThread_updThread (s : State) (t : Tid) (g : Thread → Thread) (th : Thread) (h : s.thread? t = some th) :
    OnlyThread s (s.updThread t g) t (g th) :=
  ⟨onlyThreadOf_updThread s t g th h, SameBytes.refl s, rfl⟩

theorem OnlyThreadOf.trans {s s1 s2 : State} {t : Tid} {a b : Thread} (h1 : OnlyThreadOf s s1 t a) (h2 : OnlyThreadOf s1 s2 t b) :
    OnlyThreadOf s s2 t b where
  self := h2.self
  others u hu := (h2.others u hu).trans (h1.others u hu)
  members f m := (h2.members f m).trans (h1.members f m)
  frags f := (h2.frags f).trans (h1.frags f)

theorem OnlyThread.trans {s s1 s2 : State} {t : Tid} {a b : Thread} (h1 : OnlyThread s s1 t a) (h2 : OnlyThread s1 s2 t b) :
    OnlyThread s s2 t b where
  thread := h1.thread.trans h2.thread
  bytes x := ⟨(h2.bytes x).1.trans (h1.bytes x).1, (h2.bytes x).2.1.trans (h1.bytes x).2.1, (h2.bytes x).2.2.trans (h1.bytes x).2.2⟩
  rest := by
    have e1 := h1.rest
    have e2 := h2.rest
    calc { s2 with frags := s.frags } = { { s2 with frags := s1.frags } with frags := s.frags } := rfl
      _ = { s1 with frags := s.frags } := by rw [e2]
      _ = s := e1

/-! ## Taking an instruction -/

/-- What a thread that may take an instruction sees. -/
theorem insn_some {s : State} {t : Tid} {c : Ictx} (h : s.insn t = some c) :
    s.active = true ∧ s.tripped = false ∧ s.frag? t.frag = some c.frag ∧ c.frag.phase = .running ∧ c.frag.isVarelm = false ∧
      c.frag.members[t.mem]? = some c.mem ∧ c.mem.threads[t.idx]? = some c.th ∧ c.th.st ≠ .free ∧ c.th.st ≠ .ended ∧
      c.t = t ∧ c.w = leAt (s.code c.frag.prog) c.th.pc 8 := by
  unfold State.insn at h
  split at h
  · rename_i h0
    split at h
    · simp at h
    · rename_i f hf
      split at h
      · rename_i h1
        split at h
        · simp at h
        · rename_i m hm
          split at h
          · simp at h
          · rename_i th hth
            split at h
            · simp at h
            · rename_i h2
              simp only [Option.some.injEq] at h
              subst h
              simp_all
      · simp at h
  · simp at h

theorem insn_thread {s : State} {t : Tid} {c : Ictx} (h : s.insn t = some c) : s.thread? t = some c.th := by
  obtain ⟨_, _, hf, _, _, hm, hth, _⟩ := insn_some h
  simp [State.thread?, State.member?, hf, hm, hth]

/-- A word that its row may take has its effect. -/
theorem runInsn_legal {opc : Nat} {legal : Nat → Bool} {eff : Ictx → State → Eff} {t : Tid} {s : State} {c : Ictx}
    (h : At s t opc c) (hl : legal c.w = true) : runInsn opc legal eff t s = .next (applyEff s c (eff c s)) := by
  simp [runInsn, h.1, h.2, hl]

/-- A word that R340 refuses raises the illegal-instruction exception. -/
theorem runInsn_illegal {opc : Nat} {legal : Nat → Bool} {eff : Ictx → State → Eff} {t : Tid} {s : State} {c : Ictx}
    (h : At s t opc c) (hl : legal c.w = false) : runInsn opc legal eff t s = .next (s.raise c xIllegal 0 0 0) := by
  simp [runInsn, h.1, h.2, hl, applyEff]

theorem updFirst_append {α : Type} (p : α → Bool) (f : α → α) (a : α) (xs ys : List α) (hx : ∀ x ∈ xs, p x = false)
    (ha : p a = true) : updFirst p f (xs ++ a :: ys) = xs ++ f a :: ys := by
  induction xs with
  | nil => simp [updFirst, ha]
  | cons x r ih => simp [updFirst, hx x (by simp), ih fun y hy => hx y (by simp [hy])]

theorem updFirst_none {α : Type} (p : α → Bool) (f : α → α) (l : List α) (h : l.find? p = none) : updFirst p f l = l := by
  obtain ⟨_, e⟩ | ⟨xs, a, ys, rfl, _, ha, _⟩ := updFirst_cases p f l
  · exact e
  · simp [ha] at h

theorem updFirst_updFirst {α : Type} (p : α → Bool) (a b : α → α) (h : ∀ y, p y = true → p (a y) = true) (l : List α) :
    updFirst p b (updFirst p a l) = updFirst p (fun y => b (a y)) l := by
  obtain ⟨hn, e⟩ | ⟨xs, y, ys, rfl, hx, hy, e⟩ := updFirst_cases p a l
  · rw [e, updFirst_none p b l hn, updFirst_none p _ l hn]
  · rw [e, updFirst_append p b (a y) xs ys hx (h y hy), updFirst_append p _ y xs ys hx hy]

theorem modify_modify {α : Type} (l : List α) (i : Nat) (a b : α → α) :
    (l.modify i a).modify i b = l.modify i fun x => b (a x) := by
  refine List.ext_getElem? fun k => ?_
  simp only [List.getElem?_modify]
  by_cases hk : i = k
  · cases l[k]? <;> simp [hk]
  · simp [hk]

theorem updFrag_updFrag (s : State) (f : Nat) (a b : Frag → Frag) (h : KeepsId a) :
    (s.updFrag f a).updFrag f b = s.updFrag f fun x => b (a x) := by
  have hx := updFirst_updFirst (fun x : Frag => x.id == f) a b (fun y hy => by simpa [h y] using hy) s.frags
  unfold State.updFrag
  rw [hx]

theorem updMember_updMember (s : State) (t : Tid) (f g : Member → Member) :
    (s.updMember t f).updMember t g = s.updMember t fun x => g (f x) := by
  unfold State.updMember
  refine (updFrag_updFrag _ _ _ _ ?_).trans ?_
  · exact fun _ => rfl
  · simp only [modify_modify]

theorem updThread_updThread (s : State) (t : Tid) (f g : Thread → Thread) :
    (s.updThread t f).updThread t g = s.updThread t fun x => g (f x) := by
  unfold State.updThread
  rw [updMember_updMember]
  simp only [modify_modify]

/-! ## Writing a register -/

theorem wroteG_setG (th : Thread) (d : Nat) (v : Word) :
    WroteG th { th.setG d v with st := .ready, pc := (th.setG d v).pc + 8 } d v := by
  unfold Thread.setG
  by_cases h : d = 0
  · subst h
    simp only [if_true]
    exact ⟨fun n => by unfold Thread.rg; split <;> simp_all, fun _ => rfl, fun _ => rfl, rfl, rfl⟩
  · simp only [h, if_false]
    refine ⟨fun n => ?_, fun _ => rfl, fun _ => rfl, rfl, rfl⟩
    by_cases hn : n = 0
    · simp [Thread.rg, hn]
    · by_cases hd : n = d
      · subst hd; simp [Thread.rg, hn]
      · simp [Thread.rg, hn, hd]

theorem wroteV_setV (th : Thread) (d : Nat) (x : BitVec 1024) :
    WroteV th { th.setV d x with st := .ready, pc := (th.setV d x).pc + 8 } d x := by
  refine ⟨fun _ => rfl, fun n => ?_, fun _ => rfl, rfl, rfl⟩
  by_cases hd : n = d
  · subst hd; simp [Thread.setV, Thread.rv]
  · simp [Thread.setV, Thread.rv, hd]

theorem wroteM_setM (th : Thread) (d : Nat) (x : BitVec 128) :
    WroteM th { th.setM d x with st := .ready, pc := (th.setM d x).pc + 8 } d x := by
  refine ⟨fun _ => rfl, fun _ => rfl, fun n => ?_, rfl, rfl⟩
  by_cases hd : n = d
  · subst hd; simp [Thread.setM, Thread.rm]
  · simp [Thread.setM, Thread.rm, hd]

theorem setG_flags (th : Thread) (d : Nat) (v : Word) : (th.setG d v).flags = th.flags := by
  unfold Thread.setG; split <;> rfl

/-- An instruction that only writes a general register. -/
theorem applyEff_putG {s : State} {t : Tid} {opc : Nat} {c : Ictx} (h : At s t opc c) (v : Word) :
    ∃ th', OnlyThread s (applyEff s c (.done (c.putG s v))) t th' ∧ WroteG c.th th' (wD c.w) v ∧ th'.flags = c.th.flags := by
  have ht : c.t = t := (insn_some h.1).2.2.2.2.2.2.2.2.2.1
  refine ⟨_, ?_, wroteG_setG c.th (wD c.w) v, setG_flags _ _ _⟩
  simp only [applyEff, Ictx.putG, ht, updThread_updThread]
  exact onlyThread_updThread s t _ c.th (insn_thread h.1)

/-- An instruction that only writes a vector register. -/
theorem applyEff_putV {s : State} {t : Tid} {opc : Nat} {c : Ictx} (h : At s t opc c) (x : BitVec 1024) :
    ∃ th', OnlyThread s (applyEff s c (.done (c.putV s x))) t th' ∧ WroteV c.th th' (wD c.w) x ∧ th'.flags = c.th.flags := by
  have ht : c.t = t := (insn_some h.1).2.2.2.2.2.2.2.2.2.1
  refine ⟨_, ?_, wroteV_setV c.th (wD c.w) x, rfl⟩
  simp only [applyEff, Ictx.putV, ht, updThread_updThread]
  exact onlyThread_updThread s t _ c.th (insn_thread h.1)

/-- An instruction that only writes a mask register. -/
theorem applyEff_putM {s : State} {t : Tid} {opc : Nat} {c : Ictx} (h : At s t opc c) (x : BitVec 128) :
    ∃ th', OnlyThread s (applyEff s c (.done (c.putM s x))) t th' ∧ WroteM c.th th' (wD c.w) x ∧ th'.flags = c.th.flags := by
  have ht : c.t = t := (insn_some h.1).2.2.2.2.2.2.2.2.2.1
  refine ⟨_, ?_, wroteM_setM c.th (wD c.w) x, rfl⟩
  simp only [applyEff, Ictx.putM, ht, updThread_updThread]
  exact onlyThread_updThread s t _ c.th (insn_thread h.1)

/-- An instruction that changes nothing but its thread's place. -/
theorem applyEff_goto {s : State} {t : Tid} {opc : Nat} {c : Ictx} (h : At s t opc c) (pc : Nat) :
    OnlyThread s (applyEff s c (.goto s pc)) t { c.th with st := .ready, pc := pc } := by
  have ht : c.t = t := (insn_some h.1).2.2.2.2.2.2.2.2.2.1
  simp only [applyEff, ht]
  exact onlyThread_updThread s t _ c.th (insn_thread h.1)

end Sys2Proof.Machine
end

