-- ==== Sys2Proof/Tests/Slice0.lean ====
section
/-! SUPPORT. Tests: ill-formed commands that the check refuses, results that the manual states, and for every statement of
Sys2Proof/Certificates/Slice0/Obligations.lean states and operands that meet its hypotheses, clause by clause. -/
namespace Sys2Proof.Tests
open Sys2Proof Sys2Proof.Machine

set_option Elab.async false

/-! ## A small machine -/

/-- Usable and deployed, one cluster in service, the host link up. -/
def ready : State :=
  { (State.reset.setFld oPwrState 2 2 1).setFld oPwrState 1 0 0 with
    fuses := { blankFuses with lcs := 2 }, logical := [(0, 0)], power := { Power.reset with link := true } }

def zeros (n : Nat) : List Byte := List.replicate n 0
/-- An instruction word of the Register format; `low` is C and SUB or the low immediate bits. -/
def word (opc ty mk x d a b low : Nat) : Nat :=
  opc * 2 ^ 56 + ty * 2 ^ 52 + mk * 2 ^ 49 + x * 2 ^ 48 + d * 2 ^ 42 + a * 2 ^ 36 + b * 2 ^ 30 + low

def th0 : Thread := { Thread.reset with st := .ready, g := [(1, 64), (2, 3), (4, 0x10000), (5, 0x1000), (6, 0x8000000000001000)] }
def member0 : Member := { cluster := 0, base := 0, threads := [th0], pumps := [], ports := [], tiles := [] }
/-- One thread, 64 cistern units, 3 pumps, 3 ports, 2 tiles, host output range 0x1000 to 0x1FFF. -/
def desc0 : List Byte :=
  toLe 4 0 ++ toLe 4 1 ++ toLe 4 (64 + 3 * 2 ^ 17 + 3 * 2 ^ 21 + 2 * 2 ^ 26) ++ zeros 20 ++ toLe 8 (2 ^ 63 + 0x1000) ++ toLe 8 0x1000 ++ zeros 16
def frag0 : Frag :=
  { id := 1, cmd := 1, tenant := 1, cls := 1, desc := desc0, prog := 1, phase := .running, groups := [], joinOn := none,
    members := [member0], posts := [], logs := [], status := none, prog2 := none, held := [], inner := false, reissues := 0,
    avoid := [], skewUsed := false, readyAt := 0, dispAt := 0, waitFrom := 0, missed := false, charged := 0 }
def cmd0 : Cmd :=
  { id := 1, fn := 1, sq := 0, cmdid := 7, cq := some 0, entry := zeros 128, args := [], phase := .admitted, cls := 1, slot := some (0, 0), seq := 1, bp := 0,
    pos := 0, lastBp := 0, status := 0, count := 0, value := 0, finalBp := 0, started := true, argBase := 0, skewed := [], losses := [],
    waits := [], parent := none, work := .idle, needRoom := 0, admittedAt := 0, bound := 0, unposted := [] }
def alloc0 : Alloc :=
  { tenant := 1, base := 0x10000, size := 0x20000, shared := false, wellSeg := true, readOnly := false, stack := 0, well := 0,
    mapped := true, freeing := none }
/-- A running fragment whose one thread is at word `w` of a program of `n` words. -/
def bench (w : Nat) (f : Frag → Frag := id) (cis : Mem := []) (n : Nat := 1) : State :=
  { ready with
    progs := [⟨1, 1, [], toLe 8 w ++ zeros (8 * (n - 1)), none⟩], frags := [f frag0], cmds := [cmd0], allocs := [alloc0],
    cis := cis }
def t0 : Tid := ⟨1, 0, 0⟩
def ictx (w : Nat) (f : Frag → Frag := id) : Ictx :=
  { t := t0, frag := f frag0, mem := (f frag0).members.getD 0 member0,
    th := ((f frag0).members.getD 0 member0).threads.getD 0 th0, w := w }
def withThread (g : Thread → Thread) (f : Frag) : Frag :=
  { f with members := f.members.map fun m => { m with threads := m.threads.map g } }
def withMember (g : Member → Member) (f : Frag) : Frag := { f with members := f.members.map g }
def withCluster (k : Cluster) (s : State) : State := { s with clusters := [(0, k)] }

/-! ## Falar threads -/

theorem witness_ScalarInstructions :
    (∀ row ∈ aluRows, ∃ s t c, At s t row.1 c ∧ aluWord c.w ∧ wX c.w = 0) ∧
    (∀ row ∈ aluRows, ∃ s t c, At s t row.1 c ∧ aluWord c.w ∧ wX c.w = 1) ∧
    (∀ row ∈ divRows, ∃ s t c, At s t row.1 c ∧ aluWord c.w ∧ operandB c = 0) ∧
    (∀ row ∈ aluRows ++ divRows, ∃ s t c, At s t row.1 c ∧ ¬ aluWord c.w) ∧
    (∀ opc ∈ [0x16, 0x17, 0x18, 0x19], ∃ s t c, At s t opc c ∧ wTy c.w = 0 ∧ wMk c.w = 0 ∧ wX c.w = 0 ∧ wB c.w = 0 ∧ wC c.w = 0 ∧ wSub c.w = 0) ∧
    (∃ s t c, At s t 0x1A c ∧ wTy c.w = 0 ∧ wMk c.w = 0 ∧ wX c.w = 0 ∧ field c.w 41 22 = 0 ∧ wSub c.w ≠ 0) ∧
    (∀ n ≤ 3, ∃ s t c, At s t 0x1B c ∧ wTy c.w = 0 ∧ wMk c.w = 0 ∧ wX c.w = 0 ∧ field c.w 35 0 = 0 ∧ wA c.w = n) ∧
    (∀ n ≤ 3, ∃ s t c, At s t 0x1C c ∧ wTy c.w = 0 ∧ wMk c.w = 0 ∧ wX c.w = 0 ∧ field c.w 35 0 = 0 ∧ wD c.w = n) := by
  refine ⟨fun row h => ⟨bench (word row.1 0 0 0 3 1 2 0), t0, ictx (word row.1 0 0 0 3 1 2 0), ?_⟩,
    fun row h => ⟨bench (word row.1 0 0 1 63 1 0 64), t0, ictx (word row.1 0 0 1 63 1 0 64), ?_⟩,
    fun row h => ⟨bench (word row.1 0 0 0 3 1 0 0), t0, ictx (word row.1 0 0 0 3 1 0 0), ?_⟩,
    fun row h => ⟨bench (word row.1 0 1 0 3 1 2 0), t0, ictx (word row.1 0 1 0 3 1 2 0), ?_⟩,
    fun opc h => ⟨bench (word opc 0 0 0 3 1 0 0), t0, ictx (word opc 0 0 0 3 1 0 0), ?_⟩,
    ⟨bench (word 0x1A 0 0 0 3 0 0 5), t0, ictx (word 0x1A 0 0 0 3 0 0 5), by decide +kernel⟩,
    fun n h => ⟨bench (word 0x1B 0 0 0 3 n 0 0), t0, ictx (word 0x1B 0 0 0 3 n 0 0), ?_⟩,
    fun n h => ⟨bench (word 0x1C 0 0 0 n 1 0 0), t0, ictx (word 0x1C 0 0 0 n 1 0 0), ?_⟩⟩
  · revert row; decide +kernel
  · revert row; decide +kernel
  · revert row; decide +kernel
  · revert row; decide +kernel
  · revert opc; decide +kernel
  · revert n; decide +kernel
  · revert n; decide +kernel

theorem raisable_bench (w : Nat) (f : Frag → Frag) (cis : Mem) (n : Nat) (hf : (f frag0).tenant < 256) (hc : (f frag0).cmd = 1) :
    Raisable (bench w f cis n) (ictx w f) :=
  ⟨hf, cmd0, by simp only [ictx, hc]; rfl, rfl, rfl, rfl⟩

/-- bne g1, g2 from 0: 8 bytes back is outside the image, 8 forward is inside an image of two words, and so on. -/
theorem witness_BranchesAndJumps :
    (∀ row ∈ branchRows, ∃ s t c, At s t row.1 c ∧ wTy c.w = 0 ∧ wMk c.w = 0 ∧ wX c.w = 0 ∧ wD c.w = 0 ∧ imageSize s c = 16) ∧
    (∃ s t c, At s t 0x21 c ∧ ((c.th.pc : Int) + 8 * (BitVec.ofNat 30 c.w).toInt - 8) % 2 ^ 64 = 0 ∧ c.th.rg (wA c.w) ≠ c.th.rg (wB c.w) ∧ 8 < imageSize s c) ∧
    (∃ s t c, At s t 0x20 c ∧ ((c.th.pc : Int) + 8 * (BitVec.ofNat 30 c.w).toInt - 16) % 2 ^ 64 = 0 ∧ c.th.rg (wA c.w) = c.th.rg (wB c.w) ∧
      16 = imageSize s c ∧ Raisable s c) ∧
    (∃ s t c, At s t 0x20 c ∧ ((c.th.pc : Int) + 8 * (BitVec.ofNat 30 c.w).toInt - 12) % 2 ^ 64 = 0 ∧ c.th.rg (wA c.w) = c.th.rg (wB c.w) ∧
      Raisable s c) ∧
    (∃ s t c, At s t 0x26 c ∧ wTy c.w = 0 ∧ wMk c.w = 0 ∧ wX c.w = 0 ∧ ((c.th.pc : Int) + 8 * (BitVec.ofNat 42 c.w).toInt - 8) % 2 ^ 64 = 0 ∧
      8 < imageSize s c) ∧
    (∃ s t c, At s t 0x27 c ∧ wTy c.w = 0 ∧ wMk c.w = 0 ∧ wX c.w = 0 ∧ 8 = (c.th.rg (wA c.w) + (BitVec.ofNat 36 c.w).signExtend 64).toNat ∧
      8 < imageSize s c) ∧
    (∃ s t c, At s t 0x27 c ∧ 7 = (c.th.rg (wA c.w) + (BitVec.ofNat 36 c.w).signExtend 64).toNat ∧ Raisable s c) ∧
    (∃ s t c, At s t 0x27 c ∧ imageSize s c = (c.th.rg (wA c.w) + (BitVec.ofNat 36 c.w).signExtend 64).toNat ∧ Raisable s c) := by
  refine ⟨fun row h => ⟨bench (word row.1 0 0 0 0 1 2 1) id [] 2, t0, ictx (word row.1 0 0 0 0 1 2 1), ?_⟩,
    ⟨bench (word 0x21 0 0 0 0 1 2 1) id [] 2, t0, ictx (word 0x21 0 0 0 0 1 2 1), by decide +kernel⟩,
    ⟨bench (word 0x20 0 0 0 0 1 1 2) id [] 2, t0, ictx (word 0x20 0 0 0 0 1 1 2), by decide +kernel, by decide, by decide, by decide +kernel,
      raisable_bench _ _ _ _ (by decide) rfl⟩,
    ⟨{ bench 0 (withThread fun x => { x with pc := 4 }) with progs := [⟨1, 1, [], zeros 4 ++ toLe 8 (word 0x20 0 0 0 0 1 1 1), none⟩] }, t0,
      ictx (word 0x20 0 0 0 0 1 1 1) (withThread fun x => { x with pc := 4 }), by decide +kernel, by decide +kernel, by decide,
      ⟨by decide, cmd0, by decide +kernel⟩⟩,
    ⟨bench (word 0x26 0 0 0 0 0 0 1) id [] 2, t0, ictx (word 0x26 0 0 0 0 0 0 1), by decide +kernel⟩,
    ⟨bench (word 0x27 0 0 0 63 0 0 8) id [] 2, t0, ictx (word 0x27 0 0 0 63 0 0 8), by decide +kernel⟩,
    ⟨bench (word 0x27 0 0 0 63 0 0 7) id [] 2, t0, ictx (word 0x27 0 0 0 63 0 0 7), by decide +kernel, by decide +kernel,
      raisable_bench _ _ _ _ (by decide) rfl⟩,
    ⟨bench (word 0x27 0 0 0 63 0 0 16) id [] 2, t0, ictx (word 0x27 0 0 0 63 0 0 16), by decide +kernel, by decide +kernel,
      raisable_bench _ _ _ _ (by decide) rfl⟩⟩
  revert row; decide +kernel

theorem witness_TrapException :
    (∃ s t c, At s t 0x2F c ∧ wTy c.w = 0 ∧ wMk c.w = 0 ∧ wX c.w = 0 ∧ wD c.w = 0 ∧ wA c.w = 0 ∧ field c.w 35 16 = 0 ∧ Raisable s c) ∧
    (∃ s t c, At s t 0x2F c ∧ wTy c.w = 0 ∧ wMk c.w = 0 ∧ wX c.w = 0 ∧ wD c.w = 0 ∧ wA c.w = 0 ∧ field c.w 35 16 = 1 ∧ Raisable s c) :=
  ⟨⟨bench (word 0x2F 0 0 0 0 0 0 0xFFFF), t0, ictx (word 0x2F 0 0 0 0 0 0 0xFFFF), by decide +kernel, by decide, by decide, by decide,
      by decide, by decide, by decide, raisable_bench _ _ _ _ (by decide) rfl⟩,
    ⟨bench (word 0x2F 0 0 0 0 0 0 0x10000), t0, ictx (word 0x2F 0 0 0 0 0 0 0x10000), by decide +kernel, by decide, by decide, by decide,
      by decide, by decide, by decide, raisable_bench _ _ _ _ (by decide) rfl⟩⟩

/-- Every load and store width at the last aligned offset of the area (g1 = 64). -/
theorem witness_CisternLoadStore :
    (∀ ty ∈ [2, 3, 4, 5, 6, 7, 8, 9], ∃ s t c, At s t 0x30 c ∧ wTy c.w = ty ∧ wX c.w = 1 ∧ wMk c.w = 0 ∧ wB c.w = 0 ∧ c.cisOff % (tyWidth ty / 8) = 0 ∧
      c.cisOff + tyWidth ty / 8 = c.frag.cis * 65536 ∧ s.cis.wf = true) ∧
    (∃ s t c, At s t 0x32 c ∧ wTy c.w = 0 ∧ wX c.w = 1 ∧ wMk c.w = 0 ∧ wB c.w = 0 ∧ wD c.w = 31 ∧ c.cisOff % 64 = 0 ∧
      c.cisOff + 128 = c.frag.cis * 65536 ∧ s.cis.wf = true) ∧
    (∀ ty ∈ [2, 3, 4, 5], ∃ s t c, At s t 0x31 c ∧ wTy c.w = ty ∧ wX c.w = 1 ∧ wMk c.w = 0 ∧ wD c.w = 0 ∧ c.cisOff % (tyWidth ty / 8) = 0 ∧
      c.cisOff + tyWidth ty / 8 = c.frag.cis * 65536 ∧ s.cis.wf = true) ∧
    (∀ ty ∈ [0, 2, 9], ∃ s t c, At s t 0x33 c ∧ wTy c.w = ty ∧ (ty = 0 ↔ wMk c.w = 0) ∧ wX c.w = 1 ∧ wB c.w = 0 ∧ wD c.w = 31 ∧
      c.cisOff % 64 = 0 ∧ c.cisOff + 128 = c.frag.cis * 65536 ∧ s.cis.wf = true) := by
  refine ⟨fun ty h => ⟨bench (word 0x30 ty 0 1 3 1 0 (64 * 65536 - 64 - tyWidth ty / 8)), t0,
      ictx (word 0x30 ty 0 1 3 1 0 (64 * 65536 - 64 - tyWidth ty / 8)), ?_⟩,
    ⟨bench (word 0x32 0 0 1 31 1 0 (64 * 65536 - 192)), t0, ictx (word 0x32 0 0 1 31 1 0 (64 * 65536 - 192)), by decide +kernel⟩,
    fun ty h => ⟨bench (word 0x31 ty 0 1 0 1 2 (64 * 65536 - 64 - tyWidth ty / 8)), t0,
      ictx (word 0x31 ty 0 1 0 1 2 (64 * 65536 - 64 - tyWidth ty / 8)), ?_⟩,
    fun ty h => ⟨bench (word 0x33 ty (Nat.min ty 1) 1 31 1 0 (64 * 65536 - 192)), t0, ictx (word 0x33 ty (Nat.min ty 1) 1 31 1 0 (64 * 65536 - 192)), ?_⟩⟩
  <;> (revert ty; decide +kernel)

/-- A miss and a hit of the line cache at the start of the allocation (g4), and a store at the last word of the output range (g6). -/
theorem witness_DeviceLoadAndHostStore :
    (∃ s t c line, At s t 0x30 c ∧ wX c.w = 0 ∧ wMk c.w = 0 ∧ wTy c.w = 5 ∧ wB c.w = 0 ∧ c.vaddr < 2 ^ 63 ∧ c.vaddr % 8 = 0 ∧
      s.devMapped c.frag.tenant c.vaddr 8 = true ∧ s.badFill c.mem.cluster c.frag.tenant c.vaddr 8 = false ∧
      ((s.cluster c.mem.cluster).lines.find? fun x => x.isAt c.frag.tenant (c.vaddr / 64)) = none ∧
      (s.cluster c.mem.cluster).lines.length < 1024 ∧ line = s.devRd c.frag.tenant (c.vaddr / 64 * 64) 64) ∧
    (∃ s t c line, At s t 0x30 c ∧ wX c.w = 0 ∧ wMk c.w = 0 ∧ wTy c.w = 2 ∧ wB c.w = 0 ∧ c.vaddr < 2 ^ 63 ∧
      s.devMapped c.frag.tenant c.vaddr 1 = true ∧ s.badFill c.mem.cluster c.frag.tenant c.vaddr 1 = false ∧
      ((s.cluster c.mem.cluster).lines.find? fun x => x.isAt c.frag.tenant (c.vaddr / 64)).map (·.data) = some line) ∧
    (∃ s t c, At s t 0x31 c ∧ wX c.w = 0 ∧ wMk c.w = 0 ∧ wTy c.w = 5 ∧ wD c.w = 0 ∧ 2 ^ 63 ≤ c.vaddr ∧ c.vaddr % 8 = 0 ∧
      s.hostRefused c.frag.tenant (c.vaddr - 2 ^ 63) 8 = false ∧ (∀ i, i < 8 → c.mayStore s (c.vaddr + i) = true) ∧
      c.frag.held.length + 8 ≤ 2 ^ 30 ∧ c.mayStore s (c.vaddr + 8) = false) :=
  ⟨⟨bench (word 0x30 5 0 0 3 4 0 0), t0, ictx (word 0x30 5 0 0 3 4 0 0), zeros 64, by decide +kernel⟩,
    ⟨withCluster { Cluster.reset with lines := [⟨1, 0x400, zeros 64, 0, false⟩] } (bench (word 0x30 2 0 0 3 4 0 63)), t0,
      ictx (word 0x30 2 0 0 3 4 0 63), zeros 64, by decide +kernel⟩,
    ⟨bench (word 0x31 5 0 0 0 6 2 0xFF8), t0, ictx (word 0x31 5 0 0 0 6 2 0xFF8), by decide +kernel⟩⟩

theorem witness_CisternAtomics :
    (∀ ty ∈ [4, 5, 14], ∃ s t c n, wX c.w = 1 ∧ wMk c.w = 0 ∧ n = (if wTy c.w = 5 then 8 else 4) ∧ s.cis.wf = true ∧ c.cisOff % n = 0 ∧
      c.cisOff + n = c.frag.cis * 65536 ∧ At s t 0x34 c ∧ wTy c.w = ty) ∧
    (∀ ty ∈ [4, 5], ∃ s t c n, wX c.w = 1 ∧ wMk c.w = 0 ∧ n = (if wTy c.w = 5 then 8 else 4) ∧ s.cis.wf = true ∧ c.cisOff % n = 0 ∧
      c.cisOff + n = c.frag.cis * 65536 ∧ At s t 0x35 c ∧ wTy c.w = ty) := by
  refine ⟨fun ty h => ⟨bench (word 0x34 ty 0 1 3 1 2 (64 * 65536 - 64 - tyWidth ty / 8)), t0,
      ictx (word 0x34 ty 0 1 3 1 2 (64 * 65536 - 64 - tyWidth ty / 8)), tyWidth ty / 8, ?_⟩,
    fun ty h => ⟨bench (word 0x35 ty 0 1 3 1 2 (64 * 65536 - 64 - tyWidth ty / 8)), t0,
      ictx (word 0x35 ty 0 1 3 1 2 (64 * 65536 - 64 - tyWidth ty / 8)), tyWidth ty / 8, ?_⟩⟩ <;>
  · revert ty; decide +kernel

theorem witness_MaintenanceAndFences :
    (∀ opc ∈ [0x38, 0x39], ∃ s t c, At s t opc c ∧ onlyUses c.w (usesA ||| usesB) = true ∧
      ∃ x ∈ (s.cluster c.mem.cluster).lines, c.inRange s x = true ∧ x.dirty ≠ 0) ∧
    (∀ opc ∈ [0x3A, 0x3B], ∃ s t c, At s t opc c ∧ onlyUses c.w (usesA ||| usesB) = true ∧ onlyUses c.w 0 = true) := by
  refine ⟨fun opc h => ⟨withCluster { Cluster.reset with lines := [⟨1, 0x400, zeros 64, 1, false⟩] } (bench (word opc 0 0 0 0 4 5 0)), t0,
      ictx (word opc 0 0 0 0 4 5 0), ?_⟩, fun opc h => ⟨bench (word opc 0 0 0 0 0 0 0), t0, ictx (word opc 0 0 0 0 0 0 0), ?_⟩⟩ <;>
  · revert opc; decide +kernel

/-- Every type that a row takes, with a mask, X set and the highest registers; a shift row takes no float. -/
theorem witness_VectorLanewise :
    (∀ row ∈ vecRows, ∀ ty ∈ [2, 3, 4, 5, 6, 7, 8, 9] ++ (if row.1 ≤ 0x45 then [12, 13, 14] else []), ∃ s t c, At s t row.1 c ∧ wTy c.w = ty ∧
      onlyUses c.w (usesTy ||| usesMk ||| usesX ||| usesD ||| usesA ||| usesB) = true ∧ wD c.w = 31 ∧ wA c.w = 31 ∧ wB c.w = 0 ∧ wMk c.w = 7 ∧ wX c.w = 1) := by
  refine fun row h ty h2 => ⟨bench (word row.1 ty 7 1 31 31 0 0), t0, ictx (word row.1 ty 7 1 31 31 0 0), ?_⟩
  revert row ty; decide +kernel

/-- Lanes of the four special values: −∞ for exp, ±0 for the reciprocal, −1 for the square root, and a NaN. -/
theorem witness_VectorFunctions :
    (∀ ty ∈ [12, 13, 14], ∃ s t c, At s t 0x43 c ∧ wTy c.w = ty ∧ wD c.w = 31 ∧ wA c.w = 31 ∧ wB c.w = 31 ∧ wC c.w = 31 ∧
      onlyUses c.w (usesTy ||| usesMk ||| usesX ||| usesD ||| usesA ||| usesB ||| usesC) = true) ∧
    (∀ row ∈ [(0x54, 0xFF800000), (0x55, 0), (0x55, 0x80000000), (0x56, 0x80000001), (0x56, 0xFF800000), (0x54, 0x7FC00000)], ∃ s t c,
      At s t row.1 c ∧ wD c.w = 31 ∧ wA c.w = 1 ∧ wTy c.w = 14 ∧ onlyUses c.w (usesTy ||| usesMk ||| usesX ||| usesD ||| usesA) = true ∧
      lane1 32 (c.th.rv (wA c.w)) 0 = row.2 ∧ c.active 0 = true ∧ c.active 31 = false ∧
      (row.2 = 0x7FC00000 → fF32.isNan (lane1 32 (c.th.rv (wA c.w)) 0) = true)) := by
  refine ⟨fun ty h => ⟨bench (word 0x43 ty 0 0 31 31 31 (31 * 2 ^ 24)), t0, ictx (word 0x43 ty 0 0 31 31 31 (31 * 2 ^ 24)), ?_⟩,
    fun row h => ⟨bench (word row.1 14 1 0 31 1 0 0) (withThread fun x => { x with v := [(1, BitVec.ofNat 1024 row.2)], m := [(1, 1)] }), t0,
      ictx (word row.1 14 1 0 31 1 0 0) (withThread fun x => { x with v := [(1, BitVec.ofNat 1024 row.2)], m := [(1, 1)] }), ?_⟩⟩
  · revert ty; decide +kernel
  · revert row; decide +kernel

theorem witness_VectorCompareAndMove :
    (∃ s t c, At s t 0x4C c ∧ wTy c.w = 14 ∧ onlyUses c.w (usesTy ||| usesMk ||| usesD ||| usesA ||| usesB ||| usesSub 1 0) = true ∧ wD c.w = 7 ∧ wA c.w = 31 ∧ wB c.w = 31) ∧
    (∃ s t c, At s t 0x4D c ∧ wTy c.w = 2 ∧ onlyUses c.w (usesTy ||| usesMk ||| usesX ||| usesD ||| usesA ||| usesB ||| usesC) = true ∧ wD c.w = 31 ∧
      wA c.w = 31 ∧ wB c.w = 31 ∧ wC c.w = 7) ∧
    (∃ s t c, At s t 0x4F c ∧ wTy c.w = 12 ∧ onlyUses c.w (usesTy ||| usesMk ||| usesX ||| usesD ||| usesA) = true ∧ wD c.w = 31 ∧ wA c.w = 63) ∧
    (∃ s t c, At s t 0x50 c ∧ wTy c.w = 9 ∧ onlyUses c.w (usesTy ||| usesD ||| usesA ||| usesB) = true ∧ wA c.w = 31) ∧
    (∃ s t c, At s t 0x51 c ∧ wTy c.w = 9 ∧ onlyUses c.w (usesTy ||| usesD ||| usesA ||| usesB) = true ∧ wD c.w = 31) ∧
    (∃ s t c, At s t 0x52 c ∧ wTy c.w = 2 ∧ onlyUses c.w (usesTy ||| usesMk ||| usesX ||| usesD ||| usesA ||| usesB) = true ∧ wD c.w = 31 ∧
      wA c.w = 31 ∧ wB c.w = 31) :=
  ⟨⟨bench (word 0x4C 14 1 0 7 31 31 3), t0, ictx (word 0x4C 14 1 0 7 31 31 3), by decide +kernel⟩,
    ⟨bench (word 0x4D 2 1 1 31 31 31 (7 * 2 ^ 24)), t0, ictx (word 0x4D 2 1 1 31 31 31 (7 * 2 ^ 24)), by decide +kernel⟩,
    ⟨bench (word 0x4F 12 1 1 31 63 0 0), t0, ictx (word 0x4F 12 1 1 31 63 0 0), by decide +kernel⟩,
    ⟨bench (word 0x50 9 0 0 63 31 63 0), t0, ictx (word 0x50 9 0 0 63 31 63 0), by decide +kernel⟩,
    ⟨bench (word 0x51 9 0 0 31 63 63 0), t0, ictx (word 0x51 9 0 0 31 63 63 0), by decide +kernel⟩,
    ⟨bench (word 0x52 2 7 1 31 31 31 0), t0, ictx (word 0x52 2 7 1 31 31 31 0), by decide +kernel⟩⟩

/-- i8 to i64 and back at the last part that the widths allow; a reduction with no active lane. -/
theorem witness_VectorConvertAndReduce :
    (∃ s t c, At s t 0x4E c ∧ wD c.w = 31 ∧ wA c.w = 31 ∧ wTy c.w = 5 ∧ wC c.w = 2 ∧ wMk c.w = 0 ∧
      onlyUses c.w (usesTy ||| usesMk ||| usesX ||| usesD ||| usesA ||| usesC ||| usesSub 2 0) = true ∧ field c.w 2 0 + 1 = tyWidth (wTy c.w) / tyWidth (wC c.w)) ∧
    (∃ s t c, At s t 0x4E c ∧ wD c.w = 31 ∧ wA c.w = 31 ∧ wTy c.w = 2 ∧ wC c.w = 5 ∧ wMk c.w = 0 ∧
      onlyUses c.w (usesTy ||| usesMk ||| usesX ||| usesD ||| usesA ||| usesC ||| usesSub 2 0) = true ∧ field c.w 2 0 + 1 = tyWidth (wC c.w) / tyWidth (wTy c.w) ∧
      intMax (wTy c.w) < laneInt (wC c.w) (lane1 (tyWidth (wC c.w)) (c.th.rv (wA c.w)) 0)) ∧
    (∀ k ≤ 2, ∃ s t c, At s t 0x53 c ∧ wD c.w = 31 ∧ wA c.w = 31 ∧ wTy c.w = 9 ∧ onlyUses c.w (usesTy ||| usesMk ||| usesD ||| usesA ||| usesSub 1 0) = true ∧
      field c.w 1 0 = k ∧ ∀ i, i < 1024 / tyWidth (wTy c.w) → c.active i = false) := by
  refine ⟨⟨bench (word 0x4E 5 0 0 31 31 0 (2 * 2 ^ 24 + 7)), t0, ictx (word 0x4E 5 0 0 31 31 0 (2 * 2 ^ 24 + 7)), by decide +kernel⟩,
    ⟨bench (word 0x4E 2 0 0 31 31 0 (5 * 2 ^ 24 + 7)) (withThread fun x => { x with v := [(31, 128)] }), t0,
      ictx (word 0x4E 2 0 0 31 31 0 (5 * 2 ^ 24 + 7)) (withThread fun x => { x with v := [(31, 128)] }), by decide +kernel⟩,
    fun k h => ⟨bench (word 0x53 9 1 0 31 31 0 k), t0, ictx (word 0x53 9 1 0 31 31 0 k), ?_⟩⟩
  revert k; decide +kernel

theorem witness_MaskInstructions :
    (∀ row ∈ maskRows, ∃ s t c, At s t row.1 c ∧ wTy c.w = 0 ∧ wMk c.w = 0 ∧ wX c.w = 0 ∧ wC c.w = 0 ∧ wSub c.w = 0 ∧ wD c.w = 7 ∧ wA c.w = 7 ∧ wB c.w = 7) ∧
    (∀ opc ∈ [0x5B, 0x5C, 0x5D, 0x5E], ∃ s t c, At s t opc c ∧ wTy c.w = 0 ∧ wMk c.w = 0 ∧ wX c.w = 0 ∧ wC c.w = 0 ∧ wB c.w = 0 ∧ wSub c.w = 0 ∧ wD c.w = 7 ∧ wA c.w = 7) ∧
    (∃ s t c, At s t 0x5F c ∧ wTy c.w = 0 ∧ wMk c.w = 0 ∧ wX c.w = 0 ∧ wC c.w = 0 ∧ wB c.w = 0 ∧ field c.w 23 1 = 0 ∧ field c.w 0 0 = 1 ∧ wA c.w = 7) := by
  refine ⟨fun row h => ⟨bench (word row.1 0 0 0 7 7 7 0), t0, ictx (word row.1 0 0 0 7 7 7 0), ?_⟩,
    fun opc h => ⟨bench (word opc 0 0 0 7 7 0 0), t0, ictx (word opc 0 0 0 7 7 0 0), ?_⟩,
    ⟨bench (word 0x5F 0 0 0 7 7 0 1), t0, ictx (word 0x5F 0 0 0 7 7 0 1), by decide +kernel⟩⟩
  · revert row; decide +kernel
  · revert opc; decide +kernel

/-- Registers at the last place of a 16 KiB tile in the area. -/
def gTile (x : Thread) : Thread := { x with g := [(1, 64 * 65536 - 16384)] }
def busyTile (k : Nat) : Cluster := { Cluster.reset with tensor := [⟨1, 0, 0, k, 2, []⟩] }

theorem witness_TileInstructions :
    (∀ ty ∈ [4, 14], ∃ s t c, At s t 0x63 c ∧ wMk c.w = 0 ∧ wX c.w = 0 ∧ onlyUses c.w (usesTy ||| usesD) = true ∧ wTy c.w = ty ∧ wD c.w + 1 = c.frag.tiles ∧ s.tileBusy c (wD c.w) = false) ∧
    (∀ ty ∈ [4, 14], ∃ s t c, At s t 0x61 c ∧ wMk c.w = 0 ∧ wX c.w = 0 ∧ onlyUses c.w (usesTy ||| usesD ||| usesA) = true ∧ wTy c.w = ty ∧ wD c.w + 1 = c.frag.tiles ∧
      s.tileBusy c (wD c.w) = false ∧ (c.th.rg (wA c.w)).toNat + 16384 = c.frag.cis * 65536) ∧
    (∃ s t c, At s t 0x62 c ∧ wMk c.w = 0 ∧ wX c.w = 0 ∧ onlyUses c.w (usesA ||| usesB) = true ∧ wA c.w + 1 = c.frag.tiles ∧ s.tileBusy c (wA c.w) = false ∧
      (c.th.rg (wB c.w)).toNat + 16384 = c.frag.cis * 65536 ∧ s.cis.wf = true) ∧
    (∃ s t c, At s t 0x64 c ∧ wMk c.w = 0 ∧ wX c.w = 0 ∧ onlyUses c.w (usesD ||| usesA ||| usesB ||| usesSub 0 0) = true ∧ wD c.w = 31 ∧ wA c.w + 1 = c.frag.tiles ∧
      s.tileBusy c (wA c.w) = false) ∧
    (∃ s t c, At s t 0x63 c ∧ onlyUses c.w (usesTy ||| usesD) = true ∧ wTy c.w = 4 ∧ wD c.w < c.frag.tiles ∧ s.tileBusy c (wD c.w) = true) ∧
    (∃ s t c, At s t 0x61 c ∧ onlyUses c.w (usesTy ||| usesD ||| usesA) = true ∧ wTy c.w = 14 ∧ wD c.w < c.frag.tiles ∧ s.tileBusy c (wD c.w) = true) ∧
    (∃ s t c, At s t 0x62 c ∧ onlyUses c.w (usesA ||| usesB) = true ∧ wA c.w < c.frag.tiles ∧ s.tileBusy c (wA c.w) = true) ∧
    (∃ s t c, At s t 0x64 c ∧ onlyUses c.w (usesD ||| usesA ||| usesB ||| usesSub 0 0) = true ∧ wD c.w ≤ 31 ∧ wA c.w < c.frag.tiles ∧ s.tileBusy c (wA c.w) = true) := by
  refine ⟨fun ty h => ⟨bench (word 0x63 ty 0 0 1 0 0 0), t0, ictx (word 0x63 ty 0 0 1 0 0 0), ?_⟩,
    fun ty h => ⟨bench (word 0x61 ty 0 0 1 1 0 0) (withThread gTile), t0, ictx (word 0x61 ty 0 0 1 1 0 0) (withThread gTile), ?_⟩,
    ⟨bench (word 0x62 0 0 0 0 1 1 0) (withThread gTile), t0, ictx (word 0x62 0 0 0 0 1 1 0) (withThread gTile), by decide +kernel⟩,
    ⟨bench (word 0x64 0 0 0 31 1 2 1), t0, ictx (word 0x64 0 0 0 31 1 2 1), by decide +kernel⟩,
    ⟨withCluster (busyTile 1) (bench (word 0x63 4 0 0 1 0 0 0)), t0, ictx (word 0x63 4 0 0 1 0 0 0), by decide +kernel⟩,
    ⟨withCluster (busyTile 0) (bench (word 0x61 14 0 0 0 1 0 0)), t0, ictx (word 0x61 14 0 0 0 1 0 0), by decide +kernel⟩,
    ⟨withCluster (busyTile 1) (bench (word 0x62 0 0 0 0 1 1 0)), t0, ictx (word 0x62 0 0 0 0 1 1 0), by decide +kernel⟩,
    ⟨withCluster (busyTile 0) (bench (word 0x64 0 0 0 31 0 2 1)), t0, ictx (word 0x64 0 0 0 31 0 2 1), by decide +kernel⟩⟩
  · revert ty; decide +kernel
  · revert ty; decide +kernel

/-- A tensor descriptor of K = 32, unscaled dense int8 with this ACC. -/
def tensor0 (acc : Nat) : List Byte :=
  toLe 4 0x1000 ++ toLe 4 0x2000 ++ toLe 4 32 ++ toLe 2 32 ++ toLe 2 32 ++ toLe 4 (acc * 512 + 2) ++ zeros 44
def cis0 (b : List Byte) : Mem := Mem.wrN [] 64 b

theorem witness_TensorMultiply :
    (∀ acc ≤ 1, ∃ s t c b d, At s t 0x60 c ∧ onlyUses c.w (usesTy ||| usesD ||| usesA) = true ∧ wD c.w < c.frag.tiles ∧
      (c.th.rg (wA c.w)).toNat + 64 ≤ c.frag.cis * 65536 ∧ b = c.cisRd s (c.th.rg (wA c.w)).toNat 64 ∧ d = tdesc b ∧
      tdescBad b (wTy c.w) = none ∧ d.acc = decide (acc = 1) ∧ (d.acc = true → s.tileInt c (wD c.w) = (decide (wTy c.w ≤ 2) && !d.scaled)) ∧
      (d.ranges (wTy c.w)).all (fun r => c.inArea r.1 r.2) = true ∧ d.scaled = false) ∧
    (∀ acc ≤ 1, ∃ s : State, ∃ l o rest f m d, (s.cluster l).tensor = o :: rest ∧ s.active = true ∧ s.tripped = false ∧ s.frag? o.frag = some f ∧
      f.phase = .running ∧ f.members[o.mem]? = some m ∧ m.cluster = l ∧ d = tdesc o.desc ∧ o.ty = 2 ∧ d.aty = 2 ∧ d.scaled = false ∧
      d.sparse = false ∧ d.acc = decide (acc = 1)) := by
  refine ⟨fun acc h => ⟨bench (word 0x60 2 0 0 1 1 0 0) (withMember fun m => { m with tiles := [(1, ⟨true, []⟩)] }) (cis0 (tensor0 acc)), t0,
      ictx (word 0x60 2 0 0 1 1 0 0) (withMember fun m => { m with tiles := [(1, ⟨true, []⟩)] }), tensor0 acc, tdesc (tensor0 acc), ?_⟩,
    fun acc h => ⟨withCluster { Cluster.reset with tensor := [⟨1, 0, 0, 1, 2, tensor0 acc⟩] } (bench 0), 0, ⟨1, 0, 0, 1, 2, tensor0 acc⟩, [], frag0, member0, tdesc (tensor0 acc), ?_⟩⟩ <;>
  · revert acc; decide +kernel

/-- A comb descriptor of `k` narrow pairs, ascending FP32 keys without DEDUP, run area at 0x1000. -/
def combDesc0 (k : Nat) : List Byte := toLe 4 k ++ toLe 4 0 ++ toLe 4 0x1000 ++ zeros 20
def combCtx0 (wide : Bool) (n : Nat) : CombCtx :=
  { frag := 1, tenant := 1, k := 2, dedup := false, desc := false, ktype := 0, wide := wide, area := 0x1000, descAt := 64, run := [],
    block := List.replicate n (1, 5), pushed := n, dups := 0, astray := false }
def combCluster (wide : Bool) (n : Nat) : Cluster := { Cluster.reset with ctx := [(3, combCtx0 wide n)] }

theorem witness_CombContexts :
    (∀ k ∈ [1, 65536], ∃ s t c b, At s t 0x6C c ∧ onlyUses c.w (usesA ||| usesSub 1 0) = true ∧ (c.th.rg (wA c.w)).toNat + 32 ≤ c.frag.cis * 65536 ∧
      b = c.cisRd s (c.th.rg (wA c.w)).toNat 32 ∧ leAt b 0 4 = k ∧ field (leAt b 4 4) 5 4 ≠ 3 ∧
      field (leAt b 4 4) 31 8 = 0 ∧ field (leAt b 4 4) 2 0 = 0 ∧ leAt b 0x1C 4 = 0 ∧ leAt b 8 4 % 64 = 0 ∧
      c.inArea (leAt b 8 4) (runAreaBytes (bit (leAt b 4 4) 3) (leAt b 0 4)) = true ∧ c.combFull s (field c.w 1 0) = false ∧
      s.overlapping c.mem.cluster (field c.w 1 0) (c.mem.base + leAt b 8 4) (runAreaBytes (bit (leAt b 4 4) 3) (leAt b 0 4)) = []) ∧
    (∃ s t c k, onlyUses c.w (usesMk ||| usesA ||| usesSub 1 0) = true ∧ c.combCtx s (field c.w 1 0) = some k ∧ k.block.length = 255 ∧
      k.dedup = false ∧ k.run.length < k.k ∧ At s t 0x6D c ∧ wA c.w = 28 ∧ k.wide = false) ∧
    (∃ s t c k, onlyUses c.w (usesMk ||| usesA ||| usesSub 1 0) = true ∧ c.combCtx s (field c.w 1 0) = some k ∧ k.block.length = 255 ∧
      k.dedup = false ∧ k.run.length < k.k ∧ At s t 0x6E c ∧ wA c.w = 29 ∧ k.wide = true) ∧
    (∃ s : State, ∃ l n k, s.active = true ∧ Map.get? (s.cluster l).ctx n = some k ∧ 256 = k.block.length) ∧
    (∃ s t c k, At s t 0x6F c ∧ onlyUses c.w (usesSub 1 0) = true ∧ c.combCtx s (field c.w 1 0) = some k ∧ Map.rising (s.cluster c.mem.cluster).ctx = true ∧
      k.block.length = 255 ∧ k.astray = false ∧ c.mem.base ≤ k.area ∧ k.area + runAreaBytes k.wide k.k ≤ c.mem.base + c.frag.cis * 65536 ∧
      c.mem.base ≤ k.descAt ∧ k.descAt + 32 ≤ c.mem.base + c.frag.cis * 65536) := by
  refine ⟨fun k h => ⟨bench (word 0x6C 0 0 0 0 1 0 3) id (cis0 (combDesc0 k)), t0, ictx (word 0x6C 0 0 0 0 1 0 3), combDesc0 k, ?_⟩,
    ⟨withCluster (combCluster false 255) (bench (word 0x6D 0 0 0 0 28 0 3)), t0, ictx (word 0x6D 0 0 0 0 28 0 3), combCtx0 false 255, by decide +kernel⟩,
    ⟨withCluster (combCluster true 255) (bench (word 0x6E 0 0 0 0 29 0 3)), t0, ictx (word 0x6E 0 0 0 0 29 0 3), combCtx0 true 255, by decide +kernel⟩,
    ⟨withCluster (combCluster true 256) (bench 0), 0, 3, combCtx0 true 256, by decide +kernel⟩,
    ⟨withCluster (combCluster true 255) (bench (word 0x6F 0 0 0 0 0 0 3)), t0, ictx (word 0x6F 0 0 0 0 0 0 3), combCtx0 true 255, by decide +kernel⟩⟩
  revert k; decide +kernel

theorem reads_host {c : Ictx} {s : State} {a n : Nat} (h1 : isHost a = true) (h2 : c.mapped s a n = true) :
    Reads c s a n s (s.out.hostMem.rdN (hostKey c.tenant (a - 2 ^ 63)) n) := by
  intro k; simp [Ictx.readVia, h1, h2]

theorem writes_host {c : Ictx} {s : State} {a : Nat} {bs : List Byte} (h1 : isHost a = true) (h2 : c.mapped s a bs.length = true)
    (h3 : ((List.range bs.length).any (fun i => !c.mayStore s (a + i)) || c.overHeld a (bs.map fun b => (true, b))) = false) :
    Writes c s a bs (c.hold s a (bs.map fun b => (true, b))) := by
  intro k
  simp only [Ictx.writeVia, h1, h2]
  simp only [Bool.true_and, h3]
  simp

/-- Two narrow runs of one pair each in the host window, K = 1, output to the last 8 bytes of the output range. -/
def mergeDesc : List Byte :=
  toLe 4 1 ++ toLe 4 0 ++ toLe 4 2 ++ toLe 4 0 ++ toLe 8 (2 ^ 63 + 0x2000) ++ toLe 8 (2 ^ 63 + 0x1FF8) ++ zeros 32
def mergeList : List Byte :=
  toLe 8 (2 ^ 63 + 0x3000) ++ toLe 4 1 ++ toLe 4 0 ++ toLe 8 (2 ^ 63 + 0x3008) ++ toLe 4 1 ++ toLe 4 0
def mergeMem : Mem :=
  (Mem.wrN [] (hostKey 1 0x2000) mergeList).wrN (hostKey 1 0x3000) (toLe 4 9 ++ toLe 4 0x40000000 ++ toLe 4 8 ++ toLe 4 0x3F800000)
def mergeBench : State :=
  { bench (word 0x70 0 0 0 0 1 0 0) id (cis0 mergeDesc) with out := { Outside.reset with hostMem := mergeMem } }

/-- What `comb.merge` of the bench meets before it reads or writes. -/
theorem mergeBench_fits : At mergeBench t0 0x70 (ictx (word 0x70 0 0 0 0 1 0 0)) ∧ onlyUses (word 0x70 0 0 0 0 1 0 0) usesA = true ∧
    ((ictx (word 0x70 0 0 0 0 1 0 0)).th.rg (wA (word 0x70 0 0 0 0 1 0 0))).toNat + 64 ≤ (ictx (word 0x70 0 0 0 0 1 0 0)).frag.cis * 65536 ∧
    mergeDesc = (ictx (word 0x70 0 0 0 0 1 0 0)).cisRd mergeBench ((ictx (word 0x70 0 0 0 0 1 0 0)).th.rg (wA (word 0x70 0 0 0 0 1 0 0))).toNat 64 := by
  decide +kernel

theorem mergeDesc_fits : 0 = leAt mergeDesc 4 4 ∧ leAt mergeDesc 8 4 = 2 ∧ 1 ≤ leAt mergeDesc 0 4 ∧ leAt mergeDesc 0 4 ≤ 65536 ∧ field 0 5 4 ≠ 3 ∧
    field 0 31 8 = 0 ∧ field 0 2 0 = 0 ∧ leAt mergeDesc 0xC 4 = 0 ∧ (mergeDesc.drop 0x28).all (· == 0) = true ∧ leAt mergeList 12 4 = 0 ∧
    leAt mergeList 28 4 = 0 := by decide +kernel

theorem witness_CombMerge : ∃ s t c b f s1 s2 s3 s4 list r1 r2 out u, At s t 0x70 c ∧ onlyUses c.w usesA = true ∧ (c.th.rg (wA c.w)).toNat + 64 ≤ c.frag.cis * 65536 ∧
    b = c.cisRd s (c.th.rg (wA c.w)).toNat 64 ∧ f = leAt b 4 4 ∧ leAt b 8 4 = 2 ∧ 1 ≤ leAt b 0 4 ∧ leAt b 0 4 ≤ 65536 ∧ field f 5 4 ≠ 3 ∧
    field f 31 8 = 0 ∧ field f 2 0 = 0 ∧ leAt b 0xC 4 = 0 ∧ (b.drop 0x28).all (· == 0) = true ∧
    sortedRun (field f 5 4) (bit f 6) (bit f 7) (runPairs (bit f 3) (leAt list 8 4) r1) = true ∧
    sortedRun (field f 5 4) (bit f 6) (bit f 7) (runPairs (bit f 3) (leAt list 24 4) r2) = true ∧
    u = pairUnion (field f 5 4) (bit f 6) (bit f 7) (runPairs (bit f 3) (leAt list 8 4) r1 ++ runPairs (bit f 3) (leAt list 24 4) r2) ∧
    out = (u.take (leAt b 0 4)).flatMap (runEntry (bit f 3) (field f 5 4)) ∧
    leAt list 12 4 = 0 ∧ leAt list 28 4 = 0 ∧
    Reads c s (leAt b 0x10 8) 32 s1 list ∧ Reads c s1 (leAt list 0 8) (leAt list 8 4 * runEntrySize (bit f 3)) s2 r1 ∧
    Reads c s2 (leAt list 16 8) (leAt list 24 4 * runEntrySize (bit f 3)) s3 r2 ∧ Writes c s3 (leAt b 0x18 8) out s4 := by
  let c := ictx (word 0x70 0 0 0 0 1 0 0)
  let r1 := toLe 4 9 ++ toLe 4 0x40000000
  let r2 := toLe 4 8 ++ toLe 4 0x3F800000
  let u := pairUnion 0 false false (runPairs false 1 r1 ++ runPairs false 1 r2)
  let out := (u.take 1).flatMap (runEntry false 0)
  obtain ⟨a1, a2, a3, a4⟩ := mergeBench_fits
  obtain ⟨d1, d2, d3, d4, d5, d6, d7, d8, d9, l1, l2⟩ := mergeDesc_fits
  have sorted : sortedRun 0 false false (runPairs false (leAt mergeList 8 4) r1) = true ∧
      sortedRun 0 false false (runPairs false (leAt mergeList 24 4) r2) = true ∧
      u = pairUnion 0 false false (runPairs false (leAt mergeList 8 4) r1 ++ runPairs false (leAt mergeList 24 4) r2) ∧
      out = (u.take (leAt mergeDesc 0 4)).flatMap (runEntry false 0) := by decide +kernel
  refine ⟨mergeBench, t0, c, mergeDesc, 0, mergeBench, mergeBench, mergeBench, c.hold mergeBench (2 ^ 63 + 0x1FF8) (out.map fun b => (true, b)), mergeList, r1, r2, out, u,
    a1, a2, a3, a4, d1, d2, d3, d4, d5, d6, d7, d8, d9, sorted.1, sorted.2.1, sorted.2.2.1, sorted.2.2.2, l1, l2, ?_, ?_, ?_, ?_⟩
  · rw [show mergeList = mergeBench.out.hostMem.rdN (hostKey c.tenant (leAt mergeDesc 0x10 8 - 2 ^ 63)) 32 from by decide +kernel]
    exact reads_host (by decide +kernel) (by decide +kernel)
  · rw [show r1 = mergeBench.out.hostMem.rdN (hostKey c.tenant (leAt mergeList 0 8 - 2 ^ 63)) (leAt mergeList 8 4 * runEntrySize (bit 0 3)) from by decide +kernel]
    exact reads_host (by decide +kernel) (by decide +kernel)
  · rw [show r2 = mergeBench.out.hostMem.rdN (hostKey c.tenant (leAt mergeList 16 8 - 2 ^ 63)) (leAt mergeList 24 4 * runEntrySize (bit 0 3)) from by decide +kernel]
    exact reads_host (by decide +kernel) (by decide +kernel)
  · rw [show leAt mergeDesc 0x18 8 = 2 ^ 63 + 0x1FF8 from by decide +kernel]
    exact writes_host (by decide +kernel) (by decide +kernel) (by decide +kernel)

/-- Two 16-byte entries of 8 codes at 0x1000, u8 tables at 0x2000, room for two records at 0x3000. -/
def scanBytes : List Byte :=
  toLe 4 0x1000 ++ toLe 4 2 ++ toLe 4 (16 * 1024 + 8) ++ toLe 4 0x2000 ++ toLe 4 0xFFFFFFFF ++ toLe 4 0 ++ toLe 4 5 ++ toLe 4 0x3000 ++ toLe 4 2 ++ zeros 28

theorem witness_LookupScan : ∃ s t c b d kept, At s t 0x68 c ∧ wTy c.w = 1 ∧ onlyUses c.w (usesTy ||| usesA) = true ∧
    (c.th.rg (wA c.w)).toNat + 64 ≤ c.frag.cis * 65536 ∧ b = c.cisRd s (c.th.rg (wA c.w)).toNat 64 ∧ d = scanDesc b ∧ scanBad b = none ∧
    d.dst = false ∧ d.src = false ∧ d.fp16 = false ∧ d.aux = 0xFFFFFFFF ∧ c.th.scanAt = none ∧ d.ebytes = entryBytes d.sub d.attrb ∧
    d.sub % 8 = 0 ∧ d.tbl % 64 = 0 ∧ d.ranges.all (fun r => c.inArea r.1 r.2) = true ∧
    (∀ i, i < d.fterms → termOk d.attrb (leNat (c.cisRd s (d.tbl + d.tableBytes + 8 * i) 8)) = true) ∧
    kept = ((List.range d.n).filter fun i => scanKeeps d (c.cisRd s d.tbl d.tableBytes)
      ((List.range d.fterms).map fun k => leNat (c.cisRd s (d.tbl + d.tableBytes + 8 * k) 8)) (c.cisRd s (d.inp + i * d.ebytes) d.ebytes)) ∧
    kept.length = d.outMax :=
  ⟨bench (word 0x68 1 0 0 0 1 0 0) id (cis0 scanBytes), t0, ictx (word 0x68 1 0 0 0 1 0 0), scanBytes, scanDesc scanBytes, [0, 1], by decide +kernel⟩

/-! ## Pumps, fragments, wells, quantisation -/

/-- A streaming strided pump of `n` elements of 8 bytes into port 2, ring of 16 at 0x4000. -/
def pumpBytes (n : Nat) : List Byte :=
  toLe 8 0x10000 ++ toLe 4 (2 * 2 ^ 24 + 2 ^ 17 + 3 * 2 ^ 10 + 4) ++ toLe 4 0x4000 ++ toLe 4 n ++ zeros 12 ++ toLe 4 8 ++ zeros 28
def port0 (mailbox : Bool) (n : Nat) : Port :=
  { pump := 2, esize := 3, depth := 16, mailbox := mailbox, elems := List.replicate n (.bytes (toLe 8 9) false), ended := false }
def withPump (running mailbox : Bool) (n : Nat) : Frag → Frag :=
  withMember fun m => { m with pumps := [(2, ⟨pumpDesc (pumpBytes 2), running, 1⟩)], ports := [(2, port0 mailbox n)] }

theorem witness_PumpsAndQueues :
    (∃ s t c b n, At s t 0x74 c ∧ onlyUses c.w (usesA ||| usesSub 2 0) = true ∧ n = field c.w 2 0 ∧ n + 1 = c.frag.pumps ∧
      (c.th.rg (wA c.w)).toNat + 64 ≤ c.frag.cis * 65536 ∧ b = c.cisRd s (c.th.rg (wA c.w)).toNat 64 ∧ pumpBad b = none ∧
      (pumpDesc b).port + 1 = c.frag.ports ∧ (pumpDesc b).buf % 64 = 0 ∧ c.inArea (pumpDesc b).buf ((pumpDesc b).depth * (pumpDesc b).size) = true) ∧
    (∃ s t c n p, At s t 0x75 c ∧ onlyUses c.w (usesSub 2 0) = true ∧ n = field c.w 2 0 ∧ n < c.frag.pumps ∧ Map.get? c.mem.pumps n = some p ∧ p.running = false) ∧
    (∃ s : State, ∃ f, ∃ m : Nat, ∃ n, ∃ x : Frag, ∃ mb : Member, ∃ p, ∃ k, ∃ q : Port, s.active = true ∧ s.tripped = false ∧ s.frag? f = some x ∧ x.phase = .running ∧ x.members[m]? = some mb ∧
      Map.get? mb.pumps n = some p ∧ p.running = true ∧ p.desc.mode = 0 ∧ p.desc.stream = true ∧ p.next + 1 = p.desc.total ∧
      Map.get? mb.ports k = some q ∧ q.pump = n ∧ q.elems.length < q.depth ∧ q.elems.length = 15 ∧
      p.desc.addrAt p.next < 2 ^ 63 ∧ p.desc.addrAt p.next % p.desc.size = 0 ∧
      s.devMapped x.tenant (p.desc.addrAt p.next) p.desc.size = true ∧ s.poisoned x.tenant (p.desc.addrAt p.next) p.desc.size = false ∧
      s.wellWrites x.tenant (p.desc.addrAt p.next) p.desc.size = false) ∧
    (∃ s t c q bs inner rest, At s t 0x76 c ∧ onlyUses c.w (usesX ||| usesD ||| usesC ||| usesSub 7 4) = true ∧ wX c.w = 0 ∧
      wD c.w ≠ wC c.w ∧ field c.w 7 4 < c.frag.ports ∧ Map.get? c.mem.ports (field c.w 7 4) = some q ∧ q.esize ≤ 3 ∧ q.elems = .bytes bs inner :: rest) ∧
    (∃ s t c q, At s t 0x77 c ∧ onlyUses c.w (usesX ||| usesA ||| usesSub 9 4 ||| usesSub 15 12) = true ∧ wX c.w = 0 ∧ field c.w 9 9 = 0 ∧
      field c.w 15 12 = 0 ∧ field c.w 7 4 < c.frag.ports ∧ Map.get? c.mem.ports (field c.w 7 4) = some q ∧ q.mailbox = true ∧ q.ended = false ∧
      q.esize ≤ 3 ∧ q.elems.length + 1 = q.depth) :=
  ⟨⟨bench (word 0x74 0 0 0 0 1 0 2) id (cis0 (pumpBytes 1)), t0, ictx (word 0x74 0 0 0 0 1 0 2), pumpBytes 1, 2, by decide +kernel⟩,
    ⟨bench (word 0x75 0 0 0 0 0 0 2) (withPump false false 0), t0, ictx (word 0x75 0 0 0 0 0 0 2) (withPump false false 0), 2, ⟨pumpDesc (pumpBytes 2), false, 1⟩, by decide +kernel⟩,
    ⟨bench 0 (withPump true false 15), 1, 0, 2, withPump true false 15 frag0, (withPump true false 15 frag0).members.getD 0 member0, ⟨pumpDesc (pumpBytes 2), true, 1⟩, 2,
      port0 false 15, by decide +kernel⟩,
    ⟨bench (word 0x76 0 0 0 3 0 0 (5 * 2 ^ 24 + 32)) (withPump true false 2), t0, ictx (word 0x76 0 0 0 3 0 0 (5 * 2 ^ 24 + 32)) (withPump true false 2), port0 false 2, toLe 8 9, false,
      [.bytes (toLe 8 9) false], by decide +kernel⟩,
    ⟨bench (word 0x77 0 0 0 0 1 0 32) (withPump true true 15), t0, ictx (word 0x77 0 0 0 0 1 0 32) (withPump true true 15), port0 true 15, by decide +kernel⟩⟩

/-- The last post, log entry and line that a fragment may have. -/
theorem witness_FragmentBuilding :
    (∃ s t c, At s t 0x78 c ∧ onlyUses c.w usesA = true ∧ (c.th.rg (wA c.w)).toNat + 64 ≤ c.frag.cis * 65536 ∧ c.frag.posts.length = 63) ∧
    (∀ opc ∈ [0x79, 0x7A], ∃ s t c, At s t opc c ∧ onlyUses c.w (usesA ||| usesB) = true ∧
      (c.th.rg (wA c.w)).toNat % 8 = 0 ∧ (c.th.rg (wA c.w)).toNat < 2 ^ 63 ∧
      s.devWritable c.frag.tenant (c.th.rg (wA c.w)).toNat 8 = true ∧ c.frag.logs.length = 255 ∧
      (logLines (c.frag.logs ++ [⟨opc == 0x7A, (c.th.rg (wA c.w)).toNat, c.th.rg (wB c.w)⟩])).length ≤ 16) ∧
    (∃ s t c, At s t 0x7B c ∧ onlyUses c.w usesA = true ∧ (c.th.rg (wA c.w)).toNat + 1 = 2 ^ 16) ∧
    (∃ s t c, At s t 0x7C c ∧ onlyUses c.w (usesA ||| usesB) = true) ∧ (∃ s t c, At s t 0x7D c ∧ onlyUses c.w 0 = true) := by
  refine ⟨⟨bench (word 0x78 0 0 0 0 1 0 0) (fun f => { f with posts := List.replicate 63 [] }), t0,
      ictx (word 0x78 0 0 0 0 1 0 0) (fun f => { f with posts := List.replicate 63 [] }), by decide +kernel⟩,
    fun opc h => ⟨bench (word opc 0 0 0 0 4 2 0) (fun f => { f with logs := List.replicate 255 ⟨true, 0x10008, 1⟩ }), t0,
      ictx (word opc 0 0 0 0 4 2 0) (fun f => { f with logs := List.replicate 255 ⟨true, 0x10008, 1⟩ }), ?_⟩,
    ⟨bench (word 0x7B 0 0 0 0 1 0 0) (withThread fun x => { x with g := [(1, 65535)] }), t0,
      ictx (word 0x7B 0 0 0 0 1 0 0) (withThread fun x => { x with g := [(1, 65535)] }), by decide +kernel⟩,
    ⟨bench (word 0x7C 0 0 0 0 1 2 0), t0, ictx (word 0x7C 0 0 0 0 1 2 0), by decide +kernel⟩,
    ⟨bench (word 0x7D 0 0 0 0 0 0 0), t0, ictx (word 0x7D 0 0 0 0 0 0 0), by decide +kernel⟩⟩
  revert opc; decide +kernel

/-- A COPY of 32 bytes inside one segment, both at 4 KiB granules. -/
def copyBytes : List Byte :=
  toLe 1 5 ++ toLe 1 0 ++ toLe 2 32 ++ toLe 4 0 ++ toLe 8 0x10000 ++ toLe 4 32 ++ toLe 4 32 ++ toLe 8 0x11000 ++ zeros 32
def well0 : WellOp :=
  { id := 1, tenant := 1, cmd := 1, frag := 1, cls := 1, cluster := 0, descAt := 64, desc := copyBytes, stack := 0, well := 0, well2 := none, pos := 0,
    count := 0, outPos := 0, st := .queued, intervals := 0, loaded := 0, credit := 0, stop := false, breach := false }
/-- The spare channel of stack 0 stands in for channel 31. -/
def spared0 : WellHw := { State.reset.wellHw with spared := [(0, 31)] }
def inner0 : List Range := [⟨0, 1, 0x11000, 0x1000⟩]

theorem witness_SealsAndWells :
    (∀ opc ∈ [0x81, 0x82], ∃ s t c a n, onlyUses c.w (usesD ||| usesA ||| usesB) = true ∧ a = (c.th.rg (wA c.w)).toNat ∧ n = (c.th.rg (wB c.w)).toNat ∧
      a % 4096 = 0 ∧ n % 4096 = 0 ∧ At s t opc c ∧ n = 0) ∧
    (∃ s t c a n m, onlyUses c.w (usesD ||| usesA ||| usesB) = true ∧ a = (c.th.rg (wA c.w)).toNat ∧ n = (c.th.rg (wB c.w)).toNat ∧
      a % 4096 = 0 ∧ n % 4096 = 0 ∧ At s t 0x82 c ∧ 0 < n ∧ s.segmentOf c.frag.tenant a n = some m ∧ c.inTurn s m = true ∧ RangesAligned s ∧ s.rangesUsed m.stack + n / 4096 ≤ 16384) ∧
    (∃ s t c a n m, onlyUses c.w (usesD ||| usesA ||| usesB) = true ∧ a = (c.th.rg (wA c.w)).toNat ∧ n = (c.th.rg (wB c.w)).toNat ∧
      a % 4096 = 0 ∧ n % 4096 = 0 ∧ At s t 0x81 c ∧ 0 < n ∧ s.segmentOf c.frag.tenant a n = some m ∧ c.inTurn s m = true ∧ RangesAligned s ∧ s.wellWrites c.frag.tenant a n = false ∧
      (s.ranges.filter fun r => r.stack == m.stack).length + s.ranges.length ≤ 16384 ∧ s.badInner c.frag.tenant a n = []) ∧
    (∃ s t c b d m m2, At s t 0x80 c ∧ onlyUses c.w usesA = true ∧ (c.th.rg (wA c.w)).toNat + 64 ≤ c.frag.cis * 65536 ∧
      b = c.cisRd s (c.th.rg (wA c.w)).toNat 64 ∧ d = wellDesc b ∧ s.wellRangeBad c.frag.tenant d = none ∧
      s.segmentOf c.frag.tenant d.inp d.inlen = some m ∧ s.segmentOf c.frag.tenant d.out d.outlen = some m2 ∧
      s.moving c.frag.tenant m.base = false ∧ s.moving c.frag.tenant m2.base = false ∧ (c.th.rg (wA c.w)).toNat % 64 = 0 ∧ wellUnchecked b = false ∧
      s.wellTablesBad c.frag.tenant d = false ∧ c.inTurn s m = true ∧ s.wellUp m = true ∧ s.wellUp m2 = true) ∧
    (∃ s : State, ∃ op units w d, s.live = true ∧ s.tripped = false ∧ s.wells.find? (fun x => x.id == op) = some w ∧ d = wellDesc w.desc ∧
      s.nextOp w = true ∧ w.usedWells.all (fun k => (s.wellsIn (k / 512)).contains (k % 512)) = true ∧ w.stop = false ∧
      w.breach = false ∧ s.poisoned w.tenant d.inp 32 = false ∧ d.op = 5 ∧ d.inlen = 32 ∧
      d.outlen = 32 ∧ w.pos = 0 ∧ 1 ≤ units ∧ 32 ≤ d.dur ∧ s.dev.wf = true ∧ d.out + 32 ≤ 2 ^ 64) ∧
    (ready.awake = true ∧ 11 < 12 ∧ 31 < 32) := by
  refine ⟨fun opc h => ⟨bench (word opc 0 0 0 3 4 0 0), t0, ictx (word opc 0 0 0 3 4 0 0), 0x10000, 0, ?_⟩,
    ⟨bench (word 0x82 0 0 0 3 4 5 0), t0, ictx (word 0x82 0 0 0 3 4 5 0), 0x10000, 0x1000, alloc0, by decide, by decide, by decide, by decide, by decide, by decide +kernel, by decide,
      by decide, by decide, by unfold RangesAligned; decide, by decide⟩,
    ⟨{ bench (word 0x81 0 0 0 3 4 5 0) with ranges := inner0 }, t0, ictx (word 0x81 0 0 0 3 4 5 0), 0x10000, 0x1000, alloc0, by decide, by decide, by decide, by decide, by decide,
      by decide +kernel, by decide, by decide, by decide, by unfold RangesAligned; decide, by decide, by decide, by decide⟩,
    ⟨{ bench (word 0x80 0 0 0 0 1 0 0) id (cis0 copyBytes) with ranges := inner0, wellHw := spared0 }, t0, ictx (word 0x80 0 0 0 0 1 0 0), copyBytes, wellDesc copyBytes, alloc0, alloc0, by decide +kernel⟩,
    ⟨{ bench 0 with wells := [well0], wellHw := spared0 }, 1, 1, well0, wellDesc copyBytes, by decide +kernel⟩, by decide +kernel⟩
  revert opc; decide +kernel

/-- One channel, slots at 0x1000, scales at 0x2000, descriptor at 64. -/
def statBytes : List Byte := toLe 4 1 ++ toLe 4 0 ++ toLe 4 0x1000 ++ toLe 4 0x2000

theorem witness_QuantAndStatistics :
    (∀ ty ∈ [1, 2], ∃ s t c e, At s t 0x88 c ∧ onlyUses c.w (usesTy ||| usesMk ||| usesD ||| usesA ||| usesB) = true ∧ wD c.w = 31 ∧ wA c.w = 31 ∧
      wTy c.w = ty ∧ e = (c.th.rg (wB c.w)).toNat ∧ e < 2 ^ 32 ∧ c.active 0 = true ∧ fF32.isNan (lane1 32 (c.th.rv (wA c.w)) 0) = true ∧ c.active 31 = false ∧ e % 2 ^ 15 = 0) ∧
    (∀ ty ∈ [1, 2], ∃ s t c e, At s t 0x89 c ∧ onlyUses c.w (usesTy ||| usesMk ||| usesX ||| usesD ||| usesA ||| usesB ||| usesSub 6 0) = true ∧
      wD c.w = 31 ∧ wA c.w = 31 ∧ wTy c.w = ty ∧ field c.w 3 0 = 14 ∧ field c.w 6 4 = (if wTy c.w = 1 then 7 else 3) ∧ e = (c.th.rg (wB c.w)).toNat) ∧
    (∀ opc ∈ [0x8A, 0x8B], ∃ s t c d, At s t opc c ∧ onlyUses c.w (usesTy ||| usesMk ||| usesA ||| usesB) = true ∧ wA c.w = 31 ∧ wTy c.w = 14 ∧
      (c.th.rg (wB c.w)).toNat + 16 ≤ c.frag.cis * 65536 ∧ d = statDesc (c.cisRd s (c.th.rg (wB c.w)).toNat 16) ∧ d.nch = 1 ∧ d.ch0 = 0 ∧
      fieldAt (c.cisRd s (c.th.rg (wB c.w)).toNat 16) 8 31 26 = 0 ∧ fieldAt (c.cisRd s (c.th.rg (wB c.w)).toNat 16) 0xC 31 24 = 0 ∧
      d.slots % 64 = 0 ∧ c.inArea d.slots 8 = true ∧ c.inArea d.scales 4 = true ∧ c.active 0 = true) := by
  refine ⟨fun ty h => ⟨bench (word 0x88 ty 1 0 31 31 7 0) (withThread fun x => { x with v := [(31, 0x7FC00000)], m := [(1, 1)], g := [(7, 0x8000)] }), t0,
      ictx (word 0x88 ty 1 0 31 31 7 0) (withThread fun x => { x with v := [(31, 0x7FC00000)], m := [(1, 1)], g := [(7, 0x8000)] }), 0x8000, ?_⟩,
    fun ty h => ⟨bench (word 0x89 ty 0 0 31 31 1 ((if ty = 1 then 7 else 3) * 16 + 14)), t0, ictx (word 0x89 ty 0 0 31 31 1 ((if ty = 1 then 7 else 3) * 16 + 14)), 64, ?_⟩,
    fun opc h => ⟨bench (word opc 14 0 0 0 31 1 0) id (cis0 statBytes), t0, ictx (word opc 14 0 0 0 31 1 0), statDesc statBytes, ?_⟩⟩
  · revert ty; decide +kernel
  · revert ty; decide +kernel
  · revert opc; decide +kernel

/-! ## Host queues and host commands -/

theorem runs {s : State} {c : Nat} {x : Cmd} (h : s.cmd? c = some x ∧ x.parent = none ∧ s.running c (fun _ => true) = true) : Runs s c x :=
  ⟨h.1, h.2.1, h.2.2⟩
theorem param {s : State} {x : Cmd} {fs : List (Nat × Nat)} {b : List Byte}
    (h : addrOk x.adminDev (x.u 0x18 8) = true ∧ s.spaceRd x.fn x.adminDev (x.u 0x18 8) 32 = some b ∧
      (x.adminDev = true → s.poisoned x.fn (x.u 0x18 8) 32 = false) ∧ cleanBut b fs = true) : Param s x fs b :=
  ⟨h.1, h.2.1, h.2.2.1, h.2.2.2⟩

/-- The state that a command leaves. -/
def after (s : State) (i : Instr) : State := match exec i s with | .next t => t | _ => s

/-- A submission entry: opcode, then the fields from 0x10. -/
def entry0 (opc : Nat) (u : List Byte) : List Byte := toLe 1 opc ++ zeros 15 ++ u ++ zeros (112 - u.length)
/-- An admitted command of function `fn`. -/
def hostCmd (fn opc : Nat) (u : List Byte) : Cmd := { cmd0 with fn := fn, entry := entry0 opc u, started := false }
/-- LAUNCH of Varelm program `p` by the tenant of function `fn`. -/
def vrCmd (fn p : Nat) (args : List Byte) : Cmd :=
  { cmd0 with fn := fn, entry := entry0 1 (toLe 4 p ++ toLe 1 1), started := false, args := args ++ zeros (128 - args.length) }
/-- The device with that one command. -/
def host (x : Cmd) : State := { ready with cmds := [x], allocs := [alloc0] }
def withHost (fn a : Nat) (bs : List Byte) (s : State) : State :=
  { s with out := { s.out with hostMem := s.out.hostMem.wrN (hostKey fn a) bs } }

/-- Submission queue 63 and completion queue 63 of the PF, of 16 slots, enabled. -/
def queues : State := after (after ready (.hqCqcfgEn 0 63 0x8000000F)) (.hqSqcfgEn 0 63 0x80FF000F)
/-- One entry of opcode 2 posted; its read fails in the second state. -/
def posted : State := after (withHost 0 0 (entry0 2 []) queues) (.hqSqdb 0 63 1)
def postedRefused : State := { posted with out := { posted.out with refused := [(0, 0, 4096)] } }
def fetched : State := after posted (.submissionFetch 0 63)

theorem witness_DoorbellsAndEnables :
    (queues.hostUp = true ∧ queues.fnState 0 = 0 ∧ queues.sqEn 0 63 = true ∧ queues.cqEn 0 63 = true ∧ queues.hqFld 0 (oSqCfg 63) 15 0 = 15 ∧
      queues.hqFld 0 (oCqCfg 63) 15 0 = 15 ∧ (15#32).toNat % 65536 ≤ 15 ∧ 15 < (16#32).toNat % 65536) ∧
    (ready.hostUp = true ∧ ready.fnState 255 = 0 ∧ ready.sqEn 255 0 = false ∧ ready.cqEn 255 0 = false) ∧
    (∃ s : State, ∃ fn q, ∃ v : Word, s.hostUp = true ∧ fn < 256 ∧ q < 64 ∧ bit v.toNat 31 = true ∧ field v.toNat 15 0 = 1 ∧ s.sqEn fn q = false ∧
      s.cqEn fn (field v.toNat 21 16) = true) ∧
    (∃ s : State, ∃ fn q, ∃ v : Word, s.hostUp = true ∧ fn < 256 ∧ q < 64 ∧ bit v.toNat 31 = true ∧ field v.toNat 15 0 = 1 ∧ s.cqEn fn q = false ∧
      field v.toNat 29 22 + 1 = vectorCount fn) := by
  refine ⟨by decide +kernel, by decide +kernel, ⟨after ready (.hqCqcfgEn 0 63 0x8000000F), 0, 63, 0x80FF0001, by decide +kernel⟩,
    ⟨ready, 0, 63, BitVec.ofNat 64 (2 ^ 31 + (vectorCount 0 - 1) * 2 ^ 22 + 1), by decide +kernel⟩⟩

theorem witness_FetchAndAdmit :
    (posted.hostUp = true ∧ posted.nextFetch = some (0, 63, false) ∧
      posted.hostRefused 0 ((posted.hqWord 0 (oSqBase 63)).toNat + 128 * posted.sqHead 0 63) 128 = false ∧ ∀ y ∈ posted.cmds, y.id ≠ posted.nextCmd) ∧
    (postedRefused.hostUp = true ∧ postedRefused.nextFetch = some (0, 63, false) ∧
      postedRefused.hostRefused 0 ((postedRefused.hqWord 0 (oSqBase 63)).toNat + 128 * postedRefused.sqHead 0 63) 128 = true) ∧
    (∃ s : State, ∃ x n, s.active = true ∧ s.fld oLcsState 33 33 = 0 ∧ s.nextAdmit = some x ∧ s.cmd? x.id = some x ∧ x.badEntry = false ∧
      x.opc = 2 ∧ s.bestPool = some n) :=
  ⟨by decide +kernel, by decide +kernel, ⟨fetched, (fetched.nextAdmit).getD cmd0, 0, by decide +kernel⟩⟩

/-- A copy of 4,104 bytes of tenant 1: a whole piece, then the last 8 bytes. -/
def copyCmd (opc pos : Nat) (started : Bool) : Cmd :=
  { hostCmd 1 opc (toLe 8 0x4000 ++ toLe 8 0x10000 ++ toLe 8 4104) with pos := pos, started := started }

theorem witness_Copies :
    (∀ pos ∈ [0, 4096], ∃ s c x, Runs s c x ∧ x.copyOk = true ∧ x.pos < x.copyLen ∧ x.argBase = 0 ∧ x.opc = 2 ∧ x.pstep = 0 ∧
      s.devWritable x.fn x.copyDev x.copyLen = true ∧ s.hostRefused x.fn (x.copyHost + x.pos) x.piece = false ∧ x.pos = pos) ∧
    (∀ pos ∈ [0, 4096], ∃ s c x, Runs s c x ∧ x.copyOk = true ∧ x.pos < x.copyLen ∧ x.argBase = 0 ∧ x.opc = 3 ∧ x.pstep = 0 ∧
      s.devMapped x.fn x.copyDev x.copyLen = true ∧ s.anyInner x.fn x.copyDev x.copyLen = false ∧
      s.poisoned x.fn (x.copyDev + x.pos) x.piece = false ∧ s.hostRefused x.fn (x.copyHost + x.pos) x.piece = false ∧ x.pos = pos) ∧
    (∃ s c x, Runs s c x ∧ x.copyOk = true ∧ x.pos < x.copyLen ∧ x.argBase = 0 ∧ x.opc = 2 ∧ x.started = false ∧
      s.devWritable x.fn x.copyDev x.copyLen = false) ∧
    (∃ s c x, Runs s c x ∧ x.copyOk = true ∧ x.pos < x.copyLen ∧ x.argBase = 0 ∧ x.opc = 3 ∧ x.started = false ∧
      s.devMapped x.fn x.copyDev x.copyLen = false) ∧
    (∀ st ∈ [false, true], ∃ s c x, Runs s c x ∧ x.copyOk = true ∧ x.pos < x.copyLen ∧ x.argBase = 0 ∧ x.opc = 3 ∧ x.started = st ∧
      s.devMapped x.fn x.copyDev x.copyLen = true ∧ s.anyInner x.fn x.copyDev x.copyLen = true ∧ x.work = .idle) ∧
    (∀ st ∈ [false, true], ∃ s c x, Runs s c x ∧ x.copyOk = true ∧ x.pos < x.copyLen ∧ x.argBase = 0 ∧ x.opc = 3 ∧ x.started = st ∧
      s.devMapped x.fn x.copyDev x.copyLen = true ∧ s.anyInner x.fn x.copyDev x.copyLen = false ∧
      s.poisoned x.fn (x.copyDev + x.pos) x.piece = true ∧ x.work = .idle) := by
  refine ⟨fun pos h => ⟨host (copyCmd 2 pos false), 1, copyCmd 2 pos false, runs ?_, ?_⟩,
    fun pos h => ⟨host (copyCmd 3 pos false), 1, copyCmd 3 pos false, runs ?_, ?_⟩,
    ⟨{ host (copyCmd 2 0 false) with allocs := [] }, 1, copyCmd 2 0 false, runs (by decide +kernel), by decide +kernel⟩,
    ⟨{ host (copyCmd 3 0 false) with allocs := [] }, 1, copyCmd 3 0 false, runs (by decide +kernel), by decide +kernel⟩,
    fun st h => ⟨{ host (copyCmd 3 0 st) with ranges := [⟨0, 1, 0x11000, 0x1000⟩] }, 1, copyCmd 3 0 st, runs ?_, ?_⟩,
    fun st h => ⟨{ host (copyCmd 3 0 st) with poison := [2 ^ 58 + 0x10000 / 64] }, 1, copyCmd 3 0 st, runs ?_, ?_⟩⟩
  · revert pos; decide +kernel
  · revert pos; decide +kernel
  · revert pos; decide +kernel
  · revert pos; decide +kernel
  all_goals revert st; decide +kernel

/-- A target, CMDID 9 of queue 0, beside the command. -/
def target0 : Cmd := { copyCmd 2 8 true with id := 2, cmdid := 9, slot := some (0, 1), bp := 19, seq := 2 }
def onTarget (opc : Nat) (started : Bool) : Cmd := { hostCmd 1 opc (toLe 2 9) with started := started }

/-- A target that an ABORT does not stop: RESUME, or a copy that has ended. -/
def spared1 (proof : Bool) : Cmd :=
  if proof then { hostCmd 1 7 (toLe 2 0x11) with id := 2, cmdid := 9, slot := some (0, 1), seq := 2 } else { target0 with phase := .ended }

theorem witness_QueryAndAbort :
    (∀ opc ∈ [5, 6], ∃ s c x, Runs s c x ∧ x.targetOk = true ∧ x.opc = opc ∧ x.started = false ∧ s.target? x = none) ∧
    (∃ s c x y, Runs s c x ∧ x.targetOk = true ∧ x.opc = 5 ∧ s.target? x = some y) ∧
    (∃ s c x y, Runs s c x ∧ x.targetOk = true ∧ x.opc = 6 ∧ x.started = false ∧ s.target? x = some y ∧ s.cmd? y.id = some y ∧ y.opc ≠ 5 ∧ y.opc ≠ 6 ∧
      y.abortProof = false ∧ y.phase ≠ .ended ∧ y.work = .idle ∧ y.vr ≠ 0x131 ∧ ∀ u ∈ s.fab.updates, u.cmd ≠ y.id) ∧
    (∀ proof ∈ [false, true], ∃ s c x y, Runs s c x ∧ x.targetOk = true ∧ x.opc = 6 ∧ x.started = false ∧ s.target? x = some y ∧ y.opc ≠ 5 ∧ y.opc ≠ 6 ∧
      (∀ u ∈ s.fab.updates, u.cmd ≠ y.id) ∧ y.abortProof = proof ∧ (proof = false → y.phase = .ended) ∧ s.cmd? y.id = some y ∧ y.status ≠ stAborted) ∧
    (∃ s c x, Runs s c x ∧ x.targetOk = true ∧ x.opc = 6 ∧ x.started = true ∧ x.waits = [2] ∧ ∀ y ∈ s.cmds, y.id ∉ x.waits) := by
  refine ⟨fun opc h => ⟨host (onTarget opc false), 1, onTarget opc false, runs ?_, ?_⟩,
    ⟨{ host (onTarget 5 false) with cmds := [onTarget 5 false, target0] }, 1, onTarget 5 false, target0, runs (by decide +kernel), by decide +kernel⟩,
    ⟨{ host (onTarget 6 false) with cmds := [onTarget 6 false, target0] }, 1, onTarget 6 false, target0, runs (by decide +kernel), by decide +kernel⟩,
    fun proof h => ⟨{ host (onTarget 6 false) with cmds := [onTarget 6 false, spared1 proof] }, 1, onTarget 6 false, spared1 proof, runs ?_, ?_⟩,
    ⟨host { onTarget 6 true with waits := [2] }, 1, { onTarget 6 true with waits := [2] }, runs (by decide +kernel), by decide +kernel⟩⟩
  · revert opc; decide +kernel
  · revert opc; decide +kernel
  all_goals revert proof; decide +kernel

def prog0 : Prog := { handle := 5, tenant := 1, entries := [(0, 1, 1)], code := zeros 8, dying := none }
def launch0 (args : List Byte) : Cmd :=
  { hostCmd 1 1 (toLe 4 0 ++ toLe 4 0 ++ toLe 8 5 ++ toLe 8 0x2000 ++ toLe 4 args.length) with args := args }

theorem witness_LaunchProgram :
    ∀ args ∈ [[], toLe 8 3], ∃ s c x p e, Runs s c x ∧ MemCanonical s ∧ x.opc = 1 ∧ x.varelm = false ∧ x.started = false ∧ s.prog? x (x.u 0x18 8) = some p ∧
      p.entries[x.u 0x10 4]? = some e ∧ x.args = args := by
  refine fun args h => ⟨{ host (launch0 args) with progs := [prog0] }, 1, launch0 args, prog0, (0, 1, 1), runs ?_, ?_⟩
  all_goals (try unfold MemCanonical); revert args; decide +kernel

/-- A program image of one entry and one instruction. -/
def image0 : List Byte :=
  toLe 4 0x00010001 ++ toLe 4 1 ++ toLe 4 8 ++ zeros 52 ++ toLe 4 0 ++ toLe 4 1 ++ toLe 4 1 ++ toLe 4 0 ++ toLe 8 (word 0x7D 0 0 0 0 0 0 0)
def load0 (fn len flags handle : Nat) : Cmd := hostCmd fn 4 (toLe 8 0x4000 ++ toLe 8 len ++ toLe 4 flags ++ zeros 4 ++ toLe 8 handle)
def loading (b : List Byte) : State :=
  withHost 1 0x4000 b { (host (load0 1 88 0 0)).setFld (oTenQmem 1) 31 0 0xFFFF with progs := [prog0] }

/-- An image in the PF's stack memory whose first line has an uncorrectable error. -/
def badLoad (kind : Nat) : Cmd := hostCmd 0 4 (toLe 8 0x10000 ++ toLe 8 88 ++ toLe 4 (4 + kind) ++ zeros 12)
def badImage (kind : Nat) : State := { host (badLoad kind) with allocs := [{ alloc0 with tenant := 0 }], poison := [0x10000 / 64] }

theorem witness_LoadImage :
    (∃ s c x b es code, Runs s c x ∧ x.opc = 4 ∧ x.loadOk = true ∧ x.imgRelease = false ∧ x.imgKind = 0 ∧ s.spaceRd x.fn x.imgDev (x.u 0x10 8) x.imgLen = some b ∧
      x.imgDev = false ∧ parseProg b = some (es, code) ∧ s.room x.fn b.length = some true) ∧
    (∀ kind ∈ [1, 2], ∃ s c x b, Runs s c x ∧ x.opc = 4 ∧ x.loadOk = true ∧ x.imgRelease = false ∧ x.imgKind = kind ∧ x.imgDev = false ∧
      s.spaceRd x.fn x.imgDev (x.u 0x10 8) x.imgLen = some b) ∧
    (∃ s c x b, Runs s c x ∧ x.opc = 4 ∧ x.loadOk = true ∧ x.imgRelease = false ∧ x.imgKind = 0 ∧ x.imgDev = false ∧
      s.spaceRd x.fn x.imgDev (x.u 0x10 8) x.imgLen = some b ∧ parseProg b = none) ∧
    (∃ s c x b p, Runs s c x ∧ x.opc = 4 ∧ x.loadOk = true ∧ x.imgRelease = false ∧ x.imgKind = 0 ∧ x.imgDev = false ∧
      s.spaceRd x.fn x.imgDev (x.u 0x10 8) x.imgLen = some b ∧ parseProg b = some p ∧ s.room x.fn b.length = none) ∧
    (∀ kind ∈ [0, 3], ∃ s c x b, Runs s c x ∧ x.opc = 4 ∧ x.loadOk = true ∧ x.imgRelease = false ∧ x.imgKind = kind ∧ (x.imgKind = 3 → x.fn = 0) ∧
      x.imgDev = true ∧ s.spaceRd x.fn x.imgDev (x.u 0x10 8) x.imgLen = some b ∧ s.poisoned x.fn (x.u 0x10 8) x.imgLen = true) ∧
    (∃ s c x, Runs s c x ∧ x.opc = 4 ∧ x.loadOk = true ∧ x.imgRelease = true ∧ x.imgKind = 0 ∧ s.imageLive x (x.u 0x28 8) = true) ∧
    (∃ s c x, Runs s c x ∧ x.opc = 4 ∧ x.loadOk = true ∧ x.imgRelease = true ∧ x.imgKind = 3 ∧ x.fn = 0 ∧ s.imageLive x (x.u 0x28 8) = false) ∧
    (∃ s c x, Runs s c x ∧ x.opc = 4 ∧ x.imgKind = 3 ∧ x.fn = 255) := by
  refine ⟨⟨loading image0, 1, load0 1 88 0 0, image0, [(0, 1, 1)], toLe 8 (word 0x7D 0 0 0 0 0 0 0), runs (by decide +kernel), by decide +kernel⟩,
    fun kind h => ⟨withHost 1 0x4000 [] (host (load0 1 88 kind 0)), 1, load0 1 88 kind 0, zeros 88, runs ?_, ?_⟩,
    ⟨loading [], 1, load0 1 88 0 0, zeros 88, runs (by decide +kernel), by decide +kernel⟩,
    ⟨withHost 1 0x4000 image0 (host (load0 1 88 0 0)), 1, load0 1 88 0 0, image0, ([(0, 1, 1)], toLe 8 (word 0x7D 0 0 0 0 0 0 0)),
      runs (by decide +kernel), by decide +kernel⟩,
    fun kind h => ⟨badImage kind, 1, badLoad kind, zeros 88, runs ?_, ?_⟩,
    ⟨{ host (load0 1 0 8 5) with progs := [prog0] }, 1, load0 1 0 8 5, runs (by decide +kernel), by decide +kernel⟩,
    ⟨host (load0 0 0 11 5), 1, load0 0 0 11 5, runs (by decide +kernel), by decide +kernel⟩,
    ⟨host (load0 255 88 3 0), 1, load0 255 88 3 0, runs (by decide +kernel), by decide +kernel⟩⟩
  all_goals revert kind; decide +kernel

/-- ADMIN action `a` of the PF with its parameter block at 0x4000 of host memory. -/
def adm (a : Nat) : Cmd := hostCmd 0 7 (toLe 2 a ++ zeros 6 ++ toLe 8 0x4000)
def adming (x : Cmd) (b : List Byte) : State := withHost 0 0x4000 b (host x)
def part0 : Part :=
  { tenant := 1, pid := 7, density := true, kind := false, classes := 2, capGb := 1, op := 1250, bufGib := 0, bufNow := 0, turn := [], readOnly := false, dropping := false, hostw := 0,
    mediaw := 0, corr := 0, uncorr := 0, rebuilt := 0, pfail := 0, efail := 0, retiredBlocks := 0, noticesOut := 0, tmax := -128, t0 := 0, t1 := 0, t2 := 0, t3 := 0 }
/-- PID 7 of tenant 1, bulk density, class 1 or 2, 1 GB. -/
def partBytes (classes : Nat) : List Byte := toLe 1 7 ++ toLe 1 1 ++ zeros 2 ++ toLe 4 (512 + classes) ++ toLe 8 1 ++ zeros 16
def growBytes : List Byte := toLe 1 7 ++ toLe 1 1 ++ zeros 6 ++ toLe 8 1 ++ zeros 16
/-- One die of four blocks and a flash quota of tenant 1. -/
def withFlash (quota : Nat) (s : State) : State :=
  { s.setFld (oTenQflash 1) 31 0 quota with flash := { s.flash with geom := ⟨2 ^ 34, 4, 3, 1000⟩, dies := [(0, 1)] } }
def health0 (dev : Nat) : Cmd := vrCmd 0 0x150 (toLe 1 7 ++ toLe 1 1 ++ zeros 6 ++ toLe 8 0x10000 ++ toLe 1 dev)

def dropBytes : List Byte := toLe 1 7 ++ toLe 1 1 ++ zeros 30

theorem witness_Partitions :
    (∀ pid ∈ [7, 0], ∃ s c x b r, Runs s c x ∧ Param s x [(0, 2), (4, 2), (8, 8), (0x12, 2), (0x14, 4)] b ∧ x.isAdmin 1 = true ∧ partOk b = true ∧
      r = partReq b ∧ (s.part? r.tenant r.pid).isSome = decide (pid = 7) ∧ ∃ p ∈ s.parts, p.tenant = r.tenant ∧ p.classes &&& r.classes ≠ 0) ∧
    (∀ q ≤ 1, ∃ s c x b r, Runs s c x ∧ Param s x [(0, 2), (4, 2), (8, 8), (0x12, 2), (0x14, 4)] b ∧ x.isAdmin 1 = true ∧ partOk b = true ∧ r = partReq b ∧
      s.part? r.tenant r.pid = none ∧ (∀ p ∈ s.parts, p.tenant = r.tenant → p.classes &&& r.classes = 0) ∧
      s.partFits r.tenant r.cap (s.rawBlocks (s.rawBytes r.density (r.cap * 10 ^ 9) r.op (r.buf * gib))) = decide (q = 1)) ∧
    (∀ q ≤ 2, ∃ s c x b, Runs s c x ∧ Param s x [(0, 2), (8, 8)] b ∧ x.isAdmin 2 = true ∧ leAt b 1 1 ≠ 0 ∧ leAt b 0 1 = 7 ∧ leAt b 8 8 = 1 ∧
      s.part? (leAt b 1 1) (leAt b 0 1) = (if q = 0 then none else some part0) ∧ (q ≠ 0 →
      s.partFits (leAt b 1 1) (leAt b 8 8) (s.rawBlocks (s.rawBytes part0.density (leAt b 8 8 * 10 ^ 9) part0.op 0)) = decide (q = 2))) ∧
    (∃ s c x b, Runs s c x ∧ Param s x [(0, 2)] b ∧ x.isAdmin 3 = true ∧ leAt b 1 1 ≠ 0 ∧ leAt b 0 1 = 7 ∧
      s.part? (leAt b 1 1) (leAt b 0 1) = none) ∧
    (∀ st ∈ [false, true], ∃ s c x b p, Runs s c x ∧ Param s x [(0, 2)] b ∧ x.isAdmin 3 = true ∧ leAt b 1 1 ≠ 0 ∧ leAt b 0 1 = 7 ∧
      s.part? (leAt b 1 1) (leAt b 0 1) = some p ∧ x.started = st) ∧
    (∀ dev ∈ [0, 1], ∃ s c x p, Runs s c x ∧ x.vr = 0x150 ∧ cleanBut x.args [(0, 2), (8, 8), (16, 1)] = true ∧ x.a 0 1 = 7 ∧ x.a 0x10 1 = dev ∧
      x.fn = 0 ∧ addrOk (bit (x.a 0x10 1) 0) (x.a 8 8) = true ∧ x.argBase = 0 ∧ s.part? (if x.fn = 0 then x.a 1 1 else x.fn) (x.a 0 1) = some p ∧
      s.canWrite x.fn (bit (x.a 0x10 1) 0) (x.a 8 8) 128 = true) ∧
    (ready.active = true) := by
  refine ⟨fun pid h => ⟨{ adming (adm 1) (partBytes 2) with parts := [{ part0 with pid := pid }] }, 1, adm 1, partBytes 2, partReq (partBytes 2), runs ?_, param ?_, ?_⟩,
    fun q h => ⟨{ withFlash (q + 1) (adming (adm 1) (partBytes 1)) with parts := [{ part0 with pid := 0 }] }, 1, adm 1, partBytes 1, partReq (partBytes 1), runs ?_, param ?_, ?_⟩,
    fun q h => ⟨{ withFlash q (adming (adm 2) growBytes) with parts := if q = 0 then [] else [part0] }, 1, adm 2, growBytes, runs ?_, param ?_, ?_⟩,
    ⟨adming (adm 3) dropBytes, 1, adm 3, dropBytes, runs (by decide +kernel), param (by decide +kernel), by decide +kernel⟩,
    fun st h => ⟨{ adming { adm 3 with started := st } dropBytes with parts := [part0] }, 1, { adm 3 with started := st }, dropBytes, part0, runs ?_, param ?_, ?_⟩,
    fun dev h => ⟨{ host (health0 dev) with parts := [part0], allocs := [{ alloc0 with tenant := 0 }] }, 1, health0 dev, part0, runs ?_, ?_⟩, by decide +kernel⟩
  · revert pid; decide +kernel
  · revert pid; decide +kernel
  · revert pid; decide +kernel
  · revert q; decide +kernel
  · revert q; decide +kernel
  · revert q; decide +kernel
  · revert q; decide +kernel
  · revert q; decide +kernel
  · revert q; decide +kernel
  · revert st; decide +kernel
  · revert st; decide +kernel
  · revert st; decide +kernel
  all_goals revert dev; decide +kernel

/-- The handle of an object in tests. -/
def unit0 (home : Home) : Machine.PUnit :=
  { uid := .alloc 1 0x10000, tenant := 1, home := home, bytes := 0x20000, heat := 0, promotedAt := none, demotedAt := none, lost := false, parked := false, part := none }
def fnBytes (fn grace : Nat) : List Byte := toLe 4 fn ++ toLe 4 grace ++ zeros 24
def inFnState (fn v : Nat) (s : State) : State := s.setHqFld fn 0 1 0 v

theorem witness_ParkAndDetach :
    (∃ s c x, Runs s c x ∧ x.opc = 7 ∧ x.fn = 0 ∧ x.u 0x10 2 = 0x10 ∧ s.power.parked = false ∧ s.units ≠ [] ∧ ∀ u ∈ s.units, u.home = .flash ∨ u.lost = true) ∧
    (∃ s c x u p, Runs s c x ∧ x.opc = 7 ∧ x.fn = 0 ∧ x.u 0x10 2 = 0x10 ∧ s.power.parked = false ∧
      s.units.find? (fun u => u.home != .flash && !u.lost && !s.wellOn u.uid) = some u ∧ s.unit? u.uid = some u ∧ s.part? 0 0 = some p ∧ p.readOnly = false) ∧
    (∃ s c x, Runs s c x ∧ x.opc = 7 ∧ x.fn = 0 ∧ x.u 0x10 2 = 0x11) ∧
    (∀ k ≤ 2, ∃ s c x b, Runs s c x ∧ Param s x [(0, 1), (4, 4)] b ∧ x.isAdmin 0x20 = true ∧ x.started = false ∧ leAt b 0 1 = 255 ∧ leAt b 4 4 = 4000 ∧
      s.fnState (leAt b 0 1) = k) ∧
    (∃ s : State, ∃ vf c due x, s.live = true ∧ s.fnState vf = 1 ∧ Map.get? s.power.detaching vf = some (c, due) ∧ Map.rising s.power.detaching = true ∧
      (∀ y ∈ s.cmds, y.fn ≠ vf) ∧ s.cmd? c = some x ∧ x.phase = .admitted ∧ x.parent = none) ∧
    (∀ k ≤ 2, ∃ s c x b, Runs s c x ∧ Param s x [(0, 1)] b ∧ x.isAdmin 0x21 = true ∧ leAt b 0 1 = 255 ∧ s.fnState (leAt b 0 1) = k) := by
  refine ⟨⟨{ host (adm 0x10) with units := [unit0 .flash] }, 1, adm 0x10, runs (by decide +kernel), by decide +kernel⟩,
    ⟨{ host (adm 0x10) with units := [unit0 (.stack 0)], parts := [{ part0 with tenant := 0, pid := 0 }] }, 1, adm 0x10, unit0 (.stack 0),
      { part0 with tenant := 0, pid := 0 }, runs (by decide +kernel), by decide +kernel⟩,
    ⟨host (adm 0x11), 1, adm 0x11, runs (by decide +kernel), by decide +kernel⟩,
    fun k h => ⟨inFnState 255 k (adming (adm 0x20) (fnBytes 255 4000)), 1, adm 0x20, fnBytes 255 4000, runs ?_, param ?_, ?_⟩,
    ⟨inFnState 3 1 { host (adm 0x20) with power := { ready.power with detaching := [(3, 1, 0)] } }, 3, 1, 0, adm 0x20, by decide +kernel⟩,
    fun k h => ⟨inFnState 255 k (adming (adm 0x21) (fnBytes 255 0)), 1, adm 0x21, fnBytes 255 0, runs ?_, param ?_, ?_⟩⟩
  all_goals revert k; decide +kernel

/-! ## Collections -/

theorem ok_of {ε α : Type} {e : Except ε α} {a : α} (h : e.toOption = some a) : e = .ok a := by
  cases e with
  | error _ => cases h
  | ok _ => exact congrArg _ (Option.some.inj h)

theorem room_true {s : State} {t new : Nat} (n : Nat) (h1 : new ≤ n)
    (h2 : (decide (n + s.fixedBytes t ≤ s.stackQuota t) && decide (s.stackUse t + s.owed t + n ≤ s.stackQuota t) && decide (s.chipUse + n ≤ s.chipCap)) = true) :
    s.room t new = some true := by
  simp only [Bool.and_eq_true, decide_eq_true_eq] at h2
  have h3 : decide (s.chipCap < s.chipUse + new) = false := decide_eq_false (by omega)
  have h4 : decide (s.stackUse t + s.owed t + new ≤ s.stackQuota t) = true := decide_eq_true (by omega)
  unfold State.room
  rw [if_neg (by omega), h3, h4]; rfl

/-- A tenant and a chip of much stack memory. -/
def richly (s : State) : State := (s.setFld (oTenQmem 1) 31 0 0xFFFFFFFF).setFld oPlcCap 31 0 0xFFFFFFFF
def createReq0 : CreateReq := ⟨8, 8, 1, 1, zeros 16, zeros 16, zeros 256⟩

theorem createBytes_le : createBytes createReq0 0 ≤ 2 ^ 25 + 2 ^ 40 := by
  have h := (Config.arrayBytes (segCount 8 0 0 * segSlots 8 0)).isLt
  have e : createBytes createReq0 0 = (288 + segCount 8 0 0 * segBytes 8 0) + (Config.arrayBytes (segCount 8 0 0 * segSlots 8 0)).toNat := by
    simp [createBytes, createReq0, listBytes]; omega
  have d : 288 + segCount 8 0 0 * segBytes 8 0 ≤ 2 ^ 25 := by decide +kernel
  omega

/-- One list of 8 dimensions; the handle goes to host address 0x10000 or to the allocation there. -/
def create0 (p dev budget : Nat) : Cmd :=
  vrCmd 1 p (toLe 4 8 ++ toLe 4 8 ++ toLe 4 1 ++ toLe 4 1 ++ toLe 4 (dev * 2 ^ 26) ++ toLe 2 0 ++ toLe 2 (if budget = 0 then 1 else 0) ++ toLe 8 0x4000 ++
    toLe 8 0x5000 ++ toLe 8 0x6000 ++ toLe 8 0x10000 ++ toLe 8 budget)
/-- Role and node ID of the device in a pod. -/
def inPod (role node : Nat) (s : State) : State := (s.setFld oFabNode 23 22 role).setFld oFabNode 19 0 node
def createInputs (x : Cmd) : List (Bool × Nat × Nat) :=
  [(bit (x.a 0x10 4) 25, x.a 0x18 8, 2 * x.a 8 4 * x.a 0 4), (bit (x.a 0x10 4) 25, x.a 0x20 8, 2 * x.a 0xC 4 * x.a 0 4), (bit (x.a 0x10 4) 25, x.a 0x28 8, 32 * x.a 0 4)]

theorem create_room {s : State} {t n : Nat} {r : CreateReq} (h : r = createReq0 ∧ n = 0)
    (h2 : (decide (2 ^ 25 + 2 ^ 40 + s.fixedBytes t ≤ s.stackQuota t) && decide (s.stackUse t + s.owed t + (2 ^ 25 + 2 ^ 40) ≤ s.stackQuota t) &&
      decide (s.chipUse + (2 ^ 25 + 2 ^ 40) ≤ s.chipCap)) = true) : s.room t (createBytes r n) = some true := by
  obtain ⟨rfl, rfl⟩ := h
  exact room_true _ createBytes_le h2

theorem witness_CreateCollections :
    (∀ d ≤ 1, ∃ s c x co fi bo dev, Runs s c x ∧ s.inputs x (createInputs x) = .ok [co, fi, bo] ∧
      s.room x.fn (createBytes ⟨x.a 0 4, x.a 4 2, x.a 8 4, x.a 0xC 4, co, fi, bo⟩ (field (x.a 0x10 4) 15 8)) = some true ∧
      x.vr = 0x101 ∧ x.started = false ∧ s.role = 0 ∧ x.createOk [] = true ∧ dev = bit (x.a 0x10 4) 26 ∧ dev = decide (d = 1) ∧
      s.reserveTakes 0 (x.a 0x16 1) (x.a 0x38 8) = true ∧ s.chipHolds (x.a 0xC 4) = true ∧ x.argBase = 0 ∧ x.midCommit = false ∧
      s.canWrite x.fn dev (x.a 0x30 8) 8 = true) ∧
    (∃ s c x, Runs s c x ∧ x.vr = 0x101 ∧ x.started = false ∧ s.role = 0 ∧ x.createOk [] = true ∧ s.reserveTakes 0 (x.a 0x16 1) (x.a 0x38 8) = false) ∧
    (∃ s c x, Runs s c x ∧ x.vr = 0x101 ∧ x.started = false ∧ s.role = 1) ∧
    (∀ r ∈ [0, 1, 3], ∃ s c x, Runs s c x ∧ x.vr = 0x160 ∧ x.started = false ∧ s.role = r) ∧
    (∃ s c x co fi bo, Runs s c x ∧ s.inputs x (createInputs x) = .ok [co, fi, bo] ∧
      s.room x.fn (createBytes ⟨x.a 0 4, x.a 4 2, x.a 8 4, x.a 0xC 4, co, fi, bo⟩ (field (x.a 0x10 4) 15 8)) = some true ∧
      x.vr = 0x160 ∧ x.started = false ∧ s.role = 2 ∧ s.fab.nodes = [] ∧ x.createOk [(0x40, 8)] = true ∧
      x.a 0x40 4 = 0 ∧ x.a 0x44 4 = 0 ∧ bit (x.a 0x10 4) 26 = false ∧ s.reserveTakes 0 (x.a 0x16 1) (x.a 0x38 8) = true ∧
      s.chipHolds (x.a 0xC 4) = true ∧ x.argBase = 0 ∧ x.midCommit = false ∧ s.canWrite x.fn false (x.a 0x30 8) 8 = true) := by
  refine ⟨fun d h => ⟨richly (host (create0 0x101 d 0)), 1, create0 0x101 d 0, zeros 16, zeros 16, zeros 256, decide (d = 1), runs ?_, ok_of ?_,
      create_room ?_ ?_, ?_⟩,
    ⟨richly (host (create0 0x101 0 1)), 1, create0 0x101 0 1, runs (by decide +kernel), by decide +kernel⟩,
    ⟨inPod 1 4096 (host (create0 0x101 0 0)), 1, create0 0x101 0 0, runs (by decide +kernel), by decide +kernel⟩,
    fun r h => ⟨inPod r 0 (host (create0 0x160 0 0)), 1, create0 0x160 0 0, runs ?_, ?_⟩,
    ⟨richly (inPod 2 4096 (host (create0 0x160 0 0))), 1, create0 0x160 0 0, zeros 16, zeros 16, zeros 256, runs (by decide +kernel),
      ok_of (by decide +kernel), create_room (by decide +kernel) (by decide +kernel), by decide +kernel⟩⟩
  · revert d; decide +kernel
  · revert d; decide +kernel
  · revert d; decide +kernel
  · revert d; decide +kernel
  · revert d; decide +kernel
  all_goals revert r; decide +kernel

def entryOf (lid : Nat) (tomb : Bool) : Entry := { codes := List.replicate 8 0, lid := lid, attr := 0, tomb := tomb, loc := noLoc, ins := 0, del := 0 }
/-- A list with a live entry and a tombstoned one. -/
def list0 : FineList :=
  { entries := [entryOf 0 false, entryOf 1 true], committed := 2, gen := 255, segs := [⟨3, 0⟩], scales := [BitVec.ofNat 32 (255 * 2 ^ 24 + 0x3C00)], tags := [255] }
/-- A collection of 8 dimensions with that one list. -/
def coll0 : Coll :=
  { handle := 7, tenant := 1, index := 0, dim := 8, sub := 8, ncent := 1, nlists := 1, spill := false, recfmt := 0, attrb := 0, metric := 0, cls := 1, was := [],
    compactAt := 5000, budget := 0, coarse := [List.replicate 8 0], fine := [List.replicate 8 0], book := List.replicate 8 (List.replicate 16 [0]),
    lists := [(0, list0)], nextLid := 2, dying := none, pod := none, staging := [] }
def listUnit (home : Home) : Machine.PUnit := { unit0 home with uid := .fineList 7 0, bytes := 65536 }
/-- The device with that collection and one command. -/
def lib (x : Cmd) : State := richly { host x with colls := [coll0], units := [listUnit (.stack 3)] }

def place0 (cls budget : Nat) : Cmd := vrCmd 1 0x103 (toLe 8 7 ++ zeros 2 ++ toLe 1 cls ++ zeros 5 ++ toLe 8 budget)
def residency0 (handle dev : Nat) : Cmd := vrCmd 1 0x104 (toLe 8 handle ++ toLe 8 0x10000 ++ toLe 1 dev)

theorem witness_DropPlaceResidency :
    (∃ s c x o, Runs s c x ∧ x.vr = 0x102 ∧ cleanBut x.args [(0, 8)] = true ∧ s.colls.find? (fun k => k.handle == x.a 0 8) = some o) ∧
    (∀ b ≤ 1, ∃ s c x o, Runs s c x ∧ x.vr = 0x103 ∧ cleanBut x.args [(0, 8), (0xA, 1), (0x10, 8)] = true ∧ x.a 0xA 1 = 0 ∧ x.midCommit = false ∧
      s.colls.find? (fun k => k.handle == x.a 0 8) = some o ∧ s.reserveTakes (x.a 0 8) (x.a 0xA 1) (x.a 0x10 8) = decide (b = 0)) ∧
    (∀ dev ≤ 1, ∃ s c x o, Runs s c x ∧ x.vr = 0x104 ∧ cleanBut x.args [(0, 17)] = true ∧ x.a 0x10 1 = dev ∧ addrOk (bit (x.a 0x10 1) 0) (x.a 8 8) = true ∧
      s.coll? x (x.a 0 8) = some o ∧ s.canWrite x.fn (bit (x.a 0x10 1) 0) (x.a 8 8) 64 = true ∧ x.argBase = 0 ∧ x.midCommit = false) ∧
    (∃ s c x, Runs s c x ∧ x.vr = 0x104 ∧ cleanBut x.args [(0, 17)] = true ∧ x.a 0x10 1 = 0 ∧ addrOk false (x.a 8 8) = true ∧ s.coll? x (x.a 0 8) = none) := by
  refine ⟨⟨lib (vrCmd 1 0x102 (toLe 8 7)), 1, vrCmd 1 0x102 (toLe 8 7), coll0, runs (by decide +kernel), by decide +kernel⟩,
    fun b h => ⟨lib (place0 0 b), 1, place0 0 b, coll0, runs ?_, ?_⟩,
    fun dev h => ⟨lib (residency0 7 dev), 1, residency0 7 dev, coll0, runs ?_, ?_⟩,
    ⟨lib (residency0 8 0), 1, residency0 8 0, runs (by decide +kernel), by decide +kernel⟩⟩
  · revert b; decide +kernel
  · revert b; decide +kernel
  all_goals revert dev; decide +kernel

/-- K = 1 over the one list; the result buffer, in host or in device space, holds two entries. -/
def search0 (handle dev : Nat) : Cmd :=
  vrCmd 1 0x110 (toLe 8 handle ++ toLe 4 1 ++ toLe 4 1 ++ toLe 4 1 ++ toLe 4 (dev * 2 ^ 10) ++ toLe 8 0x4000 ++ toLe 8 0x10000 ++ toLe 4 64)

theorem witness_SearchResult :
    (∀ n ≤ 1, ∃ s c x o q t b0 b f r dev, Runs s c x ∧ s.input x (x.sFlag 9 9 == 1) (x.a 0x18 8) (o.dim * elemBytes (x.sFlag 4 3)) = .ok q ∧
      (if x.sFlag 2 1 = 2 then s.input x (x.sFlag 11 11 == 1) (x.a 0x58 8) (x.a 0x60 4) else .ok []) = .ok t ∧
      b0 = x.queryBody (readElems (x.sFlag 4 3) o.dim q) t ∧ b = { b0 with lists := s.chooseLists o b0 } ∧ f = s.localSearch x.mayMiss o b ∧
      r = x.resultOf b f (if s.role = 0 then 0 else s.fld oFabEpoch 31 0) ∧
      x.vr = 0x110 ∧ x.names.any s.objLost = false ∧ x.started = false ∧ s.coll? x (x.a 0 8) = some o ∧ (o.pod = none ∨ s.role ≠ 2) ∧ x.searchOk o = true ∧
      (∀ l ∈ f.probed, o.listSkew l = none) ∧ dev = bit (x.a 0x14 4) 10 ∧
      dev = decide (n = 1) ∧ 32 ≤ x.a 0x28 4 ∧ x.argBase = 0 ∧ x.midCommit = false ∧ s.canWrite x.fn dev (x.a 0x20 8) r.bytes.length = true ∧ f.hits.length = 1) ∧
    (∃ s c x, Runs s c x ∧ x.vr = 0x110 ∧ x.names.any s.objLost = false ∧ s.coll? x (x.a 0 8) = none) := by
  refine ⟨fun n h => ⟨lib (search0 7 n), 1, search0 7 n, coll0, zeros (8 * elemBytes 0), [], _, _, _, _, decide (n = 1),
      runs ?_, ok_of ?_, ok_of ?_, rfl, rfl, rfl, rfl, ?_⟩,
    ⟨lib (search0 8 0), 1, search0 8 0, runs (by decide +kernel), by decide +kernel⟩⟩
  all_goals revert n; decide +kernel

/-- RERANK by score or by text. -/
def rerank0 (mode dev : Nat) : Cmd :=
  vrCmd 1 0x114 (toLe 8 7 ++ toLe 4 1 ++ toLe 4 1 ++ toLe 4 (mode + dev * 2 ^ 6) ++ toLe 4 64 ++ toLe 8 0x4000 ++ toLe 8 0x5000 ++ toLe 8 0x10000 ++ zeros 8 ++
    toLe 8 0x6000 ++ toLe 4 4)
def rerankText (mode : Nat) : List Byte := if mode = 2 then zeros 4 else []

/-- SORT of records of a 4-byte key and 4 bytes more; the count goes to the allocation. -/
def sort0 (mode n : Nat) : Cmd :=
  vrCmd 1 0x120 (toLe 8 0x4000 ++ toLe 8 0x8000 ++ toLe 4 n ++ toLe 4 8 ++ toLe 4 (256 + mode) ++ toLe 4 (4 * 65536) ++ toLe 4 1 ++ zeros 4 ++ toLe 8 0x10000)
/-- Two records, the larger key first. -/
def sortRecs : List (List Byte) := [toLe 4 9 ++ toLe 4 1, toLe 4 3 ++ toLe 4 2]
def sorting : State := withHost 1 0x4000 sortRecs.flatten (lib (sort0 0 2))
/-- A MERGE of those records as two runs of one. -/
def merging : State := withHost 1 0x4000 (toLe 8 0x5000 ++ toLe 8 1 ++ toLe 8 0x5008 ++ toLe 8 1) (withHost 1 0x5000 sortRecs.flatten (lib (sort0 1 2)))

theorem witness_RerankAndSort :
    (∀ mode ∈ [1, 2], ∀ n ≤ 1, ∃ s c x o cb q t ids hits, ∃ r : Result, ∃ dev, Runs s c x ∧ s.input x (bit (x.a 0x10 4) 5) (x.a 0x20 8) (8 * x.a 8 4) = .ok cb ∧
      (if x.af 0x10 1 0 = 1 then s.input x (bit (x.a 0x10 4) 4) (x.a 0x18 8) (o.dim * elemBytes (x.af 0x10 3 2)) else .ok []) = .ok q ∧
      (if x.af 0x10 1 0 = 2 then s.input x (bit (x.a 0x10 4) 7) (x.a 0x38 8) (x.a 0x40 4) else .ok []) = .ok t ∧
      hits = s.rerankList x.mayMiss o (x.af 0x10 1 0) (forMetric o.metric (readElems (x.af 0x10 3 2) o.dim q)) (x.a 0x30 8) t ids ∧
      r = { k := x.a 0xC 4, dev := dev, rbuf := x.a 0x28 8, rlen := x.a 0x14 4, hits := hits, scanned := 0, probed := 0, total := none, filtered := false,
            widened := false, reranked := true, fallback := false, skew := false, epoch := if s.role = 0 then 0 else s.fld oFabEpoch 31 0 } ∧
      x.vr = 0x114 ∧ x.names.any s.objLost = false ∧ s.coll? x (x.a 0 8) = some o ∧ x.rerankOk = true ∧ x.af 0x10 1 0 = mode ∧
      ids = ((List.range (x.a 8 4)).map fun i => leAt cb (8 * i) 8) ∧ dev = bit (x.a 0x10 4) 6 ∧ dev = decide (n = 1) ∧ x.argBase = 0 ∧ 32 ≤ x.a 0x14 4 ∧
      s.canWrite x.fn dev (x.a 0x28 8) r.bytes.length = true) ∧
    (∃ s c x rs runs out, Runs s c x ∧ s.sortRuns x = .ok rs ∧ s.sortInput x rs = .ok runs ∧ x.vr = 0x120 ∧ x.sortOk = true ∧ x.pstep = 0 ∧ x.sortMode = 0 ∧
      (∀ r ∈ rs, r.2 < 2 ^ 32 ∧ addrOk x.sortIn r.1 = true) ∧ s.room x.fn (16 * sumBy (·.2) rs) = some true ∧ out = x.sorted runs.flatten ∧ x.argBase = 0 ∧
      s.canWrite x.fn x.sortOut (x.a 8 8) out.flatten.length = true ∧ s.canWrite x.fn x.sortCount (x.a 0x28 8) 8 = true ∧ x.sortOut ≠ x.sortCount ∧
      x.sortDedup = false ∧ out = sortRecs.reverse) ∧
    (∃ s c x rs runs out, Runs s c x ∧ s.sortRuns x = .ok rs ∧ s.sortInput x rs = .ok runs ∧ x.vr = 0x120 ∧ x.sortOk = true ∧ x.pstep = 0 ∧ x.sortMode = 1 ∧
      (∀ r ∈ rs, r.2 < 2 ^ 32 ∧ addrOk x.sortIn r.1 = true) ∧ s.room x.fn (16 * sumBy (·.2) rs) = some true ∧ runs.all x.runSorted = true ∧
      out = x.sorted runs.flatten ∧ x.argBase = 0 ∧ s.canWrite x.fn x.sortOut (x.a 8 8) out.flatten.length = true ∧
      s.canWrite x.fn x.sortCount (x.a 0x28 8) 8 = true ∧ x.sortOut ≠ x.sortCount ∧ out = sortRecs.reverse) := by
  refine ⟨fun mode h n h' => ⟨lib (rerank0 mode n), 1, rerank0 mode n, coll0, zeros 8, if mode = 1 then zeros (8 * elemBytes 0) else [], rerankText mode, [0], _, _,
      decide (n = 1), runs ?_, ok_of ?_, ok_of ?_, ok_of ?_, rfl, rfl, ?_⟩,
    ⟨sorting, 1, sort0 0 2, [(0x4000, 2)], [sortRecs], sortRecs.reverse, runs (by decide +kernel), ok_of (by decide +kernel), ok_of (by decide +kernel), by decide +kernel⟩,
    ⟨merging, 1, sort0 1 2, [(0x5000, 1), (0x5008, 1)], sortRecs.map ([·]), sortRecs.reverse, runs (by decide +kernel), ok_of (by decide +kernel),
      ok_of (by decide +kernel), by decide +kernel⟩⟩
  all_goals revert n
  all_goals revert mode
  all_goals decide +kernel

def insert0 (w : Work) (dev : Nat := 0) : Cmd :=
  { vrCmd 1 0x111 (toLe 8 7 ++ toLe 4 1 ++ toLe 4 (2 + dev * 2 ^ 7) ++ toLe 8 0x4000 ++ zeros 24 ++ toLe 8 0x10000) with work := w }
def delete0 (w : Work) (dev : Nat := 0) : Cmd := { vrCmd 1 0x112 (toLe 8 7 ++ toLe 4 1 ++ toLe 4 (dev * 2) ++ toLe 8 0x4000 ++ toLe 8 0x10000) with work := w }
def deleting (started : Nat) : Work := if started = 1 then .delete [] else .idle
/-- The third vector is in both lists of a collection that spills, and committed in none. -/
def pending0 (due : List Nat) : Work := .insert [] 0 (some ⟨2, noLoc, due⟩)
def zeroVec : NewVec := { elems := List.replicate 8 0, record := zeros 32, attr := 0 }

theorem witness_InsertAndDelete :
    (∃ s c x o idx, Runs s c x ∧ s.payIdx x o = .ok idx ∧ x.vr = 0x111 ∧ x.names.any s.objLost = false ∧ s.coll? x (x.a 0 8) = some o ∧ (o.pod = none ∨ s.role ≠ 2) ∧
      x.work = .idle ∧ x.insertOk o = true ∧ payOk idx = true ∧ s.flashTakes o x.id (insertFlash o (x.a 8 4) idx) = true ∧ s.vectorRoom (x.a 8 4) = true ∧
      s.room x.fn (x.a 8 4 * o.copies * entryBytes o.sub o.attrb) = some true) ∧
    (∃ s c x o ids st v, Runs s c x ∧ s.newVec x o ids.length = .ok v ∧ x.vr = 0x111 ∧ x.names.any s.objLost = false ∧ s.coll? x (x.a 0 8) = some o ∧
      s.colls.find? (fun k => k.handle == o.handle) = some o ∧ (o.pod = none ∨ s.role ≠ 2) ∧ x.work = .insert ids st none ∧ ids.length < x.a 8 4 ∧ o.recfmt = 0 ∧
      o.nextLid < 2 ^ 40 ∧ o.place s.free v.elems ≠ [] ∧ s.listsReady o (o.place s.free v.elems) = true) ∧
    (∀ due ∈ [[0], [0, 1]], ∃ s c x o ids st n, Runs s c x ∧ x.vr = 0x111 ∧ x.names.any s.objLost = false ∧ s.coll? x (x.a 0 8) = some o ∧
      s.colls.find? (fun k => k.handle == o.handle) = some o ∧ (o.pod = none ∨ s.role ≠ 2) ∧ x.work = .insert ids st (some n) ∧ s.recCovered n.loc = true ∧
      n.due = due ∧ ∀ l ∈ n.due, s.resident (.fineList o.handle l) = true) ∧
    (∀ n ≤ 1, ∃ s c x o ids st dev, Runs s c x ∧ x.vr = 0x111 ∧ x.names.any s.objLost = false ∧ s.coll? x (x.a 0 8) = some o ∧ (o.pod = none ∨ s.role ≠ 2) ∧
      x.work = .insert ids st none ∧ ids.length = x.a 8 4 ∧ dev = x.iFlag 7 ∧ dev = decide (n = 1) ∧ x.argBase = 0 ∧
      s.canWrite x.fn dev (x.a 0x30 8) (8 * ids.length) = true) ∧
    (∀ lid ≤ 1, ∀ st ≤ 1, ∃ s c x o, ∃ outs : List Byte, ∃ b, Runs s c x ∧ outs = [] ∧ (s.lidOf o (leNat b) = some lid ∧ o.isLive lid = decide (lid = 0) ∧
      ∀ l ∈ o.listsOf lid, s.resident (.fineList o.handle l) = true) ∧ s.input x (x.iFlag 0) (x.a 0x10 8 + 8 * outs.length) 8 = .ok b ∧ x.vr = 0x112 ∧
      x.names.any s.objLost = false ∧ s.coll? x (x.a 0 8) = some o ∧ s.colls.find? (fun k => k.handle == o.handle) = some o ∧ (o.pod = none ∨ s.role ≠ 2) ∧
      x.work = deleting st ∧ x.deleteOk = true ∧ outs.length < x.a 8 4) ∧
    (∀ n ≤ 1, ∃ s c x o outs dev, Runs s c x ∧ x.vr = 0x112 ∧ x.names.any s.objLost = false ∧ s.coll? x (x.a 0 8) = some o ∧ (o.pod = none ∨ s.role ≠ 2) ∧
      x.work = .delete outs ∧ outs.length = x.a 8 4 ∧ dev = x.iFlag 1 ∧ dev = decide (n = 1) ∧ x.argBase = 0 ∧ s.canWrite x.fn dev (x.a 0x18 8) outs.length = true) := by
  refine ⟨⟨lib (insert0 .idle), 1, insert0 .idle, coll0, [], runs (by decide +kernel), ok_of (by decide +kernel), by decide +kernel⟩,
    ⟨lib (insert0 (.insert [] 0 none)), 1, insert0 (.insert [] 0 none), coll0, [], 0, zeroVec, runs (by decide +kernel), ok_of (by decide +kernel), by decide +kernel⟩,
    fun due h => ⟨{ lib (insert0 (pending0 due)) with units := [listUnit (.stack 3), { listUnit (.stack 3) with uid := .fineList 7 1 }] }, 1, insert0 (pending0 due), coll0,
      [], 0, ⟨2, noLoc, due⟩, runs ?_, ?_⟩,
    fun n h => ⟨lib (insert0 (.insert [2] 0 none) n), 1, insert0 (.insert [2] 0 none) n, coll0, [2], 0, decide (n = 1), runs ?_, ?_⟩,
    fun lid h st h' => ⟨withHost 1 0x4000 (toLe 8 lid) (lib (delete0 (deleting st))), 1, delete0 (deleting st), coll0, [], toLe 8 lid, runs ?_, rfl, ?_, ok_of ?_, ?_⟩,
    fun n h => ⟨lib (delete0 (.delete [0]) n), 1, delete0 (.delete [0]) n, coll0, [0], decide (n = 1), runs ?_, ?_⟩⟩
  · revert due; decide +kernel
  · revert due; decide +kernel
  · revert n; decide +kernel
  · revert n; decide +kernel
  · revert st; revert lid; decide +kernel
  · revert st; revert lid; decide +kernel
  · revert st; revert lid; decide +kernel
  · revert st; revert lid; decide +kernel
  all_goals revert n; decide +kernel

def compact0 (n thr dev : Nat) : Cmd :=
  { vrCmd 1 0x113 (toLe 8 7 ++ toLe 4 (dev * 4) ++ toLe 4 thr ++ zeros 8 ++ toLe 8 0x10000) with work := .compact n 0 0 0 0 0 }

/-- Half of the list is tombstoned: the share is the threshold, or just below it. -/
theorem witness_Compaction :
    (∃ s c x o n a b d e f, Runs s c x ∧ x.vr = 0x113 ∧ x.names.any s.objLost = false ∧ s.coll? x (x.a 0 8) = some o ∧
      s.colls.find? (fun k => k.handle == o.handle) = some o ∧
      x.work = .compact n a b d e f ∧ n = (x.compactSpan o).2 ∧ x.a 0xC 4 = (o.list n).share ∧ s.compactable o n = true) ∧
    (∃ s c x o n a b d e f, Runs s c x ∧ x.vr = 0x113 ∧ x.names.any s.objLost = false ∧ s.coll? x (x.a 0 8) = some o ∧
      s.colls.find? (fun k => k.handle == o.handle) = some o ∧
      x.work = .compact n a b d e f ∧ n = (x.compactSpan o).2 ∧ x.af 8 1 0 = 0 ∧ x.a 0xC 4 = (o.list n).share + 1) ∧
    (∀ k ≤ 1, ∃ s c x o n a b d e f dev, Runs s c x ∧ x.vr = 0x113 ∧ x.names.any s.objLost = false ∧ s.coll? x (x.a 0 8) = some o ∧
      s.colls.find? (fun k => k.handle == o.handle) = some o ∧
      x.work = .compact n a b d e f ∧ n = (x.compactSpan o).2 + 1 ∧ dev = bit (x.a 8 4) 2 ∧ dev = decide (k = 1) ∧ x.argBase = 0 ∧ s.canWrite x.fn dev (x.a 0x18 8) 32 = true) ∧
    (∃ s : State, ∃ o h l, s.active = true ∧ s.colls.find? (fun k => k.handle == h) = some o ∧ o.dying = none ∧ o.compactAt ≠ 0 ∧ l + 1 = o.nlists ∧
      o.compactAt = (o.list l).share ∧ s.compactable o l = true) ∧
    (∃ s : State, ∃ r v, s.live = true ∧ s.oldRanges.find? (fun k => k.id == r) = some v ∧ s.noneOf v.readers = true) := by
  refine ⟨⟨lib (compact0 0 5000 0), 1, compact0 0 5000 0, coll0, 0, 0, 0, 0, 0, 0, runs (by decide +kernel), by decide +kernel⟩,
    ⟨lib (compact0 0 5001 0), 1, compact0 0 5001 0, coll0, 0, 0, 0, 0, 0, 0, runs (by decide +kernel), by decide +kernel⟩,
    fun k h => ⟨lib (compact0 1 5001 k), 1, compact0 1 5001 k, coll0, 1, 0, 0, 0, 0, 0, decide (k = 1), runs ?_, ?_⟩,
    ⟨lib (compact0 0 5000 0), coll0, 7, 0, by decide +kernel⟩,
    ⟨{ lib (compact0 0 5000 0) with oldRanges := [⟨4, 7, 0, 32, [9]⟩] }, 4, ⟨4, 7, 0, 32, [9]⟩, by decide +kernel⟩⟩
  all_goals revert k; decide +kernel

/-! ## Models, allocations, completion, functions and fragments -/

def img0 : Config.ModelImage :=
  { kind := 0, pool := 0, layers := 1, width := 8, qHeads := 1, kvHeads := 1, headDim := 8, experts := 0, active := 0, inputLen := 4, embDim := 1,
    tensors := [], projections := [(0, 0, 0)], vocab := [], byteClass := List.replicate 256 0, boundary := [], merges := [], pair := ([], [], []) }
def model0 : Model := { handle := 8, tenant := 1, raw := [], img := img0, tensors := [], dying := none }
/-- A memory of `n` tokens that holds one more, its indexes last clustered at half of its full blocks. -/
def mem0 (n : Nat) : AgentMem :=
  { handle := 9, tenant := 1, model := 8, cap := n + 1, cls := 1, budget := 0, tokens := List.replicate n 3, opened := List.replicate (n % 64) [],
    blocks := List.replicate (n / 64) [], sums := List.replicate (n / 64) [], indexes := [⟨[], [], []⟩], clustered := n / 128, temp := false, dying := none }
/-- The device with a model, a memory of `n` tokens and one command. -/
def study (x : Cmd) (n : Nat := 0) : State := richly { host x with models := [model0], mems := [mem0 n] }

/-- EMBED of one text, its vector and its report in host or in device space. -/
def embed0 (d r : Nat) : Cmd :=
  vrCmd 1 0x130 (toLe 8 8 ++ toLe 4 1 ++ toLe 4 (d * 2 ^ 5 + r * 2 ^ 6) ++ toLe 8 0x4000 ++ toLe 8 0x5000 ++ toLe 8 0x11000 ++ toLe 8 0x10000)
def memCreate0 (d : Nat) : Cmd := vrCmd 1 0x132 (toLe 8 8 ++ toLe 4 16777216 ++ toLe 4 (3 + 4 * d) ++ toLe 8 0 ++ toLe 8 0x10000)
def memDrop0 : Cmd := vrCmd 1 0x133 (toLe 8 9)
def modelInfo0 (handle d : Nat) : Cmd := vrCmd 1 0x134 (toLe 8 handle ++ toLe 8 0x10000 ++ toLe 1 d)

theorem img0_dims : img0.layers = 1 ∧ img0.kvHeads = 1 ∧ img0.headDim = 8 := ⟨rfl, rfl, rfl⟩

theorem mem_room {s : State} {t : Nat} {m : Config.ModelImage} (h : m = img0)
    (h2 : (decide (2 ^ 40 + s.fixedBytes t ≤ s.stackQuota t) && decide (s.stackUse t + s.owed t + 2 ^ 40 ≤ s.stackQuota t) &&
      decide (s.chipUse + 2 ^ 40 ≤ s.chipCap)) = true) : s.room t (memBytes m 0) = some true := by
  subst h
  have h := (Config.indexBytes 8 0).isLt
  have e : memBytes img0 0 = (Config.indexBytes 8 0).toNat := by
    simp [memBytes, sumBy, memTensor, img0_dims, List.range_succ]
  exact room_true _ (by omega) h2

theorem witness_ModelPrograms :
    (∀ i ≤ 1, ∀ j ≤ 1, ∃ s c x o ts rows d, Runs s c x ∧ s.embedTexts x = .ok ts ∧
      rows = (ts.zipIdx.map fun t => writeElems (x.af 0xC 2 1) (s.embedding t.2 o (bit (x.a 0xC 4) 3) t.1)) ∧
      (∀ (i : Nat) r, rows[i]? = some r → s.canWrite x.fn d (x.a 0x20 8 + (rows.take i).flatten.length) r.length = true) ∧
      x.a 0x20 8 + rows.flatten.length ≤ 2 ^ 64 ∧ (d = bit (x.a 0xC 4) 6 → x.a 0x28 8 + 8 ≤ x.a 0x20 8) ∧
      x.vr = 0x130 ∧ x.names.any s.objLost = false ∧ s.model? x (x.a 0 8) = some o ∧ x.embedOk = true ∧ o.tensors.findSome? QTensor.skew = none ∧
      d = bit (x.a 0xC 4) 5 ∧ d = decide (i = 1) ∧ bit (x.a 0xC 4) 6 = decide (j = 1) ∧ x.argBase = 0 ∧
      s.canWrite x.fn (bit (x.a 0xC 4) 6) (x.a 0x28 8) 8 = true) ∧
    (∀ j ≤ 1, ∃ s c x o d, Runs s c x ∧ s.room x.fn (memBytes o.img 0) = some true ∧ x.vr = 0x132 ∧ s.model? x (x.a 0 8) = some o ∧ x.memOk = true ∧
      d = bit (x.a 0xC 4) 2 ∧ d = decide (j = 1) ∧ x.argBase = 0 ∧ s.canWrite x.fn d (x.a 0x18 8) 8 = true) ∧
    (∃ s c x, Runs s c x ∧ x.vr = 0x133 ∧ cleanBut x.args [(0, 8)] = true) ∧
    (∀ d ≤ 1, ∃ s c x o, Runs s c x ∧ x.vr = 0x134 ∧ cleanBut x.args [(0, 17)] = true ∧ x.a 0x10 1 = d ∧ addrOk (bit (x.a 0x10 1) 0) (x.a 8 8) = true ∧
      s.model? x (x.a 0 8) = some o ∧ s.canWrite x.fn (bit (x.a 0x10 1) 0) (x.a 8 8) 64 = true ∧ x.argBase = 0) ∧
    (∃ s c x, Runs s c x ∧ x.vr = 0x134 ∧ cleanBut x.args [(0, 17)] = true ∧ x.a 0x10 1 = 0 ∧ addrOk false (x.a 8 8) = true ∧ s.model? x (x.a 0 8) = none) ∧
    (∃ s : State, ∃ h m o, s.active = true ∧ s.mems.find? (fun k => k.handle == h) = some m ∧ s.models.find? (fun k => k.handle == m.model) = some o ∧
      m.full = 2 ∧ 2 * Nat.max 1 m.clustered = m.full) := by
  refine ⟨fun i h j h' => ⟨study (embed0 i j), 1, embed0 i j, model0, [[]], _, decide (i = 1), runs ?_, ok_of ?_, rfl, ?_, ?_, ?_, ?_⟩,
    fun j h => ⟨study (memCreate0 j), 1, memCreate0 j, model0, decide (j = 1), runs ?_, mem_room rfl ?_, ?_⟩,
    ⟨study memDrop0, 1, memDrop0, runs (by decide +kernel), by decide +kernel⟩,
    fun d h => ⟨study (modelInfo0 8 d), 1, modelInfo0 8 d, model0, runs ?_, ?_⟩,
    ⟨study (modelInfo0 9 0), 1, modelInfo0 9 0, runs (by decide +kernel), by decide +kernel⟩,
    ⟨study (modelInfo0 8 0) 128, 9, mem0 128, model0, by decide +kernel⟩⟩
  · revert j; revert i; decide +kernel
  · revert j; revert i; decide +kernel
  · rintro (_ | k) r e
    · cases e; revert j; revert i; decide +kernel
    · simp at e
  · revert j; revert i; decide +kernel
  · revert j; revert i; decide +kernel
  · revert j; revert i; decide +kernel
  · revert j; decide +kernel
  · revert j; decide +kernel
  · revert j; decide +kernel
  all_goals revert d; decide +kernel

/-- No text, up to one token, records in host or in device space. -/
def gen0 (w : Work) (mem : Nat := 9) (d : Nat := 0) : Cmd :=
  { vrCmd 1 0x131 (toLe 8 8 ++ toLe 8 mem ++ toLe 8 0x4000 ++ toLe 4 0 ++ toLe 4 1 ++ toLe 8 0x10000 ++ toLe 4 216 ++ toLe 4 (8 * d)) with work := w }
def genSt (prompt : List Nat) (gen : Nat) : GenSt := { genStart 9 prompt [] with group := [[]], rank := [[]], gen := gen }

theorem gen_room {s : State} {t len n : Nat} {m : Config.ModelImage} (h : m = img0 ∧ len = 0 ∧ n ≤ 64)
    (h2 : (decide (2 ^ 41 + s.fixedBytes t ≤ s.stackQuota t) && decide (s.stackUse t + s.owed t + 2 ^ 41 ≤ s.stackQuota t) &&
      decide (s.chipUse + 2 ^ 41 ≤ s.chipCap)) = true) : s.room t (genBytes m len n) = some true := by
  obtain ⟨rfl, rfl, h⟩ := h
  have h1 := (Config.indexBytes 8 (n / 64)).isLt
  have e : genBytes img0 0 n ≤ 64 * blockBytes img0 + (64 * 128 + (Config.indexBytes 8 (n / 64)).toNat) := by
    have h3 : n / 64 * blockBytes img0 ≤ 64 * blockBytes img0 := Nat.mul_le_mul_right _ (by omega)
    have h4 : memBytes img0 n ≤ 64 * 128 + (Config.indexBytes 8 (n / 64)).toNat := by
      have h5 : memBytes img0 n = 32 * (n / 64 + n % 64) + (Config.indexBytes 8 (n / 64)).toNat := by
        simp [memBytes, sumBy, memTensor, img0_dims, List.range_succ]
      omega
    have h6 : genBytes img0 0 n = n / 64 * blockBytes img0 + (memBytes img0 n - memBytes img0 0) := by
      simp [genBytes, img0_dims]
    omega
  have b : blockBytes img0 ≤ 1000 := by decide +kernel
  exact room_true _ (by omega) h2

theorem witness_GenerateSteps :
    (∀ mem ∈ [9, 0], ∀ d ≤ 1, ∃ s c x o dev text len start prompt, Runs s c x ∧ s.input x (x.genFlag 2) (x.a 0x10 8) (x.a 0x18 4) = .ok text ∧
      s.room x.fn (genBytes o.img len (Nat.min (start.length + x.a 0x18 4 + if x.genFlag 8 then x.maxTok else 0) (16777216 - len))) = some true ∧
      x.vr = 0x131 ∧ s.model? x (x.a 0 8) = some o ∧ dev = x.genFlag 3 ∧ dev = decide (d = 1) ∧ x.work = .idle ∧ x.genOk = true ∧
      len = ((s.mems.find? fun k => k.handle == x.a 8 8).map (·.tokens.length)).getD 0 ∧ start = (if len = 0 then startToken o.img else []) ∧
      s.genLost x 0 = false ∧ x.nstop = 0 ∧ prompt = start ++ tokenise o.img text ∧ s.canWrite x.fn dev (x.a 0x20 8) 4 = true ∧ x.a 8 8 = mem) ∧
    (∀ n ∈ [0, 62, 63], ∃ s c x o g tok rest m, Runs s c x ∧ x.vr = 0x131 ∧ s.model? x (x.a 0 8) = some o ∧ x.work = .generate g ∧ g.prompt = tok :: rest ∧
      g.rank ≠ [] ∧ s.genLost x g.mem = false ∧ s.tokenSkew o g = none ∧ s.mems.find? (fun k => k.handle == g.mem) = some m ∧
      m.tokens.length + 1 = m.cap ∧ m.opened.length = n ∧ s.tokenReady x o g = true) ∧
    (∀ d ≤ 1, ∃ s c x o dev g a, Runs s c x ∧ (∀ i n, i + n ≤ 36 → s.canWrite x.fn dev (a + i) n = true) ∧ x.vr = 0x131 ∧ s.model? x (x.a 0 8) = some o ∧
      dev = x.genFlag 3 ∧ dev = decide (d = 1) ∧ x.work = .generate g ∧ g.prompt = [] ∧ x.maxTok = g.gen ∧ s.genLost x g.mem = false ∧ s.tokenSkew o g = none ∧
      g.text.length ≤ g.released ∧ a = x.a 0x20 8 + g.out ∧ x.argBase = 0 ∧ a + 36 ≤ 2 ^ 64) := by
  refine ⟨fun mem h d h' => ⟨study (gen0 .idle mem d), 1, gen0 .idle mem d, model0, decide (d = 1), [], 0, [], [], runs ?_, ok_of ?_, gen_room ?_ ?_, ?_⟩,
    fun n h => ⟨study (gen0 (.generate (genSt [3, 4] 0))) n, 1, gen0 (.generate (genSt [3, 4] 0)), model0, genSt [3, 4] 0, 3, [4], mem0 n, runs ?_, ?_⟩,
    fun d h => ⟨study (gen0 (.generate (genSt [] 1)) 9 d), 1, gen0 (.generate (genSt [] 1)) 9 d, model0, decide (d = 1), genSt [] 1, 0x10000, runs ?_, fun i n hi => ?_, ?_⟩⟩
  · revert d; revert mem; decide +kernel
  · revert d; revert mem; decide +kernel
  · revert d; revert mem; decide +kernel
  · revert d; revert mem; decide +kernel
  · revert d; revert mem; decide +kernel
  · revert n; decide +kernel
  · revert n; decide +kernel
  · revert d; decide +kernel
  · have e : ∀ d ≤ 1, ∀ i ≤ 36, ∀ n ≤ 36, (study (gen0 (.generate (genSt [] 1)) 9 d)).canWrite 1 (decide (d = 1)) (0x10000 + i) n = true := by decide +kernel
    exact e d h i (by omega) n (by omega)
  · revert d; decide +kernel

def alloc1 (n d : Nat) : Cmd := vrCmd 1 0x140 (toLe 8 n ++ toLe 8 (4 * d) ++ toLe 8 0x10000)
def free0 (b : Nat) : Cmd := vrCmd 1 0x141 (toLe 8 b)

theorem newBase_le {s : State} {n : Nat} (h : ((s.allocs.filter fun m => m.tenant == 1).foldl (fun b m => Nat.max b (roundUp (m.base + m.size) 65536)) 0x10000) ≤ 2 ^ 48) :
    s.newBase 1 n ≤ 2 ^ 48 := by
  unfold State.newBase
  dsimp only
  split
  · omega
  · exact h

theorem witness_Allocations :
    (∀ n ∈ [65536, 64 * gib], ∀ i ≤ 1, ∃ s c x d, Runs s c x ∧ s.newBase x.fn (x.a 0 8) + x.a 0 8 ≤ 2 ^ 64 ∧ x.vr = 0x140 ∧ x.argBase = 0 ∧ x.allocOk = true ∧ x.a 0 8 = n ∧
      d = bit (x.a 8 4) 2 ∧ d = decide (i = 1) ∧ s.room x.fn (x.a 0 8) = some true ∧ s.canWrite x.fn d (x.a 0x10 8) 8 = true) ∧
    (∃ s c x, Runs s c x ∧ x.vr = 0x140 ∧ x.argBase = 0 ∧ x.allocOk = true ∧ s.room x.fn (x.a 0 8) = none) ∧
    (∀ b ∈ [0x10000, 0x20000], ∃ s c x, Runs s c x ∧ x.vr = 0x141 ∧ x.argBase = 0 ∧ cleanBut x.args [(0, 8)] = true ∧ s.liveAlloc x.fn (x.a 0 8) = decide (b = 0x10000)) ∧
    (∃ s : State, ∃ t b m readers, s.live = true ∧ s.allocs.find? (fun m => m.tenant == t && m.base == b) = some m ∧ m.freeing = some readers ∧
      ∀ y ∈ s.cmds, y.id ∈ readers → y.phase = .ended) := by
  refine ⟨fun n h i h' => ⟨richly (host (alloc1 n i)), 1, alloc1 n i, decide (i = 1), runs ?_, ?_, ?_⟩,
    ⟨host (alloc1 65536 0), 1, alloc1 65536 0, runs (by decide +kernel), by decide +kernel⟩,
    fun b h => ⟨host (free0 b), 1, free0 b, runs ?_, ?_⟩,
    ⟨{ host { cmd0 with phase := .ended } with allocs := [{ alloc0 with freeing := some [1] }] }, 1, 0x10000, { alloc0 with freeing := some [1] }, [1], by decide +kernel⟩⟩
  · revert i; revert n; decide +kernel
  · have e : ∀ n ∈ [65536, 64 * gib], ∀ i ≤ 1, (alloc1 n i).a 0 8 ≤ 2 ^ 48 := by decide +kernel
    have b : (richly (host (alloc1 n i))).newBase 1 ((alloc1 n i).a 0 8) ≤ 2 ^ 48 := newBase_le (by revert i; revert n; decide +kernel)
    have := e n h i h'
    exact Nat.le_trans (Nat.add_le_add b this) (by decide)
  · revert i; revert n; decide +kernel
  all_goals revert b; decide +kernel

/-- A command of the PF's queue 63, ended. -/
def ended0 : Cmd := { hostCmd 0 2 [] with sq := 63, cq := some 63, phase := .ended, slot := none }
/-- A completion queue of the PF with a timer of 5 µs, an entry unsignalled since 0 and vector 3 unmasked. -/
def timed : State :=
  ((after ready (.hqCqcfgEn 0 63 (BitVec.ofNat 64 (5 * 2 ^ 32 + 2 ^ 31 + 2 ^ 30 + 3 * 2 ^ 22 + 15)))).setCqSt 0 63 ⟨0, true, 1, some 0⟩).setBar4 0 56 0

theorem witness_CompletionEntries :
    (∃ s : State, ∃ c x, s.live = true ∧ s.cmd? c = some x ∧ x.parent = none ∧ x.phase = .admitted ∧ x.opc = 1 ∧ x.varelm = false ∧ x.started = true ∧
      ∀ f ∈ s.frags, f.cmd ≠ c) ∧
    (∃ s c x q, MemCanonical s ∧ s.awake = true ∧ s.fld oSafStatus 0 0 = 0 ∧ s.cmd? c = some x ∧ x.phase = .ended ∧ x.parent = none ∧ x.cq = some q ∧
      s.cqEn x.fn q = true ∧ 0 < s.cqFree x.fn q ∧ s.hostRefused x.fn ((s.hqWord x.fn (oCqBase q)).toNat + 32 * s.cqTail x.fn q) 32 = false) ∧
    (∃ s : State, ∃ c x, s.awake = true ∧ s.fld oSafStatus 0 0 = 0 ∧ s.cmd? c = some x ∧ x.phase = .ended ∧ x.parent = none ∧ ∀ q, x.cq = some q → s.cqEn x.fn q = false) ∧
    (timed.live = true ∧ (timed.cqSt 0 63).firstUnsig = some 0 ∧ timed.hqFld 0 (oCqCfg 63) 47 32 ≠ 0 ∧ timed.hqFld 0 (oCqCfg 63) 30 30 = 1 ∧
      timed.vecMasked 0 (timed.hqFld 0 (oCqCfg 63) 29 22) = false) ∧
    (∃ s : State, ∃ c x, s.live = true ∧ s.cmd? c = some x ∧ x.parent = none ∧ x.phase = .admitted ∧ x.usesHost = true ∧ x.work = .idle ∧ x.vr ≠ 0x131) :=
  ⟨⟨host { launch0 [] with started := true }, 1, { launch0 [] with started := true }, by decide +kernel⟩,
    ⟨{ queues with cmds := [ended0] }, 1, ended0, 63, by unfold MemCanonical; decide +kernel⟩,
    ⟨host ended0, 1, ended0, by decide +kernel⟩, by decide +kernel,
    ⟨host (copyCmd 2 0 false), 1, copyCmd 2 0 false, by decide +kernel⟩⟩

theorem witness_FunctionResets : ready.hostUp = true ∧ ready.awake = true ∧ 255 < 256 := by decide +kernel

/-- A pod table of one entry: the node, one address. -/
def tableBytes0 : List Byte := toLe 4 0x1001 ++ toLe 4 1 ++ zeros 8 ++ toLe 16 0x20010DB8 ++ zeros 112
def fabCfg0 (fn : Nat) : Cmd := vrCmd fn 0x161 (toLe 8 0x4000 ++ toLe 4 1 ++ toLe 4 0)

theorem witness_ConfigurationAndTables :
    (∀ k ∈ [3, 4], ∃ s : State, s.awake = true ∧ s.power.link = true ∧ s.fld oPwrState 11 8 = k) ∧
    (∃ s c x b t, Runs s c x ∧ s.input x (bit (x.a 0xC 4) 0) (x.a 0 8) (144 * x.a 8 4) = .ok b ∧ x.vr = 0x161 ∧ x.fn = 0 ∧ x.a 8 4 = 1 ∧ x.a 0xC 4 < 2 ∧ addrOk (bit (x.a 0xC 4) 0) (x.a 0 8) = true ∧
      cleanBut x.args [(0, 16)] = true ∧
      ((List.range (x.a 8 4)).mapM fun i => fabEntry s.nodeId ((b.drop (144 * i)).take 144)) = some t) ∧
    (∃ s c x, Runs s c x ∧ x.vr = 0x161 ∧ x.fn = 1) := by
  refine ⟨fun k h => ⟨ready.setFld oPwrState 11 8 k, ?_⟩,
    ⟨withHost 0 0x4000 tableBytes0 (inPod 1 0x1002 (host (fabCfg0 0))), 1, fabCfg0 0, tableBytes0, [⟨0x1001, [0x20010DB8]⟩], runs (by decide +kernel), ok_of (by decide +kernel), by decide +kernel⟩,
    ⟨host (fabCfg0 1), 1, fabCfg0 1, runs (by decide +kernel), by decide +kernel⟩⟩
  revert k; decide +kernel

/-- A class-0 fragment that can be dispatched to cluster 0. -/
def waiting0 : Frag := { frag0 with phase := .dispatchable, cls := 0, members := [] }
def pool0 : State := ({ bench 0 with frags := [waiting0] } : State).setFld (oTenQmem 1) 47 32 64
def sleeper : Frag := withThread (fun x => { x with st := .free }) frag0
def done0 : Frag := withThread (fun x => { x with st := .ended }) frag0
def post0 : List Byte := zeros 4 ++ toLe 4 1 ++ toLe 4 64 ++ zeros 52

theorem witness_Fragments :
    (∃ s : State, ∃ x ls, s.active = true ∧ s.tripped = false ∧ s.nextDispatch = some x ∧ s.frag? x.id = some x ∧ x.isVarelm = false ∧ s.goodClusters x ls = true) ∧
    (∃ s : State, ∃ l x, ∃ m : Frag, ∃ mb : Member, ∃ i : Nat, ∃ th, s.active = true ∧ s.frag? x = some m ∧ m.phase = .running ∧ x ∈ (s.cluster l).waking ∧ m.members[i]? = some mb ∧ mb.cluster = l ∧
      mb.threads = [th] ∧ th.st = .free) ∧
    (∀ n ∈ [2, 3], ∃ s : State, ∃ f x c, s.live = true ∧ s.frag? f = some x ∧ x.phase = .running ∧ x.isVarelm = false ∧ x.reissues = n ∧ s.cmd? x.cmd = some c ∧
      c.phase = .admitted ∧ c.parent = none) ∧
    (∀ n ∈ [2, 3], ∃ s : State, ∃ f c x, Runs s c x ∧ x.vr = 0x110 ∧ x.work = .idle ∧ (∀ m ∈ s.moves, m.demand.map (·.1) ≠ some c) ∧ (x.losses.filter (· == f)).length = n) ∧
    (∃ s : State, ∃ f x c a v, MemCanonical s ∧ s.active = true ∧ s.frag? f = some x ∧ x.isVarelm = false ∧ x.phase = .running ∧ s.allEnded x = true ∧ x.inner = false ∧
      x.held = [] ∧ (∀ m ∈ x.members, (s.cluster m.cluster).lines = []) ∧ x.prog2 = none ∧ s.cmd? x.cmd = some c ∧ c.phase = .admitted ∧
      x.posts = [] ∧ x.logs = [⟨false, a, v⟩] ∧ s.devWritable x.tenant a 8 = true) ∧
    (∃ s : State, ∃ f x c b, s.active = true ∧ s.frag? f = some x ∧ x.isVarelm = false ∧ x.phase = .running ∧ s.allEnded x = true ∧ x.inner = false ∧
      x.held = [] ∧ (∀ m ∈ x.members, (s.cluster m.cluster).lines = []) ∧ x.prog2 = none ∧ s.cmd? x.cmd = some c ∧ c.phase = .admitted ∧
      x.posts = [b] ∧ x.logs = [] ∧ descBad b = false ∧ bit (leAt b 4 4) 24 = false ∧ bit (leAt b 4 4) 25 = false ∧
      (fieldAt b 4 23 20 + 1) * fieldAt b 8 6 0 = s.cisQuota x.tenant) := by
  refine ⟨⟨pool0, waiting0, [0], by decide +kernel⟩,
    ⟨withCluster { Cluster.reset with waking := [1] } (bench 0 fun _ => sleeper), 0, 1, sleeper, sleeper.members.getD 0 member0, 0, { th0 with st := .free }, by decide +kernel⟩,
    fun n h => ⟨bench 0 fun f => { f with reissues := n }, 1, { frag0 with reissues := n }, cmd0, ?_⟩,
    fun n h => ⟨host { search0 7 0 with losses := List.replicate n 5 }, 5, 1, { search0 7 0 with losses := List.replicate n 5 }, ?_⟩,
    ⟨bench 0 fun _ => { done0 with logs := [⟨false, 0x10000, 5⟩] }, 1, { done0 with logs := [⟨false, 0x10000, 5⟩] }, cmd0, 0x10000, 5, by unfold MemCanonical; decide +kernel⟩,
    ⟨(bench 0 fun _ => { done0 with posts := [post0] }).setFld (oTenQmem 1) 47 32 64, 1, { done0 with posts := [post0] }, cmd0, post0, by decide +kernel⟩⟩
  · revert n; decide +kernel
  · exact ⟨runs (by revert n; decide +kernel), by revert n; decide +kernel⟩

/-! ## Stack memory, moves and flash -/

/-- A fragment's state whose allocation is inner-only in its first page. -/
def sealed0 : State := { bench 0 with ranges := [⟨0, 1, 0x10000, 0x1000⟩] }

theorem witness_StackMemory :
    (∀ bad ∈ [0, 1, 4], ∃ s : State, ∃ u line, s.live = true ∧ s.fld oPwrState 2 2 = 1 ∧ s.lineIn u line = true ∧ s.innerLine u line = false ∧ u ≠ none ∧ bad ≤ 4) ∧
    (∀ i ≤ 1, ∃ s : State, ∃ t b line, s.live = true ∧ s.fld oPwrState 2 2 = 1 ∧ s.lineIn (some (.alloc t b)) line = true ∧
      s.innerLine (some (.alloc t b)) line = decide (i = 1) ∧ 4 < 5) ∧
    (∃ s : State, ∃ v line x, s.live = true ∧ s.fld oPwrState 2 2 = 1 ∧ s.lineIn (some v) line = true ∧ unitIsAlloc v = false ∧ s.unit? v = some x ∧ s.codedUnit v = false) ∧
    (∀ k ≤ 1, ∃ s : State, s.live = true ∧ s.fld oSafCap 47 47 = k ∧ (11, 31) ∉ s.power.chRetired ∧ 2304 ≤ s.fld oPlcCap 31 0 ∧ s.onChannel 11 31 = false) ∧
    (∀ k ≤ 1, ∃ s : State, ∃ c x j, s.live = true ∧ s.fld oCisPoolst 7 7 = 1 ∧ s.cmd? c = some x ∧ x.phase = .admitted ∧ x.parent = none ∧ x.slot = some (7, j) ∧ x.work = .idle ∧
      s.fld oCisPoolst 3 3 = k) := by
  refine ⟨fun bad h => ⟨bench 0, some (.alloc 1 0x10000), 0x400, ?_⟩, fun i h => ⟨if i = 1 then sealed0 else bench 0, 1, 0x10000, 0x43F, ?_⟩,
    ⟨lib (search0 7 0), .fineList 7 0, 0, listUnit (.stack 3), by decide +kernel⟩,
    fun k h => ⟨(ready.setFld oSafCap 47 47 k).setFld oPlcCap 31 0 2304, ?_⟩,
    fun k h => ⟨((host { cmd0 with slot := some (7, 4095) }).setFld oCisPoolst 7 0 128).setFld oCisPoolst 3 3 k, 1, { cmd0 with slot := some (7, 4095) }, 4095, ?_⟩⟩
  · revert bad; decide +kernel
  · revert i; decide +kernel
  all_goals revert k; decide +kernel

def move0 (uid : UnitId) (dest : Home) (demand : Option (Nat × Option Nat)) (switched : Bool) : Move :=
  { id := 4, uid := uid, dest := dest, demand := demand, late := false, switched := switched, readers := [9] }
def fineMove (dest : Home) (demand : Option (Nat × Option Nat)) : Move := move0 (.fineList 7 0) dest demand false
/-- The list lives in `home`, and one move is in progress. -/
def moving (home : Home) (m : Move) : State := { lib (search0 7 0) with units := [listUnit home], moves := [m] }
def poorly (s : State) : State := s.setFld (oTenQmem 1) 31 0 0
/-- The move `m` of unit `u` is found, before its switch. -/
def Found0 (s : State) (m : Move) (u : Machine.PUnit) : Prop :=
  s.active = true ∧ s.moves.find? (fun x => x.id == 4) = some m ∧ m.switched = false ∧ s.unit? m.uid = some u ∧ s.wellOn m.uid = false

theorem witness_PlacementMoves :
    (∀ dest ∈ [Home.stack 0, Home.stack 11], ∃ s : State, ∃ u x, s.active = true ∧ s.unit? u = some x ∧ u = .listSegment 7 0 0 ∧ s.mayMove x dest = true) ∧
    (∀ c ≤ 1, ∃ s : State, ∃ u x deadline, s.active = true ∧ s.unit? u = some x ∧ x.home = .flash ∧ x.lost = false ∧ s.onMove u = false ∧ s.destOk x (.stack 11) = true ∧
      (c = 1 → ∃ y, s.cmd? c = some y ∧ y.phase = .admitted ∧ State.needsUnit y u = true ∧ x.tenant = y.fn ∧ s.deadlineOk y u deadline = true) ∧
      (c = 0 → s.cmd? 0 = none ∧ s.needsList u = true ∧ deadline = none)) ∧
    (∃ s m u, Found0 s m u ∧ s.pastDue m = true) ∧
    (∃ s m u, Found0 s m u ∧ s.pastDue m = false ∧ s.sourceGood u = true ∧ s.destWritable u m.dest = true ∧ s.stillDue m u = true ∧ m.demand = none ∧ wholeUnit m.uid = m.uid) ∧
    (∃ s m u, Found0 s m u ∧ s.pastDue m = false ∧ s.sourceGood u = true ∧ s.destWritable u m.dest = true ∧ s.stillDue m u = true ∧ m.demand.isSome = true ∧
      s.demandRoom u = true ∧ s.reserveRoom 0 = true ∧ wholeUnit m.uid = m.uid) ∧
    (∃ s m u c, Found0 s m u ∧ s.pastDue m = false ∧ s.sourceGood u = true ∧ s.destWritable u m.dest = true ∧ s.stillDue m u = true ∧ m.demand = none ∧
      m.uid = .listSegment 7 0 0 ∧ m.dest = .stack 4 ∧ s.colls.find? (fun o => o.handle == 7) = some c) ∧
    (∃ s m u, Found0 s m u ∧ s.pastDue m = false ∧ s.destWritable u m.dest = false ∧ m.dest = .flash) ∧
    (∃ s m u, Found0 s m u ∧ s.pastDue m = false ∧ s.unit? (wholeUnit m.uid) = some u ∧ unitIsAlloc m.uid = false ∧ s.codedUnit (wholeUnit m.uid) = false) ∧
    (∃ s m u, Found0 s m u ∧ s.pastDue m = false ∧ s.sourceGood u = true ∧ s.destWritable u m.dest = true ∧ s.stillDue m u = false) ∧
    (∃ s m u, Found0 s m u ∧ s.pastDue m = false ∧ m.dest = .hub ∧ s.unitClass u.uid ≠ 0) ∧
    (∃ s m u, Found0 s m u ∧ s.pastDue m = false ∧ s.sourceGood u = true ∧ s.destWritable u m.dest = true ∧ s.stillDue m u = true ∧ m.demand.isSome = true ∧
      s.demandRoom u = false) ∧
    (∃ s : State, ∃ m v, s.live = true ∧ s.moves.find? (fun x => x.id == m) = some v ∧ v.switched = true ∧ s.noneOf v.readers = true ∧ s.wellOn v.uid = false) ∧
    (∃ s : State, ∃ m v c d, s.live = true ∧ s.moves.find? (fun x => x.id == m) = some v ∧ v.switched = false ∧ v.late = false ∧ v.demand = some (c, some d)) := by
  unfold Found0
  refine ⟨fun dest h => ⟨{ lib (search0 7 0) with wellHw := { ready.wellHw with spared := [(3, 31)] } }, .listSegment 7 0 0, { listUnit (.stack 3) with uid := .listSegment 7 0 0, bytes := segBytes 8 0 }, ?_⟩,
    fun c h => ⟨{ lib (search0 7 0) with units := [listUnit .flash] }, .fineList 7 0, listUnit .flash, none, ?_, ?_, ?_, ?_, ?_, ?_, fun e => ⟨search0 7 0, ?_⟩, fun e => ?_⟩,
    ⟨{ moving .flash (fineMove (.stack 4) (some (1, some 500))) with clock := 501 }, fineMove (.stack 4) (some (1, some 500)), listUnit .flash, by decide +kernel⟩,
    ⟨moving .flash (fineMove (.stack 4) none), fineMove (.stack 4) none, listUnit .flash, by decide +kernel⟩,
    ⟨moving .flash (fineMove (.stack 4) (some (1, some 500))), fineMove (.stack 4) (some (1, some 500)), listUnit .flash, by decide +kernel⟩,
    ⟨moving (.stack 3) (move0 (.listSegment 7 0 0) (.stack 4) none false), move0 (.listSegment 7 0 0) (.stack 4) none false, _, coll0, ⟨by decide +kernel, by decide +kernel,
      rfl, rfl, by decide +kernel⟩, by decide +kernel⟩,
    ⟨moving (.stack 3) (fineMove .flash none), fineMove .flash none, listUnit (.stack 3), by decide +kernel⟩,
    ⟨moving (.stack 3) (fineMove (.stack 4) none), fineMove (.stack 4) none, listUnit (.stack 3), by decide +kernel⟩,
    ⟨poorly (moving .flash (fineMove (.stack 4) none)), fineMove (.stack 4) none, listUnit .flash, by decide +kernel⟩,
    ⟨moving (.stack 3) (fineMove .hub none), fineMove .hub none, listUnit (.stack 3), by decide +kernel⟩,
    ⟨poorly (moving .flash (fineMove (.stack 4) (some (1, none)))), fineMove (.stack 4) (some (1, none)), listUnit .flash, by decide +kernel⟩,
    ⟨moving (.stack 4) (move0 (.fineList 7 0) (.stack 4) none true), 4, move0 (.fineList 7 0) (.stack 4) none true, by decide +kernel⟩,
    ⟨moving .flash (fineMove (.stack 4) (some (1, some 500))), 4, fineMove (.stack 4) (some (1, some 500)), 1, 500, by decide +kernel⟩⟩
  · revert dest; decide +kernel
  all_goals first | decide +kernel | (subst e; decide +kernel)

def rec0 : Rec := { loc := locAt 1 0 16, coll := 0, lid := 0, fmt := 1, tenant := 1, bytes := List.replicate 16 7, valid := true }
def block0 (id : Nat) (st : BlockState) (oneBit : Bool) (rs : List Rec) : Block :=
  { id := id, part := some (1, 7), oneBit := oneBit, st := st, recs := rs, erases := 0, used := rs.length, order := id, target := none, cause := 0, readers := [], refresh := false, group := none, covered := 0 }
/-- Partition 7 of tenant 1 with these blocks. -/
def media (density : Bool) (bs : List Block) (ns : List Notice := []) : State :=
  { lib (search0 7 0) with
    parts := [{ part0 with density := density }]
    flash := { Flash.reset with geom := ⟨2 ^ 24, 4, 3, 1000⟩, dies := [(0, 1)], blocks := bs, notices := ns } }
/-- FREE blocks of another die, which serve a new parity group. -/
def parity0 : List Block := [block0 0x10001 .free true [], block0 0x10002 .free true [], block0 0x10003 .free true []]
def notice0 (queued : Bool) : Notice := { id := 5, old := locAt 1 0 16, new := locAt 2 0 16, lid := 0, coll := 0, tenant := 1, cause := 1, block := 1, queued := queued }
def collAt : Coll := { coll0 with lists := [(0, { list0 with entries := [{ entryOf 0 false with loc := locAt 1 0 16 }], committed := 1 })] }

theorem witness_FlashRelocation :
    (∀ rs ∈ [[], [rec0]], ∃ s : State, ∃ t pid dest p b, s.active = true ∧ s.part? t pid = some p ∧ s.oldestBuffer t pid = some b ∧ s.block? b.id = some b ∧
      p.density = false ∧ b.recs = rs ∧ s.destFits b.id dest false b.valid = true) ∧
    (∀ rs ∈ [[], [rec0]], ∃ s : State, ∃ t pid dest p b, s.active = true ∧ s.part? t pid = some p ∧ s.gcVictim p = some b ∧ s.block? b.id = some b ∧
      s.gcDue t pid = true ∧ b.recs = rs ∧ s.destFits b.id dest p.density b.valid = true) ∧
    (∀ rs ∈ [[], [rec0]], ∃ s : State, ∃ dest b, s.active = true ∧ s.block? b.id = some b ∧ b.st = .verified ∧ b.refresh = true ∧ b.recs = rs ∧
      s.destFits b.id dest b.oneBit b.valid = true) ∧
    (∀ home ∈ [Home.stack 3, Home.flash], ∃ s : State, ∃ n v c, s.active = true ∧ s.flash.notices.find? (fun x => x.id == n) = some v ∧ v.queued = false ∧ s.noticeColl v = some c ∧
      s.colls.find? (fun k => k.handle == c.handle) = some c ∧ v.new ≠ v.old ∧ c.listsAt v.lid v.old ≠ [] ∧
      ∀ l ∈ c.listsAt v.lid v.old, s.listOnFlash c.handle l = decide (home = .flash)) ∧
    (∃ s : State, ∃ n v, s.active = true ∧ s.flash.notices.find? (fun x => x.id == n) = some v ∧ v.queued = false ∧ s.noticeColl v = none) ∧
    (∀ dest ∈ [Home.flash, Home.stack 11], ∃ s : State, ∃ h l c u, s.active = true ∧ s.colls.find? (fun k => k.handle == h) = some c ∧ s.unit? (.fineList h l) = some u ∧ u.home = .flash ∧
      s.onMove (.fineList h l) = false ∧ s.stayParked = false ∧ (∃ n ∈ s.queuedFor c l, s.needsPending n = true) ∧
      (dest = .flash ∨ s.destOk u dest = true ∧ s.reserveRoom u.bytes = true ∧ s.takesUnit u s.arriving = true)) := by
  refine ⟨fun rs h => ⟨media false ([block0 1 .verified true rs, block0 2 .free false []] ++ parity0), 1, 7, 2, { part0 with density := false }, block0 1 .verified true rs, ?_⟩,
    fun rs h => ⟨media true [block0 1 .verified true rs, block0 2 .opened true []], 1, 7, 2, part0, block0 1 .verified true rs, ?_⟩,
    fun rs h => ⟨media true ([{ block0 1 .verified true rs with refresh := true }, block0 2 .free false []] ++ parity0), 2, { block0 1 .verified true rs with refresh := true }, ?_⟩,
    fun home h => ⟨{ media true [] [notice0 false] with colls := [collAt], units := [listUnit home] }, 5, notice0 false, collAt, ?_⟩,
    ⟨{ media true [] [notice0 false] with colls := [] }, 5, notice0 false, by decide +kernel⟩,
    fun dest h => ⟨{ media true [block0 1 .pending true [rec0]] [notice0 true] with colls := [collAt], units := [listUnit .flash] }, 7, 0, collAt, listUnit .flash, ?_⟩⟩
  · revert rs; decide +kernel
  · revert rs; decide +kernel
  · revert rs; decide +kernel
  · revert home; decide +kernel
  · revert dest; decide +kernel

/-- An open block with one record, a member of parity group 3. -/
def member1 (st : BlockState) : Block := { block0 1 st true [rec0] with group := some 3, covered := 1 }
def group0 : ParityGroup := { id := 3, part := (1, 7), oneBit := true, members := [1], parity := [9], xor := [], pages := 0 }
def grouped (bs : List Block) : State := { media true bs with flash := { (media true bs).flash with groups := [group0], nextGroup := 4 } }

theorem witness_FlashBlocks :
    (∀ st ∈ [BlockState.opened, .closed, .verified], ∃ s : State, ∃ block b t pid p, s.active = true ∧ s.block? block = some b ∧ b.programmed = true ∧ block ∉ s.flash.patrolled ∧
      b.part = some (t, pid) ∧ s.part? t pid = some p ∧ b.st = st) ∧
    (∃ s : State, ∃ block b d t pid p, s.active = true ∧ s.block? block = some b ∧ b.st = .opened ∧ s.isParity block = false ∧ block ∉ s.sourcesOf block ∧ b.part = some (t, pid) ∧
      s.part? t pid = some p ∧ d ∉ s.sourcesOf block ∧ b.group.isSome = true ∧ s.destFits block d b.oneBit b.valid = true) ∧
    (∃ s : State, ∃ block b x a r y, s.active = true ∧ s.block? block = some b ∧ b.st = .opened ∧ s.isParity block = false ∧ block ∉ s.sourcesOf block ∧ x ∈ s.sourcesOf block ∧
      s.block? x = some a ∧ a.st = .victim ∧ r ∈ a.recs ∧ r.valid = true ∧ y ∈ b.recs ∧ y.valid = true ∧ y.tenant = r.tenant ∧ y.coll = r.coll ∧ y.lid = r.lid) ∧
    (∀ oneBit ∈ [false, true], ∃ s : State, ∃ block b t pid p, s.active = true ∧ s.block? block = some b ∧ s.erasable b = true ∧ b.oneBit = oneBit ∧ b.part = some (t, pid) ∧
      s.part? t pid = some p) ∧
    (∃ s : State, s.live = true ∧ s.flash.recovering = true ∧ ∃ b ∈ s.flash.blocks, b.st = .victim) := by
  refine ⟨fun st h => ⟨media true [block0 1 st true [rec0]], 1, block0 1 st true [rec0], 1, 7, part0, ?_⟩,
    ⟨grouped ([member1 .opened, block0 2 .free true []] ++ parity0), 1, member1 .opened, 2, 1, 7, part0, by decide +kernel⟩,
    ⟨grouped [member1 .opened, { block0 2 .victim true [rec0] with target := some 1 }], 1, member1 .opened, 2, { block0 2 .victim true [rec0] with target := some 1 }, rec0, rec0,
      by decide +kernel⟩,
    fun oneBit h => ⟨media true [block0 1 .pending oneBit [rec0]], 1, block0 1 .pending oneBit [rec0], 1, 7, part0, ?_⟩,
    ⟨{ ready with flash := { Flash.reset with recovering := true, blocks := [block0 1 .victim true []] } }, by decide +kernel⟩⟩
  · revert st; decide +kernel
  · revert oneBit; decide +kernel

/-! ## Registers, resets, security -/

theorem zeros_length (n : Nat) : (zeros n).length = n := List.length_replicate ..

/-- A pending gate list of `len` intervals of 1 ns, which GO arms, in a cycle of the least length. -/
def gateReady (len : Nat) : State :=
  (List.range len).foldl (fun s i => s.setFld (oGateEntry 15 (1 - s.fld (oGateCtrl 15) 3 3) i) 31 0 1) (ready.setFld (oGateCycle 15) 31 0 1000)
/-- GO with a length of 1. -/
def armed1 : Word := BitVec.ofNat 64 (1 * 65536 + 2)

theorem witness_RegisterWrites :
    (∃ v : Word, ready.sideband = true ∧ field v.toNat 15 0 = 1 ∧ field v.toNat 31 16 = 1 ∧ field v.toNat 47 32 = 1) ∧
    (∀ b ∈ [48, 51], ∃ s : State, ∃ o, s.sideband = true ∧ s.testReg o = false ∧ (accBits o .w1c).getLsbD b = true ∧ (s.word o).getLsbD b = true) ∧
    (∀ k ≤ 1, ∃ s : State, s.hostUp = true ∧ s.power.bootFailed = false ∧ s.fld oSysMgmt 0 0 = k) ∧
    (∃ v : Word, ready.sideband = true ∧ field v.toNat 4 0 = 22 ∧ field v.toNat 19 16 = 8) ∧
    (∃ v : Word, ready.sideband = true ∧ field v.toNat 4 0 = 22 ∧ field v.toNat 19 16 = 9) ∧
    (∃ v : Word, ready.sideband = true ∧ field v.toNat 4 0 = 23 ∧ field v.toNat 19 16 = 8) ∧
    (∀ t ∈ [1, 255], ∃ s : State, s.sideband = true ∧ s.fld (oTenCtrl t) 0 0 = 0 ∧ s.tenantBusy t = false ∧ (zeros 32).length = 32) ∧
    (∃ s : State, s.sideband = true ∧ field armed1.toNat 1 1 = 1 ∧ field armed1.toNat 26 16 = 1 ∧ s.fld (oGateCtrl 15) 2 2 = 0 ∧ s.emptyInterval 15 1 = false ∧
      1000 = s.fld (oGateCycle 15) 31 0) ∧
    (∃ s : State, s.sideband = true ∧ s.firmware.digest ≠ [] ∧ s.fuses.svnf = s.firmware.svn ∧ s.varelm.digest ≠ [] ∧ s.fuses.svnv = s.varelm.svn) ∧
    (∃ s : State, s.sideband = true ∧ s.firmware.svn < s.fuses.svnf) ∧
    (∃ s : State, s.sideband = true ∧ s.testReg 4 = false ∧ 4 % 8 ≠ 0) := by
  refine ⟨⟨0x000100010001, by decide +kernel⟩, fun b h => ⟨ready.setFld oLcsState 51 48 15, oLcsState, ?_⟩, fun k h => ⟨ready.setFld oSysMgmt 0 0 k, ?_⟩, ⟨0x80016, by decide +kernel⟩, ⟨0x90016, by decide +kernel⟩, ⟨0x80017, by decide +kernel⟩,
    fun t h => ⟨ready, ?_⟩, ⟨gateReady 1, by decide +kernel⟩, ⟨{ ready with firmware := { noImage with digest := [1] }, varelm := { noImage with digest := [1] } }, by decide +kernel⟩,
    ⟨{ ready with fuses := { blankFuses with svnf := 1 } }, by decide +kernel⟩, ⟨ready, by decide +kernel⟩⟩
  · revert b; decide +kernel
  · revert k; decide +kernel
  · revert t; decide +kernel

def start0 (code : Nat) : StartInfo :=
  { fuses := { blankFuses with lcs := 2 }, varelm := noImage, primary := code, secondary := 1, fw := noImage, wipeBad := none, factoryBad := [], channels := [], geom := ⟨2 ^ 24, 4, 3, 1000⟩,
    badClusters := [543], logicalMap := [0, 1], nonce := zeros 32 }

theorem witness_ResetsAndStartUp :
    (ready.sideband = true ∧ ready.power.on = true) ∧
    (∃ s : State, s.power.on = false) ∧ (∃ s : State, s.power.on = true ∧ s.power.dormant = true) ∧
    (∀ w ∈ [false, true], ∃ s : State, s.power.on = true ∧ s.power.dormant = false ∧ s.fld oPwrState 1 0 = 2 ∧ s.power.wakeHeld = w) ∧
    (∀ p ∈ [false, true], ∃ s : State, ∃ v : Word, s.sideband = true ∧ field v.toNat 0 0 = 1 ∧ field v.toNat 1 1 = 0 ∧ field v.toNat 26 16 = 1300 ∧ field v.toNat 15 4 = 10 ∧
      s.power.parked = p) ∧
    (∃ s : State, ∃ v : Word, s.power.on = true ∧ s.power.dormant = false ∧ s.fld oPwrState 1 0 = 2 ∧ field v.toNat 1 1 = 1) ∧
    (∀ k ∈ [1, 2], ∃ s : State, s.canStart = true ∧ s.fld oPwrState 11 8 = k ∧ s.power.change = none ∧ s.power.firstStart = true ∧ s.fuses = blankFuses) ∧
    (∃ s : State, s.canStart = true ∧ s.fld oPwrState 11 8 = 2 ∧ s.power.change = none ∧ s.power.startCause ≠ 0) ∧
    (∀ code ∈ [6, 5], ∃ s : State, ∃ i, s.canStart = true ∧ s.fld oPwrState 11 8 = 3 ∧ s.bootOk i = true ∧ i.primary = code ∧ i.secondary = 1) ∧
    (∀ k ∈ [4, 5, 6], ∃ s : State, ∃ i, s.canStart = true ∧ s.fld oPwrState 11 8 = k ∧ mapOk i = true ∧ s.varelmOk i = true ∧ i.nonce.length = 32) := by
  refine ⟨by decide +kernel, ⟨{ ready with power := { Power.reset with on := false } }, rfl⟩, ⟨{ ready with power := { Power.reset with dormant := true } }, rfl, rfl⟩,
    fun w h => ⟨({ ready with power := { Power.reset with wakeHeld := w } } : State).setFld oPwrState 1 0 2, ?_⟩,
    fun p h => ⟨{ ready with power := { ready.power with parked := p } }, BitVec.ofNat 64 (1300 * 65536 + 160 + 1), ?_⟩,
    ⟨ready.setFld oPwrState 1 0 2, BitVec.ofNat 64 (400 * 65536 + 160 + 2), by decide +kernel⟩,
    fun k h => ⟨State.reset.setFld oPwrState 11 8 k, ?_⟩,
    ⟨({ State.reset with power := { Power.reset with startCause := 4 } } : State).setFld oPwrState 11 8 2, by decide +kernel⟩,
    fun code h => ⟨State.reset.setFld oPwrState 11 8 3, start0 code, ?_⟩, fun k h => ⟨State.reset.setFld oPwrState 11 8 k, start0 6, ?_⟩⟩
  · revert w; decide +kernel
  · revert p; decide +kernel
  · revert k; decide +kernel
  · revert code; decide +kernel
  · revert k; decide +kernel

def secured (keys wiping usable : Bool) : State := { ready with secure := { Secure.reset with keys := keys, wiping := wiping, usable := usable } }

theorem witness_SecurityEvents :
    (ready.power.on = true ∧ ready.power.change = none) ∧ (∃ s : State, ∃ t, s.power.on = true ∧ s.power.change = some t) ∧
    (∀ cause ∈ [1, 2], ∃ s : State, s.power.on = true ∧ s.secure.wiping = true ∧ s.fld oCisWipe 18 16 = cause ∧ 4 < s.fld oPwrState 11 8) ∧
    (∃ s : State, ∃ c x, s.power.on = true ∧ s.sensing = true ∧ s.fld oSafStatus 0 0 = 0 ∧ s.cmd? c = some x ∧ x.parent = none ∧ x.phase ≠ .ended ∧ x.maybeGen = false) ∧
    (∃ s : State, ∃ src, s.serves src = true ∧ reqTenant src = 0 ∧ s.power.change.isSome = true) ∧
    (∃ s : State, ∃ src target, s.serves src = true ∧ reqTenant src = 0 ∧ s.power.change = none ∧ transition s.fuses.lcs target = none) ∧
    (∃ s : State, ∃ src c x, s.serves src = true ∧ reqTenant src = 0 ∧ s.power.change = none ∧ s.fuses.lcs = 1 ∧ s.fuses.epoch = 29 ∧ s.cmd? c = some x ∧ x.parent = none ∧
      x.phase ≠ .ended ∧ x.unstoppable = false ∧ x.maybeGen = false) ∧
    (ready.awake = true ∧ ready.fld oPwrState 2 2 = 1) ∧
    (∃ s : State, s.serves (.doe 255) = true ∧ s.sensing = false) ∧ (∃ s : State, s.serves .mctp = true ∧ s.sensing = true ∧ s.secure.keys = false) ∧
    (∃ s : State, s.serves .mctp = true ∧ s.sensing = true ∧ s.secure.wiping = false ∧ s.secure.usable = true ∧ s.secure.keys = true) ∧
    (∃ s : State, ∃ piece : List Byte, s.awake = true ∧ piece.length = 4096 ∧ (s.power.recovery ++ piece).length < 0x7500) ∧
    (∃ s : State, s.serves (.doe 0) = true ∧ s.secure.wiping = false ∧ s.secure.usable = true) ∧ (∃ s : State, s.serves (.doe 0) = true ∧ s.secure.wiping = true) := by
  refine ⟨by decide +kernel, ⟨{ ready with power := { ready.power with change := some 2 } }, 2, rfl, rfl⟩,
    fun cause h => ⟨((secured true true true).setFld oPwrState 11 8 5).setFld oCisWipe 18 16 cause, ?_⟩,
    ⟨host cmd0, 1, cmd0, by decide +kernel⟩,
    ⟨({ ready with power := { ready.power with change := some 2 } } : State).setFld oPwrState 11 8 7, .mctp, by decide +kernel⟩,
    ⟨ready.setFld oPwrState 11 8 7, .mctp, 2, by decide +kernel⟩,
    ⟨({ host cmd0 with fuses := { blankFuses with lcs := 1, epoch := 29 } } : State).setFld oPwrState 11 8 7, .doe 0, 1, cmd0, by decide +kernel⟩,
    by decide +kernel, ⟨({ ready with fuses := blankFuses } : State).setFld oPwrState 11 8 4, by decide +kernel⟩,
    ⟨(secured false false true).setFld oPwrState 11 8 4, by decide +kernel⟩, ⟨(secured true false true).setFld oPwrState 11 8 4, by decide +kernel⟩,
    ⟨ready, zeros 4096, by decide +kernel, zeros_length _, by rw [List.length_append, zeros_length]; decide⟩,
    ⟨(secured true false true).setFld oPwrState 11 8 4, by decide +kernel⟩, ⟨(secured true true true).setFld oPwrState 11 8 4, by decide +kernel⟩⟩
  revert cause; decide +kernel

/-- The header and signature of a recovery image of no body complete with this piece. -/
theorem witness_SecurityEvents_image :
    ∃ s : State, ∃ piece b : List Byte, s.awake = true ∧ 1 ≤ piece.length ∧ piece.length ≤ 4096 ∧ b = s.power.recovery ++ piece ∧ 0x7500 + leAt b 0xC 4 ≤ b.length ∧ 0x7500 ≤ b.length := by
  refine ⟨{ ready with power := { ready.power with recovery := zeros 0x74FF } }, [0], zeros 0x74FF ++ [0], by decide +kernel, by decide, by decide, rfl, ?_, ?_⟩
  · have h : leAt (zeros 0x74FF ++ [0]) 0xC 4 = 0 := by decide +kernel
    rw [h, List.length_append, zeros_length]; decide
  · rw [List.length_append, zeros_length]; decide

/-! ## Faults, power, ports and transport -/

def tested (cause : Nat) : State := { ready with phys := [(543, { PhysCluster.reset with testing := some cause })] }

theorem witness_ClusterAndLinkFaults :
    (∀ e ∈ [Engine.sch, .hq, .hbmc, .flc, .fab, .gate, .mc], ready.live = true ∧ engineCount e - 1 < engineCount e ∧ e ≠ .cluster) ∧
    (∃ s : State, s.live = true ∧ (Engine.fab, 7, 0) ∈ s.power.lockstepAt ∧ s.clock = 0 + 10 ^ 12 ∧ 7 < engineCount .fab) ∧
    (∃ s : State, ∃ c x, s.live = true ∧ (∀ t, (Engine.sch, 0, t) ∈ s.power.lockstepAt → t + 10 ^ 12 < s.clock) ∧ s.cmd? c = some x ∧ x.phase = .admitted ∧ x.parent = none) ∧
    (ready.live = true ∧ 543 < engineCount .cluster ∧ (ready.physOf 543).testing = none) ∧
    (∀ cause ∈ [noCause, 1], ∃ s : State, s.live = true ∧ (s.physOf 543).testing = some cause ∧ (s.physOf 543).retired = false) ∧
    (ready.awake = true ∧ ready.fld oSafStatus 0 0 = 0 ∧ ready.sensing = true ∧ 712 < (railWindow 0).1 ∧ (railWindow 4).2 < 757 ∧ 379 < (railWindow 7).1) ∧
    (∃ s : State, s.awake = true ∧ s.fld oSafStatus 0 0 = 0 ∧ s.sensing = false) ∧
    (∀ n ≤ 1, ∃ s : State, ∃ lanes, s.live = true ∧ 9 = Map.getD s.power.retries 3 0 ∧ Map.rising s.power.retries = true ∧ lanes ≤ Config.linkLanes 3 ∧
      (n = 1 → Config.linkLanes 3 ≤ 2 * lanes ∧ 0 < lanes) ∧ (n = 0 → 2 * lanes < Config.linkLanes 3)) := by
  refine ⟨by decide +kernel, ⟨{ ready with clock := 10 ^ 12, power := { ready.power with lockstepAt := [(.fab, 7, 0)] } }, by decide +kernel⟩,
    ⟨host cmd0, 1, cmd0, rfl, (by intro t h; rw [show (host cmd0).power.lockstepAt = [] from rfl] at h; cases h), by decide +kernel⟩, by decide +kernel,
    fun cause h => ⟨tested cause, ?_⟩, by decide +kernel, ⟨{ ready with fuses := blankFuses }, by decide +kernel⟩,
    fun n h => ⟨{ ready with power := { ready.power with retries := [(3, 9)] } }, n * Config.linkLanes 3, by decide +kernel, by decide, by decide, ?_, ?_, ?_⟩⟩
  · revert cause; decide +kernel
  · have := Nat.mul_le_mul_right (Config.linkLanes 3) h; omega
  · intro h1; subst h1; exact ⟨by rw [Nat.one_mul]; omega, by rw [Nat.one_mul]; exact Nat.succ_pos _⟩
  · intro h1; subst h1; rw [Nat.zero_mul]; exact Nat.succ_pos _

/-- PWR.THERM with a hottest reading and a share. -/
def warm (sixteenths share : Nat) : State :=
  { (ready.setFld oPwrTherm 15 0 sixteenths).setFld oPwrTherm 35 32 share with power := { ready.power with shareT := share, shareP := share } }
/-- A gate list of two entries in force on port half 15, its port up. -/
def gated (len : Nat) : State :=
  let s := ((((ready.setFld oFabTime 0 0 1).setFld (oGateCtrl 15) 42 32 len).setFld (oGateCycle 15) 63 32 1000).setFld (oGateCtrl 15) 0 0 1).setFld (oFabPort 7) 2 0 7
  (((s.setFld (oFabPort 7) 19 18 3).setFld (oGateEntry 15 (s.fld (oGateCtrl 15) 3 3) 0) 31 0 400).setFld (oGateEntry 15 (s.fld (oGateCtrl 15) 3 3) 1) 31 0 400)
def pkt0 (cls psn : Nat) : Packet :=
  { type := 1, cls := cls, src := 0x1001, dst := 0x1002, psn := psn, msg := 1, moff := 0, last := true, crcOk := true, ceMark := false, payload := [1] }
def sized0 (cis : Nat) : Frag := { waiting0 with desc := toLe 4 0 ++ toLe 4 1 ++ toLe 4 cis ++ zeros 52 }
def queued (cls : Nat) : State :=
  let s := gated 2
  { s with gates := [(15, { GateRt.reset with queues := [(cls, [(0, 0, pkt0 cls 1)])] })] }

theorem witness_PowerAndWindows :
    (ready.awake = true ∧ ready.sensing = true ∧ ∀ t ∈ ready.power.temps, -16 * 20 ≤ t ∧ t ≤ 16 * 115) ∧
    (∀ t ∈ [16 * 98 - 1, 16 * 98, 16 * 100], ∃ s : State, ∃ tj, s.live = true ∧ tj = toSigned 16 (s.fld oPwrTherm 15 0) ∧ tj = (t : Nat) ∧ s.power.shareT = 12 ∧ s.power.shareP = 12) ∧
    (∃ s : State, s.live = true ∧ s.power.shareT = 12 ∧ s.fld oPwrCtrl 26 16 < 1301 ∧ s.fld oPwrTherm 35 32 = 12) ∧
    (∃ s : State, s.live = true ∧ s.power.shareT = 11 ∧ s.fld oPwrTherm 35 32 ≠ 12) ∧
    (∃ s : State, s.live = true ∧ s.inService 0 = true ∧ s.holdsFrag 0 = false ∧ (s.cluster 0).waking = [] ∧ s.gatingOf 0 ≠ .powerGated ∧ s.mayGate 0 = true) ∧
    (ready.active = true ∧ ready.quiet = true) ∧ (∃ s : State, s.ready = true ∧ s.fld oPwrState 1 0 = 1) ∧
    (∀ ov ∈ [false, true], ∃ s : State, s.live = true ∧ s.sched.overNoted = ov ∧ 4 * 0 ≤ 64 * s.fld oSafCap 9 0 * 125000 ∧
      ∀ l, l < 16 → (s.gate l).exceeded = true → s.fld (oGateCtrl l) 42 32 ≠ 0) ∧
    (∀ fits : Bool, ∃ s : State, ∃ f x, s.live = true ∧ s.frag? f = some x ∧ x.cls = 0 ∧ x.phase = .dispatchable ∧ x.missed = false ∧ s.reserveFits = fits ∧
      s.obsNow ≠ 1 ∧ s.obsNow ≠ 2) ∧
    (∃ s : State, ∃ l i, ∃ e, s.live = true ∧ ((s.gate l).queue 0)[(i : Nat)]? = some e ∧ s.gateOpen l 0 = true ∧ e ∉ (s.gate l).missed) ∧
    (∃ s : State, s.live = true ∧ s.fld oSchCtrl 31 30 = 0 ∧ s.frags ≠ [] ∧ ∀ f ∈ s.frags, f.tenant < 256 ∧ f.cls < 4) ∧
    (∃ s : State, ∃ t, s.live = true ∧ s.power.recoveryUntil = some t ∧ s.fld oPwrState 2 2 = 1 ∧ s.fld oSchCtrl 24 24 = 0 ∧ s.power.testMode = false) := by
  refine ⟨by decide +kernel, fun t h => ⟨warm t 12, t, ?_⟩, ⟨warm 0 12, by decide +kernel⟩, ⟨warm 0 11, by decide +kernel⟩,
    ⟨withCluster { Cluster.reset with gating := .clockGated } ready, by decide +kernel⟩, by decide +kernel, ⟨ready.setFld oPwrState 1 0 1, by decide +kernel⟩,
    fun ov h => ⟨{ ready with sched := { ready.sched with overNoted := ov } }, ?_⟩, fun fits => ⟨{ pool0 with frags := [sized0 (if fits then 1 else 64)] }, 1, sized0 (if fits then 1 else 64), ?_⟩,
    ⟨queued 0, 15, 0, (0, 0, pkt0 0 1), by decide +kernel⟩, ⟨pool0.setFld oSchCtrl 31 30 0, by decide +kernel⟩,
    ⟨{ ready with power := { ready.power with recoveryUntil := some 5 } }, 5, by decide +kernel⟩⟩
  · revert t; decide +kernel
  · revert ov; decide +kernel
  · revert fits; decide +kernel

/-- Node 0x1002 of a pod with 0x1001, its port 7 up at address 1. -/
def wired : State := { (inPod 1 0x1002 (gated 2)).setFld (oFabPaddr 7 0) 63 0 1 with fab := { Fabric.reset with nodes := [⟨0x1001, []⟩, ⟨0x1002, []⟩] } }
def assembly0 : Assembly := { src := 0x1001, msg := 1, type := 1, cls := 1, pieces := [(0, 9)], total := some 1 }
def unackedPeer (n missed : Nat) : State := wired.setPeer 0x1001 3 { Peer.reset with unacked := [(5, n, pkt0 3 5, missed)] }

theorem witness_GatesAndTransport :
    (∃ s : State, ∃ i, s.live = true ∧ i = (s.gate 15).idx ∧ i + 1 < s.fld (oGateCtrl 15) 42 32 ∧ s.entryEnd 15 i < s.actCycle 15) ∧
    (∃ s : State, s.live = true ∧ s.fld (oGateCtrl 15) 2 2 = 1 ∧ s.fld oFabTime 0 0 = 1 ∧ s.fld (oGateCtrl 15) 42 32 = 0) ∧
    (∃ s : State, s.live = true ∧ s.fld (oGateCtrl 15) 2 2 = 0 ∧ s.fld (oGateCtrl 15) 42 32 ≠ 0) ∧
    (∀ c ∈ [0, 3], ∃ s : State, ∃ x, s.live = true ∧ s.halfUp 15 = true ∧ s.gateOpen 15 c = true ∧ ((s.gate 15).queue c).head? = some x ∧ x.2.2.cls = c ∧
      s.beforeClose 15 c x.2.2 = true ∧ (c = 0 ∨ s.gateHead 15 0 = none ∧ s.gateHead 15 1 = none ∧ s.gateHead 15 2 = none)) ∧
    (∃ s : State, ∃ p : Packet, s.live = true ∧ s.halfUp 14 = true ∧ p.crcOk = true ∧ s.member p.src = true ∧ p.dst = s.nodeId ∧ p.cls = 3 ∧ p.type ≠ tySack ∧
      p.psn ∉ (s.peer p.src p.cls).held ∧ 1 ∈ s.ownAddrs ∧ 0 ∉ s.ownAddrs) ∧
    (∃ s : State, s.live = true ∧ s.fld (oFabPort 7) 2 2 = 1 ∧ s.fld (oFabPort 7) 0 0 = 1) ∧
    (∃ s : State, s.live = true ∧ s.fld oFabTime 0 0 = 1) ∧
    (∀ deputy ≤ 1, ∃ s : State, ∃ msg src a, s.fld oFabNode 21 21 = deputy ∧ src = queenOf s.nodeId ∧ s.live = true ∧ s.fab.inbox.find? (fun b => b.msg == msg && b.src == src) = some a ∧ a.type = tyData ∧ a.whole = true) ∧
    (∃ s : State, s.live = true ∧ 0 < (s.peer 0x1001 3).sinceSack) ∧
    (∃ s : State, ∃ u, s.live = true ∧ s.fab.waiting = [] ∧ (s.peer 0x1001 3).unacked = [u] ∧ u.1 ∉ [6] ∧ psnAfter 6 u.1 = true ∧ u.2.1 = 15 ∧ u.2.2.1.cls < 4 ∧ u.2.2.2 = 2) ∧
    (∀ n ∈ [15, 16], ∃ s : State, ∃ u, s.live = true ∧ (s.peer 0x1001 3).unacked.find? (fun v => v.1 == 5) = some u ∧ u.2.1 = n ∧ u.2.2.1.cls < 4) := by
  refine ⟨⟨gated 2, 0, by decide +kernel⟩, ⟨(gated 0).setFld (oGateCtrl 15) 2 2 1, by decide +kernel⟩, ⟨gated 2, by decide +kernel⟩,
    fun c h => ⟨queued c, (0, 0, pkt0 c 1), ?_⟩, ⟨wired, pkt0 3 1, by decide +kernel⟩, ⟨wired, by decide +kernel⟩, ⟨wired, by decide +kernel⟩,
    fun deputy h => ⟨({ wired with fab := { wired.fab with inbox := [{ assembly0 with src := 0x1000 }] } } : State).setFld oFabNode 21 21 deputy, 1, 0x1000,
      { assembly0 with src := 0x1000 }, ?_⟩,
    ⟨wired.setPeer 0x1001 3 { Peer.reset with sinceSack := 1 }, by decide +kernel⟩, ⟨unackedPeer 15 2, (5, 15, pkt0 3 5, 2), by decide +kernel⟩,
    fun n h => ⟨unackedPeer n 0, (5, n, pkt0 3 5, 0), ?_⟩⟩
  · revert c; decide +kernel
  · revert deputy; decide +kernel
  · revert n; decide +kernel

/-- A queen of a pod of two workers, one pod collection of which worker 0x1001 holds bucket 0. -/
def podColl : Coll := { coll0 with pod := some (true, false) }
def shard0 (b n : Nat) : ShardEntry := ⟨7, b, n⟩
def pod0 (x : Cmd) : State :=
  let s := (inPod 2 0x1000 (lib x)).setFld oFabEpoch 31 0 5
  { s with
    colls := [podColl]
    fab :=
      { Fabric.reset with
        nodes := [⟨0x1000, []⟩, ⟨0x1001, []⟩, ⟨0x1002, []⟩]
        shards := [shard0 0 0x1001, shard0 1 0x1000, shard0 2 0x1002]
        routeShards := [shard0 0 0x1001, shard0 1 0x1000, shard0 2 0x1002]
        routeEpoch := 5, nextQid := 9 } }
def queen0 : State := pod0 (search0 7 0)
def withFab (g : Fabric → Fabric) (s : State) : State := { s with fab := g s.fab }
/-- Worker 0x1002 under the map of epoch 5. -/
def worker0 : State := inPod 1 0x1002 (withFab (fun f => { f with hasMap := true, prevEpoch := 4, queen := some 1 }) queen0)
def podQuery (epoch : Nat) : QueryBody :=
  { (search0 7 0).queryBody (readElems 0 8 (zeros (8 * elemBytes 0))) [] with qid := 3, src := 0x1001, epoch := epoch, tenant := 1, coll := 7, cls := 1 }
def partial0 (src : Nat) : PartialResult := ⟨8, src, 5, 0, 0, 0, 0, false, false, false, []⟩
def asked (cmd : Nat) (owing : List Nat) : State := withFab (fun f => { f with queries := [⟨8, cmd, podQuery 5, owing, []⟩] }) queen0
def updCtx (cmd : Nat) (del : Bool) (lid : Option Nat) (owing : List Nat) (st : Nat) : UpdateCtx := ⟨8, cmd, 7, lid, del, owing, st, 0x2000, 4⟩
def updating (u : UpdateCtx) (x : Cmd) : State := withFab (fun f => { f with updates := [u] }) (pod0 x)

/-- That worker with records in flash: one block that takes them, or none. -/
def worker1 (bs : List Block) : State :=
  { worker0 with
    colls := [{ podColl with recfmt := 1 }], parts := [part0]
    flash := (media true bs).flash }
/-- Three inserts that together would bring the chip past its vectors. -/
def hoarding : State :=
  { worker0 with cmds := List.replicate 3 { vrCmd 1 0x111 (toLe 8 7 ++ toLe 4 0xFFFFFFFF) with work := .insert [] 0 none } }
def rec1 : Rec := { coll0 with recfmt := 1 }.record 2 (zeros 32)

theorem programs {s : State} {p : Part} {r : Rec} (h : (match s.program p r with | .ok _ _ => true | _ => false) = true) : ∃ s1 loc, s.program p r = .ok s1 loc := by
  revert h; cases s.program p r <;> simp
theorem exhausts {s : State} {p : Part} {r : Rec} (h : (match s.program p r with | .exhausted => true | _ => false) = true) : s.program p r = .exhausted := by
  revert h; cases s.program p r <;> simp
/-- The first vector's entry is written, and committed in all lists but those due. -/
def waitingInsert (due : List Nat) : Cmd := insert0 (.insert [] 0 (some ⟨2, noLoc, due⟩))

theorem witness_PodQueries :
    (∀ n ∈ [0, 20 * 10 ^ 9], ∃ s : State, ∃ q : QueryBody, s.active = true ∧ s.member q.src = true ∧ q.cls < 4 ∧ s.fab.waiting = [] ∧ s.role = 1 ∧
      q.epoch ≠ s.fld oFabEpoch 31 0 ∧ (n = 0 ∧ q.epoch ≠ s.fab.prevEpoch ∨ n ≠ 0 ∧ q.epoch = s.fab.prevEpoch ∧ s.fab.adoptedAt + n = s.clock)) ∧
    (∀ k ∈ [1, everyMatch], ∃ s : State, ∃ q : QueryBody, s.active = true ∧ s.member q.src = true ∧ q.cls < 4 ∧ s.fab.waiting = [] ∧ s.role = 1 ∧ q.k = k ∧
      q.epoch = s.fld oFabEpoch 31 0 ∧ ∃ c, s.colls.find? (fun o => o.handle == q.coll && o.tenant == q.tenant && o.pod.isSome) = some c ∧ c.tenant < 256) ∧
    (∃ s : State, ∃ q : QueryBody, ∃ c, s.active = true ∧ s.member q.src = true ∧ q.cls < 4 ∧ s.fab.waiting = [] ∧ s.role = 2 ∧
      s.colls.find? (fun o => o.handle == q.coll && o.tenant == q.tenant && o.pod.isSome) = some c ∧ (∀ o ∈ s.fab.queries, o.qid < s.fab.nextQid) ∧
      0x1001 ∈ s.queryNodes c.handle) ∧
    (∀ b : Bool, ∃ s : State, ∃ p : PartialResult, ∃ q, s.live = true ∧ s.role = 2 ∧ s.fab.queries.find? (fun o => o.qid == p.qid) = some q ∧ p.src ∈ q.owing ∧
      q.body.k ≠ everyMatch ∧ q.owing.any (· != p.src) = b ∧ q.cmd = 0) ∧
    (∃ s : State, ∃ p : PartialResult, ∃ q x, s.live = true ∧ s.role = 2 ∧ s.fab.queries.find? (fun o => o.qid == p.qid) = some q ∧ p.src ∈ q.owing ∧
      q.body.k ≠ everyMatch ∧ (∀ n ∈ q.owing, n = p.src) ∧ q.cmd ≠ 0 ∧ s.cmd? q.cmd = some x ∧ x.phase = .admitted ∧ x.parent = none ∧
      bit (x.a 0x14 4) 10 = false ∧ s.out.refused = []) ∧
    (∀ r ∈ [1, 2], ∃ s : State, s.active = true ∧ s.role = r ∧ s.member 0x1001 = true ∧ s.fab.waiting = [] ∧ s.epochOk 3 = false ∧ s.epochOk 5 = true ∧
      ∀ c ∈ s.colls, c.handle ≠ 8 ∨ c.tenant ≠ 1) ∧
    (∃ s : State, s.active = true ∧ s.role = 2 ∧ s.member 0x2000 = true ∧ s.fab.waiting = [] ∧ queenOf 0x2000 ≠ queenOf s.nodeId ∧
      (∃ c ∈ s.colls, c.handle = 7 ∧ c.tenant = 1) ∧ s.nodeId ∉ s.updateNodes 7 (bucketOf 4096) ∧ s.updateNodes 7 (bucketOf 4096) ≠ []) ∧
    (∃ s : State, ∃ c, s.active = true ∧ s.role = 1 ∧ s.member 0x1001 = true ∧ s.fab.waiting = [] ∧ s.epochOk 5 = true ∧
      s.colls.find? (fun o => o.handle == 7) = some c ∧ c.tenant = 1 ∧ c.isLive 0 = true ∧ (∀ l ∈ c.listsOf 0, s.resident (.fineList 7 l) = true) ∧
      c.isLive 1 = false ∧ c.recfmt = 0 ∧ s.resident (.fineList 7 0) = true ∧ (c.list 0).committed = (c.list 0).entries.length ∧
      s.room c.tenant (entryBytes c.sub c.attrb) ≠ none ∧ s.vectorRoom 1 = true) ∧
    (∀ full : Bool, ∃ s : State, ∃ c p r, (if full then s.program p r = .exhausted else ∃ s1 loc, s.program p r = .ok s1 loc) ∧ r = c.record 2 (zeros 32) ∧
      s.active = true ∧ s.role = 1 ∧ s.member 0x1001 = true ∧
      s.fab.waiting = [] ∧ s.epochOk 5 = true ∧ s.colls.find? (fun o => o.handle == 7) = some c ∧ c.tenant = 1 ∧ c.recfmt ≠ 0 ∧ s.partFor c.tenant c.cls = some p ∧
      s.resident (.fineList 7 0) = true ∧ (c.list 0).committed = (c.list 0).entries.length ∧ s.room c.tenant (entryBytes c.sub c.attrb) ≠ none ∧ s.vectorRoom 1 = true) ∧
    (∀ chip : Bool, ∃ s : State, ∃ c, s.active = true ∧ s.role = 1 ∧ s.member 0x1001 = true ∧ s.fab.waiting = [] ∧ s.epochOk 5 = true ∧
      s.colls.find? (fun o => o.handle == 7) = some c ∧ c.tenant = 1 ∧ s.resident (.fineList 7 0) = true ∧ (c.list 0).committed = (c.list 0).entries.length ∧
      (if chip then s.vectorRoom 1 = false else s.room c.tenant (entryBytes c.sub c.attrb) = none)) ∧
    (∀ b : Bool, ∃ s : State, ∃ u, s.live = true ∧ s.role = 2 ∧ s.fab.updates.find? (fun o => o.uid == 8) = some u ∧ 0x1001 ∈ u.owing ∧
      0x1002 ∈ u.owing ∧ u.isDelete = b) ∧
    (∃ s : State, ∃ u, s.live = true ∧ s.role = 2 ∧ s.fab.updates.find? (fun o => o.uid == 8) = some u ∧ u.owing = [0x1001] ∧ u.cmd = 0) ∧
    (∀ due ∈ [[], [0]], ∃ s : State, ∃ u x c w, s.live = true ∧ s.role = 2 ∧ s.fab.updates.find? (fun o => o.uid == 8) = some u ∧ 0x1001 ∈ u.owing ∧
      (∀ n ∈ u.owing, n = 0x1001) ∧ u.isDelete = false ∧ u.lid = some 2 ∧ s.cmd? u.cmd = some x ∧ u.cmd ≠ 0 ∧ x.phase = .admitted ∧
      s.colls.find? (fun o => o.handle == u.coll) = some c ∧ x.work = .insert [] 0 (some w) ∧ w.due = due ∧ u.status = stOk) ∧
    (∀ st ∈ [stOk, stNotFound], ∃ s : State, ∃ u x c, s.live = true ∧ s.role = 2 ∧ s.fab.updates.find? (fun o => o.uid == 8) = some u ∧ 0x1001 ∈ u.owing ∧
      (∀ n ∈ u.owing, n = 0x1001) ∧ u.isDelete = true ∧ u.lid = some 0 ∧ s.cmd? u.cmd = some x ∧ u.cmd ≠ 0 ∧ x.phase = .admitted ∧
      s.colls.find? (fun o => o.handle == u.coll) = some c ∧ x.work = .delete [] ∧ u.status = st) ∧
    (∃ s : State, ∃ q c, s.live = true ∧ s.role = 2 ∧ s.fab.waiting = [] ∧ s.fab.queries.find? (fun o => o.qid == 8 && o.owing.contains 0x1001) = some q ∧
      8 < s.fab.nextQid ∧ s.colls.find? (fun o => o.handle == q.body.coll) = some c ∧ 4 ≠ s.fld oFabEpoch 31 0) ∧
    (∃ s : State, ∃ u, s.live = true ∧ s.role = 2 ∧ s.fab.waiting = [] ∧ s.fab.queries.find? (fun o => o.qid == 8 && o.owing.contains 0x1001) = none ∧
      s.fab.updates.find? (fun o => o.uid == 8 && o.owing.contains 0x1001) = some u ∧ u.lid = some 4096 ∧ 0x1001 ≠ s.nodeId ∧
      0x1001 ∈ s.updateNodes u.coll (bucketOf 4096)) ∧
    (∃ s : State, ∃ u, s.live = true ∧ s.role = 2 ∧ s.fab.waiting = [] ∧ s.fab.queries = [] ∧
      s.fab.updates.find? (fun o => o.uid == 8 && o.owing.contains 0x1001) = some u ∧ u.lid = none) ∧
    (∃ s : State, s.live = true ∧ s.role = 2 ∧ Map.getD s.fab.idBlocks 7 (0, 0, none) = (65536, 1, some 1)) := by
  refine ⟨fun n h => ⟨{ worker0 with clock := n }, podQuery (if n = 0 then 3 else 4), ?_⟩, fun k h => ⟨worker0, { podQuery 5 with k := k }, ?_⟩,
    ⟨queen0, podQuery 5, podColl, by decide +kernel⟩,
    fun b => ⟨asked 0 (if b then [0x1001, 0x1002] else [0x1001]), partial0 0x1001, ⟨8, 0, podQuery 5, if b then [0x1001, 0x1002] else [0x1001], []⟩, ?_⟩,
    ⟨asked 1 [0x1001], partial0 0x1001, ⟨8, 1, podQuery 5, [0x1001], []⟩, search0 7 0, by decide +kernel⟩,
    fun r h => ⟨inPod r (if r = 1 then 0x1002 else 0x1000) queen0, ?_⟩,
    ⟨withFab (fun f => { f with nodes := f.nodes ++ [⟨0x2000, []⟩] }) queen0, by decide +kernel⟩, ⟨worker0, podColl, by decide +kernel⟩,
    fun full => ⟨worker1 (if full then [] else [block0 1 .free true []] ++ parity0), { podColl with recfmt := 1 }, part0, rec1, ?_, ?_⟩,
    fun chip => ⟨if chip then hoarding else poorly worker0, podColl, ?_⟩,
    fun b => ⟨updating (updCtx 1 b (some 2) [0x1001, 0x1002] 0) (insert0 (.insert [] 0 none)), updCtx 1 b (some 2) [0x1001, 0x1002] 0, ?_⟩,
    ⟨updating (updCtx 0 true none [0x1001] 0) (insert0 (.insert [] 0 none)), updCtx 0 true none [0x1001] 0, by decide +kernel⟩,
    fun due h => ⟨updating (updCtx 1 false (some 2) [0x1001] 0) (waitingInsert due), updCtx 1 false (some 2) [0x1001] 0, waitingInsert due, podColl, ⟨2, noLoc, due⟩, ?_⟩,
    fun st h => ⟨updating (updCtx 1 true (some 0) [0x1001] st) (delete0 (.delete [])), updCtx 1 true (some 0) [0x1001] st, delete0 (.delete []), podColl, ?_⟩,
    ⟨asked 1 [0x1001], ⟨8, 1, podQuery 5, [0x1001], []⟩, podColl, by decide +kernel⟩,
    ⟨updating (updCtx 1 false (some 4096) [0x1001] 0) (insert0 (.insert [] 0 none)), updCtx 1 false (some 4096) [0x1001] 0, by decide +kernel⟩,
    ⟨updating (updCtx 1 false none [0x1001] 0) (insert0 (.insert [] 0 none)), updCtx 1 false none [0x1001] 0, by decide +kernel⟩,
    ⟨withFab (fun f => { f with idBlocks := [(7, 65536, 1, some 1)] }) queen0, by decide +kernel⟩⟩
  · revert n; decide +kernel
  · revert k; decide +kernel
  · revert b; decide +kernel
  · revert r; decide +kernel
  · cases full
    · exact programs (by decide +kernel)
    · exact exhausts (by decide +kernel)
  · revert full; decide +kernel
  · cases chip <;> decide +kernel
  · revert b; decide +kernel
  · revert due; decide +kernel
  · revert st; decide +kernel

/-- The pod when worker 0x1002 is lost; the collection keeps whole buckets or a code. -/
def losing (code : Bool) : State :=
  withFab (fun f => { f with lostNodes := [0x1002] }) { queen0 with colls := [{ coll0 with pod := some (code, false) }] }

theorem witness_PodMembership :
    (∃ s : State, s.live = true ∧ s.role = 1 ∧ 1 ∈ s.fab.ignored ∧ 2 ∉ s.fab.ignored ∧ s.fab.waiting = [] ∧ s.fab.queen = some 1) ∧
    (∀ owing ∈ [[0x1001], [0x1001, 0x1002]], ∃ s : State, s.live = true ∧ s.role = 2 ∧ s.fab.ackOwing = owing) ∧
    (queen0.live = true ∧ queen0.role = 2 ∧ queen0.member 0x1001 = true ∧ queenOf 0x1001 = queenOf queen0.nodeId ∧ 0x1001 ≠ queen0.nodeId) ∧
    (∃ s : State, s.live = true ∧ s.role = 1 ∧ s.fab.hasMap = false ∧ s.fab.waiting = [] ∧ s.upHalves ≠ []) ∧
    (∃ s : State, s.live = true ∧ s.role = 2 ∧ s.fab.waiting = [] ∧ s.upHalves ≠ [] ∧ s.workers = [0x1001, 0x1002]) ∧
    (∀ byQuery : Bool, ∃ s : State, s.live = true ∧ s.role = 2 ∧ (if byQuery then ∃ q ∈ s.fab.queries, 0x1001 ∈ q.owing else ∃ u ∈ s.fab.updates, 0x1001 ∈ u.owing) ∧
      0x1001 ∉ s.fab.lostNodes) ∧
    (∃ s : State, ∃ c b, s.live = true ∧ s.role = 1 ∧ s.fld oFabNode 21 21 = 1 ∧ s.fab.waiting = [] ∧ c ∈ s.colls ∧ c.pod.isSome = true ∧
      b = (s.idState c.handle).2.1 ∧ b = 3) ∧
    (∀ code : Bool, ∃ s : State, ∃ assign, s.live = true ∧ s.role = 2 ∧ 0x1002 ∈ s.fab.lostNodes ∧ 0x1002 ∉ s.fab.handledLost ∧
      (s.toRebuild 0x1002).length = assign.length ∧ (∀ p ∈ (s.toRebuild 0x1002).zip assign, s.goodAssign p.1 p.2 = true) ∧
      (∀ q ∈ s.fab.queries, 0x1002 ∉ q.owing) ∧ (∀ u ∈ s.fab.updates, 0x1002 ∉ u.owing) ∧ (s.fatalTo 0x1002 = [] ↔ code = true) ∧
      (code = true → assign ≠ [])) ∧
    (∃ s : State, s.live = true ∧ s.fab.waiting = [] ∧ s.role = 2 ∧ ⟨7, 2, 0x1001⟩ ∈ s.fab.rebuilding) ∧
    (worker0.live = true ∧ worker0.fab.waiting = [] ∧ worker0.role = 1 ∧ worker0.nodeId = 0x1002 ∧ worker0.colls.find? (fun o => o.handle == 7) = some podColl) ∧
    (∀ node ∈ [0x1000, 0x1002], ∃ s : State, ∃ e, s.live = true ∧ s.role = 2 ∧ s.fab.shards.find? (fun o => o.coll == 7 && o.bucket == 0) = some e ∧
      (node = s.nodeId ∨ node ∈ s.workers) ∧ e.node ≠ node ∧ (∀ r ∈ s.fab.reshards, r.coll ≠ 7 ∨ r.bucket ≠ 0) ∧
      (∀ k ∈ s.fab.keeping, k.1 ≠ 7 ∨ k.2.1 ≠ 0) ∧ ∀ r ∈ s.fab.rebuilding, r.coll ≠ 7 ∨ r.bucket ≠ 0) ∧
    (∃ s : State, ∃ r, s.live = true ∧ s.role = 2 ∧ s.fab.waiting = [] ∧ s.fab.reshards.find? (fun o => o.coll == 7 && o.bucket == 0) = some r) ∧
    (∀ b ≤ 1, ∃ s : State, ∃ k c, s.live = true ∧ s.fab.keeping.find? (fun o => o.1 == 7 && o.2.1 == b) = some k ∧
      (if b = 1 then s.nodeId ∈ holdersIn s.fab.shards 7 b else s.nodeId ∉ holdersIn s.fab.shards 7 b) ∧ s.colls.find? (fun o => o.handle == 7) = some c) := by
  refine ⟨⟨withFab (fun f => { f with ignored := [1] }) worker0, by decide +kernel⟩,
    fun owing h => ⟨withFab (fun f => { f with ackOwing := owing }) queen0, ?_⟩, by decide +kernel,
    ⟨withFab (fun f => { f with hasMap := false }) (inPod 1 0x1002 (gated 2)), by decide +kernel⟩,
    ⟨withFab (fun _ => queen0.fab) (inPod 2 0x1000 (gated 2)), by decide +kernel⟩,
    fun b => ⟨withFab (fun f => { f with queries := (asked 0 [0x1001]).fab.queries, updates := [updCtx 1 true none [0x1001] 0] }) queen0, ?_⟩,
    ⟨withFab (fun f => { f with idBlocks := [(7, 0, 3, none)] }) (worker0.setFld oFabNode 21 21 1), podColl, 3, by decide +kernel⟩,
    fun code => ⟨losing code, if code then [⟨7, 2, (losing code).survivors.find? (fun n => (losing code).goodAssign ⟨7, 2, 0x1002⟩ ⟨7, 2, n⟩) |>.getD 0⟩] else [], ?_⟩,
    ⟨withFab (fun f => { f with rebuilding := [⟨7, 2, 0x1001⟩] }) queen0, by decide +kernel⟩, by decide +kernel,
    fun node h => ⟨queen0, shard0 0 0x1001, ?_⟩,
    ⟨withFab (fun f => { f with reshards := [⟨7, 0, 0x1001, 0x1002⟩] }) queen0, ⟨7, 0, 0x1001, 0x1002⟩, by decide +kernel⟩,
    fun b h => ⟨withFab (fun f => { f with keeping := [(7, b, 0)] }) queen0, (7, b, 0), podColl, ?_⟩⟩
  · revert owing; decide +kernel
  · revert b; decide +kernel
  · revert code; decide +kernel
  · revert node; decide +kernel
  · have : b = 0 ∨ b = 1 := by omega
    rcases this with rfl | rfl <;> decide +kernel

/-- One command waits. -/
theorem witness_StepRunsFront : (∃ s : State, ∃ c r, s.pending = c :: r ∧ r ≠ []) ∧ ready.pending = [] :=
  ⟨⟨{ ready with pending := [.queueSample, .timeWindow] }, .queueSample, [.timeWindow], rfl, by decide⟩, rfl⟩

theorem witness_ResetState : bar0Fields 1 = [] ∧ (255 : Nat) < 256 ∧ (15 : Nat) < 16 := by decide +kernel

theorem witness_MemCanonicalKept : ∃ s s' : State, step s = .next s' ∧ MemCanonical s ∧ s.dev ≠ [] ∧ s.pending ≠ [] :=
  ⟨{ ready with dev := [(0x10000, 5)], pending := [.timeWindow] }, _, rfl, by unfold MemCanonical; decide +kernel, by decide, by decide⟩

theorem witness_QueueKept : ∃ s s' : State, step s = .next s' ∧ s.pending = [.timeWindow, .queueSample] :=
  ⟨{ ready with pending := [.timeWindow, .queueSample] }, _, rfl, rfl⟩

/-! ## Commands that are not well formed -/

theorem test_wellFormed_functions :
    ([.hqSqdb 256 0 0, .hqCqdb 0 64 0, .hqSqcfgEn 256 0 0, .hqCqcfgEn 0 64 0, .submissionFetch 0 64, .interruptTimer 256 0, .allocationReturn 256 0,
      .functionLevelReset 256, .configRequest 256 .vendorId, .vfDetachGrace 0, .vfDetachGrace 256, .atsInvalidation 256 0 0 true] : List Instr).all
      (fun i => !i.wellFormed) = true := by decide
theorem test_wellFormed_clusters :
    ([.fragmentDispatch 1 [512], .fragmentDispatch 1 (List.replicate 17 0), .clusterWake 512, .add ⟨1, 16, 0⟩, .tmma ⟨1, 0, 64⟩, .fragProg ⟨1, 16, 0⟩,
      .tmmaExecution 512, .combBlockMerge 512 0, .combBlockMerge 0 4, .clusterPowerGate 512, .clusterSelfTest 544 true] : List Instr).all
      (fun i => !i.wellFormed) = true := by decide
theorem test_wellFormed_memory :
    ([.refresh 12 0 0, .refresh 0 32 0, .refresh 0 0 32, .channelSpare 12 0, .channelRetire 0 32, .backgroundMove (.idMap 7 0) (.stack 12),
      .demandMove 1 (.idMap 7 0) 12 none, .noticeQueueMove 7 0 (.stack 12), .poolFail 8] : List Instr).all (fun i => !i.wellFormed) = true := by decide
def write0 (m : Master) (bar offset size value : Nat) : RegWrite := ⟨m, bar, offset, size, BitVec.ofNat 64 value⟩
theorem test_wellFormed_registers :
    ([.registerWrite { writes := [write0 (.vf 0) 0 0 8 0] }, .plcCtrlHubtier (write0 (.vf 256) 0 0 8 0), .evtPtrRd (write0 (.queen (2 ^ 20)) 0 0 8 0),
      .lcsRollFw (write0 .pf 1 0 8 0), .lcsRollVarelm (write0 .pf 0 0 2 0), .sysRstCold (write0 .pf 0 4 8 0), .sysRstWarm (write0 .pf 0 (2 ^ 26) 8 0),
      .pwrCtrlDormant (write0 .pf 0 0 4 (2 ^ 32)), .pwrCtrlWake (write0 .pf 3 0 4 0), .tenCtrlErase (write0 .pf 0 0 8 0) [], .gateCtrlGo (write0 .pf 0 0 8 0) (2 ^ 64),
      .mctpRegisterRead 0 2, .mctpRegisterWrite 0 16 0] : List Instr).all (fun i => !i.wellFormed) = true := by decide
theorem test_wellFormed_security :
    ([.attestationReport .mctp [], .attestationReport (.doe 256) (zeros 32), .certificateChain (.doe 256), .lifeCycleChange .mctp 4 none, .recoveryImage [],
      .secureCisternWipe 0, .secureCisternWipe 6, .tamper 4, .ideKmKeySet 9 (zeros 32), .ideKmKeySet 0 []] : List Instr).all
      (fun i => !i.wellFormed) = true := by decide
theorem test_wellFormed_recovery_piece : (Instr.recoveryImage (zeros 4096)).wellFormed = true ∧ (Instr.recoveryImage (zeros 4097)).wellFormed = false := by
  decide +kernel
theorem test_wellFormed_power :
    ([.clockFault 6 0, .clockFault 0 32, .supplyFault 10 0 0, .supplyFault 0 0 9] : List Instr).all (fun i => !i.wellFormed) = true := by decide
theorem test_wellFormed_fabric :
    ([.gateEntryExpiry 16, .gateCycleStart 16, .packetTransmit 16, .frameReceive 8 .gptp (pkt0 0 0), .frameReceive 0 .scarab (pkt0 4 0),
      .frameReceive 0 .scarab (pkt0 0 (2 ^ 32)), .sack 0 4 [] false, .sackTimer 0 4, .retransmitTimeout 0 4 0, .portLinkChange 8 0 true,
      .portLinkChange 0 2 true] : List Instr).all (fun i => !i.wellFormed) = true := by decide

/-! ## Results that the manual states -/

/-- `f` of the state that the command leaves. -/
def result {α : Type} (i : Instr) (s : State) (d : α) (f : State → α) : α :=
  match exec i s with
  | .next s' => f s'
  | _ => d
def gOf (s : State) (n : Nat) : Nat := (Map.getD th1Regs n 0).toNat
  where th1Regs : Map Word := ((s.frags.head?.bind fun f => f.members.head?).bind fun m => m.threads.head?).elim [] (·.g)
def pcOf (s : State) : Nat := ((s.frags.head?.bind fun f => f.members.head?).bind fun m => m.threads.head?).elim 0 (·.pc)

/-- The worked words of chapter 10: `add g7, g3, 0x40`, the same with bit 29 set, and `bne g9, g0, -3` at PC 0x0120, which goes to 0x0108. -/
theorem test_add_word :
    result (.add t0) (bench 0x01011C3000000040 (withThread fun th => { th with g := [(3, 5)] })) (0, 0) (fun s => (gOf s 7, pcOf s)) = (0x45, 8) := by
  decide +kernel
theorem test_add_word_bit29 :
    result (.add t0) (bench 0x01011C3020000040 (withThread fun th => { th with g := [(3, 5)] })) 0 (fun s => gOf s 7) = 0x20000045 := by decide +kernel
theorem test_bne_word :
    (let p : State := { bench 0 (withThread fun th => { th with pc := 0x120, g := [(9, 1)] }) with
        progs := [⟨1, 1, [], zeros 0x120 ++ toLe 8 0x2100_0090_3FFF_FFFD, none⟩] }
     result (.bne t0) p 0 pcOf) = 0x108 := by decide +kernel
/-- A bit of a field that the instruction does not use makes `comb.topk.w` illegal: the command ends with `ST_PROGRAM_FAULT`. -/
theorem test_unused_bit_is_illegal :
    (result (.combTopkW t0) (bench 0x6E04_0080_2000_0001) 0 fun s => (s.cmd? 1).elim 0 (·.status)) = stProgramFault := by decide +kernel
/-- R348: `div` by zero gives all ones and `rem` the dividend. -/
theorem test_div_by_zero :
    result (.div t0) (bench (word 0x06 0 0 0 3 1 0 0)) 0 (fun s => gOf s 3) = 2 ^ 64 - 1 ∧
    result (.rem t0) (bench (word 0x08 0 0 0 3 1 0 0)) 0 (fun s => gOf s 3) = 64 := by decide +kernel
theorem test_shift_count_wraps : result (.shl t0) (bench (word 0x0D 0 0 1 3 2 0 65)) 0 (fun s => gOf s 3) = 6 := by decide +kernel
theorem test_g0_reads_zero : result (.add t0) (bench (word 0x01 0 0 1 0 1 0 5)) 9 (fun s => gOf s 0) = 0 := by decide +kernel

end Sys2Proof.Tests
end

/-! Bit fields and registers: what a field reads after a field has been written (R4), and which words an event record
touches (R629). -/
namespace Sys2Proof.Machine

/-! ## Fields of a number -/

/-- The written number in three parts: the bits above the field, the field, the bits below it. -/
theorem setField_eq (x hi lo v : Nat) :
    setField x hi lo v =
      2 ^ lo * (2 ^ (hi + 1 - lo) * (x / 2 ^ lo / 2 ^ (hi + 1 - lo)) + v % 2 ^ (hi + 1 - lo)) + x % 2 ^ lo := by
  have low := Nat.div_add_mod x (2 ^ lo)
  have high := congrArg (2 ^ lo * ·) (Nat.div_add_mod (x / 2 ^ lo) (2 ^ (hi + 1 - lo)))
  simp only [Nat.mul_add] at high
  simp only [setField, field, Nat.shiftRight_eq_div_pow, Nat.mul_add, Nat.mul_comm _ (2 ^ lo)]
  omega

theorem testBit_setField (x hi lo v i : Nat) :
    (setField x hi lo v).testBit i = if lo ≤ i ∧ i < lo + (hi + 1 - lo) then v.testBit (i - lo) else x.testBit i := by
  rw [setField_eq, Nat.testBit_two_pow_mul_add _ (Nat.mod_lt _ (Nat.two_pow_pos _))]
  by_cases below : i < lo
  · simp [below, Nat.not_le.2 below]
  rw [if_neg below, Nat.testBit_two_pow_mul_add _ (Nat.mod_lt _ (Nat.two_pow_pos _))]
  by_cases inside : i - lo < hi + 1 - lo
  · rw [if_pos inside, if_pos (by omega), Nat.testBit_mod_two_pow, decide_eq_true inside, Bool.true_and]
  · rw [if_neg inside, if_neg (by omega), Nat.testBit_div_two_pow, Nat.testBit_div_two_pow]
    congr 1
    omega

theorem field_setField_self (x hi lo v : Nat) : field (setField x hi lo v) hi lo = v % 2 ^ (hi + 1 - lo) := by
  apply Nat.eq_of_testBit_eq
  intro i
  rw [testBit_field, testBit_setField, Nat.testBit_mod_two_pow]
  by_cases h : i < hi + 1 - lo
  · rw [if_pos (by omega), Nat.add_sub_cancel_left]
  · simp [h]

theorem field_setField_disjoint (x v : Nat) {hi lo hi' lo' : Nat} (h : hi' < lo ∨ hi < lo') :
    field (setField x hi lo v) hi' lo' = field x hi' lo' := by
  apply Nat.eq_of_testBit_eq
  intro i
  rw [testBit_field, testBit_field, testBit_setField]
  by_cases hi : i < hi' + 1 - lo'
  · rw [if_neg (by omega)]
  · simp [hi]

/-- A register holds 64 bits, so a field of it does not see where the number is cut. -/
theorem field_mod_word (x lo : Nat) {hi : Nat} (h : hi < 64) : field (x % 2 ^ 64) hi lo = field x hi lo := by
  apply Nat.eq_of_testBit_eq
  intro i
  rw [testBit_field, testBit_field, Nat.testBit_mod_two_pow]
  by_cases hi : i < hi + 1 - lo
  · rw [decide_eq_true (show lo + i < 64 by omega), Bool.true_and]
  · simp [hi]

/-! ## Registers of the state -/

/-- The registers alone decide what a word reads. -/
theorem State.word_congr {s t : State} (h : s.regs = t.regs) (o : Nat) : s.word o = t.word o := by simp only [State.word, h]

theorem State.fld_congr {s t : State} {o : Nat} (h : s.word o = t.word o) (hi lo : Nat) : s.fld o hi lo = t.fld o hi lo := by
  simp only [State.fld, h]

@[simp] theorem State.word_setWord_self (s : State) (o : Nat) (w : Word) : (s.setWord o w).word o = w := by
  simp [State.word, State.setWord]

theorem State.word_setWord_ne (s : State) (w : Word) {o o' : Nat} (h : o' ≠ o) : (s.setWord o w).word o' = s.word o' := by
  simp [State.word, State.setWord, h]

theorem State.word_setFld_ne (s : State) (hi lo v : Nat) {o o' : Nat} (h : o' ≠ o) : (s.setFld o hi lo v).word o' = s.word o' :=
  s.word_setWord_ne _ h

theorem State.fld_setFld_ne (s : State) (hi lo v hi' lo' : Nat) {o o' : Nat} (h : o' ≠ o) :
    (s.setFld o hi lo v).fld o' hi' lo' = s.fld o' hi' lo' :=
  State.fld_congr (s.word_setFld_ne hi lo v h) hi' lo'

@[simp] theorem State.fld_setFld_self (s : State) (o lo v : Nat) {hi : Nat} (h : hi < 64) :
    (s.setFld o hi lo v).fld o hi lo = v % 2 ^ (hi + 1 - lo) := by
  simp only [State.fld, State.setFld, State.word_setWord_self, BitVec.toNat_ofNat]
  rw [field_mod_word _ _ h, field_setField_self]

@[simp] theorem State.fld_setFld_disjoint (s : State) (o v : Nat) {hi lo hi' lo' : Nat} (h' : hi' < 64) (h : hi' < lo ∨ hi < lo') :
    (s.setFld o hi lo v).fld o hi' lo' = s.fld o hi' lo' := by
  simp only [State.fld, State.setFld, State.word_setWord_self, BitVec.toNat_ofNat]
  rw [field_mod_word _ _ h', field_setField_disjoint _ _ h]

theorem State.fld_lt (s : State) (o hi lo : Nat) : s.fld o hi lo < 2 ^ (hi + 1 - lo) := field_lt _ hi lo

theorem State.word_satAdd_ne (s : State) (hi lo n : Nat) {o o' : Nat} (h : o' ≠ o) : (s.satAdd o hi lo n).word o' = s.word o' :=
  s.word_setFld_ne hi lo _ h

@[simp] theorem State.fld_satAdd_disjoint (s : State) (o n : Nat) {hi lo hi' lo' : Nat} (h' : hi' < 64) (h : hi' < lo ∨ hi < lo') :
    (s.satAdd o hi lo n).fld o hi' lo' = s.fld o hi' lo' :=
  s.fld_setFld_disjoint o _ h' h

/-- Adding one to a saturating field is what `Counted` says. -/
theorem counted_satAdd (s : State) (o lo : Nat) {hi : Nat} (h : hi < 64) : Counted s (s.satAdd o hi lo 1) o hi lo := by
  have pos := Nat.two_pow_pos (hi + 1 - lo)
  rw [Counted, State.satAdd, State.fld_setFld_self _ _ _ _ h]
  exact Nat.mod_eq_of_lt ((Nat.min_le_right _ _).trans_lt (by omega))

/-- A counter's step is seen through words that did not change before and after it. -/
theorem Counted.congr {s s' t t' : State} {o hi lo : Nat} (h : Counted s s' o hi lo) (hs : s.word o = t.word o) (hs' : t'.word o = s'.word o) :
    Counted t t' o hi lo := by
  rw [Counted, State.fld_congr hs', h, State.fld_congr hs]

/-! ## Event records (R629) -/

theorem State.word_setWords_out (s : State) (o : Nat) (ws : List Nat) {o' : Nat} (h : o' < o ∨ o + 8 * ws.length ≤ o') :
    (s.setWords o ws).word o' = s.word o' := by
  induction ws generalizing s o with
  | nil => rfl
  | cons w ws ih =>
    simp only [List.length_cons] at h
    rw [State.setWords, ih _ _ (by omega), State.word_setWord_ne _ _ (by omega)]

theorem State.word_setWords_at (s : State) (o : Nat) (ws : List Nat) {i : Nat} (h : i < ws.length) :
    (s.setWords o ws).word (o + 8 * i) = BitVec.ofNat 64 (ws.getD i 0) := by
  induction ws generalizing s o i with
  | nil => cases h
  | cons w ws ih =>
    cases i with
    | zero => rw [State.setWords, State.word_setWords_out _ _ _ (by omega)]; simp
    | succ i =>
      have := ih (s.setWord o (BitVec.ofNat 64 w)) (o + 8) (Nat.lt_of_succ_lt_succ h)
      rw [State.setWords, show o + 8 * (i + 1) = o + 8 + 8 * i by omega, this, List.getD_cons_succ]

theorem State.setWords_frame (s : State) (o : Nat) (ws : List Nat) : { s.setWords o ws with regs := s.regs } = s := by
  induction ws generalizing s o with
  | nil => rfl
  | cons w ws ih => exact congrArg (fun t : State => { t with regs := s.regs }) (ih (s.setWord o (BitVec.ofNat 64 w)) (o + 8))

theorem eventWords_length (code tenant nt seq time : Nat) {data : List Nat} (h : data.length ≤ 6) :
    (eventWords code tenant nt seq time data).length = 8 := by
  simp only [eventWords, List.length_append, List.length_cons, List.length_nil, List.length_take, List.length_replicate]
  omega

/-- An MSI-X message or its pending bit concerns no register. -/
theorem State.sendMsix_frame (s : State) (fn v : Nat) : { s.sendMsix fn v with bar4 := s.bar4, out := s.out } = s := by
  unfold State.sendMsix; dsimp only; split <;> rfl

/-- The record in the ring, its sequence number, and WR one further. -/
def State.recordWritten (s : State) (code tenant : Nat) (data : List Nat) : State :=
  let wr := s.fld oEvtPtr 24 16
  ({ s.setWords (oEvtRing wr) (eventWords code tenant s.eventTime.1 (s.evtSeq + 1) s.eventTime.2 data) with
      evtSeq := s.evtSeq + 1, free := s.free + s.eventTime.1 } : State).setFld oEvtPtr 24 16 ((wr + 1) % 512)

/-- The record counted as unread, or the oldest one lost. -/
def State.recordCounted (s t : State) : State :=
  if s.evtUnread = 512 then (t.setFld oEvtPtr 8 0 ((s.fld oEvtPtr 8 0 + 1) % 512)).satAdd oEvtPtr 63 32 1
  else { t with evtUnread := s.evtUnread + 1 }

/-- The signals of R631. -/
def State.recordSignalled (s t : State) (code : Nat) : State :=
  let t1 := if s.fld oEvtCtrl 8 8 = 1 ∧ 1 ≤ evSev code then t.sendMsix 0 (s.fld oEvtCtrl 7 0) else t
  if s.fld oEvtCtrl 10 9 ≤ evSev code then t1.sendIbi code else t1

/-- The three parts of writing an event record. -/
theorem State.logEvent_eq (s : State) (code tenant : Nat) (data : List Nat) :
    s.logEvent code tenant data = s.recordSignalled (s.recordCounted (s.recordWritten code tenant data)) code := rfl

theorem State.recordWritten_frame (s : State) (code tenant : Nat) (data : List Nat) :
    { s.recordWritten code tenant data with regs := s.regs, evtSeq := s.evtSeq, free := s.free } = s :=
  congrArg (fun t : State => { t with evtSeq := s.evtSeq, free := s.free }) (s.setWords_frame (oEvtRing _) (eventWords ..))

theorem State.recordCounted_frame (s t : State) : { s.recordCounted t with regs := t.regs, evtUnread := t.evtUnread } = t := by
  unfold State.recordCounted; split <;> rfl

theorem State.recordSignalled_frame (s t : State) (code : Nat) : { s.recordSignalled t code with bar4 := t.bar4, out := t.out } = t := by
  have msix : { (if s.fld oEvtCtrl 8 8 = 1 ∧ 1 ≤ evSev code then t.sendMsix 0 (s.fld oEvtCtrl 7 0) else t) with
      bar4 := t.bar4, out := t.out } = t := by
    split
    · exact t.sendMsix_frame _ _
    · rfl
  unfold State.recordSignalled
  dsimp only
  split
  · exact msix
  · exact msix

/-- `t` with what an event record may change taken from `s`. -/
def State.butRecord (s t : State) : State :=
  { t with regs := s.regs, bar4 := s.bar4, out := s.out, evtUnread := s.evtUnread, evtSeq := s.evtSeq, free := s.free }

/-- A record changes registers, what it signals, and the counters of records and free values; nothing else. -/
theorem State.logEvent_frame (s : State) (code tenant : Nat) (data : List Nat) : s.butRecord (s.logEvent code tenant data) = s :=
  calc s.butRecord (s.recordSignalled (s.recordCounted (s.recordWritten code tenant data)) code)
    _ = s.butRecord (s.recordCounted (s.recordWritten code tenant data)) := (congrArg s.butRecord (s.recordSignalled_frame _ code) :)
    _ = s.butRecord (s.recordWritten code tenant data) := (congrArg s.butRecord (s.recordCounted_frame _) :)
    _ = s := (congrArg s.butRecord (s.recordWritten_frame code tenant data) :)

@[simp] theorem State.logEvent_fab (s : State) (code tenant : Nat) (data : List Nat) : (s.logEvent code tenant data).fab = s.fab :=
  (congrArg State.fab (s.logEvent_frame code tenant data) :)
@[simp] theorem State.logEvent_gates (s : State) (code tenant : Nat) (data : List Nat) : (s.logEvent code tenant data).gates = s.gates :=
  (congrArg State.gates (s.logEvent_frame code tenant data) :)
@[simp] theorem State.logEvent_clock (s : State) (code tenant : Nat) (data : List Nat) : (s.logEvent code tenant data).clock = s.clock :=
  (congrArg State.clock (s.logEvent_frame code tenant data) :)

theorem State.recordSignalled_word (s t : State) (code o : Nat) : (s.recordSignalled t code).word o = t.word o :=
  State.word_congr (congrArg State.regs (s.recordSignalled_frame t code)) o

theorem State.recordSignalled_evtSeq (s t : State) (code : Nat) : (s.recordSignalled t code).evtSeq = t.evtSeq :=
  (congrArg State.evtSeq (s.recordSignalled_frame t code) :)

theorem State.recordCounted_word (s t : State) {o : Nat} (h : o ≠ oEvtPtr) : (s.recordCounted t).word o = t.word o := by
  unfold State.recordCounted
  split
  · rw [State.word_satAdd_ne _ _ _ _ h, State.word_setFld_ne _ _ _ _ h]
  · rfl

theorem State.recordCounted_evtSeq (s t : State) : (s.recordCounted t).evtSeq = t.evtSeq :=
  (congrArg State.evtSeq (s.recordCounted_frame t) :)

/-- Counting a record moves RD and the count of lost records, not WR. -/
theorem State.recordCounted_wr (s t : State) : (s.recordCounted t).fld oEvtPtr 24 16 = t.fld oEvtPtr 24 16 := by
  unfold State.recordCounted
  split
  · rw [State.fld_satAdd_disjoint _ _ _ (by decide) (by decide), State.fld_setFld_disjoint _ _ _ (by decide) (by decide)]
  · rfl

/-- The ring ends below 0x60000. -/
theorem State.evtRing_lt (s : State) : oEvtRing (s.fld oEvtPtr 24 16) + 64 ≤ 0x60000 := by
  have := s.fld_lt oEvtPtr 24 16
  simp only [oEvtRing]
  omega

theorem State.recordWritten_word (s : State) (code tenant : Nat) {data : List Nat} (h : data.length ≤ 6) {o : Nat}
    (out : o < 0x50000 ∨ 0x60000 ≤ o) : (s.recordWritten code tenant data).word o = s.word o := by
  have ring := s.evtRing_lt
  have base : 0x58000 ≤ oEvtRing (s.fld oEvtPtr 24 16) := Nat.le_add_right ..
  unfold State.recordWritten
  rw [State.word_setFld_ne _ _ _ _ (by simp only [oEvtPtr]; omega)]
  exact State.word_setWords_out _ _ _ (by rw [eventWords_length _ _ _ _ _ h]; omega)

/-- A record leaves every register outside the event block as it was. -/
theorem State.logEvent_word (s : State) (code tenant : Nat) {data : List Nat} (h : data.length ≤ 6) {o : Nat}
    (out : o < 0x50000 ∨ 0x60000 ≤ o) : (s.logEvent code tenant data).word o = s.word o := by
  rw [State.logEvent_eq, State.recordSignalled_word, State.recordCounted_word _ _ (by simp only [oEvtPtr]; omega),
    State.recordWritten_word _ _ _ h out]

/-- Writing an event record does what `Logged` says. -/
theorem State.logged_logEvent (s : State) (code tenant : Nat) {data : List Nat} (h : data.length ≤ 6) :
    Logged s (s.logEvent code tenant data) code tenant data where
  words := by
    refine ⟨s.eventTime.1, s.eventTime.2, fun i hi => ?_⟩
    have off : oEvtRing (s.fld oEvtPtr 24 16) + 8 * i ≠ oEvtPtr := by simp only [oEvtRing, oEvtPtr]; omega
    rw [State.logEvent_eq, State.recordSignalled_word, State.recordCounted_word _ _ off, State.recordWritten,
      State.word_setFld_ne _ _ _ _ off]
    exact State.word_setWords_at _ _ _ (by rw [eventWords_length _ _ _ _ _ h]; exact hi)
  seq := by rw [State.logEvent_eq, State.recordSignalled_evtSeq, State.recordCounted_evtSeq]; rfl
  wr := by
    rw [State.logEvent_eq, State.fld_congr (State.recordSignalled_word ..), State.recordCounted_wr, State.recordWritten,
      State.fld_setFld_self _ _ _ _ (by decide)]
    omega

/-- What `Logged` says rests on the event pointer and the sequence number of the state before. -/
theorem Logged.congr {s t s' : State} {code tenant : Nat} {data : List Nat} (h : Logged s s' code tenant data)
    (ptr : s.word oEvtPtr = t.word oEvtPtr) (seq : s.evtSeq = t.evtSeq) : Logged t s' code tenant data := by
  have wr := State.fld_congr ptr 24 16
  obtain ⟨words, next, pointer⟩ := h
  exact ⟨wr ▸ seq ▸ words, seq ▸ next, wr ▸ pointer⟩

end Sys2Proof.Machine

/-! Gate lists (R541 to R545): entries, cycles, the pending bank, and the packet that a port half sends. -/
namespace Sys2Proof.Machine

/-- A step whose conditions hold takes place, and what holds of its effect holds of the next state. -/
theorem onlyIf_next {c : Bool} {s : State} {f : State → State} {P : State → Prop} (h : c = true) (effect : P (f s)) :
    ∃ s', onlyIf c s f = .next s' ∧ P s' := ⟨f s, by rw [onlyIf, if_pos h], effect⟩

@[simp] theorem State.gate_setGate_self (s : State) (l : Nat) (g : GateRt) : (s.setGate l g).gate l = g := Map.getD_put_self ..

@[simp] theorem State.queues_settleGate (s : State) (l : Nat) : ((s.settleGate l).gate l).queues = (s.gate l).queues := by
  rw [State.settleGate, State.gate_setGate_self]

/-! ## The next entry (R542) -/

/-- The next entry's mask applies, and only the gate and the time change. -/
theorem exec_gateEntryExpiry_next {s : State} {l : Nat} (live : s.live = true) (hl : l < 16)
    (more : (s.gate l).idx + 1 < s.actLen l) (within : s.entryEnd l (s.gate l).idx < s.actCycle l) :
    ∃ s', exec (.gateEntryExpiry l) s = .next s' ∧ (s'.gate l).idx = (s.gate l).idx + 1 ∧
      s'.clock = Nat.max s.clock ((s.gate l).cycleStart + s.entryEnd l (s.gate l).idx) ∧
      (s'.gate l).mask = BitVec.ofNat 4 (s.gateEntry l ((s.gate l).idx + 1)).1 ∧ (s'.gate l).queues = (s.gate l).queues ∧
      { s' with gates := s.gates, clock := s.clock } = s := by
  simp only [exec_gateEntryExpiry, execGateEntryExpiry]
  refine onlyIf_next (by simp [live, hl, more, within]) ⟨?_, rfl, ?_, ?_, rfl⟩
  · rw [State.gate_setGate_self]
  · rw [State.gate_setGate_self]
  · rw [State.gate_setGate_self]
    exact State.queues_settleGate ..

/-! ## A new cycle (R542 to R545) -/

@[simp] theorem State.noteOver_gates (s : State) (b : Bool) (t c : Nat) : (s.noteOver b t c).gates = s.gates := by simp [State.noteOver]
@[simp] theorem State.noteOver_clock (s : State) (b : Bool) (t c : Nat) : (s.noteOver b t c).clock = s.clock := by simp [State.noteOver]

theorem State.noteOver_word (s : State) (b : Bool) (t c : Nat) {o : Nat} (out : 0x60000 ≤ o) (h : o ≠ oSchC0mon) :
    (s.noteOver b t c).word o = s.word o := by
  rw [State.noteOver, State.word_satAdd_ne _ _ _ _ h, State.logEvent_word _ _ _ (by simp) (.inr out)]

theorem State.noteOver_counted (s : State) (b : Bool) (t c : Nat) : Counted s (s.noteOver b t c) oSchC0mon 63 48 :=
  (counted_satAdd _ oSchC0mon 48 (by decide)).congr (s.logEvent_word _ _ (by simp) (.inr (by decide))) rfl

/-- The gate judged anew at the end of a cycle. -/
def State.judged (s : State) (l : Nat) : State :=
  s.setGate l { s.gate l with exceeded := decide (s.levelLimit l < s.levelNow l) }

theorem State.endCycle_over {s : State} {l : Nat} (h : (s.gate l).exceeded = true) :
    s.endCycle l = (s.judged l).noteOver true ((s.gate l).cycleStart / 1000) 2 := if_pos h

theorem State.endCycle_within {s : State} {l : Nat} (h : (s.gate l).exceeded = false) : s.endCycle l = s := if_neg (by simp [h])

/-- The end of a cycle keeps the gate's queues and the time. -/
theorem State.endCycle_kept (s : State) (l : Nat) :
    ((s.endCycle l).gate l).queues = (s.gate l).queues ∧ (s.endCycle l).clock = s.clock := by
  cases h : (s.gate l).exceeded
  · rw [State.endCycle_within h]
    exact ⟨rfl, rfl⟩
  · rw [State.endCycle_over h, State.noteOver_clock]
    refine ⟨?_, rfl⟩
    rw [State.gate, State.noteOver_gates, ← State.gate, State.judged, State.gate_setGate_self]

theorem State.endCycle_word (s : State) (l : Nat) {o : Nat} (out : 0x60000 ≤ o) (ne : o ≠ oSchC0mon) : (s.endCycle l).word o = s.word o := by
  cases h : (s.gate l).exceeded
  · rw [State.endCycle_within h]
  · rw [State.endCycle_over h, State.noteOver_word _ _ _ _ out ne]
    rfl

theorem State.endCycle_counted {s : State} {l : Nat} (h : (s.gate l).exceeded = true) : Counted s (s.endCycle l) oSchC0mon 63 48 := by
  rw [State.endCycle_over h]
  exact ((s.judged l).noteOver_counted ..).congr rfl rfl

/-- A cycle that starts without a switch touches no register. -/
theorem State.startCycle_regs (s : State) (l at0 : Nat) : (s.startCycle l at0 false).regs = s.regs := rfl

/-- A cycle that starts with a switch finds the registers as the switch leaves them. -/
theorem State.startCycle_switch_regs (s : State) (l at0 : Nat) : (s.startCycle l at0 true).regs = (s.switchBank l).regs := rfl

theorem State.startCycle_clock (s : State) (l at0 : Nat) (switch : Bool) : (s.startCycle l at0 switch).clock = Nat.max s.clock at0 := by
  cases switch <;> rfl

@[simp] theorem State.queues_switchBank (s : State) (l : Nat) : ((s.switchBank l).gate l).queues = (s.gate l).queues := by
  rw [State.switchBank, State.gate_setGate_self]
  rfl

/-- A cycle starts with entry 0 of the bank in force, at its time, and the queues as they were. -/
theorem State.gate_startCycle (s : State) (l at0 : Nat) (switch : Bool) :
    ((s.startCycle l at0 switch).gate l).idx = 0 ∧ ((s.startCycle l at0 switch).gate l).cycleStart = at0 ∧
      ((s.startCycle l at0 switch).gate l).mask = BitVec.ofNat 4 ((s.startCycle l at0 switch).gateEntry l 0).1 ∧
      ((s.startCycle l at0 switch).gate l).queues = (s.gate l).queues := by
  have settled : ((({ s with clock := Nat.max s.clock at0 } : State).settleGate l).gate l).queues = (s.gate l).queues :=
    State.queues_settleGate ..
  rw [State.startCycle, State.gate_setGate_self]
  refine ⟨rfl, rfl, rfl, ?_⟩
  cases switch
  · exact settled
  · exact (State.queues_switchBank ..).trans settled

/-- The switch of banks: the other bank is active, nothing is pending, and the admin values apply (R543). -/
theorem State.switchBank_fields (s : State) (l : Nat) :
    (s.switchBank l).fld (oGateCtrl l) 3 3 = 1 - s.fld (oGateCtrl l) 3 3 ∧ (s.switchBank l).fld (oGateCtrl l) 2 2 = 0 ∧
      (s.switchBank l).fld (oGateCtrl l) 42 32 = s.fld (oGateCtrl l) 26 16 ∧
      (s.switchBank l).fld (oGateCycle l) 63 32 = s.fld (oGateCycle l) 31 0 := by
  have apart : oGateCtrl l ≠ oGateCycle l := by simp only [oGateCycle]; omega
  have len := s.fld_lt (oGateCtrl l) 26 16
  have cycle := s.fld_lt (oGateCycle l) 31 0
  have regs : ∀ o, (s.switchBank l).word o = _ := State.word_congr (t := (((s.setFld (oGateCtrl l) 3 3 (1 - s.fld (oGateCtrl l) 3 3)).setFld
    (oGateCtrl l) 2 2 0).setFld (oGateCtrl l) 42 32 (s.fld (oGateCtrl l) 26 16)).setFld (oGateCycle l) 63 32 (s.fld (oGateCycle l) 31 0)) rfl
  simp only [State.fld_congr (regs _), ne_eq, apart, not_false_eq_true, State.fld_setFld_ne, State.fld_setFld_self, State.fld_setFld_disjoint,
    Nat.reduceLT, Nat.reduceAdd, Nat.reduceSub, or_true, true_or]
  omega

/-- The words of a gate's registers lie above the event block and are none of the scheduler's. -/
theorem oGate_above (l : Nat) : 0x310000 ≤ oGateCtrl l ∧ 0x310000 ≤ oGateCycle l := by
  simp only [oGateCycle, oGateCtrl]; omega

/-- What ends a cycle leaves the gate's registers as they were. -/
theorem State.endCycle_gateFld (s : State) (l : Nat) {o : Nat} (above : 0x310000 ≤ o) (hi lo : Nat) :
    (s.endCycle l).fld o hi lo = s.fld o hi lo :=
  State.fld_congr (s.endCycle_word l (by omega) (by simp only [oSchC0mon]; omega)) hi lo

/-- The pending bank takes over at its first cycle start (R543, R544). -/
theorem exec_gateCycleStart_switch {s : State} {l : Nat} (live : s.live = true) (hl : l < 16) (first : s.switchFirst l = true) :
    ∃ s', exec (.gateCycleStart l) s = .next s' ∧ s'.fld (oGateCtrl l) 3 3 = 1 - s.fld (oGateCtrl l) 3 3 ∧ s'.fld (oGateCtrl l) 2 2 = 0 ∧
      s'.fld (oGateCtrl l) 42 32 = s.fld (oGateCtrl l) 26 16 ∧ s'.fld (oGateCycle l) 63 32 = s.fld (oGateCycle l) 31 0 ∧ (s'.gate l).idx = 0 ∧
      (s'.gate l).cycleStart = (s.gate l).armedAt ∧ s'.clock = Nat.max s.clock (s.gate l).armedAt ∧
      (s'.gate l).mask = BitVec.ofNat 4 (s'.fld (oGateEntry l (1 - s.fld (oGateCtrl l) 3 3) 0) 35 32) ∧ (s'.gate l).queues = (s.gate l).queues := by
  obtain ⟨ctrl, cyc⟩ := oGate_above l
  obtain ⟨queues, clock⟩ := s.endCycle_kept l
  obtain ⟨idx, start, mask, kept⟩ := (s.endCycle l).gate_startCycle l (s.gate l).armedAt true
  obtain ⟨bank, armed, len, cycle⟩ := (s.endCycle l).switchBank_fields l
  have regs := fun o => State.fld_congr (State.word_congr ((s.endCycle l).startCycle_switch_regs l (s.gate l).armedAt) o)
  simp only [s.endCycle_gateFld l ctrl, s.endCycle_gateFld l cyc] at bank len cycle
  simp only [exec_gateCycleStart, execGateCycleStart]
  refine onlyIf_next (by simp [live, hl, first]) ?_
  simp only [first, if_true]
  refine ⟨(regs ..).trans bank, (regs ..).trans armed, (regs ..).trans len, (regs ..).trans cycle, idx, start, ?_, ?_, kept.trans queues⟩
  · rw [State.startCycle_clock, clock]
  · simp only [mask, State.gateEntry, regs, bank]

/-- The next cycle of the list in force starts where the last one ends (R542, R545). -/
theorem exec_gateCycleStart_again {s : State} {l : Nat} (live : s.live = true) (hl : l < 16) (first : s.switchFirst l = false)
    (listed : s.actLen l ≠ 0) :
    ∃ s', exec (.gateCycleStart l) s = .next s' ∧ (s'.gate l).idx = 0 ∧ (s'.gate l).cycleStart = (s.gate l).cycleStart + s.actCycle l ∧
      s'.clock = Nat.max s.clock ((s.gate l).cycleStart + s.actCycle l) ∧
      (s'.gate l).mask = BitVec.ofNat 4 (s'.fld (oGateEntry l (s.fld (oGateCtrl l) 3 3) 0) 35 32) ∧ (s'.gate l).queues = (s.gate l).queues ∧
      ((s.gate l).exceeded = true → Counted s s' oSchC0mon 63 48) ∧ ((s.gate l).exceeded = false → s'.regs = s.regs) := by
  obtain ⟨queues, clock⟩ := s.endCycle_kept l
  obtain ⟨idx, start, mask, kept⟩ := (s.endCycle l).gate_startCycle l ((s.gate l).cycleStart + s.actCycle l) false
  have regs := (s.endCycle l).startCycle_regs l ((s.gate l).cycleStart + s.actCycle l)
  have flds := fun o => State.fld_congr (State.word_congr regs o)
  simp only [exec_gateCycleStart, execGateCycleStart]
  refine onlyIf_next (by simp [live, hl, first, listed]) ?_
  simp only [first, Bool.false_eq_true, if_false]
  refine ⟨idx, start, ?_, ?_, kept.trans queues, fun high => ?_, fun within => ?_⟩
  · exact (State.startCycle_clock ..).trans (by rw [clock])
  · simp only [mask, State.gateEntry, flds, s.endCycle_gateFld l (oGate_above l).1]
  · exact (State.endCycle_counted high).congr rfl (State.word_congr regs _)
  · exact regs.trans (by rw [State.endCycle_within within])

/-! ## The packet that leaves (R541, R496, R497) -/

/-- The first of the least: what is strictly less than every other element of the list is found. -/
theorem leastBy_of_lt {α : Type} (f : α → Nat) {l : List α} {a : α} (mem : a ∈ l) (least : ∀ b ∈ l, b ≠ a → f a < f b) :
    leastBy f l = some a := by
  have le : ∀ b ∈ l, f a ≤ f b := fun b hb => by
    by_cases h : b = a
    · rw [h]
    · exact (least b hb h).le
  have found : (leastBy f l).isSome := List.find?_isSome.2 ⟨a, mem, by simpa using le⟩
  obtain ⟨b, hb⟩ := Option.isSome_iff_exists.1 found
  have all := List.find?_some hb
  have same : b = a := by
    by_contra h
    have := least b (List.mem_of_find?_eq_some hb) h
    have := (by simpa using all : ∀ c ∈ l, f b ≤ f c) a mem
    omega
  rw [hb, same]

/-- The head of an open class is the next packet where it is of class 0, or where no class-0 packet can go and its key is
strictly the least (R541). -/
theorem State.nextPacket_eq {s : State} {l c : Nat} {x : Nat × Nat × Packet} (hc : c < 4) (head : s.gateHead l c = some x) (cls : x.2.2.cls = c)
    (turn : c = 0 ∨ s.gateHead l 0 = none ∧ ∀ d y, 1 ≤ d → d < 4 → d ≠ c → s.gateHead l d = some y →
      s.phiGate l x.2.2 * 4 + c < s.phiGate l y.2.2 * 4 + y.2.2.cls) : s.nextPacket l = some x := by
  unfold State.nextPacket
  by_cases zero : c = 0
  · rw [← zero, head]
  obtain ⟨noClass0, least⟩ := turn.resolve_left zero
  rw [noClass0]
  refine leastBy_of_lt _ (List.mem_filterMap.2 ⟨c, by simp; omega, head⟩) fun y hy ne => ?_
  obtain ⟨d, hd, hy⟩ := List.mem_filterMap.1 hy
  have range : 1 ≤ d ∧ d < 4 := by simp at hd; omega
  have other : d ≠ c := by
    rintro rfl
    exact ne (Option.some.inj (hy.symm.trans head))
  simpa only [cls] using least d y range.1 range.2 other hy

theorem toLe_length (n x : Nat) : (toLe n x).length = n := by
  induction n generalizing x with
  | zero => rfl
  | succ n ih => rw [toLe, List.length_cons, ih]

/-- 32 bytes of header, the payload, and 4 bytes of CRC (R497). -/
theorem packetWire_length (p : Packet) : (packetWire p).length = 36 + p.payload.length := by
  simp only [packetWire, List.length_append, toLe_length]
  omega

/-- The first word of a packet: class, type and version (R497). -/
theorem packetWire_head {p : Packet} (h : p.cls < 4) :
    (packetWire p).take 4 = [0, p.cls * 64, p.type % 256, 1].map (BitVec.ofNat 8) := by
  have four : ∀ x, (toLe 4 x).take 4 = toLe 4 x := fun x => List.take_of_length_le (by rw [toLe_length])
  simp only [packetWire, List.append_assoc]
  rw [List.take_append_of_le_length (by rw [toLe_length]), four]
  simp only [toLe, List.map_cons, List.map_nil, List.cons.injEq, and_true]
  refine ⟨?_, ?_, ?_, ?_⟩ <;> apply BitVec.eq_of_toNat_eq <;> simp only [BitVec.toNat_ofNat] <;> omega

/-- Raising the marks of a queue writes that queue's register alone. -/
theorem State.markQueue_frame (s : State) (o depth sojourn : Nat) : { s.markQueue o depth sojourn with regs := s.regs } = s := by
  unfold State.markQueue
  split <;> rfl

theorem State.markQueue_word (s : State) (depth sojourn : Nat) {o o' : Nat} (h : o' ≠ o) : (s.markQueue o depth sojourn).word o' = s.word o' := by
  unfold State.markQueue
  split
  · rw [State.word_setFld_ne _ _ _ _ h, State.word_setFld_ne _ _ _ _ h]
  · rfl

/-- The gate after a packet of it has left. -/
theorem State.queues_transmit (s : State) (l : Nat) (x : Nat × Nat × Packet) :
    ((s.transmit l x).gate l).queues = Map.put (s.gate l).queues x.2.2.cls (((s.gate l).queue x.2.2.cls).drop 1) :=
  congrArg GateRt.queues (Map.getD_put_self ..)

/-- Noting a wait and raising marks concern registers alone. -/
theorem State.sendMarks_frame (s : State) (l openAt o depth sojourn : Nat) (noted : Bool) :
    { (if noted then (s.markQueue o depth sojourn).noteWait l openAt else s.markQueue o depth sojourn) with regs := s.regs } = s := by
  cases noted <;> exact s.markQueue_frame o depth sojourn

/-- What a port half sends is put after the frames that have left. -/
theorem State.frames_transmit (s : State) (l : Nat) (x : Nat × Nat × Packet) :
    (s.transmit l x).out.frames = s.out.frames ++ [s.frameOf l x.2.2] := by
  have marks := s.sendMarks_frame l x.2.1 (oGateQs l x.2.2.cls) ((s.gate l).queue x.2.2.cls).length ((s.clock - x.1) / 1000)
    (decide (x.2.2.cls = 0))
  have out := congrArg (fun t : State => t.out.frames ++ [s.frameOf l x.2.2]) marks
  simp only [decide_eq_true_eq] at out
  exact out

/-- A port half sends the packet due: what the frame carries, the queue without it, and the time that it takes. -/
theorem exec_packetTransmit_next {s : State} {l : Nat} {x : Nat × Nat × Packet} (live : s.live = true) (up : s.halfUp l = true)
    (next : s.nextPacket l = some x) (fits : s.beforeClose l x.2.2.cls x.2.2 = true) :
    exec (.packetTransmit l) s = .next (s.transmit l x) := by
  rw [exec_packetTransmit, execPacketTransmit, next]
  simp [onlyIf, live, up, fits]

end Sys2Proof.Machine

/-! The Scarab transport (R496 to R501): what sending, acknowledging and taking packets leaves as it was. -/
namespace Sys2Proof.Machine

/-! ## Peers -/

@[simp] theorem State.peer_setPeer_self (s : State) (peer cls : Nat) (q : Peer) : (s.setPeer peer cls q).peer peer cls = q :=
  Map.getD_put_self ..

@[simp] theorem State.peer_setPeer_ne (s : State) (peer : Nat) (q : Peer) {cls c : Nat} (h : c ≠ cls) :
    (s.setPeer peer cls q).peer peer c = s.peer peer c :=
  Map.getD_put_ne _ _ _ (by simp only [peerKey]; omega)

/-- The peers alone decide what a peer reads. -/
theorem State.peer_congr {s t : State} (h : s.fab.peers = t.fab.peers) (peer cls : Nat) : s.peer peer cls = t.peer peer cls := by
  simp only [State.peer, h]

/-- One change to the peers of classes 1 to 3 (R501). -/
def State.onLowClasses (s : State) (peer : Nat) (g : Peer → Peer) : State :=
  [1, 2, 3].foldl (fun s c => s.setPeer peer c (g (s.peer peer c))) s

theorem State.peer_onLowClasses (s : State) (peer : Nat) (g : Peer → Peer) {c : Nat} (h : c < 4) :
    (s.onLowClasses peer g).peer peer c = if c = 0 then s.peer peer c else g (s.peer peer c) := by
  simp only [State.onLowClasses, List.foldl_cons, List.foldl_nil]
  interval_cases c <;> simp

/-- `t` with the peers of `s`. -/
def State.butPeers (s t : State) : State := { t with fab := { t.fab with peers := s.fab.peers } }

theorem State.onLowClasses_frame (s : State) (peer : Nat) (g : Peer → Peer) : s.butPeers (s.onLowClasses peer g) = s :=
  List.foldlRecOn (motive := fun t => s.butPeers t = s) _ _ rfl fun _ kept _ _ => kept

/-! ## Sending a packet -/

/-- Only registers, gates and the next port's turn differ. -/
def State.butPorts (s t : State) : State :=
  { t with regs := s.regs, gates := s.gates, fab := { t.fab with nextPort := s.fab.nextPort } }

theorem State.enqueue_frame (s : State) (l : Nat) (p : Packet) : { s.enqueue l p with regs := s.regs, gates := s.gates } = s :=
  (congrArg (fun t : State => { t with gates := s.gates }) (State.markQueue_frame _ (oGateQs l p.cls) _ 0) :)

theorem State.enqueue_word (s : State) (l : Nat) (p : Packet) {o : Nat} (h : o ≠ oGateQs l p.cls) : (s.enqueue l p).word o = s.word o :=
  (State.markQueue_word _ _ 0 h).trans rfl

/-- Sending a packet is a matter of the ports. -/
theorem State.sendPacket_frame (s : State) (p : Packet) : s.butPorts (s.sendPacket p) = s := by
  unfold State.sendPacket
  dsimp only
  split
  · rfl
  · exact (congrArg s.butPorts (State.enqueue_frame ..) :)

/-- The registers above those of the gates keep their words. -/
theorem State.sendPacket_word (s : State) {p : Packet} (cls : p.cls < 4) {o : Nat} (above : 0x310400 ≤ o) :
    (s.sendPacket p).word o = s.word o := by
  unfold State.sendPacket
  dsimp only
  split
  · rfl
  · rename_i l found
    have half : l < 16 := List.mem_range.1 (List.mem_filter.1 (List.mem_of_getElem? found)).1
    exact (State.enqueue_word _ l p (by simp only [oGateQs, oGateCtrl]; omega)).trans rfl

theorem State.sendPacket_fab (s : State) (p : Packet) :
    { (s.sendPacket p).fab with nextPort := s.fab.nextPort } = s.fab :=
  (congrArg State.fab (s.sendPacket_frame p) :)

@[simp] theorem State.peer_sendPacket (s : State) (p : Packet) (peer cls : Nat) : (s.sendPacket p).peer peer cls = s.peer peer cls :=
  State.peer_congr (congrArg Fabric.peers (s.sendPacket_fab p) :) peer cls

/-! ## The waiting packets -/

/-- The fabric state `g` with its peers, its waiting packets and its ports' turn taken from `f`. -/
def Fabric.butSending (f g : Fabric) : Fabric := { g with peers := f.peers, waiting := f.waiting, nextPort := f.nextPort }

/-- Sending the waiting packets touches the peers, the packets that still wait, and the ports' turn. -/
theorem State.pumpOut_fab (s : State) : s.fab.butSending s.pumpOut.fab = s.fab := by
  unfold State.pumpOut
  refine List.foldlRecOn (motive := fun t : State => s.fab.butSending t.fab = s.fab) _ _ rfl fun t kept p _ => ?_
  dsimp only
  split
  · have sent := State.sendPacket_fab (t.setPeer p.dst p.cls { t.peer p.dst p.cls with
      nextPsn := ((t.peer p.dst p.cls).nextPsn + 1) % 2 ^ 32
      unacked := (t.peer p.dst p.cls).unacked ++ [((t.peer p.dst p.cls).nextPsn, 0, { p with psn := (t.peer p.dst p.cls).nextPsn }, 0)] })
      { p with psn := (t.peer p.dst p.cls).nextPsn }
    exact (congrArg s.fab.butSending sent :).trans kept
  · exact kept

/-- With no packet waiting there is nothing to send. -/
theorem State.pumpOut_idle {s : State} (h : s.fab.waiting = []) : s.pumpOut = s := by
  have same : ∀ w, w = s.fab.waiting → { s with fab := { s.fab with waiting := w } } = s := by rintro _ rfl; rfl
  rw [State.pumpOut, h]
  exact same [] h.symm

/-- A message handed over stands in the outbox; messages taken in and recorded blocks are as they were. -/
theorem State.say_fab (s : State) (ty cls dst ref status : Nat) :
    (s.say ty cls dst ref status).fab.outbox = s.fab.outbox ++ [⟨ty, cls, dst, ref, status⟩] ∧
      (s.say ty cls dst ref status).fab.inbox = s.fab.inbox ∧ (s.say ty cls dst ref status).fab.delivered = s.fab.delivered ∧
      (s.say ty cls dst ref status).fab.idBlocks = s.fab.idBlocks := by
  have kept := State.pumpOut_fab { s with fab := { s.fab with
    nextMsg := s.fab.nextMsg + 1, outbox := s.fab.outbox ++ [⟨ty, cls, dst, ref, status⟩],
    waiting := s.fab.waiting ++ cutMessage ty cls s.nodeId dst s.fab.nextMsg s.payloadMax (Config.msgPayload ty ref status) } }
  exact ⟨(congrArg Fabric.outbox kept :), (congrArg Fabric.inbox kept :), (congrArg Fabric.delivered kept :), (congrArg Fabric.idBlocks kept :)⟩

/-! ## Acknowledging -/

/-- A SACK goes out as one message; the peer has nothing left to report, and holds what it held (R499). -/
theorem State.sendSack_fab (s : State) (peer cls : Nat) :
    (s.sendSack peer cls).peer peer cls = { s.peer peer cls with sinceSack := 0, ceSeen := false } ∧
      (s.sendSack peer cls).fab.outbox =
        s.fab.outbox ++ [⟨tySack, cls, peer, (s.peer peer cls).held.length, b2n (s.peer peer cls).ceSeen⟩] ∧
      (s.sendSack peer cls).fab.inbox = s.fab.inbox ∧ (s.sendSack peer cls).fab.delivered = s.fab.delivered := by
  unfold State.sendSack
  dsimp only
  refine ⟨by rw [State.peer_sendPacket, State.peer_setPeer_self], ?_, ?_, ?_⟩
  · exact (congrArg Fabric.outbox (State.sendPacket_fab ..) :)
  · exact (congrArg Fabric.inbox (State.sendPacket_fab ..) :)
  · exact (congrArg Fabric.delivered (State.sendPacket_fab ..) :)

end Sys2Proof.Machine

/-! Messages put together, acknowledgements taken, packets sent again and given up (R498 to R501, R520). -/
namespace Sys2Proof.Machine

/-! ## Putting a message together (R498, R500) -/

/-- Bytes placed one after the other from `o + k` upward, over what a map listed. -/
theorem get?_placed (m : Map Byte) (o k j : Nat) (bs : List Byte) :
    Map.get? ((bs.zipIdx k).foldl (fun m b => Map.put m (o + b.2) b.1) m) j =
      if o + k ≤ j ∧ j < o + k + bs.length then bs[j - (o + k)]? else Map.get? m j := by
  induction bs generalizing m k with
  | nil => rw [if_neg (by simp)]; rfl
  | cons b bs ih =>
    rw [List.zipIdx_cons, List.foldl_cons, ih, List.length_cons]
    rcases Nat.lt_trichotomy j (o + k) with below | rfl | above
    · rw [if_neg (by omega), if_neg (by omega), Map.get?_put_ne _ _ (by omega)]
    · rw [if_neg (by omega), if_pos (by omega), Map.get?_put_self, Nat.sub_self, List.getElem?_cons_zero]
    · by_cases inside : j < o + k + (bs.length + 1)
      · rw [if_pos (by omega), if_pos (by omega), show j - (o + k) = j - (o + (k + 1)) + 1 by omega, List.getElem?_cons_succ]
      · rw [if_neg (by omega), if_neg (by omega), Map.get?_put_ne _ _ (by omega)]

/-- The message of one packet is whole with it, and its bytes are the packet's. -/
theorem Assembly.place_single {a : Assembly} {p : Packet} (empty : a.pieces = []) (start : p.moff = 0) (last : p.last = true) :
    (a.place p).whole = true ∧ (a.place p).bytes = p.payload := by
  have total : (a.place p).total = some p.payload.length := by simp [Assembly.place, start, last]
  have piece : ∀ i, i < p.payload.length → Map.get? (a.place p).pieces i = p.payload[i]? := fun i hi => by
    have := get?_placed [] 0 0 i p.payload
    rw [if_pos (by omega)] at this
    simpa only [Assembly.place, empty, start, Nat.add_zero, Nat.sub_zero] using this
  constructor
  · simp only [Assembly.whole, total, Option.any_some, List.all_eq_true, List.mem_range]
    intro i hi
    rw [piece i hi, List.getElem?_eq_getElem hi, Option.isSome_some]
  · rw [Assembly.bytes, total, Option.getD_some]
    apply List.ext_getElem (by simp)
    intro i hi hi'
    simp only [List.getElem_map, List.getElem_range, piece i hi', List.getElem?_eq_getElem hi', Option.getD_some]

/-- Placing a packet concerns the messages alone. -/
theorem State.peers_assemble (s : State) (p : Packet) : (s.assemble p).fab.peers = s.fab.peers := by
  unfold State.assemble
  dsimp only
  split <;> rfl

/-- A message of one packet of a type with its own consumer is handed over at once. -/
theorem State.assemble_single {s : State} {p : Packet} (new : ∀ a ∈ s.fab.inbox, a.src ≠ p.src ∨ a.msg ≠ p.msg) (start : p.moff = 0)
    (last : p.last = true) (type : p.type ≠ tyData) :
    (s.assemble p).fab.delivered = s.fab.delivered ++ [(p.src, p.type, p.payload)] ∧ (s.assemble p).fab.inbox = s.fab.inbox := by
  have other : ∀ a ∈ s.fab.inbox, a.isOf p = false := fun a ha => by
    rcases new a ha with h | h <;> simp [Assembly.isOf, h]
  have absent : s.fab.inbox.find? (fun a => a.isOf p) = none := List.find?_eq_none.2 fun a ha => by simp [other a ha]
  have all : s.fab.inbox.filter (fun a => !a.isOf p) = s.fab.inbox := List.filter_eq_self.2 fun a ha => by simp [other a ha]
  obtain ⟨whole, bytes⟩ := Assembly.place_single (a := { src := p.src, msg := p.msg, type := p.type, cls := p.cls, pieces := [], total := none })
    rfl start last
  unfold State.assemble
  simp only [absent, Option.getD_none, whole, bytes, all]
  rw [if_pos (by simpa [Assembly.place] using type)]
  exact ⟨rfl, rfl⟩

/-! ## Taking a packet (R499, R500) -/

/-- The peer's counts with one more packet. -/
def State.countedPeer (s : State) (p : Packet) : Peer :=
  { s.peer p.src p.cls with
    sinceSack := (s.peer p.src p.cls).sinceSack + 1, ceSeen := (s.peer p.src p.cls).ceSeen || p.ceMark }

/-- A packet counted, and placed in its message where it is not a duplicate. -/
def State.tookPacket (s : State) (p : Packet) : State :=
  if (s.peer p.src p.cls).held.contains p.psn then s.setPeer p.src p.cls (s.countedPeer p)
  else (s.setPeer p.src p.cls { s.countedPeer p with held := (s.peer p.src p.cls).held ++ [p.psn] }).assemble p

/-- A SACK is due after 16 packets. -/
def State.sackDue (s : State) (peer cls : Nat) : State := if 16 ≤ (s.peer peer cls).sinceSack then s.sendSack peer cls else s

theorem State.tookPacket_dup {s : State} {p : Packet} (dup : p.psn ∈ (s.peer p.src p.cls).held) :
    s.tookPacket p = s.setPeer p.src p.cls (s.countedPeer p) := if_pos (by simpa using dup)

theorem State.tookPacket_new {s : State} {p : Packet} (new : p.psn ∉ (s.peer p.src p.cls).held) :
    s.tookPacket p =
      (s.setPeer p.src p.cls { s.countedPeer p with held := (s.peer p.src p.cls).held ++ [p.psn] }).assemble p :=
  if_neg (by simpa using new)

/-- The peer after a packet: one more since the last SACK, and the packet held. -/
theorem State.peer_tookPacket (s : State) (p : Packet) :
    ((s.tookPacket p).peer p.src p.cls).sinceSack = (s.peer p.src p.cls).sinceSack + 1 ∧
      ((s.tookPacket p).peer p.src p.cls).held =
        if p.psn ∈ (s.peer p.src p.cls).held then (s.peer p.src p.cls).held else (s.peer p.src p.cls).held ++ [p.psn] := by
  by_cases dup : p.psn ∈ (s.peer p.src p.cls).held
  · rw [State.tookPacket_dup dup, State.peer_setPeer_self, if_pos dup]
    exact ⟨rfl, rfl⟩
  · rw [State.tookPacket_new dup, State.peer_congr (State.peers_assemble ..), State.peer_setPeer_self, if_neg dup]
    exact ⟨rfl, rfl⟩

/-- The SACK that is due resets the count, and leaves what is held and the messages. -/
theorem State.sackDue_kept (s : State) (peer cls : Nat) :
    ((s.sackDue peer cls).peer peer cls).sinceSack = (if 16 ≤ (s.peer peer cls).sinceSack then 0 else (s.peer peer cls).sinceSack) ∧
      ((s.sackDue peer cls).peer peer cls).held = (s.peer peer cls).held ∧
      (s.sackDue peer cls).fab.inbox = s.fab.inbox ∧ (s.sackDue peer cls).fab.delivered = s.fab.delivered := by
  unfold State.sackDue
  split
  · obtain ⟨peer, -, inbox, delivered⟩ := s.sendSack_fab peer cls
    rw [peer]
    exact ⟨rfl, rfl, inbox, delivered⟩
  · exact ⟨rfl, rfl, rfl, rfl⟩

/-- A packet that passes the checks is taken, and a SACK sent where one is due. -/
theorem State.receivePacket_taken {s : State} {p : Packet} (crc : p.crcOk = true) (member : s.member p.src = true) (dst : p.dst = s.nodeId)
    (cls : p.cls < 4) (type : p.type ≠ tySack) : s.receivePacket p = (s.tookPacket p).sackDue p.src p.cls := by
  rw [State.sackDue, (s.peer_tookPacket p).1, State.receivePacket, if_neg (by simp [crc, member, dst, type]; omega)]
  rfl

theorem State.receivePacket_dropped {s : State} {p : Packet} (h : p.crcOk = false ∨ s.member p.src = false ∨ p.dst ≠ s.nodeId) :
    s.receivePacket p = s := by
  rw [State.receivePacket, if_pos]
  rcases h with h | h | h <;> simp [h]

/-- What a frame does on a port in service (R492). -/
def State.tookFrame (s : State) (p : Packet) : FrameKind → State
  | .neighbourSolicit a => if s.ownAddrs.contains a then { s with out := { s.out with adverts := s.out.adverts ++ [a] } } else s.countDrop
  | .gptp => s
  | .scarab => s.receivePacket p
  | .other => s.countDrop

theorem exec_frameReceive_next {s : State} {port : Nat} (live : s.live = true) (up : s.halfUp (2 * port) = true ∨ s.halfUp (2 * port + 1) = true)
    (kind : FrameKind) (p : Packet) : exec (.frameReceive port kind p) s = .next (s.tookFrame p kind) := by
  have served : (s.live && (s.halfUp (2 * port) || s.halfUp (2 * port + 1))) = true := by simp [live, up]
  cases kind <;> exact congrArg Host.Outcome.next (if_pos served)

/-! ## A DATA message (R500, R520) -/

/-- The deputy's record of a block of local IDs. -/
def State.recordedBlock (s : State) (h b : Nat) : State :=
  let old := Map.getD s.fab.idBlocks h (0, 0, none)
  { s with fab := { s.fab with idBlocks := Map.put s.fab.idBlocks h (old.1, Nat.max old.2.1 (b + 1), none) } }

theorem State.recordIds_deputy {s : State} {src h b : Nat} {payload : List Byte} (deputy : s.fld oFabNode 21 21 = 1)
    (queen : src = queenOf s.nodeId) (record : Config.blockRecord payload = some (h, b)) :
    s.recordIds src payload = (s.recordedBlock h b).say tyData 1 src b stOk := by
  rw [State.recordIds, record]
  exact if_pos ⟨deputy, queen⟩

theorem State.recordIds_other {s : State} {src : Nat} {payload : List Byte}
    (other : s.fld oFabNode 21 21 = 0 ∨ src ≠ queenOf s.nodeId ∨ Config.blockRecord payload = none) : s.recordIds src payload = s := by
  unfold State.recordIds
  split
  · rfl
  · rename_i record
    refine if_neg fun ⟨deputy, queen⟩ => ?_
    rcases other with h | h | h
    · omega
    · exact h queen
    · simp [record] at h

/-- Recording a block leaves the messages that have come in. -/
theorem State.recordIds_messages (s : State) (src : Nat) (payload : List Byte) :
    (s.recordIds src payload).fab.inbox = s.fab.inbox ∧ (s.recordIds src payload).fab.delivered = s.fab.delivered := by
  unfold State.recordIds
  split
  · exact ⟨rfl, rfl⟩
  · rename_i h b _
    dsimp only
    split
    · obtain ⟨-, inbox, delivered, -⟩ := (s.recordedBlock h b).say_fab tyData 1 src b stOk
      exact ⟨inbox, delivered⟩
    · exact ⟨rfl, rfl⟩

/-- The block's number counts as recorded, and its acknowledgement goes out. -/
theorem State.recordIds_recorded {s : State} {src h b : Nat} {payload : List Byte} (deputy : s.fld oFabNode 21 21 = 1)
    (queen : src = queenOf s.nodeId) (record : Config.blockRecord payload = some (h, b)) :
    (∃ x, Map.get? (s.recordIds src payload).fab.idBlocks h = some x ∧
        x.2.1 = Nat.max ((Map.get? s.fab.idBlocks h).elim 0 fun y => y.2.1) (b + 1)) ∧
      (s.recordIds src payload).fab.outbox = s.fab.outbox ++ [⟨tyData, 1, src, b, stOk⟩] := by
  obtain ⟨outbox, -, -, blocks⟩ := (s.recordedBlock h b).say_fab tyData 1 src b stOk
  rw [State.recordIds_deputy deputy queen record]
  refine ⟨⟨_, by rw [blocks]; exact Map.get?_put_self .., ?_⟩, outbox⟩
  simp only [Map.getD]
  cases Map.get? s.fab.idBlocks h <;> rfl

/-! ## Packets sent again and given up (R499) -/

/-- An unacknowledged packet with one more transmission. -/
def sentAgain (psn : Nat) (v : Nat × Nat × Packet × Nat) : Nat × Nat × Packet × Nat :=
  if v.1 = psn then (v.1, v.2.1 + 1, v.2.2.1, 0) else v

/-- A packet sent fewer than 16 times again is sent again and counted. -/
theorem State.resend_again {s : State} {peer cls psn : Nat} {u : Nat × Nat × Packet × Nat}
    (found : (s.peer peer cls).unacked.find? (fun v => v.1 == psn) = some u) (few : u.2.1 < 16) :
    ((s.resend peer cls psn).peer peer cls).unacked = (s.peer peer cls).unacked.map (sentAgain psn) ∧
      (s.resend peer cls psn).fab.waiting = s.fab.waiting ∧ (u.2.2.1.cls < 4 → Counted s (s.resend peer cls psn) oFabCnt 63 32) := by
  simp only [State.resend, found, if_neg (Nat.not_le.2 few)]
  refine ⟨?_, (congrArg Fabric.waiting (State.sendPacket_fab ..) :), fun hc => ?_⟩
  · rw [State.peer_sendPacket]
    exact congrArg Peer.unacked (s.peer_setPeer_self peer cls _)
  · exact (counted_satAdd _ oFabCnt 32 (by decide)).congr rfl (State.sendPacket_word _ hc (by decide))

theorem State.resend_lost {s : State} {peer cls psn : Nat} {u : Nat × Nat × Packet × Nat}
    (found : (s.peer peer cls).unacked.find? (fun v => v.1 == psn) = some u) (many : 16 ≤ u.2.1) :
    s.resend peer cls psn = s.losePeer peer := by
  simp only [State.resend, found, if_pos many]

/-- What was on its way to a lost receiver is given up, its loss recorded, and on a queen the node held lost. -/
theorem State.losePeer_fab (s : State) (peer : Nat) :
    (∀ c, c < 4 → ((s.losePeer peer).peer peer c).unacked = []) ∧ (∀ p ∈ (s.losePeer peer).fab.waiting, p.dst ≠ peer) ∧
      Logged s (s.losePeer peer) evFabPeerLost 0 [peer] ∧ (s.role = 2 → peer ∈ (s.losePeer peer).fab.lostNodes) := by
  unfold State.losePeer
  refine ⟨fun c hc => ?_, fun p hp => ?_, (State.logged_logEvent _ _ _ (by simp)).congr rfl rfl, fun queen => ?_⟩
  · simp only [State.peer, State.logEvent_fab, List.foldl_cons, List.foldl_nil]
    interval_cases c <;> simp [peerKey]
  · rw [State.logEvent_fab] at hp
    simpa using (List.mem_filter.1 hp).2
  · rw [State.logEvent_fab]
    by_cases known : peer ∈ s.fab.lostNodes <;> simp [queen, known]

/-! ## Windows (R501) and acknowledgements (R499) -/

def Peer.halved (q : Peer) : Peer := { q with window := Nat.max 1 (q.window / 2) }
def Peer.recovered (q : Peer) : Peer := { q with window := Nat.min q.fullWindow (2 * q.window) }

theorem State.halveWindows_eq (s : State) (peer : Nat) : s.halveWindows peer = s.onLowClasses peer Peer.halved := rfl

/-- The packets of a peer that a SACK leaves unacknowledged. -/
def State.acked (s : State) (peer cls : Nat) (left : List (Nat × Nat × Packet × Nat)) : State :=
  s.setPeer peer cls { s.peer peer cls with unacked := left }

theorem State.unacked_acked (s : State) (peer cls : Nat) (left : List (Nat × Nat × Packet × Nat)) :
    ((s.acked peer cls left).peer peer cls).unacked = left := by rw [State.acked, State.peer_setPeer_self]

theorem State.window_acked (s : State) (peer cls c : Nat) (left : List (Nat × Nat × Packet × Nat)) :
    ((s.acked peer cls left).peer peer c).window = (s.peer peer c).window := by
  by_cases h : c = cls
  · rw [h, State.acked, State.peer_setPeer_self]
  · rw [State.acked, State.peer_setPeer_ne _ _ _ h]

/-- A SACK that names every packet acknowledges all; a CE mark halves the windows. -/
theorem State.takeSack_all {s : State} {peer cls : Nat} {held : List Nat} (ce : Bool) (idle : s.fab.waiting = [])
    (all : ∀ u ∈ (s.peer peer cls).unacked, u.1 ∈ held) :
    s.takeSack peer cls held ce = if ce then (s.acked peer cls []).onLowClasses peer Peer.halved else s.acked peer cls [] := by
  have nothing : (s.peer peer cls).unacked.filter (fun u => !held.contains u.1) = [] :=
    List.filter_eq_nil_iff.2 fun u hu => by simp [all u hu]
  simp only [State.takeSack, nothing, List.map_nil, List.filter_nil, List.foldl_nil, State.halveWindows_eq]
  cases ce
  · exact State.pumpOut_idle idle
  · refine State.pumpOut_idle ?_
    exact (congrArg (fun t : State => t.fab.waiting) (State.onLowClasses_frame (s.acked peer cls []) peer Peer.halved) :).trans idle

/-- The third SACK in a row that misses a packet has it sent again. -/
theorem State.takeSack_third {s : State} {peer cls : Nat} {held : List Nat} {u : Nat × Nat × Packet × Nat} (idle : s.fab.waiting = [])
    (only : (s.peer peer cls).unacked = [u]) (missed : u.1 ∉ held) (later : ∃ h ∈ held, psnAfter h u.1 = true) (few : u.2.1 < 16)
    (twice : u.2.2.2 = 2) :
    s.takeSack peer cls held false = (s.acked peer cls [(u.1, u.2.1, u.2.2.1, 3)]).resend peer cls u.1 := by
  have found : ((s.acked peer cls [(u.1, u.2.1, u.2.2.1, 3)]).peer peer cls).unacked.find? (fun v => v.1 == u.1) =
      some (u.1, u.2.1, u.2.2.1, 3) := by simp [State.unacked_acked]
  have after : held.any (fun h => psnAfter h u.1) = true := List.any_eq_true.2 later
  have left : ([u].filter fun u => !held.contains u.1) = [u] := by simp [missed]
  simp only [State.takeSack, only, left, List.map_cons, List.map_nil, after, if_true, twice]
  exact State.pumpOut_idle ((State.resend_again found few).2.1.trans idle)

end Sys2Proof.Machine

/-! O53: gate lists, frames, links, synchronisation and the Scarab transport, one lemma for each command's effect. -/
namespace Sys2Proof.Machine

/-- The packet due leaves (R496, R497, R541). -/
theorem packetTransmit_effect {s : State} {l c : Nat} {x : Nat × Nat × Packet} (live : s.live = true) (up : s.halfUp l = true) (hc : c < 4)
    (head : s.gateHead l c = some x) (cls : x.2.2.cls = c) (fits : s.beforeClose l c x.2.2 = true)
    (turn : c = 0 ∨ s.gateHead l 0 = none ∧ ∀ d y, 1 ≤ d → d < 4 → d ≠ c → s.gateHead l d = some y →
      s.phiGate l x.2.2 * 4 + c < s.phiGate l y.2.2 * 4 + y.2.2.cls) :
    ∃ s' f, exec (.packetTransmit l) s = .next s' ∧ s'.out.frames = s.out.frames ++ [f] ∧ f.half = l ∧ f.packet = x.2.2 ∧
      f.pcp = s.fld oFabQos (16 * c + 8) (16 * c + 6) ∧ f.trafficClass = 4 * s.fld oFabQos (16 * c + 5) (16 * c) + 2 ∧ f.dstPort = 47266 ∧
      49152 ≤ f.srcPort ∧ f.srcPort < 65536 ∧ f.bytes.take 4 = [0, c * 64, x.2.2.type % 256, 1].map (BitVec.ofNat 8) ∧
      f.bytes.length = 36 + x.2.2.payload.length ∧ (s'.gate l).queue c = ((s.gate l).queue c).drop 1 ∧
      (∀ d, d ≠ c → (s'.gate l).queue d = (s.gate l).queue d) ∧
      s'.clock = s.clock + (106 + x.2.2.payload.length) * 1000 / (if s.fld (oFabPort (l / 2)) 2 2 = 1 then 50 else 100) := by
  subst cls
  have next := State.nextPacket_eq hc head rfl turn
  refine ⟨_, s.frameOf l x.2.2, exec_packetTransmit_next live up next fits, s.frames_transmit l x, rfl, rfl, rfl, rfl, rfl, Nat.le_add_right .., ?_,
    packetWire_head hc, packetWire_length _, ?_, fun d hd => ?_, ?_⟩
  · simp only [State.frameOf]; omega
  · rw [GateRt.queue, State.queues_transmit, Map.getD_put_self]
  · rw [GateRt.queue, State.queues_transmit, Map.getD_put_ne _ _ _ hd, GateRt.queue]
  · have time : (s.transmit l x).clock = s.clock + s.txTime l x.2.2 := rfl
    simpa only [State.txTime, wireBytes, State.portRate, State.split, beq_iff_eq] using time

/-- Frames are answered, counted, passed over, or taken as packets (R492, R498 to R500). -/
theorem frameReceive_effect {s : State} {port : Nat} {p : Packet} (live : s.live = true)
    (up : s.halfUp (2 * port) = true ∨ s.halfUp (2 * port + 1) = true) :
    (∀ a ∈ s.ownAddrs, ∃ s', exec (.frameReceive port (.neighbourSolicit a) p) s = .next s' ∧ s'.out.adverts = s.out.adverts ++ [a] ∧
      { s' with out := { s'.out with adverts := s.out.adverts } } = s) ∧
    (∀ k, k = FrameKind.other ∨ (∃ a, a ∉ s.ownAddrs ∧ k = .neighbourSolicit a) →
      ∃ s', exec (.frameReceive port k p) s = .next s' ∧ Counted s s' oFabCnt 15 0 ∧ { s' with regs := s.regs } = s) ∧
    exec (.frameReceive port .gptp p) s = .next s ∧
    (p.crcOk = false ∨ s.member p.src = false ∨ p.dst ≠ s.nodeId → exec (.frameReceive port .scarab p) s = .next s) ∧
    (p.crcOk = true → s.member p.src = true → p.dst = s.nodeId → p.cls < 4 → p.type ≠ tySack →
      ∃ s', exec (.frameReceive port .scarab p) s = .next s' ∧
        (s'.peer p.src p.cls).sinceSack = (if (s.peer p.src p.cls).sinceSack < 15 then (s.peer p.src p.cls).sinceSack + 1 else 0) ∧
        (p.psn ∈ (s.peer p.src p.cls).held → (s'.peer p.src p.cls).held = (s.peer p.src p.cls).held ∧ s'.fab.inbox = s.fab.inbox ∧
          s'.fab.delivered = s.fab.delivered) ∧
        (p.psn ∉ (s.peer p.src p.cls).held → (s'.peer p.src p.cls).held = (s.peer p.src p.cls).held ++ [p.psn] ∧
          ((∀ a ∈ s.fab.inbox, a.src ≠ p.src ∨ a.msg ≠ p.msg) → p.moff = 0 → p.last = true → p.type ≠ tyData →
            s'.fab.delivered = s.fab.delivered ++ [(p.src, p.type, p.payload)] ∧ s'.fab.inbox = s.fab.inbox))) := by
  have next := fun k => exec_frameReceive_next live up k p
  refine ⟨fun a ha => ⟨_, (next _).trans (congrArg Host.Outcome.next (if_pos (List.contains_iff_mem.2 ha))), rfl, rfl⟩,
    fun k hk => ⟨s.countDrop, ?_, counted_satAdd s oFabCnt 0 (by decide), rfl⟩, next _, fun drop => ?_, fun crc member dst cls type => ⟨_, next _, ?_⟩⟩
  · rcases hk with rfl | ⟨a, foreign, rfl⟩
    · exact next _
    · rw [next, State.tookFrame, if_neg (by simpa using foreign)]
  · rw [next]
    exact congrArg Host.Outcome.next (State.receivePacket_dropped drop)
  · obtain ⟨count, held⟩ := s.peer_tookPacket p
    obtain ⟨count', held', inbox, delivered⟩ := (s.tookPacket p).sackDue_kept p.src p.cls
    rw [State.tookFrame, State.receivePacket_taken crc member dst cls type]
    rw [count', held', inbox, delivered, count, held]
    refine ⟨by split <;> split <;> omega, fun dup => ?_, fun new => ⟨if_neg new, fun alone start last other => ?_⟩⟩
    · rw [State.tookPacket_dup dup, if_pos dup]
      exact ⟨rfl, rfl, rfl⟩
    · rw [State.tookPacket_new new]
      exact State.assemble_single (s := s.setPeer p.src p.cls _) alone start last other

/-- A half's link is up or down in FAB.PORT, and nothing else changes (R527). -/
theorem portLinkChange_effect {s : State} {port half : Nat} {up : Bool} (live : s.live = true) (hp : port < 8) (hh : half < 2)
    (split : half = 0 ∨ s.fld (oFabPort port) 2 2 = 1) (en : up = false ∨ s.fld (oFabPort port) 0 0 = 1) :
    ∃ s', exec (.portLinkChange port half up) s = .next s' ∧ s'.fld (oFabPort port) (18 + half) (18 + half) = b2n up ∧
      s'.fld (oFabPort port) 2 0 = s.fld (oFabPort port) 2 0 ∧ (∀ o, o ≠ oFabPort port → s'.word o = s.word o) ∧ { s' with regs := s.regs } = s := by
  rw [exec_portLinkChange, execPortLinkChange]
  refine onlyIf_next ?_ ⟨?_, ?_, fun o ho => s.word_setFld_ne _ _ _ ho, rfl⟩
  · rcases split with rfl | two <;> rcases en with rfl | on <;> simp [*, State.split]
  · rw [State.fld_setFld_self _ _ _ _ (by omega), Nat.add_sub_cancel_left (18 + half) 1]
    cases up <;> rfl
  · exact s.fld_setFld_disjoint _ _ (by decide) (by omega)

/-- One more valid interval, with the offset that its message tells. -/
def State.syncCounted (s : State) (offset : Int) : State :=
  ({ s with fab := { s.fab with syncRun := s.fab.syncRun + 1 } } : State).setFld oFabTime 63 32 (ofSigned 32 offset)

/-- A valid message counts its interval; the 16th in a row synchronises. -/
theorem exec_syncMessage_valid {s : State} (offset : Int) (live : s.live = true) :
    exec (.syncMessage true offset) s = .next (if 16 ≤ s.fab.syncRun + 1 then ((s.syncCounted offset).setFld oFabTime 0 0 1).setFld oFabTime 1 1 0
      else s.syncCounted offset) := by
  rw [exec_syncMessage, execSyncMessage, onlyIf, if_pos live]
  rfl

/-- An interval's offset stands in FAB.TIME, whose other fields are as they were. -/
theorem State.syncCounted_fld (s : State) (offset : Int) :
    (s.syncCounted offset).fld oFabTime 63 32 = ofSigned 32 offset ∧
      ∀ hi lo, hi < 32 → (s.syncCounted offset).fld oFabTime hi lo = s.fld oFabTime hi lo := by
  refine ⟨?_, fun hi lo h => State.fld_setFld_disjoint _ _ _ (by omega) (.inl h)⟩
  rw [State.syncCounted, State.fld_setFld_self _ _ _ _ (by decide)]
  exact Nat.mod_eq_of_lt (by simp only [ofSigned]; omega)

/-- An invalid interval ends the run, and a valid one sets OFFSET and, as the 16th, SYNC (R495). -/
theorem syncMessage_effect {s : State} (offset : Int) (live : s.live = true) :
    (∃ s', exec (.syncMessage false offset) s = .next s' ∧ s'.fab.syncRun = 0 ∧ s'.regs = s.regs) ∧
    ∃ s', exec (.syncMessage true offset) s = .next s' ∧ s'.fab.syncRun = s.fab.syncRun + 1 ∧ s'.fld oFabTime 63 32 = ofSigned 32 offset ∧
      s'.fld oFabTime 0 0 = (if 16 ≤ s.fab.syncRun + 1 then 1 else s.fld oFabTime 0 0) ∧
      s'.fld oFabTime 1 1 = (if 16 ≤ s.fab.syncRun + 1 then 0 else s.fld oFabTime 1 1) := by
  obtain ⟨told, rest⟩ := s.syncCounted_fld offset
  have invalid : exec (.syncMessage false offset) s = .next { s with fab := { s.fab with syncRun := 0 } } := by
    rw [exec_syncMessage, execSyncMessage, onlyIf, if_pos live]
    rfl
  refine ⟨⟨_, invalid, rfl, rfl⟩, _, exec_syncMessage_valid offset live, ?_⟩
  split
  · refine ⟨rfl, ?_, ?_, ?_⟩ <;> simp [told]
  · exact ⟨rfl, told, rest 0 0 (by decide), rest 1 1 (by decide)⟩

/-- SYNC falls and HOLD rises after 1 s without a valid message, with a record (R495). -/
theorem syncTimeout_effect {s : State} (live : s.live = true) (sync : s.fld oFabTime 0 0 = 1) :
    ∃ s', exec .syncTimeout s = .next s' ∧ s'.fld oFabTime 0 0 = 0 ∧ s'.fld oFabTime 1 1 = 1 ∧ s'.fab.syncRun = 0 ∧ Logged s s' evTimeLost 0 [] := by
  rw [exec_syncTimeout, execSyncTimeout]
  have time := fun t : State => State.fld_congr (t.logEvent_word evTimeLost 0 (data := []) (by decide) (o := oFabTime) (.inr (by decide)))
  refine onlyIf_next (by simp [live, sync]) ⟨?_, ?_, ?_, ?_⟩
  · rw [time]; simp
  · rw [time]; simp
  · simp
  · refine (State.logged_logEvent _ _ _ (by decide)).congr ?_ rfl
    rw [State.word_setFld_ne _ _ _ _ (by decide), State.word_setFld_ne _ _ _ _ (by decide)]
    rfl

/-- A whole DATA message is handed over, and the deputy records and acknowledges a block of local IDs (R500, R520). -/
theorem data_effect {s : State} {msg src : Nat} {a : Assembly} (live : s.live = true)
    (found : s.fab.inbox.find? (fun b => b.msg == msg && b.src == src) = some a) (type : a.type = tyData) (whole : a.whole = true) :
    ∃ s', exec (.data msg src) s = .next s' ∧ s'.fab.delivered = s.fab.delivered ++ [(src, tyData, a.bytes)] ∧
      (∀ b ∈ s'.fab.inbox, b.msg ≠ msg ∨ b.src ≠ src) ∧ (∀ b ∈ s.fab.inbox, b.msg ≠ msg ∨ b.src ≠ src → b ∈ s'.fab.inbox) ∧
      (s.fld oFabNode 21 21 = 0 ∨ src ≠ queenOf s.nodeId ∨ Config.blockRecord a.bytes = none → { s' with fab := s.fab } = s) ∧
      ∀ h b, s.fld oFabNode 21 21 = 1 → src = queenOf s.nodeId → Config.blockRecord a.bytes = some (h, b) →
        (∃ x, Map.get? s'.fab.idBlocks h = some x ∧ x.2.1 = Nat.max ((Map.get? s.fab.idBlocks h).elim 0 fun y => y.2.1) (b + 1)) ∧
        ∃ m, s'.fab.outbox = s.fab.outbox ++ [m] ∧ m.type = tyData ∧ m.dst = src := by
  obtain ⟨inbox, delivered⟩ := s.recordIds_messages src a.bytes
  simp only [exec_data, execData, found]
  refine onlyIf_next (by simp [live, type, whole]) ⟨?_, fun b hb => ?_, fun b hb other => ?_, fun plain => ?_, fun h b deputy queen record => ?_⟩
  · simp only [delivered]
  · have := (List.mem_filter.1 hb).2
    simp only [Bool.not_eq_true', Bool.and_eq_false_iff, beq_eq_false_iff_ne] at this
    exact this
  · refine List.mem_filter.2 ⟨inbox ▸ hb, ?_⟩
    simpa only [Bool.not_eq_true', Bool.and_eq_false_iff, beq_eq_false_iff_ne] using other
  · dsimp only
    rw [State.recordIds_other plain]
  · obtain ⟨blocks, outbox⟩ := State.recordIds_recorded deputy queen record
    exact ⟨blocks, _, outbox, rfl, rfl⟩

/-- What has come in since the last SACK is acknowledged (R499). -/
theorem sackTimer_effect {s : State} {peer cls : Nat} (live : s.live = true) (hc : cls < 4) (due : 0 < (s.peer peer cls).sinceSack) :
    ∃ s', exec (.sackTimer peer cls) s = .next s' ∧ (s'.peer peer cls).sinceSack = 0 ∧ (s'.peer peer cls).ceSeen = false ∧
      (s'.peer peer cls).held = (s.peer peer cls).held ∧ ∃ m, s'.fab.outbox = s.fab.outbox ++ [m] ∧ m.type = tySack ∧ m.dst = peer ∧ m.cls = cls := by
  obtain ⟨same, outbox, -, -⟩ := s.sendSack_fab peer cls
  rw [exec_sackTimer, execSackTimer]
  refine onlyIf_next (by simp [live, hc, due]) ?_
  rw [same]
  exact ⟨rfl, rfl, rfl, _, outbox, rfl, rfl, rfl⟩

/-- A SACK of all packets leaves none unacknowledged, and halves the windows of classes 1 to 3 for a CE mark (R499, R501). -/
theorem sack_all_effect {s : State} {peer cls : Nat} {held : List Nat} (ce : Bool) (live : s.live = true) (hc : cls < 4) (idle : s.fab.waiting = [])
    (all : ∀ u ∈ (s.peer peer cls).unacked, u.1 ∈ held) :
    ∃ s', exec (.sack peer cls held ce) s = .next s' ∧ (s'.peer peer cls).unacked = [] ∧
      ∀ c, c < 4 → (s'.peer peer c).window = if ce = true ∧ c ≠ 0 then Nat.max 1 ((s.peer peer c).window / 2) else (s.peer peer c).window := by
  have nothing := s.unacked_acked peer cls []
  have window := fun c => s.window_acked peer cls c []
  rw [exec_sack, execSack]
  refine onlyIf_next (by simp [live, hc]) ?_
  rw [State.takeSack_all ce idle all]
  cases ce
  · exact ⟨nothing, fun c _ => by simpa using window c⟩
  · simp only [if_true, State.peer_onLowClasses _ _ _ hc]
    refine ⟨by split <;> exact nothing, fun c hc => ?_⟩
    rw [State.peer_onLowClasses _ _ _ hc]
    by_cases zero : c = 0 <;> simp [zero, Peer.halved, window]

/-- A packet that three SACKs in a row miss is sent again (R499). -/
theorem sack_third_effect {s : State} {peer cls : Nat} {held : List Nat} {u : Nat × Nat × Packet × Nat} (live : s.live = true) (hc : cls < 4)
    (idle : s.fab.waiting = []) (only : (s.peer peer cls).unacked = [u]) (missed : u.1 ∉ held) (later : ∃ h ∈ held, psnAfter h u.1 = true)
    (few : u.2.1 < 16) (ucls : u.2.2.1.cls < 4) (twice : u.2.2.2 = 2) :
    ∃ s', exec (.sack peer cls held false) s = .next s' ∧ (s'.peer peer cls).unacked = [(u.1, u.2.1 + 1, u.2.2.1, 0)] ∧ Counted s s' oFabCnt 63 32 := by
  have found : ((s.acked peer cls [(u.1, u.2.1, u.2.2.1, 3)]).peer peer cls).unacked.find? (fun v => v.1 == u.1) =
      some (u.1, u.2.1, u.2.2.1, 3) := by simp [State.unacked_acked]
  obtain ⟨again, -, counted⟩ := State.resend_again found few
  rw [exec_sack, execSack]
  refine onlyIf_next (by simp [live, hc]) ?_
  rw [State.takeSack_third idle only missed later few twice, again, State.unacked_acked]
  exact ⟨by simp [sentAgain], (counted ucls).congr rfl rfl⟩

/-- A packet is sent again 16 times; then its receiver is given up (R499). -/
theorem retransmitTimeout_effect {s : State} {peer cls psn : Nat} {u : Nat × Nat × Packet × Nat} (live : s.live = true) (hc : cls < 4)
    (found : (s.peer peer cls).unacked.find? (fun v => v.1 == psn) = some u) :
    ∃ s', exec (.retransmitTimeout peer cls psn) s = .next s' ∧
      (u.2.1 < 16 → u.2.2.1.cls < 4 → (psn, u.2.1 + 1, u.2.2.1, 0) ∈ (s'.peer peer cls).unacked ∧ Counted s s' oFabCnt 63 32) ∧
      (16 ≤ u.2.1 → (∀ c, c < 4 → (s'.peer peer c).unacked = []) ∧ (∀ p ∈ s'.fab.waiting, p.dst ≠ peer) ∧ Logged s s' evFabPeerLost 0 [peer] ∧
        (s.role = 2 → peer ∈ s'.fab.lostNodes)) := by
  have mem := List.mem_of_find?_eq_some found
  have number : u.1 = psn := by simpa using List.find?_some found
  rw [exec_retransmitTimeout, execRetransmitTimeout]
  refine onlyIf_next ?_ ⟨fun few ucls => ?_, fun many => ?_⟩
  · simp only [live, hc, decide_true, Bool.true_and]
    exact List.any_eq_true.2 ⟨u, mem, by simp [number]⟩
  · obtain ⟨again, -, counted⟩ := State.resend_again found few
    rw [again]
    exact ⟨List.mem_map.2 ⟨u, mem, by simp [sentAgain, number]⟩, counted ucls⟩
  · rw [State.resend_lost found many]
    exact s.losePeer_fab peer

/-- The windows of classes 1 to 3 double again, up to what they were (R501). -/
theorem windowRecovery_effect {s : State} (peer : Nat) (live : s.live = true) (idle : s.fab.waiting = []) :
    ∃ s', exec (.windowRecovery peer) s = .next s' ∧ (s'.peer peer 0).window = (s.peer peer 0).window ∧ { s' with fab := s.fab } = s ∧
      ∀ c, 1 ≤ c → c < 4 → (s'.peer peer c).window = Nat.min (s.peer peer c).fullWindow (2 * (s.peer peer c).window) := by
  have frame := s.onLowClasses_frame peer Peer.recovered
  have still : (s.onLowClasses peer Peer.recovered).pumpOut = s.onLowClasses peer Peer.recovered :=
    State.pumpOut_idle ((congrArg (fun t : State => t.fab.waiting) frame :).trans idle)
  have effect : exec (.windowRecovery peer) s = onlyIf s.live s fun s => (s.onLowClasses peer Peer.recovered).pumpOut := rfl
  rw [effect]
  refine onlyIf_next live ?_
  rw [still, State.peer_onLowClasses _ _ _ (by decide), if_pos rfl]
  refine ⟨rfl, (congrArg (fun t : State => { t with fab := s.fab }) frame :), fun c low hc => ?_⟩
  rw [State.peer_onLowClasses _ _ _ hc, if_neg (by omega)]
  rfl

/-- Settles O53: each command's effect, by the lemma about it. -/
theorem gatesAndTransport : Obligations.GatesAndTransport := by
  unfold Obligations.GatesAndTransport
  refine ⟨?_, ?_, ?_, ?_, ?_, ?_, ?_, ?_, ?_, ?_⟩
  · rintro s l _ live hl rfl more within
    exact exec_gateEntryExpiry_next live hl more within
  · intro s l live hl pending sync first
    refine exec_gateCycleStart_switch live hl ?_
    simp only [State.switchFirst, State.switchArmed, pending, sync, beq_self_eq_true, Bool.true_and, Bool.or_eq_true, beq_iff_eq, decide_eq_true_eq]
    exact first
  · rintro s l _ live hl pending listed rfl
    exact exec_gateCycleStart_again live hl (by simp [State.switchFirst, State.switchArmed, pending]) listed
  · intro s l c x live up hc isOpen head cls fits turn
    refine packetTransmit_effect live up hc ?_ cls fits turn
    rw [State.gateHead, if_pos isOpen, head]
  · exact fun s port p live up => frameReceive_effect live up
  · exact fun s port half up live hp hh split en => portLinkChange_effect live hp hh split en
  · exact fun s offset live => syncMessage_effect offset live
  · exact fun s live sync => syncTimeout_effect live sync
  · exact fun s msg src a live found type whole => data_effect live found type whole
  · intro s peer cls live hc
    refine ⟨fun due => sackTimer_effect live hc due, fun held ce idle => ⟨fun all => sack_all_effect ce live hc idle all, ?_⟩,
      fun psn u found => retransmitTimeout_effect live hc found, fun idle => windowRecovery_effect peer live idle⟩
    exact fun u only missed later few ucls twice => sack_third_effect live hc idle only missed later few ucls twice

end Sys2Proof.Machine

/-! A command at work, and its end: what ending a command does and what it leaves as it was (R302, R306, R310, R460). -/
namespace Sys2Proof.Machine

/-! ## A command that does its work -/

/-- Command `x` of a queue, numbered `c`, is admitted and has not ended. -/
structure Working (s : State) (c : Nat) (x : Cmd) : Prop where
  found : s.cmd? c = some x
  admitted : x.phase = .admitted
  queued : x.parent = none

theorem Working.id_eq {s : State} {c : Nat} {x : Cmd} (h : Working s c x) : x.id = c := by simpa using List.find?_some h.found

/-- What `Runs` says of the device and of the command. -/
theorem Runs.admitted {s : State} {c : Nat} {x : Cmd} (h : Runs s c x) : s.active = true ∧ x.phase = .admitted := by
  have ready := h.ready
  simp only [State.running, h.found, Bool.and_eq_true, beq_iff_eq] at ready
  tauto

theorem Runs.working {s : State} {c : Nat} {x : Cmd} (h : Runs s c x) : Working s c x := ⟨h.found, h.admitted.2, h.queued⟩

theorem Runs.id_eq {s : State} {c : Nat} {x : Cmd} (h : Runs s c x) : x.id = c := h.working.id_eq

/-- A command that does its work now runs the program that its opcode or entry selects. -/
theorem Runs.runCmd_eq {s : State} {c : Nat} {x : Cmd} (h : Runs s c x) {p : Cmd → Bool} (hp : p x = true) (f : Cmd → State → State) :
    runCmd c s p f = .next (f x s) := by
  have ready : s.running c p = true := by
    have ready := h.ready
    simp only [State.running, h.found] at ready ⊢
    simpa only [hp] using ready
  simp [runCmd, onlyIf, ready, h.found]

/-- No object that it names has lost a unit, so a program of Varelm does its work. -/
theorem Runs.runVr_eq {s : State} {c : Nat} {x : Cmd} (h : Runs s c x) {vr : Nat} (hx : x.vr = vr) (whole : x.names.any s.objLost = false)
    (f : Cmd → State → State) : runVr c vr s f = .next (f x s) := by
  rw [runVr, h.runCmd_eq (by simp [hx])]
  simp [whole]

/-! ## What the parts of a command's end leave -/

theorem State.chargeRun_frame (s : State) (f : Frag) : { s.chargeRun f with sched := s.sched } = s := by
  unfold State.chargeRun
  dsimp only
  split
  · split <;> rfl
  · rfl

theorem State.dropFrags_frame (s : State) (p : Frag → Bool) : { s.dropFrags p with frags := s.frags, sched := s.sched } = s :=
  List.foldlRecOn (motive := fun t : State => ({ t with frags := s.frags, sched := s.sched } : State) = s) (s.frags.filter p) State.chargeRun rfl
    fun t kept f _ => (congrArg (fun t : State => { t with frags := s.frags, sched := s.sched }) (t.chargeRun_frame f) :).trans kept

theorem State.dropFrags_frags (s : State) (p : Frag → Bool) : (s.dropFrags p).frags = s.frags.filter fun f => !p f :=
  congrArg (List.filter fun f => !p f)
    (List.foldlRecOn (motive := fun t : State => t.frags = s.frags) (s.frags.filter p) State.chargeRun rfl
      fun t kept f _ => (congrArg State.frags (t.chargeRun_frame f) :).trans kept)

theorem State.dropCommitting_frame (s : State) (x : Cmd) : { s.dropCommitting x with colls := s.colls } = s := by
  unfold State.dropCommitting; split <;> rfl

theorem State.dropCommitting_idle {x : Cmd} (s : State) (h : x.midCommit = false) : s.dropCommitting x = s := by
  unfold State.dropCommitting
  split
  · rename_i work
    simp [Cmd.midCommit, work] at h
  · rfl

theorem State.setPslot_frame (s : State) (x : Cmd) (st bp pos : Nat) : { s.setPslot x st bp pos with pslot := s.pslot } = s := by
  unfold State.setPslot; dsimp only; split <;> rfl

/-- An update of one command concerns no other. -/
theorem State.cmd?_updCmd_ne (s : State) {c d : Nat} (f : Cmd → Cmd) (hf : ∀ y, (f y).id = y.id) (h : d ≠ c) :
    (s.updCmd c f).cmd? d = s.cmd? d := by
  refine find?_updFirst _ _ f _ (fun a => by simp [hf]) fun a ha => ?_
  simp only [beq_iff_eq] at ha
  simp [ha, Ne.symm h]

theorem State.cmd?_updCmd_self (s : State) (c : Nat) (f : Cmd → Cmd) (hf : ∀ y, (f y).id = y.id) :
    (s.updCmd c f).cmd? c = (s.cmd? c).map f :=
  find?_updFirst_self _ f _ fun a => by simp [hf]

/-- A command that satisfies `q` is found among those that do. -/
theorem find?_filter_of_keeps {α : Type} {p q : α → Bool} {l : List α} {a : α} (found : l.find? p = some a) (keeps : q a = true) :
    (l.filter q).find? p = some a := by
  induction l with
  | nil => simp at found
  | cons b r ih =>
    cases hb : p b with
    | true =>
      have : b = a := by simpa [hb] using found
      subst this
      simp [keeps, hb]
    | false =>
      have := ih (by simpa [hb] using found)
      cases hq : q b <;> simp [hq, hb, this]

/-! ## The end of a command -/

/-- What an ended command leaves of the device, but for its entry: its fragments, its argument copy and what it had half committed are gone. -/
def State.unloaded (s : State) (c : Nat) (x : Cmd) : State :=
  let t := ((s.dropCommitting x).dropFrags fun f => f.cmd == c).stopWells c
  { t with
    allocs := t.allocs.filter fun m => !(x.argBase != 0 && m.tenant == x.fn && m.base == x.argBase)
    dev := if x.argBase = 0 then t.dev else Mem.clear t.dev (devKey x.fn x.argBase) (roundUp x.args.length 65536) }

/-- `t` with what the end of a command touches taken from `s`. -/
def State.butEnd (s t : State) : State :=
  { t with cmds := s.cmds, frags := s.frags, sched := s.sched, wells := s.wells, allocs := s.allocs, dev := s.dev, pslot := s.pslot,
           colls := s.colls }

theorem State.unloaded_frame (s : State) (c : Nat) (x : Cmd) : s.butEnd (s.unloaded c x) = s :=
  (congrArg s.butEnd ((s.dropCommitting x).dropFrags_frame fun f => f.cmd == c) :).trans (congrArg s.butEnd (s.dropCommitting_frame x) :)

theorem State.unloaded_cmds (s : State) (c : Nat) (x : Cmd) : (s.unloaded c x).cmds = s.cmds :=
  (congrArg State.cmds ((s.dropCommitting x).dropFrags_frame fun f => f.cmd == c) :).trans (congrArg State.cmds (s.dropCommitting_frame x) :)

/-- The same, with the final pair in the command's progress slot and the programs that its fragments posted forgotten. -/
def State.signedOff (s : State) (c : Nat) (x : Cmd) (bp pos : Nat) : State :=
  let t := if s.ownsPslot x then (s.unloaded c x).setPslot x 2 bp pos else s.unloaded c x
  { t with cmds := t.cmds.filter fun y => !(y.parent.any fun f => ((s.frags.filter fun f => f.cmd == c).map (·.id)).contains f) }

theorem State.signedOff_frame (s : State) (c : Nat) (x : Cmd) (bp pos : Nat) :
    { s.signedOff c x bp pos with cmds := s.cmds, pslot := s.pslot } = { s.unloaded c x with cmds := s.cmds, pslot := s.pslot } := by
  unfold State.signedOff
  dsimp only
  split
  · exact (congrArg (fun t : State => { t with cmds := s.cmds, pslot := s.pslot }) ((s.unloaded c x).setPslot_frame x 2 bp pos) :)
  · rfl

theorem State.signedOff_cmds (s : State) (c : Nat) (x : Cmd) (bp pos : Nat) :
    (s.signedOff c x bp pos).cmds =
      s.cmds.filter fun y => !(y.parent.any fun f => ((s.frags.filter fun f => f.cmd == c).map (·.id)).contains f) := by
  have slot : ((s.unloaded c x).setPslot x 2 bp pos).cmds = (s.unloaded c x).cmds :=
    (congrArg State.cmds ((s.unloaded c x).setPslot_frame x 2 bp pos) :)
  unfold State.signedOff
  dsimp only
  split
  · rw [slot, s.unloaded_cmds]
  · rw [s.unloaded_cmds]

/-- A command of a queue outlasts the end of another. -/
theorem State.cmd?_signedOff {s : State} {c d : Nat} {x z : Cmd} (bp pos : Nat) (found : s.cmd? d = some z) (queued : z.parent = none) :
    (s.signedOff c x bp pos).cmd? d = some z := by
  rw [State.cmd?, State.signedOff_cmds]
  exact find?_filter_of_keeps found (by simp [queued])

theorem Working.endCmd_eq {s : State} {c : Nat} {x : Cmd} (h : Working s c x) (st ct v pos bp : Nat) :
    s.endCmd c st ct v pos bp = (s.signedOff c x bp pos).updCmd c fun y =>
      { y with phase := .ended, status := st, count := ct, value := v, finalBp := bp, pos := pos } := by
  unfold State.endCmd
  rw [h.found]
  dsimp only
  rw [h.admitted, if_neg (by decide)]
  rfl

/-- The end of a command concerns collections only through the vector that it had half committed. -/
theorem Working.endCmd_colls {s : State} {c : Nat} {x : Cmd} (h : Working s c x) (st ct v pos bp : Nat) :
    (s.endCmd c st ct v pos bp).colls = (s.dropCommitting x).colls := by
  rw [h.endCmd_eq]
  exact (congrArg State.colls (s.signedOff_frame c x bp pos) :).trans
    (congrArg State.colls ((s.dropCommitting x).dropFrags_frame fun f => f.cmd == c) :)

/-- Ending a command that is at work does what `EndsWith` says. -/
theorem Working.endCmd {s : State} {c : Nat} {x : Cmd} (h : Working s c x) (st ct v pos bp : Nat) :
    EndsWith s (s.endCmd c st ct v pos bp) c x st ct v bp := by
  have off := s.signedOff_frame c x bp pos
  rw [h.endCmd_eq]
  constructor
  case entry =>
    exact ⟨_, (State.cmd?_updCmd_self _ c _ (by intro; rfl)).trans (congrArg _ (State.cmd?_signedOff bp pos h.found h.queued)),
      rfl, rfl, rfl, rfl, rfl⟩
  case others =>
    intro d z hd found queued
    exact (State.cmd?_updCmd_ne _ _ (by intro; rfl) hd).trans (State.cmd?_signedOff bp pos found queued)
  case frags =>
    have same : (s.signedOff c x bp pos).frags = (s.unloaded c x).frags := (congrArg State.frags off :)
    have gone : (s.unloaded c x).frags = (s.dropCommitting x).frags.filter fun f => f.cmd != c := State.dropFrags_frags ..
    have all : (s.dropCommitting x).frags = s.frags := (congrArg State.frags (s.dropCommitting_frame x) :)
    exact same.trans (gone.trans (by rw [all]))
  case noArgs =>
    intro none
    have dropped := (s.dropCommitting x).dropFrags_frame fun f => f.cmd == c
    have committed := s.dropCommitting_frame x
    have dev : (s.signedOff c x bp pos).dev = (s.unloaded c x).dev := (congrArg State.dev off :)
    have allocs : (s.signedOff c x bp pos).allocs = (s.unloaded c x).allocs := (congrArg State.allocs off :)
    refine ⟨dev.trans ?_, allocs.trans ?_⟩
    · simp only [State.unloaded, none, if_true]
      exact (congrArg State.dev dropped :).trans (congrArg State.dev committed :)
    · simp only [State.unloaded, none, bne_self_eq_false, Bool.false_and, Bool.not_false, List.filter_true]
      exact (congrArg State.allocs dropped :).trans (congrArg State.allocs committed :)
  case colls =>
    intro idle
    rw [← h.endCmd_eq, h.endCmd_colls, s.dropCommitting_idle idle]
  case rest =>
    exact (congrArg s.butEnd off :).trans (s.unloaded_frame c x)

theorem Working.finish {s : State} {c : Nat} {x : Cmd} (h : Working s c x) (st ct pos : Nat) :
    EndsWith s (s.finish c st ct pos) c x st ct pos 10000 := h.endCmd ..

theorem Working.fail {s : State} {c : Nat} {x : Cmd} (h : Working s c x) (st : Nat) :
    EndsWith s (s.fail c st) c x st 0 x.pos 10000 := by
  unfold State.fail
  rw [h.found]
  exact h.endCmd ..

end Sys2Proof.Machine

/-! Progress as a command reports it: what it leaves of the device, and of the commands (R453, R454, R471 to R475, R487). -/
namespace Sys2Proof.Machine

/-- `t` with what reporting progress touches taken from `s`. -/
def State.butProgress (s t : State) : State :=
  { t with cmds := s.cmds, pslot := s.pslot, out := s.out, hq := s.hq, cq := s.cq, bar4 := s.bar4, regs := s.regs, evtUnread := s.evtUnread,
           evtSeq := s.evtSeq, free := s.free }

/-- The command `y` with the progress pairs and the completion queue of `x`. -/
def Cmd.butProgress (x y : Cmd) : Cmd := { y with bp := x.bp, pos := x.pos, lastBp := x.lastBp, cq := x.cq }

/-- Progress has been reported: beside that, the device and its commands are as they were. -/
structure Progressed (s t : State) : Prop where
  rest : s.butProgress t = s
  cmds : ∀ d y, s.cmd? d = some y → ∃ z, t.cmd? d = some z ∧ y.butProgress z = y
  refused : t.out.refused = s.out.refused

theorem Progressed.of_cmds {s t : State} (rest : s.butProgress t = s) (cmds : t.cmds = s.cmds) (refused : t.out.refused = s.out.refused) :
    Progressed s t :=
  ⟨rest, fun d y found => ⟨y, by rwa [State.cmd?, cmds], rfl⟩, refused⟩

theorem Progressed.refl (s : State) : Progressed s s := .of_cmds rfl rfl rfl

theorem Progressed.trans {s t u : State} (h : Progressed s t) (h' : Progressed t u) : Progressed s u where
  rest := (congrArg s.butProgress h'.rest :).trans h.rest
  cmds d y found := by
    obtain ⟨z, hz, same⟩ := h.cmds d y found
    obtain ⟨w, hw, same'⟩ := h'.cmds d z hz
    exact ⟨w, hw, (congrArg y.butProgress same' :).trans same⟩
  refused := h'.refused.trans h.refused

/-- A command at work is still at work after a report. -/
theorem Progressed.working {s t : State} {c : Nat} {x : Cmd} (h : Progressed s t) (w : Working s c x) :
    ∃ y, Working t c y ∧ x.butProgress y = x := by
  obtain ⟨y, found, same⟩ := h.cmds c x w.found
  exact ⟨y, ⟨found, (congrArg Cmd.phase same :).trans w.admitted, (congrArg Cmd.parent same :).trans w.queued⟩, same⟩

/-- A report of progress does not move a command's work. -/
theorem Progressed.atWork {s t : State} {c : Nat} {work : Work} (h : Progressed s t) (w : AtWork s c work) : AtWork t c work := by
  obtain ⟨x, found, phase, rfl⟩ := w
  obtain ⟨y, found', same⟩ := h.cmds c x found
  exact ⟨y, found', (congrArg Cmd.phase same :).trans phase, (congrArg Cmd.work same :)⟩

/-! ## The parts of a report -/

theorem State.sendMsix_refused (s : State) (fn v : Nat) : (s.sendMsix fn v).out.refused = s.out.refused := by
  unfold State.sendMsix; dsimp only; split <;> rfl

/-- An event record changes nothing of which host memory the host refuses. -/
theorem State.logEvent_refused (s : State) (code tenant : Nat) (data : List Nat) : (s.logEvent code tenant data).out.refused = s.out.refused := by
  have signalled : ∀ t : State, (s.recordSignalled t code).out.refused = t.out.refused := by
    intro t
    have msix : (if s.fld oEvtCtrl 8 8 = 1 ∧ 1 ≤ evSev code then t.sendMsix 0 (s.fld oEvtCtrl 7 0) else t).out.refused = t.out.refused := by
      split
      · exact t.sendMsix_refused _ _
      · rfl
    unfold State.recordSignalled
    dsimp only
    split
    · exact msix
    · exact msix
  rw [State.logEvent_eq, signalled]
  exact congrArg Outside.refused
    ((congrArg State.out (s.recordCounted_frame _) :).trans (congrArg State.out (s.recordWritten_frame code tenant data) :))

theorem Progressed.logEvent (s : State) (code tenant : Nat) (data : List Nat) : Progressed s (s.logEvent code tenant data) :=
  .of_cmds (congrArg s.butProgress (s.logEvent_frame code tenant data) :) (congrArg State.cmds (s.logEvent_frame code tenant data) :)
    (s.logEvent_refused code tenant data)

theorem Progressed.sendMsix (s : State) (fn v : Nat) : Progressed s (s.sendMsix fn v) :=
  .of_cmds (congrArg s.butProgress (s.sendMsix_frame fn v) :) (congrArg State.cmds (s.sendMsix_frame fn v) :) (s.sendMsix_refused fn v)

theorem Progressed.setPslot (s : State) (x : Cmd) (st bp pos : Nat) : Progressed s (s.setPslot x st bp pos) :=
  .of_cmds (congrArg s.butProgress (s.setPslot_frame x st bp pos) :) (congrArg State.cmds (s.setPslot_frame x st bp pos) :)
    (congrArg (fun t : State => t.out.refused) (s.setPslot_frame x st bp pos) :)

theorem Progressed.setHqFld (s : State) (fn o hi lo v : Nat) : Progressed s (s.setHqFld fn o hi lo v) := .of_cmds rfl rfl rfl

theorem Progressed.setCqSt (s : State) (fn q : Nat) (x : CqSt) : Progressed s (s.setCqSt fn q x) := .of_cmds rfl rfl rfl

theorem Progressed.hostWr {s t : State} {fn a : Nat} {bs : List Byte} (h : s.hostWr fn a bs = some t) : Progressed s t := by
  unfold State.hostWr at h
  split at h
  · cases h
  · cases h; exact .of_cmds rfl rfl rfl

/-- A change of one command's progress. -/
theorem Progressed.updCmd (s : State) (c : Nat) (f : Cmd → Cmd) (hf : ∀ y : Cmd, y.butProgress (f y) = y) : Progressed s (s.updCmd c f) where
  rest := rfl
  cmds d y found := by
    have keeps : ∀ y, (f y).id = y.id := fun y => (congrArg Cmd.id (hf y) :)
    by_cases hd : d = c
    · subst hd
      exact ⟨f y, by rw [s.cmd?_updCmd_self _ _ keeps, found]; rfl, hf y⟩
    · exact ⟨y, by rwa [s.cmd?_updCmd_ne _ keeps hd], rfl⟩
  refused := rfl

theorem Progressed.dropCq (s : State) (fn q : Nat) : Progressed s (s.dropCq fn q) where
  rest := rfl
  cmds d y found := by
    refine ⟨if y.fn = fn ∧ y.cq = some q then { y with cq := none } else y, ?_, by split <;> rfl⟩
    have same : ((fun x : Cmd => x.id == d) ∘ fun c => if c.fn = fn ∧ c.cq = some q then { c with cq := none } else c) = fun x => x.id == d := by
      funext x
      simp only [Function.comp]
      split <;> rfl
    rw [State.cmd?, State.dropCq, List.find?_map, same]
    exact congrArg _ found
  refused := rfl

theorem Progressed.foldl {α : Type} {s : State} (f : State → α → State) (hf : ∀ t a, Progressed t (f t a)) (l : List α) :
    Progressed s (l.foldl f s) :=
  List.foldlRecOn l f (.refl s) fun t h a _ => h.trans (hf t a)

theorem Progressed.cqFault (s : State) (fn q : Nat) : Progressed s (s.cqFault fn q) :=
  ((((Progressed.dropCq s fn q).trans (.setHqFld ..)).trans (.logEvent ..)).trans
    (.foldl _ (fun t _ => (Progressed.setHqFld t ..).trans (.setHqFld ..)) _) :)

theorem Progressed.cqSignal (s : State) (fn q : Nat) : Progressed s (s.cqSignal fn q) :=
  (Progressed.setCqSt s fn q _).trans (.sendMsix ..)

/-- An interim entry is a report of progress. -/
theorem Progressed.cqWrite (s : State) (fn q ty sq cmdid status count value bp : Nat) :
    Progressed s (s.cqWrite fn q ty sq cmdid status count value bp) := by
  unfold State.cqWrite
  dsimp only
  split
  · exact .cqFault s fn q
  · rename_i t written
    have entry := (Progressed.hostWr written).trans (Progressed.setHqFld t fn (oCqCfg q) 63 48 ((s.cqTail fn q + 1) % s.cqSize fn q))
    split
    · exact (entry.trans (.setCqSt ..)).trans (.cqSignal ..)
    · exact entry.trans (.setCqSt ..)

theorem Progressed.setProgress (s : State) (c bp pos : Nat) : Progressed s (s.setProgress c bp pos) := by
  unfold State.setProgress
  split
  · exact .refl s
  rename_i x _
  have pair := Progressed.updCmd s c (fun y => { y with bp := bp, pos := pos }) (by intro; rfl)
  have slot : Progressed s (if s.ownsPslot x then (s.updCmd c fun y => { y with bp := bp, pos := pos }).setPslot x 1 bp pos
      else s.updCmd c fun y => { y with bp := bp, pos := pos }) := by
    split
    · exact pair.trans (.setPslot ..)
    · exact pair
  dsimp only
  split
  · exact pair
  split
  · exact slot
  split
  · exact slot
  split
  · exact (slot.trans (.updCmd _ c _ (by intro; rfl))).trans (.cqWrite ..)
  · exact slot.trans (.setHqFld ..)

/-- Raising a command's progress reports it and does nothing else (R471 to R475). -/
theorem Progressed.raiseProgress (s : State) (c bp pos : Nat) : Progressed s (s.raiseProgress c bp pos) := by
  unfold State.raiseProgress
  split
  · exact .refl s
  split
  · exact .refl s
  · exact .setProgress s c bp pos

end Sys2Proof.Machine

/-! Inputs and outputs of a command: what a read gives depends on, what a write leaves, and a command that ends once it has written
(R35, R213, R317, R460, R486). -/
namespace Sys2Proof.Machine

/-! ## Reading inputs -/

/-- The allocations alone decide which ranges are mapped or writable. -/
theorem rangeOk_congr {s t : State} (h : t.allocs = s.allocs) (tenant : Nat) (p : Alloc → Bool) (fuel a n : Nat) :
    rangeOk t tenant p fuel a n = rangeOk s tenant p fuel a n := by
  induction fuel generalizing a n with
  | zero => rfl
  | succ fuel ih => simp only [rangeOk, State.allocAt, h, ih]

/-- `t` reads and writes host and device space as `s` does. -/
structure SameSpaces (s t : State) : Prop where
  allocs : t.allocs = s.allocs
  dev : t.dev = s.dev
  out : t.out = s.out
  poison : t.poison = s.poison
  ranges : t.ranges = s.ranges

theorem SameSpaces.updCmd (s : State) (c : Nat) (f : Cmd → Cmd) : SameSpaces s (s.updCmd c f) := ⟨rfl, rfl, rfl, rfl, rfl⟩
theorem SameSpaces.drew (s : State) (n : Nat) : SameSpaces s (s.drew n) := ⟨rfl, rfl, rfl, rfl, rfl⟩
theorem SameSpaces.trans {s t u : State} (h : SameSpaces s t) (h' : SameSpaces t u) : SameSpaces s u :=
  ⟨h'.allocs.trans h.allocs, h'.dev.trans h.dev, h'.out.trans h.out, h'.poison.trans h.poison, h'.ranges.trans h.ranges⟩

/-- When the read of an input gives its bytes. -/
theorem State.input_eq_ok_iff (s : State) (x : Cmd) (dev : Bool) (a n : Nat) (b : List Byte) :
    s.input x dev a n = .ok b ↔ s.spaceRd x.fn dev a n = some b ∧ (dev && s.poisoned x.fn a n) = false ∧
      (dev && x.toHost && (linesOf a n).any fun l => s.innerOnly x.fn (l * 64)) = false := by
  unfold State.input
  split
  · simp [*]
  · rename_i b' read
    rw [read]
    split
    · simp [*]
    split
    · simp [*]
    · simp_all

theorem SameSpaces.input {s t : State} (h : SameSpaces s t) {x : Cmd} {dev : Bool} {a n : Nat} {b : List Byte} (read : s.input x dev a n = .ok b) :
    t.input x dev a n = .ok b := by
  have mapped : t.devMapped x.fn a n = s.devMapped x.fn a n := by
    simp only [State.devMapped, h.allocs, rangeOk_congr h.allocs]
  have refused : t.hostRefused x.fn a n = s.hostRefused x.fn a n := by simp only [State.hostRefused, h.out]
  have bytes : t.spaceRd x.fn dev a n = s.spaceRd x.fn dev a n := by
    cases dev
    · simp [State.spaceRd, State.hostRd, refused, h.out]
    · simp [State.spaceRd, State.devRd, mapped, h.dev]
  have poisoned : t.poisoned x.fn a n = s.poisoned x.fn a n := by simp only [State.poisoned, h.poison]
  have inner : t.innerOnly x.fn = s.innerOnly x.fn := by funext; simp only [State.innerOnly, h.ranges]
  rw [State.input_eq_ok_iff] at read ⊢
  rwa [bytes, poisoned, inner]

theorem SameSpaces.inputs {s t : State} (h : SameSpaces s t) {x : Cmd} {rs : List (Bool × Nat × Nat)} {bs : List (List Byte)}
    (read : s.inputs x rs = .ok bs) : t.inputs x rs = .ok bs := by
  induction rs generalizing bs with
  | nil => exact read
  | cons r rs ih =>
    obtain ⟨dev, a, n⟩ := r
    simp only [State.inputs] at read ⊢
    cases first : s.input x dev a n with
    | error e => simp [first] at read
    | ok b =>
      cases rest : s.inputs x rs with
      | error e => simp [first, rest] at read
      | ok l =>
        rw [h.input first, ih rest]
        simpa [first, rest] using read

/-- The device with a command's request for room withdrawn (R213). -/
def State.roomy (s : State) (x : Cmd) : State := s.updCmd x.id fun y => { y with needRoom := 0 }

/-- A command whose new bytes have room goes on. (The definition is unfolded as a function: applied, the kernel would evaluate the
check itself, whose sizes are multiples of 2 ^ 20.) -/
theorem State.withRoom_eq {s : State} {x : Cmd} {new : Nat} (room : s.room x.fn new = some true) (f : State → State) :
    s.withRoom x new f = f (s.roomy x) := by
  have unfolded : ∀ w, w = State.withRoom → w s x new f = f (s.roomy x) := by
    intro w hw
    delta State.withRoom at hw
    subst hw
    beta_reduce
    rw [room]
    rfl
  exact unfolded _ rfl

/-! ## Writing outputs -/

theorem SameSpaces.canWrite {s t : State} (h : SameSpaces s t) (fn : Nat) (dev : Bool) (a n : Nat) :
    t.canWrite fn dev a n = s.canWrite fn dev a n := by
  simp only [State.canWrite, State.devWritable, State.hostRefused, h.allocs, h.out, rangeOk_congr h.allocs]

/-- What a function may write rests on the allocations and on what the host refuses. -/
theorem State.canWrite_congr {s t : State} (allocs : t.allocs = s.allocs) (refused : t.out.refused = s.out.refused) (fn : Nat) (dev : Bool)
    (a n : Nat) : t.canWrite fn dev a n = s.canWrite fn dev a n := by
  simp only [State.canWrite, State.devWritable, State.hostRefused, allocs, refused, rangeOk_congr allocs]

theorem Progressed.canWrite {s t : State} (h : Progressed s t) (fn : Nat) (dev : Bool) (a n : Nat) :
    t.canWrite fn dev a n = s.canWrite fn dev a n :=
  have allocs : t.allocs = s.allocs := (congrArg State.allocs h.rest :)
  State.canWrite_congr allocs h.refused fn dev a n

/-- The bytes stand at the address. -/
def State.wrote (s : State) (fn : Nat) (dev : Bool) (a : Nat) (bs : List Byte) : State :=
  if dev then s.devWr fn a bs else { s with out := { s.out with hostMem := s.out.hostMem.wrN (hostKey fn a) bs } }

theorem State.spaceWr_eq {s : State} {fn : Nat} {dev : Bool} {a : Nat} {bs : List Byte} (can : s.canWrite fn dev a bs.length = true) :
    s.spaceWr fn dev a bs = some (s.wrote fn dev a bs) := by
  cases dev <;> simp_all [State.canWrite, State.spaceWr, State.hostWr, State.wrote]

theorem State.wrote_frame (s : State) (fn : Nat) (dev : Bool) (a : Nat) (bs : List Byte) :
    { s.wrote fn dev a bs with dev := s.dev, poison := s.poison, out := s.out } = s := by
  cases dev <;> rfl

theorem State.wrote_refused (s : State) (fn : Nat) (dev : Bool) (a : Nat) (bs : List Byte) :
    (s.wrote fn dev a bs).out.refused = s.out.refused := by
  cases dev <;> rfl

theorem State.spaceBytes_wrote (s : State) (fn : Nat) (dev : Bool) (a : Nat) (bs : List Byte) :
    (s.wrote fn dev a bs).spaceBytes fn dev a bs.length = bs := by
  cases dev
  · exact Mem.rdN_wrN ..
  · exact Mem.rdN_wrN ..

/-- A write elsewhere leaves the bytes of a range. -/
theorem State.spaceBytes_wrote_apart (s : State) (fn : Nat) {dev dev' : Bool} {a a' n : Nat} {bs : List Byte} (low : a < 2 ^ 64)
    (low' : a' < 2 ^ 64) (apart : dev = dev' → a' + bs.length ≤ a ∨ a + n ≤ a') :
    (s.wrote fn dev' a' bs).spaceBytes fn dev a n = s.spaceBytes fn dev a n := by
  have outside : ∀ m : Mem, dev = dev' →
      (m.wrN (fn * 2 ^ 64 + a' % 2 ^ 64) bs).rdN (fn * 2 ^ 64 + a % 2 ^ 64) n = m.rdN (fn * 2 ^ 64 + a % 2 ^ 64) n := by
    intro m same
    have := apart same
    rw [Nat.mod_eq_of_lt low, Nat.mod_eq_of_lt low']
    exact Mem.rdN_congr _ _ _ _ fun i lo hi => Mem.rd_wrN_out _ _ _ _ (by omega)
  cases dev <;> cases dev'
  · exact outside _ rfl
  · rfl
  · rfl
  · exact outside _ rfl

theorem Working.wrote {s : State} {c : Nat} {x : Cmd} (h : Working s c x) (fn : Nat) (dev : Bool) (a : Nat) (bs : List Byte) :
    Working (s.wrote fn dev a bs) c x :=
  ⟨(congrArg (fun t : State => t.cmd? c) (s.wrote_frame fn dev a bs) :).trans h.found, h.admitted, h.queued⟩

/-- A change of a command at work that keeps its number, its phase and its queue. -/
theorem Working.updCmd {s : State} {c : Nat} {x : Cmd} (h : Working s c x) (f : Cmd → Cmd) (id : ∀ y, (f y).id = y.id)
    (phase : (f x).phase = x.phase) (parent : (f x).parent = x.parent) : Working (s.updCmd c f) c (f x) :=
  ⟨(s.cmd?_updCmd_self c f id).trans (congrArg (Option.map f) h.found), phase.trans h.admitted, parent.trans h.queued⟩

theorem SameSpaces.roomy (s : State) (x : Cmd) : SameSpaces s (s.roomy x) := SameSpaces.updCmd ..

theorem Working.roomy {s : State} {c : Nat} {x : Cmd} (h : Working s c x) : Working (s.roomy x) c { x with needRoom := 0 } := by
  have id := h.id_eq
  subst id
  exact h.updCmd (fun y => { y with needRoom := 0 }) (fun _ => rfl) rfl rfl

/-- A command is at work wherever the commands are the same. -/
theorem Working.of_cmds {s t : State} {c : Nat} {x : Cmd} (h : Working s c x) (same : t.cmds = s.cmds) : Working t c x :=
  ⟨by rw [State.cmd?, same]; exact h.found, h.admitted, h.queued⟩

/-! ## Ending with an output -/

/-- Without an argument copy the end of a command leaves host and device space. -/
theorem EndsWith.spaceBytes {s s' : State} {c : Nat} {x : Cmd} {st ct v bp : Nat} (h : EndsWith s s' c x st ct v bp) (none : x.argBase = 0)
    (fn : Nat) (dev : Bool) (a n : Nat) : s'.spaceBytes fn dev a n = s.spaceBytes fn dev a n := by
  have out : s'.out = s.out := (congrArg State.out h.rest :)
  simp only [State.spaceBytes, State.devRd, State.hostBytes, out, (h.noArgs none).1]

/-- `t` with what the end of a command and the write of an output touch taken from `s`. -/
def State.butOutput (s t : State) : State := { s.butEnd t with out := s.out, poison := s.poison }

/-- Command `c` has written `bs` at `a` and ended so. -/
structure Delivered (s s' : State) (c : Nat) (x : Cmd) (dev : Bool) (a : Nat) (bs : List Byte) (st ct v : Nat) : Prop where
  entry : Answered s' c st ct v 10000
  bytes : s'.spaceBytes x.fn dev a bs.length = bs
  host : dev = false → s'.dev = s.dev
  colls : x.midCommit = false → s'.colls = s.colls
  rest : s.butOutput s' = s

/-- A command that has written its output and ends. -/
theorem Working.delivered {s : State} {c : Nat} {x : Cmd} (h : Working s c x) (none : x.argBase = 0) (dev : Bool) (a : Nat) (bs : List Byte)
    (st ct v : Nat) : Delivered s ((s.wrote x.fn dev a bs).finish c st ct v) c x dev a bs st ct v := by
  have ends := (h.wrote x.fn dev a bs).finish st ct v
  have wrote := s.wrote_frame x.fn dev a bs
  refine ⟨ends.entry, (ends.spaceBytes none _ _ _ _).trans (s.spaceBytes_wrote ..), ?_, fun idle => ?_, ?_⟩
  · rintro rfl
    exact (ends.noArgs none).1
  · exact (ends.colls idle).trans (congrArg State.colls wrote :)
  · exact (congrArg s.butOutput ends.rest :).trans (congrArg s.butOutput wrote :)

end Sys2Proof.Machine

/-! Stable sorting, and the runs of the comb: order, stability, duplicates (R81, R82, R89, R94, R102, R103). -/
namespace Sys2Proof.Machine

/-! ## Insertion in order -/

section
variable {α κ : Type} [LinearOrder κ] {before : α → α → Bool} {key : α → κ}

/-- The test `before` compares keys. -/
def Compares (before : α → α → Bool) (key : α → κ) : Prop := ∀ a b, before a b = true ↔ key a < key b

theorem insSorted_perm (before : α → α → Bool) (a : α) (l : List α) : (insSorted before a l).Perm (a :: l) := by
  induction l with
  | nil => exact .refl _
  | cons b r ih =>
    simp only [insSorted]
    split
    · exact .refl _
    · exact (ih.cons b).trans (.swap a b r)

theorem sortBy_concat (before : α → α → Bool) (l : List α) (a : α) : sortBy before (l ++ [a]) = insSorted before a (sortBy before l) := by
  simp [sortBy]

theorem sortBy_perm (before : α → α → Bool) (l : List α) : (sortBy before l).Perm l := by
  induction l using List.reverseRecOn with
  | nil => exact .refl _
  | append_singleton l a ih =>
    rw [sortBy_concat]
    exact ((insSorted_perm before a _).trans (ih.cons a)).trans (List.perm_append_singleton a l).symm

theorem insSorted_sorted (h : Compares before key) (a : α) {l : List α} (sorted : l.Pairwise fun p q => key p ≤ key q) :
    (insSorted before a l).Pairwise fun p q => key p ≤ key q := by
  induction l with
  | nil => exact List.pairwise_singleton ..
  | cons b r ih =>
    have ⟨least, rest⟩ := List.pairwise_cons.1 sorted
    simp only [insSorted]
    split
    · rename_i less
      have less := ((h a b).1 less).le
      exact List.pairwise_cons.2 ⟨fun q hq => (List.mem_cons.1 hq).elim (· ▸ less) fun hq => less.trans (least q hq), sorted⟩
    · rename_i more
      have more := not_lt.1 fun less => more ((h a b).2 less)
      refine List.pairwise_cons.2 ⟨fun q hq => ?_, ih rest⟩
      rcases List.mem_cons.1 ((insSorted_perm before a r).mem_iff.1 hq) with rfl | hq
      · exact more
      · exact least q hq

/-- The elements of a sorted list stand in the order of their keys. -/
theorem sortBy_sorted (h : Compares before key) (l : List α) : (sortBy before l).Pairwise fun p q => key p ≤ key q := by
  induction l using List.reverseRecOn with
  | nil => exact .nil
  | append_singleton l a ih =>
    rw [sortBy_concat]
    exact insSorted_sorted h a ih

/-- An element is inserted after those of its own key. -/
theorem insSorted_filter (h : Compares before key) (a : α) (k : κ) {l : List α} (sorted : l.Pairwise fun p q => key p ≤ key q) :
    ((insSorted before a l).filter fun p => key p = k) = (l.filter fun p => key p = k) ++ [a].filter fun p => key p = k := by
  induction l with
  | nil => rfl
  | cons b r ih =>
    have ⟨least, rest⟩ := List.pairwise_cons.1 sorted
    simp only [insSorted]
    split
    · rename_i less
      have less := (h a b).1 less
      by_cases hk : key a = k
      · have none : ((b :: r).filter fun p => key p = k) = [] := by
          refine List.filter_eq_nil_iff.2 fun q hq => ?_
          rcases List.mem_cons.1 hq with rfl | hq
          · simpa using (hk ▸ less).ne'
          · simpa using ((hk ▸ less).trans_le (least q hq)).ne'
        rw [List.filter_cons_of_pos (by simpa using hk), none]
        simp [hk]
      · simp [hk]
    · rw [List.filter_cons, List.filter_cons, ih rest]
      split <;> rfl

/-- Elements of one key keep their order. -/
theorem sortBy_stable (h : Compares before key) (k : κ) (l : List α) :
    ((sortBy before l).filter fun p => key p = k) = l.filter fun p => key p = k := by
  induction l using List.reverseRecOn with
  | nil => rfl
  | append_singleton l a ih => rw [sortBy_concat, insSorted_filter h a k (sortBy_sorted h l), ih, List.filter_append]

end

/-! ## Pairs in pair order (R82) -/

/-- What pair order compares: the ordering keys, then the tags. -/
def pairKey (kt : Nat) (p : F32 × Nat) : Nat ×ₗ Nat := toLex (okey kt p.1.toNat, p.2)

theorem pairBefore_iff (kt : Nat) (p q : F32 × Nat) : pairBefore kt false p q = true ↔ pairKey kt p < pairKey kt q := by
  simp [pairBefore, pairKey, Prod.Lex.toLex_lt_toLex]

theorem compares_pairBefore (kt : Nat) : Compares (pairBefore kt false) (pairKey kt) := pairBefore_iff kt

/-- Without duplicates a run holds the first pair of each tag not seen. -/
theorem firstOfTag_sublist (l : List (F32 × Nat)) (seen : List Nat) : (firstOfTag l seen).Sublist l := by
  induction l generalizing seen with
  | nil => exact .slnil
  | cons p r ih =>
    simp only [firstOfTag]
    split
    · exact (ih seen).cons p
    · exact (ih _).cons_cons p

theorem firstOfTag_unseen (l : List (F32 × Nat)) (seen : List Nat) : ∀ p ∈ firstOfTag l seen, p.2 ∉ seen := by
  induction l generalizing seen with
  | nil => simp [firstOfTag]
  | cons q r ih =>
    simp only [firstOfTag]
    split
    · exact ih seen
    · rename_i new
      intro p hp
      rcases List.mem_cons.1 hp with rfl | hp
      · simpa using new
      · exact fun old => ih _ p hp (List.mem_cons_of_mem _ old)

theorem firstOfTag_nodup (l : List (F32 × Nat)) (seen : List Nat) : ((firstOfTag l seen).map (·.2)).Nodup := by
  induction l generalizing seen with
  | nil => exact .nil
  | cons p r ih =>
    simp only [firstOfTag]
    split
    · exact ih seen
    · refine List.nodup_cons.2 ⟨fun again => ?_, ih _⟩
      obtain ⟨q, hq, same⟩ := List.mem_map.1 again
      exact firstOfTag_unseen r _ q hq (same ▸ List.mem_cons_self ..)

/-- The pairs of a merge without duplicates are pairs of its runs. -/
theorem mem_of_mem_pairUnion {kt : Nat} {l : List (F32 × Nat)} {p : F32 × Nat} (h : p ∈ pairUnion kt false true l) : p ∈ l :=
  (sortBy_perm _ l).mem_iff.1 ((firstOfTag_sublist _ _).subset h)

theorem pairUnion_nodup (kt : Nat) (l : List (F32 × Nat)) : ((pairUnion kt false true l).map (·.2)).Nodup := firstOfTag_nodup ..

/-- A merge without duplicates is in pair order, strictly: pairs of one key differ in their tags. -/
theorem pairUnion_ordered (kt : Nat) (l : List (F32 × Nat)) :
    (pairUnion kt false true l).Pairwise fun p q => pairBefore kt false p q = true := by
  have sorted : (pairUnion kt false true l).Pairwise fun p q => pairKey kt p ≤ pairKey kt q :=
    (sortBy_sorted (compares_pairBefore kt) l).sublist (firstOfTag_sublist _ _)
  have tags := List.pairwise_map.1 (pairUnion_nodup kt l)
  refine (sorted.and tags).imp fun ⟨le, ne⟩ => (pairBefore_iff ..).2 (lt_of_le_of_ne le fun same => ne ?_)
  exact congrArg (fun k => (ofLex k).2) same

/-- Lists ranked by distance are the candidates themselves. -/
theorem rankBy_perm (dist : Nat → Nat) (ids : List Nat) : (rankBy dist ids).Perm ids :=
  ((sortBy_perm _ _).map _).trans (by simp [Function.comp_def])

end Sys2Proof.Machine

/-! O32: the entries that a search finds (R46 to R52, R82). -/
namespace Sys2Proof.Machine

/-- In pair order, with no global ID twice. -/
structure InPairOrder (l : List (F32 × Nat)) : Prop where
  ordered : l.Pairwise fun p q => pairBefore ktF32 false p q = true
  distinct : (l.map (·.2)).Nodup

theorem inPairOrder_pairUnion (l : List (F32 × Nat)) : InPairOrder (pairUnion ktF32 false true l) := ⟨pairUnion_ordered _ l, pairUnion_nodup _ l⟩

/-- Each round merges what it finds into the entries of the rounds before. -/
theorem State.inPairOrder_widenRounds (s : State) (k : Nat) (miss : Miss) (c : Coll) (q : List Nat) (b : QueryBody) (rounds : List Nat) {f : Found}
    (h : InPairOrder f.hits) : InPairOrder (s.widenRounds k miss c q b rounds f).hits := by
  induction rounds generalizing f with
  | nil => exact h
  | cons m r ih =>
    rw [State.widenRounds]
    split
    · exact ih (inPairOrder_pairUnion _)
    · exact h

/-- The rerank orders its candidates anew. -/
theorem State.inPairOrder_rerankHits (s : State) (k : Nat) (c : Coll) (q : List Nat) (b : QueryBody) {f : Found} (h : InPairOrder f.hits) :
    InPairOrder (s.rerankHits k c q b f).hits := by
  unfold State.rerankHits
  split
  · exact h
  · exact inPairOrder_pairUnion _

/-- Settles O32: the first round, each further one and the rerank are merges without duplicates. -/
theorem searchOrder : Obligations.SearchOrder := by
  unfold Obligations.SearchOrder
  intro s miss o b
  have first : InPairOrder (s.searchRound s.free miss o (forMetric o.metric (b.elems.map (·.toNat))) b b.lists ⟨[], [], 0, false, false⟩).hits :=
    inPairOrder_pairUnion _
  have found : InPairOrder (s.localSearch miss o b).hits := s.inPairOrder_rerankHits _ o _ b (s.inPairOrder_widenRounds _ miss o _ b [2, 4] first)
  exact ⟨found.ordered, found.distinct⟩

end Sys2Proof.Machine

/-! O33: `vr.search` on a collection of this node, from its argument block to its result (R43 to R57). -/
namespace Sys2Proof.Machine

/-! ## What Varelm's work leaves -/

/-- Wells that work for a program show in registers alone (R165, R166). -/
theorem State.varelmWells_frame (s : State) (segs : List Seg) : { s.varelmWells segs with regs := s.regs, free := s.free } = s := by
  unfold State.varelmWells
  dsimp only
  split
  · rfl
  · exact List.foldlRecOn (motive := fun t : State => ({ t with regs := s.regs, free := s.free } : State) = s) _ _ rfl fun _ kept _ _ => kept

theorem State.heatUnits_frame (s : State) (us : List UnitId) : { us.foldl State.heatUnit s with units := s.units } = s :=
  List.foldlRecOn (motive := fun t : State => ({ t with units := s.units } : State) = s) us _ rfl fun _ kept _ _ => kept

theorem Progressed.varelmWells (s : State) (segs : List Seg) : Progressed s (s.varelmWells segs) :=
  .of_cmds (congrArg s.butProgress (s.varelmWells_frame segs) :) (congrArg State.cmds (s.varelmWells_frame segs) :)
    (congrArg (fun t : State => t.out.refused) (s.varelmWells_frame segs) :)

theorem Progressed.drew (s : State) (n : Nat) : Progressed s (s.drew n) := .of_cmds rfl rfl rfl

/-- A report does not depend on the units' heat. -/
theorem Progressed.withUnits {s t : State} (h : Progressed s t) (us : List PUnit) : Progressed { s with units := us } { t with units := us } :=
  ⟨(congrArg (fun u : State => { u with units := us }) h.rest :), h.cmds, h.refused⟩

/-- A search leaves heat behind; beside it, only what a report touches (R208, R414). -/
theorem Progressed.afterSearch (s : State) (c : Coll) (b : QueryBody) (f : Found) :
    Progressed s { s.afterSearch c b f with units := s.units } := by
  unfold State.afterSearch
  dsimp only
  have heated : ∀ us : List UnitId, Progressed s { us.foldl State.heatUnit (s.drew (2 ^ 128)) with units := s.units } := by
    intro us
    have kept := (s.drew (2 ^ 128)).heatUnits_frame us
    exact .of_cmds (congrArg s.butProgress kept :) (congrArg State.cmds kept :) (congrArg (fun t : State => t.out.refused) kept :)
  have worked := fun us segs => (heated us).trans ((Progressed.varelmWells (us.foldl State.heatUnit (s.drew (2 ^ 128))) segs).withUnits s.units)
  split
  · exact worked _ _
  · exact (worked _ _).trans ((Progressed.foldl _ (fun t p => .logEvent t _ _ _) _).withUnits s.units)

/-! ## Delivering a result (R50, R56, R57, R460) -/

/-- A command at work that delivers a result writes it where the buffer holds a header, and ends with the result's status and count. -/
theorem Working.deliver {s : State} {c : Nat} {y : Cmd} (h : Working s c y) {x : Cmd} (id : x.id = c) (fn : y.fn = x.fn) (none : y.argBase = 0)
    {r : Result} (can : 32 ≤ r.rlen → s.canWrite x.fn r.dev r.rbuf r.bytes.length = true) (pos : Nat) :
    Answered (s.deliver x r pos) c r.status r.totalOf pos 10000 ∧
      (32 ≤ r.rlen → (s.deliver x r pos).spaceBytes x.fn r.dev r.rbuf r.bytes.length = r.bytes) ∧
      (r.dev = false → (s.deliver x r pos).dev = s.dev) ∧ (y.midCommit = false → (s.deliver x r pos).colls = s.colls) := by
  subst id
  unfold State.deliver
  split
  · rename_i short
    have ends := h.finish r.status r.totalOf pos
    exact ⟨ends.entry, fun long => absurd short (by omega), fun _ => (ends.noArgs none).1, ends.colls⟩
  · rename_i long
    rw [State.spaceWr_eq (can (by omega)), ← fn]
    have sent := h.delivered none r.dev r.rbuf r.bytes r.status r.totalOf pos
    exact ⟨sent.entry, fun _ => sent.bytes, sent.host, sent.colls⟩

/-! ## The search -/

/-- Reporting a search list by list. -/
theorem Progressed.searchProgress (s : State) (x : Cmd) (k : Nat) (probed : List Nat) : Progressed s (s.searchProgress x k probed) :=
  .foldl _ (fun _ _ => .raiseProgress ..) _

/-- A search whose inputs are read goes on with its query. -/
theorem State.withQuery_eq {s : State} {x : Cmd} {c : Coll} {q t : List Byte}
    (query : s.input x (x.sFlag 9 9 == 1) (x.a 0x18 8) (c.dim * elemBytes (x.sFlag 4 3)) = .ok q)
    (text : (if x.sFlag 2 1 = 2 then s.input x (x.sFlag 11 11 == 1) (x.a 0x58 8) (x.a 0x60 4) else .ok []) = .ok t) (k : QueryBody → State) :
    s.withQuery x c k = k (x.queryBody (readElems (x.sFlag 4 3) c.dim q) t) := by
  unfold State.withQuery
  dsimp only
  rw [query, text]

/-- Lists without a mismatch of tags let a search end with its result (R136). -/
theorem State.searchHere_eq {s : State} {x : Cmd} {o : Coll} {b0 b : QueryBody} {f : Found} (lists : b = { b0 with lists := s.chooseLists o b0 })
    (found : f = s.localSearch x.mayMiss o b) (sound : ∀ l ∈ f.probed, o.listSkew l = none) :
    s.searchHere x o b0 = ((s.afterSearch o b f).searchProgress x b.k f.probed).deliver x
      (x.resultOf b f (if s.role = 0 then 0 else s.fld oFabEpoch 31 0)) (if b.k = everyMatch then f.probed.getLastD 0 else f.probed.length) := by
  subst lists found
  have once : s.twiceSkewed x.fn x.id o (s.localSearch x.mayMiss o { b0 with lists := s.chooseLists o b0 }) = none := by
    rw [State.twiceSkewed, List.findSome?_eq_none_iff.2 sound]
    rfl
  unfold State.searchHere
  dsimp only
  rw [once]

/-- A live collection of this node is searched here. -/
theorem Runs.exec_vrSearch_eq {s : State} {c : Nat} {x : Cmd} {o : Coll} {q t : List Byte} (run : Runs s c x) (vr : x.vr = 0x110)
    (whole : x.names.any s.objLost = false) (new : x.started = false) (live : s.coll? x (x.a 0 8) = some o) (here : o.pod = none ∨ s.role ≠ 2)
    (ok : x.searchOk o = true) (query : s.input x (x.sFlag 9 9 == 1) (x.a 0x18 8) (o.dim * elemBytes (x.sFlag 4 3)) = .ok q)
    (text : (if x.sFlag 2 1 = 2 then s.input x (x.sFlag 11 11 == 1) (x.a 0x58 8) (x.a 0x60 4) else .ok []) = .ok t) :
    exec (.vrSearch c) s = .next (s.searchHere x o (x.queryBody (readElems (x.sFlag 4 3) o.dim q) t)) := by
  rw [exec_vrSearch, execVrSearch, run.runVr_eq vr whole]
  have alone : ¬ (o.pod.isSome = true ∧ s.role = 2) := by rcases here with h | h <;> simp [h]
  simp [live, new, ok, State.withQuery_eq query text, alone]

/-- Settles O33: the result stands in its buffer once the reports of the search are past, and the command ends with it. -/
theorem searchResult : Obligations.SearchResult := by
  unfold Obligations.SearchResult
  refine ⟨?_, ?_⟩
  · rintro s c x o q t b0 b f r dev run vr whole new live here ok query text rfl lists found sound rfl rfl none idle can
    have searched := (Progressed.afterSearch s o b f).trans ((Progressed.searchProgress _ x b.k f.probed).withUnits s.units)
    obtain ⟨y, work, same⟩ := searched.working run.working
    have work : Working ((s.afterSearch o b f).searchProgress x b.k f.probed) c y := ⟨work.found, work.admitted, work.queued⟩
    have fn : y.fn = x.fn := (congrArg Cmd.fn same :)
    have allocs : ((s.afterSearch o b f).searchProgress x b.k f.probed).allocs = s.allocs := (congrArg State.allocs searched.rest :)
    obtain ⟨entry, bytes, host, colls⟩ := work.deliver (r := x.resultOf b f (if s.role = 0 then 0 else s.fld oFabEpoch 31 0)) run.id_eq fn
      ((congrArg Cmd.argBase same :).trans none) (fun long => (State.canWrite_congr allocs searched.refused ..).trans (can long))
      (if b.k = everyMatch then f.probed.getLastD 0 else f.probed.length)
    refine ⟨_, (run.exec_vrSearch_eq vr whole new live here ok query text).trans (congrArg _ (State.searchHere_eq lists found sound)), bytes, entry,
      fun toHost => (host toHost).trans (congrArg State.dev searched.rest :), (colls ?_).trans (congrArg State.colls searched.rest :)⟩
    exact (congrArg Cmd.midCommit same :).trans idle
  · intro s c x run vr whole gone
    rw [exec_vrSearch, execVrSearch, run.runVr_eq vr whole]
    exact ⟨_, by simp only [gone], run.working.fail stBadHandle⟩

end Sys2Proof.Machine

/-! O31: `vr.drop`, `vr.place` and `vr.residency` (R39, R215, R226, R227). -/
namespace Sys2Proof.Machine

/-! ## What a change of the shard map leaves (R511, R516, R518) -/

/-- `t` with what messages and maps touch taken from `s`. -/
def State.butFabric (s t : State) : State := { t with regs := s.regs, gates := s.gates, fab := s.fab }

theorem State.butFabric_trans {s t u : State} (h : s.butFabric t = s) (h' : t.butFabric u = t) : s.butFabric u = s :=
  (congrArg s.butFabric h' :).trans h

theorem State.pumpOut_frame (s : State) : s.butFabric s.pumpOut = s := by
  unfold State.pumpOut
  refine List.foldlRecOn (motive := fun t : State => s.butFabric t = s) _ _ rfl fun t kept p _ => ?_
  dsimp only
  split
  · have sent : ∀ (u : State) (q : Packet), u.butFabric (u.sendPacket q) = u := fun u q => (congrArg u.butFabric (u.sendPacket_frame q) :)
    refine State.butFabric_trans (State.butFabric_trans kept ?_) (sent _ _)
    rfl
  · exact kept

theorem State.say_frame (s : State) (ty cls dst ref status : Nat) : s.butFabric (s.say ty cls dst ref status) = s :=
  (congrArg s.butFabric (State.pumpOut_frame _) :)

theorem State.adopt_frame (s : State) (e : Nat) : s.butFabric (s.adopt e) = s := by
  unfold State.adopt; dsimp only; split <;> rfl

theorem State.sendMaps_frame (s : State) : s.butFabric s.sendMaps = s :=
  List.foldlRecOn (motive := fun t : State => s.butFabric t = s) s.workers _ rfl
    fun t kept _ _ => State.butFabric_trans kept (t.say_frame ..)

theorem State.routeNow_frame (s : State) : s.butFabric s.routeNow = s := by
  unfold State.routeNow; split <;> rfl

/-- The new map and its epoch at the queen, before any node is told. -/
def State.adoptedMap (s : State) (m : List ShardEntry) : State :=
  let owing := ((affected s.fab.shards m ++ (if s.fab.deputy = 0 then [] else [s.fab.deputy])).filter fun n =>
    n != s.nodeId && s.workers.contains n).eraseDups
  let t := s.adopt ((s.fld oFabEpoch 31 0 + 1) % 2 ^ 32)
  { t with fab := { t.fab with
    shards := m, ackOwing := (t.fab.ackOwing ++ owing).eraseDups, keeping := t.fab.keeping ++ keptBy s.fab.shards m (s.clock + oldEpochPs) } }

theorem State.publish_eq (s : State) (m : List ShardEntry) : s.publish m = (s.adoptedMap m).sendMaps.routeNow := rfl

/-- A map is published by registers and messages. -/
theorem State.publish_frame (s : State) (m : List ShardEntry) : s.butFabric (s.publish m) = s := by
  have adopted : s.butFabric (s.adoptedMap m) = s := s.adopt_frame _
  exact State.butFabric_trans (State.butFabric_trans adopted (s.adoptedMap m).sendMaps_frame) (s.adoptedMap m).sendMaps.routeNow_frame

theorem State.forgetShards_frame (s : State) (c : Coll) : s.butFabric (s.forgetShards c) = s := by
  unfold State.forgetShards
  dsimp only
  split
  · exact (congrArg s.butFabric (State.publish_frame _ _) :)
  · rfl

/-! ## `vr.drop` (R39) -/

/-- Where the collection that an insert writes into is gone, the end of the command has nothing to take back. -/
theorem State.dropCommitting_gone {s : State} {x : Cmd} (gone : ∀ k ∈ s.colls, k.handle ≠ x.a 0 8) : s.dropCommitting x = s := by
  unfold State.dropCommitting
  split
  · rename_i n _
    have same : (s.colls.map fun c => if c.handle = leAt x.args 0 8 then n.due.foldl Coll.commitList (c.bury n.lid 0) else c) = s.colls :=
      (List.map_congr_left fun k hk => if_neg (gone k hk)).trans (List.map_id' _)
    rw [same]
  · rfl

/-- The device without a collection: its units, its records and its shards. -/
def State.withoutColl (s : State) (o : Coll) : State :=
  ({ (s.dropUnits o.handle).discardColl o with colls := s.colls.filter fun y => y.handle != o.handle } : State).forgetShards o

theorem State.withoutColl_frame (s : State) (o : Coll) :
    s.butFabric { s.withoutColl o with units := s.units, moves := s.moves, oldRanges := s.oldRanges, flash := s.flash, colls := s.colls } = s :=
  (congrArg (fun t : State => s.butFabric { t with units := s.units, moves := s.moves, oldRanges := s.oldRanges, flash := s.flash, colls := s.colls })
    (State.forgetShards_frame _ o) :)

theorem State.withoutColl_colls (s : State) (o : Coll) : (s.withoutColl o).colls = s.colls.filter fun y => y.handle != o.handle :=
  (congrArg State.colls (State.forgetShards_frame _ o) :)

theorem State.withoutColl_units (s : State) (o : Coll) :
    (s.withoutColl o).units = s.units.filter fun u => unitIsAlloc u.uid || unitHandle u.uid != o.handle :=
  (congrArg State.units (State.forgetShards_frame _ o) :)

/-- No record of the collection is valid any more. -/
theorem State.withoutColl_records (s : State) (o : Coll) :
    ∀ b ∈ (s.withoutColl o).flash.blocks, ∀ r ∈ b.recs, r.tenant = o.tenant → r.coll = o.index → r.valid = false := by
  have flash : (s.withoutColl o).flash = ((s.dropUnits o.handle).discardColl o).flash := (congrArg State.flash (State.forgetShards_frame _ o) :)
  rw [flash]
  intro b hb r hr tenant index
  obtain ⟨b', _, rfl⟩ := List.mem_map.1 hb
  obtain ⟨r', _, rfl⟩ := List.mem_map.1 hr
  revert tenant index
  split
  · exact fun _ _ => rfl
  · rename_i other
    exact fun tenant index => absurd (by simp [tenant, index]) other

theorem Runs.exec_vrDrop_eq {s : State} {c : Nat} {x : Cmd} {o : Coll} (run : Runs s c x) (vr : x.vr = 0x102) (ok : cleanBut x.args [(0, 8)] = true)
    (found : s.colls.find? (fun k => k.handle == x.a 0 8) = some o) : exec (.vrDrop c) s = .next ((s.withoutColl o).finish c stOk 0 0) := by
  have handle : o.handle = x.a 0 8 := by simpa using List.find?_some found
  rw [exec_vrDrop, execVrDrop, run.runCmd_eq (by simp [vr])]
  simp only [ok, found, State.withoutColl, handle]
  rfl

theorem vrDrop_effect {s : State} {c : Nat} {x : Cmd} {o : Coll} (run : Runs s c x) (vr : x.vr = 0x102) (ok : cleanBut x.args [(0, 8)] = true)
    (found : s.colls.find? (fun k => k.handle == x.a 0 8) = some o) :
    ∃ s', exec (.vrDrop c) s = .next s' ∧ (∀ k ∈ s'.colls, k.handle ≠ x.a 0 8) ∧
      (∀ u ∈ s'.units, unitIsAlloc u.uid = true ∨ unitHandle u.uid ≠ x.a 0 8) ∧
      (∀ b ∈ s'.flash.blocks, ∀ r ∈ b.recs, r.tenant = o.tenant → r.coll = o.index → r.valid = false) ∧
      (∀ k, k.handle ≠ x.a 0 8 → (k ∈ s'.colls ↔ k ∈ s.colls)) ∧ Answered s' c stOk 0 0 10000 := by
  have handle : o.handle = x.a 0 8 := by simpa using List.find?_some found
  have listed : (s.withoutColl o).colls = s.colls.filter fun y => y.handle != x.a 0 8 := handle ▸ s.withoutColl_colls o
  have gone : ∀ k ∈ (s.withoutColl o).colls, k.handle ≠ x.a 0 8 := fun k hk => by
    rw [listed] at hk
    simpa using (List.mem_filter.1 hk).2
  have work : Working (s.withoutColl o) c x :=
    ⟨(congrArg (fun t : State => t.cmd? c) (s.withoutColl_frame o) :).trans run.found, run.working.admitted, run.queued⟩
  have ends := work.finish stOk 0 0
  have colls : ((s.withoutColl o).finish c stOk 0 0).colls = (s.withoutColl o).colls := by
    rw [State.finish, work.endCmd_colls, State.dropCommitting_gone gone]
  have units : ((s.withoutColl o).finish c stOk 0 0).units = (s.withoutColl o).units := (congrArg State.units ends.rest :)
  have flash : ((s.withoutColl o).finish c stOk 0 0).flash = (s.withoutColl o).flash := (congrArg State.flash ends.rest :)
  refine ⟨_, run.exec_vrDrop_eq vr ok found, colls ▸ gone, ?_, flash ▸ s.withoutColl_records o, ?_, ends.entry⟩
  · rw [units, s.withoutColl_units, handle]
    intro u hu
    simpa using (List.mem_filter.1 hu).2
  · intro k other
    rw [colls, listed, List.mem_filter]
    simp [other]

/-! ## `vr.place` (R215, R226) -/

/-- A command that was in flight and names the collection keeps its class. -/
theorem Coll.classFor_placed_kept (o : Coll) {s : State} (cls budget c : Nat) {y : Cmd} (mem : y ∈ s.cmds) (flying : y.inFlight = true)
    (other : y.id ≠ c) (names : y.names.contains o.handle = true) : (o.placed s cls budget c).classFor y.id = o.classFor y.id := by
  have listed : (y.id, o.classFor y.id) ∈ (o.placed s cls budget c).was :=
    List.mem_map.2 ⟨y, List.mem_filter.2 ⟨mem, by simp only [flying, names, bne_iff_ne.2 other, Bool.and_true]⟩, rfl⟩
  rw [Coll.classFor]
  cases found : (o.placed s cls budget c).was.find? fun e => e.1 == y.id with
  | none => exact absurd (by simp) (List.find?_eq_none.1 found _ listed)
  | some e =>
    obtain ⟨z, _, rfl⟩ := List.mem_map.1 (List.mem_of_find?_eq_some found)
    have same : z.id = y.id := by simpa using List.find?_some found
    simp [same]

/-- A command yet to come works in the new class. -/
theorem Coll.classFor_placed_new (o : Coll) {s : State} (cls budget c : Nat) {d : Nat} (new : ∀ y ∈ s.cmds, y.id ≠ d) :
    (o.placed s cls budget c).classFor d = cls := by
  have unlisted : (o.placed s cls budget c).was.find? (fun e => e.1 == d) = none := by
    refine List.find?_eq_none.2 fun e he => ?_
    obtain ⟨y, hy, rfl⟩ := List.mem_map.1 he
    simpa using new y (List.mem_filter.1 hy).1
  rw [Coll.classFor, unlisted]
  rfl

/-- A change of a collection that keeps its handle is seen where the collection is looked up. -/
theorem State.find?_updColl {s : State} {h : Nat} {o : Coll} (f : Coll → Coll) (keeps : ∀ k, (f k).handle = k.handle)
    (found : s.colls.find? (fun k => k.handle == h) = some o) : (s.updColl h f).colls.find? (fun k => k.handle == h) = some (f o) :=
  (find?_updFirst_self _ f _ fun k => by simp [keeps]).trans (congrArg (Option.map f) found)

theorem vrPlace_effect {s : State} {c : Nat} {x : Cmd} {o : Coll} (run : Runs s c x) (vr : x.vr = 0x103)
    (ok : cleanBut x.args [(0, 8), (0xA, 1), (0x10, 8)] = true) (cls : x.a 0xA 1 ≤ 3) (idle : x.midCommit = false)
    (found : s.colls.find? (fun k => k.handle == x.a 0 8) = some o) :
    (s.reserveTakes (x.a 0 8) (x.a 0xA 1) (x.a 0x10 8) = true →
      ∃ s' o', exec (.vrPlace c) s = .next s' ∧ s'.colls.find? (fun k => k.handle == x.a 0 8) = some o' ∧
        { o' with cls := o.cls, budget := o.budget, was := o.was } = o ∧ o'.cls = x.a 0xA 1 ∧ o'.budget = x.a 0x10 8 ∧
        (∀ y ∈ s.cmds, y.inFlight = true → y.id ≠ c → y.names.contains o.handle = true → o'.classFor y.id = o.classFor y.id) ∧
        (∀ d, (∀ y ∈ s.cmds, y.id ≠ d) → o'.classFor d = x.a 0xA 1) ∧ s'.units = s.units ∧ Answered s' c stOk 0 0 10000) ∧
    (s.reserveTakes (x.a 0 8) (x.a 0xA 1) (x.a 0x10 8) = false →
      ∃ s', exec (.vrPlace c) s = .next s' ∧ EndsWith s s' c x stQuota 0 x.pos 10000) := by
  have effect : exec (.vrPlace c) s = .next (if !s.reserveTakes (x.a 0 8) (x.a 0xA 1) (x.a 0x10 8) then s.fail c stQuota
      else (s.updColl (x.a 0 8) fun o => o.placed s (x.a 0xA 1) (x.a 0x10 8) c).finish c stOk 0 0) := by
    rw [exec_vrPlace, execVrPlace, run.runCmd_eq (by simp [vr])]
    simp [ok, Nat.not_lt.2 cls]
  rw [effect]
  refine ⟨fun takes => ?_, fun full => ⟨s.fail c stQuota, by rw [full]; rfl, run.working.fail stQuota⟩⟩
  have work : Working (s.updColl (x.a 0 8) fun o => o.placed s (x.a 0xA 1) (x.a 0x10 8) c) c x := ⟨run.found, run.working.admitted, run.queued⟩
  have ends := work.finish stOk 0 0
  refine ⟨(s.updColl (x.a 0 8) fun o => o.placed s (x.a 0xA 1) (x.a 0x10 8) c).finish c stOk 0 0, o.placed s (x.a 0xA 1) (x.a 0x10 8) c,
    by rw [takes]; rfl, ?_, rfl, rfl, rfl,
    fun y mem flying other names => o.classFor_placed_kept _ _ _ mem flying other names, fun d new => o.classFor_placed_new _ _ _ new,
    (congrArg State.units ends.rest :), ends.entry⟩
  rw [ends.colls idle]
  exact State.find?_updColl _ (fun _ => rfl) found

/-! ## `vr.residency` (R227) -/

theorem leNat_toLe (n x : Nat) : leNat (toLe n x) = x % 256 ^ n := by
  induction n generalizing x with
  | zero => simp [toLe, leNat, Nat.mod_one]
  | succ n ih =>
    have step : x % 256 ^ (n + 1) = x % 256 + 256 * (x / 256 % 256 ^ n) := by rw [Nat.pow_succ', Nat.mod_mul]
    rw [toLe, leNat, ih, BitVec.toNat_ofNat, step]

/-- A number written at an offset is read there. -/
theorem leAt_append_toLe (pre post : List Byte) (n x : Nat) : leAt (pre ++ (toLe n x ++ post)) pre.length n = x % 256 ^ n := by
  rw [leAt, List.drop_left, List.take_left' (toLe_length n x), leNat_toLe]

theorem State.residency_length (s : State) (c : Coll) : (s.residency c).length = 64 := by
  simp [State.residency, toLe_length]

theorem State.residency_budget (s : State) (c : Coll) : leAt (s.residency c) 0x28 8 = c.budget % 2 ^ 64 := by
  have forty : ∀ a b d e f g : Nat, (toLe 8 a ++ toLe 8 b ++ toLe 8 d ++ toLe 8 e ++ toLe 4 f ++ toLe 4 g).length = 0x28 := by
    simp [toLe_length]
  unfold State.residency
  dsimp only
  rw [List.append_assoc, List.append_assoc, List.append_assoc, ← forty, leAt_append_toLe, show (256 : Nat) ^ 8 = 2 ^ 64 by decide]

/-- A well-formed `vr.residency` answers for its collection, if that is live. -/
theorem Runs.exec_vrResidency_eq {s : State} {c : Nat} {x : Cmd} (run : Runs s c x) (vr : x.vr = 0x104) (ok : cleanBut x.args [(0, 17)] = true)
    (space : x.a 0x10 1 ≤ 1) (addr : addrOk (bit (x.a 0x10 1) 0) (x.a 8 8) = true) :
    (∀ o t, s.coll? x (x.a 0 8) = some o → s.spaceWr x.fn (bit (x.a 0x10 1) 0) (x.a 8 8) (s.residency o) = some t →
      exec (.vrResidency c) s = .next (t.finish c stOk 0 0)) ∧
    (s.coll? x (x.a 0 8) = none → exec (.vrResidency c) s = .next (s.fail c stBadHandle)) := by
  rw [exec_vrResidency, execVrResidency, run.runCmd_eq (by simp [vr])]
  exact ⟨fun o t live wrote => by simp [ok, Nat.not_lt.2 space, addr, live, wrote], fun gone => by simp [ok, Nat.not_lt.2 space, addr, gone]⟩

theorem vrResidency_effect {s : State} {c : Nat} {x : Cmd} {dev : Bool} (run : Runs s c x) (vr : x.vr = 0x104)
    (ok : cleanBut x.args [(0, 17)] = true) (space : x.a 0x10 1 ≤ 1) (hdev : dev = bit (x.a 0x10 1) 0) (addr : addrOk dev (x.a 8 8) = true) :
    (∀ o, s.coll? x (x.a 0 8) = some o → s.canWrite x.fn dev (x.a 8 8) 64 = true → x.argBase = 0 → x.midCommit = false →
      ∃ s', exec (.vrResidency c) s = .next s' ∧ (s.residency o).length = 64 ∧ s'.spaceBytes x.fn dev (x.a 8 8) 64 = s.residency o ∧
        leAt (s.residency o) 0x28 8 = o.budget % 2 ^ 64 ∧ s'.colls = s.colls ∧ s'.units = s.units ∧ Answered s' c stOk 0 0 10000) ∧
    (s.coll? x (x.a 0 8) = none → ∃ s', exec (.vrResidency c) s = .next s' ∧ EndsWith s s' c x stBadHandle 0 x.pos 10000) := by
  subst hdev
  obtain ⟨answers, refuses⟩ := run.exec_vrResidency_eq vr ok space addr
  refine ⟨fun o live can none idle => ?_, fun gone => ⟨_, refuses gone, run.working.fail stBadHandle⟩⟩
  have length := s.residency_length o
  have sent := run.working.delivered none (bit (x.a 0x10 1) 0) (x.a 8 8) (s.residency o) stOk 0 0
  refine ⟨_, answers o _ live (State.spaceWr_eq (length ▸ can)), length, ?_, s.residency_budget o, sent.colls idle,
    (congrArg State.units sent.rest :), sent.entry⟩
  rw [← length]
  exact sent.bytes

/-- Settles O31: one effect for each command. -/
theorem dropPlaceResidency : Obligations.DropPlaceResidency := by
  unfold Obligations.DropPlaceResidency
  exact ⟨fun s c x o run vr ok found => vrDrop_effect run vr ok found,
    fun s c x o run vr ok cls idle found => vrPlace_effect run vr ok cls idle found,
    fun s c x dev run vr ok space hdev addr => vrResidency_effect run vr ok space hdev addr⟩

end Sys2Proof.Machine

/-! O34: `vr.rerank` (R59, R60) and `vr.sort` (R100 to R104). -/
namespace Sys2Proof.Machine

/-! ## `vr.rerank` -/

/-- The local ID that a global ID names has that global ID (R32). -/
theorem State.gidOf_lidOf {s : State} {c : Coll} {gid lid : Nat} (h : s.lidOf c gid = some lid) : s.gidOf c lid = gid := by
  unfold State.lidOf at h
  split at h
  · rename_i node
    cases h
    rw [State.gidOf, ← node.1]
    omega
  · cases h

/-- What a rerank returns was among its candidates. -/
theorem State.rerankList_named (s : State) (miss : Miss) (c : Coll) (mode : Nat) (q : List Nat) (model : Nat) (text : List Byte) (ids : List Nat) :
    ∀ h ∈ s.rerankList miss c mode q model text ids, h.2 ∈ ids := by
  have named : ∀ lid ∈ ids.eraseDups.filterMap (s.lidOf c), s.gidOf c lid ∈ ids := by
    intro lid hl
    obtain ⟨gid, hg, found⟩ := List.mem_filterMap.1 hl
    rw [State.gidOf_lidOf found]
    simpa using hg
  intro h hh
  rcases List.mem_append.1 (mem_of_mem_pairUnion hh) with far | near
  · obtain ⟨lid, hl, rfl⟩ := List.mem_map.1 far
    exact named lid (List.mem_filter.1 hl).1
  · obtain ⟨p, hp, found⟩ := List.mem_filterMap.1 near
    obtain ⟨d, _, rfl⟩ := Option.map_eq_some_iff.1 found
    exact named p.1 (List.mem_filter.1 (List.fst_mem_of_mem_zipIdx hp)).1

/-- What a rerank delivers. -/
def Cmd.rerankResult (x : Cmd) (s : State) (hits : List (F32 × Nat)) : Result :=
  { k := x.a 0xC 4, dev := bit (x.a 0x10 4) 6, rbuf := x.a 0x28 8, rlen := x.a 0x14 4, hits := hits, scanned := 0, probed := 0, total := none,
    filtered := false, widened := false, reranked := true, fallback := false, skew := false,
    epoch := if s.role = 0 then 0 else s.fld oFabEpoch 31 0 }

/-- A live collection's candidates are reranked here. -/
theorem Runs.exec_vrRerank_eq {s : State} {c : Nat} {x : Cmd} {o : Coll} {cb q t : List Byte} (run : Runs s c x) (vr : x.vr = 0x114)
    (whole : x.names.any s.objLost = false) (live : s.coll? x (x.a 0 8) = some o) (ok : x.rerankOk = true)
    (cands : s.input x (bit (x.a 0x10 4) 5) (x.a 0x20 8) (8 * x.a 8 4) = .ok cb)
    (query : (if x.af 0x10 1 0 = 1 then s.input x (bit (x.a 0x10 4) 4) (x.a 0x18 8) (o.dim * elemBytes (x.af 0x10 3 2)) else .ok []) = .ok q)
    (text : (if x.af 0x10 1 0 = 2 then s.input x (bit (x.a 0x10 4) 7) (x.a 0x38 8) (x.a 0x40 4) else .ok []) = .ok t) :
    exec (.vrRerank c) s =
      .next (s.rerankHere x o (readElems (x.af 0x10 3 2) o.dim q) t ((List.range (x.a 8 4)).map fun i => leAt cb (8 * i) 8)) := by
  rw [exec_vrRerank, execVrRerank, run.runVr_eq vr whole]
  simp only [live, ok, cands]
  rw [query, text]
  rfl

theorem vrRerank_effect {s : State} {c : Nat} {x : Cmd} {o : Coll} {cb q t : List Byte} {ids : List Nat} {hits : List (F32 × Nat)} {r : Result}
    {dev : Bool} (run : Runs s c x) (vr : x.vr = 0x114) (whole : x.names.any s.objLost = false) (live : s.coll? x (x.a 0 8) = some o)
    (ok : x.rerankOk = true) (cands : s.input x (bit (x.a 0x10 4) 5) (x.a 0x20 8) (8 * x.a 8 4) = .ok cb)
    (query : (if x.af 0x10 1 0 = 1 then s.input x (bit (x.a 0x10 4) 4) (x.a 0x18 8) (o.dim * elemBytes (x.af 0x10 3 2)) else .ok []) = .ok q)
    (text : (if x.af 0x10 1 0 = 2 then s.input x (bit (x.a 0x10 4) 7) (x.a 0x38 8) (x.a 0x40 4) else .ok []) = .ok t)
    (hids : ids = ((List.range (x.a 8 4)).map fun i => leAt cb (8 * i) 8))
    (hhits : hits = s.rerankList x.mayMiss o (x.af 0x10 1 0) (forMetric o.metric (readElems (x.af 0x10 3 2) o.dim q)) (x.a 0x30 8) t ids)
    (hdev : dev = bit (x.a 0x10 4) 6) (hr : r = x.rerankResult s hits) (none : x.argBase = 0)
    (can : 32 ≤ x.a 0x14 4 → s.canWrite x.fn dev (x.a 0x28 8) r.bytes.length = true) :
    ∃ s', exec (.vrRerank c) s = .next s' ∧ (32 ≤ x.a 0x14 4 → s'.spaceBytes x.fn dev (x.a 0x28 8) r.bytes.length = r.bytes) ∧
      Answered s' c r.status r.totalOf 0 10000 ∧
      hits.Pairwise (fun p q => pairBefore ktF32 false p q = true) ∧ (∀ h ∈ hits, h.2 ∈ ids) := by
  subst hids hdev hr
  have noted : ∀ l : List (Word × Nat), Progressed s (l.foldl
      (fun s p => s.logEvent evFlashMismatch o.tenant [p.1.toNat, o.index, p.2]) (s.drew (2 ^ 64))) :=
    fun l => (Progressed.drew s _).trans (.foldl _ (fun t p => .logEvent t _ _ _) l)
  obtain ⟨y, work, same⟩ := (noted _).working run.working
  obtain ⟨entry, bytes, _, _⟩ := work.deliver (r := x.rerankResult s hits) run.id_eq (congrArg Cmd.fn same :)
    ((congrArg Cmd.argBase same :).trans none) (fun long => ((noted _).canWrite ..).trans (can long)) 0
  subst hhits
  exact ⟨_, run.exec_vrRerank_eq vr whole live ok cands query text, bytes, entry, pairUnion_ordered _ _, s.rerankList_named _ _ _ _ _ _ _⟩

/-! ## The records of a sort (R101 to R103) -/

/-- What the order of records compares: the key, negated under DESC. -/
def Cmd.sortRank (x : Cmd) (r : List Byte) : Int := if x.sortDesc then -(x.sortKey r : Int) else x.sortKey r

theorem Cmd.compares_sortBefore (x : Cmd) : Compares x.sortBefore x.sortRank := by
  intro a b
  unfold Cmd.sortBefore Cmd.sortRank
  split
  · simp
  · simp

theorem Cmd.sortRank_eq_iff (x : Cmd) (a b : List Byte) : x.sortRank a = x.sortRank b ↔ x.sortKey a = x.sortKey b := by
  unfold Cmd.sortRank
  split
  · simp
  · simp

/-- Records in the order of their ranks are those of which no later one comes before. -/
theorem Cmd.sortBefore_eq_false_iff (x : Cmd) (a b : List Byte) : x.sortBefore b a = false ↔ x.sortRank a ≤ x.sortRank b := by
  rw [← not_lt, ← x.compares_sortBefore b a, Bool.not_eq_true]

/-- Without later records of a key the first record stands. -/
theorem Cmd.firstOfKey_cons (x : Cmd) (a : List Byte) (r : List (List Byte)) : ∃ t, x.firstOfKey (a :: r) = a :: t ∧ t.Sublist r := by
  induction r generalizing a with
  | nil => exact ⟨[], rfl, .slnil⟩
  | cons b r ih =>
    obtain ⟨t, ht, sub⟩ := ih b
    rw [Cmd.firstOfKey, ht]
    split
    · exact ⟨t, rfl, sub.cons b⟩
    · exact ⟨b :: t, rfl, sub.cons_cons b⟩

theorem Cmd.firstOfKey_sublist (x : Cmd) (l : List (List Byte)) : (x.firstOfKey l).Sublist l := by
  cases l with
  | nil => exact .slnil
  | cons a r =>
    obtain ⟨t, ht, sub⟩ := x.firstOfKey_cons a r
    exact ht ▸ sub.cons_cons a

/-- Of sorted records one of each key is left. -/
theorem Cmd.firstOfKey_nodup (x : Cmd) {l : List (List Byte)} (sorted : l.Pairwise fun p q => x.sortRank p ≤ x.sortRank q) :
    ((x.firstOfKey l).map x.sortKey).Nodup := by
  induction l with
  | nil => exact .nil
  | cons a r ih =>
    have ⟨least, rest⟩ := List.pairwise_cons.1 sorted
    cases r with
    | nil => exact List.nodup_singleton _
    | cons b r =>
      have distinct := ih rest
      obtain ⟨t, ht, sub⟩ := x.firstOfKey_cons b r
      rw [Cmd.firstOfKey, ht]
      rw [ht] at distinct
      split
      · rename_i same
        simpa only [List.drop_one, List.tail_cons, List.map_cons, same] using distinct
      · rename_i differ
        refine List.nodup_cons.2 ⟨fun again => ?_, distinct⟩
        obtain ⟨q, hq, same⟩ := List.mem_map.1 again
        have after : x.sortRank b ≤ x.sortRank q := by
          rcases List.mem_cons.1 hq with rfl | hq
          · exact le_refl _
          · exact (List.pairwise_cons.1 rest).1 q (sub.subset hq)
        have before : x.sortRank a ≤ x.sortRank b := least b (List.mem_cons_self ..)
        exact differ ((x.sortRank_eq_iff a b).1 (le_antisymm before (after.trans_eq ((x.sortRank_eq_iff q a).2 same))))

theorem Cmd.sorted_sublist (x : Cmd) (rs : List (List Byte)) : (x.sorted rs).Sublist (sortBy x.sortBefore rs) := by
  have kept : (if x.sortDedup then x.firstOfKey (sortBy x.sortBefore rs) else sortBy x.sortBefore rs).Sublist (sortBy x.sortBefore rs) := by
    split
    · exact x.firstOfKey_sublist _
    · exact .refl _
  unfold Cmd.sorted
  dsimp only
  split
  · exact (List.take_sublist ..).trans kept
  · exact kept

/-- The records written stand in order (R102). -/
theorem Cmd.sorted_ordered (x : Cmd) (rs : List (List Byte)) : (x.sorted rs).Pairwise fun p q => x.sortBefore q p = false :=
  ((sortBy_sorted x.compares_sortBefore rs).sublist (x.sorted_sublist rs)).imp fun h => (x.sortBefore_eq_false_iff ..).2 h

/-- With DEDUP no key is written twice (R103). -/
theorem Cmd.sorted_nodup {x : Cmd} (dedup : x.sortDedup = true) (rs : List (List Byte)) : ((x.sorted rs).map x.sortKey).Nodup := by
  have distinct := x.firstOfKey_nodup (sortBy_sorted x.compares_sortBefore rs)
  unfold Cmd.sorted
  dsimp only
  rw [if_pos dedup]
  split
  · exact distinct.sublist ((List.take_sublist ..).map _)
  · exact distinct

theorem Cmd.sorted_length {x : Cmd} (top : x.sortMode = 2) (rs : List (List Byte)) : (x.sorted rs).length ≤ x.a 0x20 4 := by
  simp only [Cmd.sorted, top, if_true]
  exact List.length_take_le ..

/-- A whole sort is the stable one. -/
theorem Cmd.sorted_whole {x : Cmd} (dedup : x.sortDedup = false) (whole : x.sortMode ≠ 2) (rs : List (List Byte)) :
    x.sorted rs = sortBy x.sortBefore rs := by
  simp [Cmd.sorted, dedup, whole]

/-- Records of one key keep their order (R102). -/
theorem Cmd.sortBy_filter_key (x : Cmd) (rs : List (List Byte)) (k : Nat) :
    ((sortBy x.sortBefore rs).filter fun p => x.sortKey p == k) = rs.filter fun p => x.sortKey p == k := by
  have rank : (fun p => x.sortKey p == k) = fun p => decide (x.sortRank p = if x.sortDesc then -(k : Int) else k) := by
    funext p
    unfold Cmd.sortRank
    split
    · simp [beq_eq_decide]
    · simp [beq_eq_decide]
  rw [rank]
  exact sortBy_stable x.compares_sortBefore _ rs

end Sys2Proof.Machine

/-! O34, continued: how `vr.sort` writes its records and their count (R100 to R104, R693). -/
namespace Sys2Proof.Machine

/-- A command without interim entries reports its progress in its record and its slot alone (R472, R475). -/
theorem State.raiseProgress_silent {s : State} {c : Nat} {y : Cmd} (found : s.cmd? c = some y) (silent : y.pstep = 0) (bp pos : Nat) :
    { s.raiseProgress c bp pos with cmds := s.cmds, pslot := s.pslot } = s := by
  unfold State.raiseProgress
  rw [found]
  dsimp only
  split
  · rfl
  unfold State.setProgress
  rw [found]
  simp only [silent, true_or, if_true]
  have slot : { (if s.ownsPslot y then (s.updCmd c fun y => { y with bp := bp, pos := pos }).setPslot y 1 bp pos
      else s.updCmd c fun y => { y with bp := bp, pos := pos }) with cmds := s.cmds, pslot := s.pslot } = s := by
    split
    · exact (congrArg (fun t : State => { t with cmds := s.cmds, pslot := s.pslot }) (State.setPslot_frame _ y 1 bp pos) :)
    · rfl
  split
  · rfl
  split
  · exact slot
  · exact slot

/-- A command at work is at work after a silent report, with the same argument block and host and device space. -/
theorem Working.raiseProgress {s : State} {c : Nat} {y : Cmd} (h : Working s c y) (silent : y.pstep = 0) (bp pos : Nat) :
    ∃ z, Working (s.raiseProgress c bp pos) c z ∧ y.butProgress z = y ∧ SameSpaces s (s.raiseProgress c bp pos) := by
  obtain ⟨z, work, same⟩ := (Progressed.raiseProgress s c bp pos).working h
  have kept := State.raiseProgress_silent h.found silent bp pos
  exact ⟨z, work, same, (congrArg State.allocs kept :), (congrArg State.dev kept :), (congrArg State.out kept :), (congrArg State.poison kept :),
    (congrArg State.ranges kept :)⟩

theorem SameSpaces.spaceBytes {s t : State} (h : SameSpaces s t) (fn : Nat) (dev : Bool) (a n : Nat) :
    t.spaceBytes fn dev a n = s.spaceBytes fn dev a n := by
  simp only [State.spaceBytes, State.devRd, State.hostBytes, h.dev, h.out]

theorem SameSpaces.sortInput {s t : State} (h : SameSpaces s t) {x : Cmd} {rs : List (Nat × Nat)} {runs : List (List (List Byte))}
    (read : s.sortInput x rs = .ok runs) : t.sortInput x rs = .ok runs := by
  unfold State.sortInput at read ⊢
  cases gathered : s.inputs x (rs.map fun r => (x.sortIn, r.1, r.2 * x.recLen)) with
  | error e => simp [gathered] at read
  | ok bs =>
    rw [h.inputs gathered]
    simpa [gathered] using read

theorem State.wrote_allocs (s : State) (fn : Nat) (dev : Bool) (a : Nat) (bs : List Byte) : (s.wrote fn dev a bs).allocs = s.allocs :=
  (congrArg State.allocs (s.wrote_frame fn dev a bs) :)

/-- The state of a sort of `n` records that has written its output, with the progress of both steps (R473). -/
def State.sortWrote (s : State) (x : Cmd) (n : Nat) (out : List (List Byte)) : State :=
  ((s.raiseProgress x.id (Nat.min 9999 (10000 * n / Nat.max 1 (n + x.sortTarget n))) 0).wrote x.fn x.sortOut (x.a 8 8) out.flatten).raiseProgress
    x.id (Nat.min 9999 (10000 * (n + out.length) / Nat.max 1 (n + x.sortTarget n))) out.length

theorem SameSpaces.wrote {s t : State} (h : SameSpaces s t) (fn : Nat) (dev : Bool) (a : Nat) (bs : List Byte) :
    SameSpaces (s.wrote fn dev a bs) (t.wrote fn dev a bs) := by
  obtain ⟨allocs, devMem, out, poison, ranges⟩ := h
  cases dev
  · exact ⟨allocs, devMem, by simp [State.wrote, out], poison, ranges⟩
  · exact ⟨allocs, by simp [State.wrote, State.devWr, devMem], out, by simp [State.wrote, State.devWr, poison], ranges⟩

/-- A command that has written its sorted records is at work, and host and device space have those records. -/
theorem Working.sortWrote {s : State} {c : Nat} {y x : Cmd} (h : Working s c y) (id : x.id = c) (silent : y.pstep = 0) (n : Nat)
    (out : List (List Byte)) :
    (∃ w, Working (s.sortWrote x n out) c w ∧ w.fn = y.fn ∧ w.argBase = y.argBase) ∧
      SameSpaces (s.wrote x.fn x.sortOut (x.a 8 8) out.flatten) (s.sortWrote x n out) := by
  subst id
  obtain ⟨z, work, same, spaces⟩ := h.raiseProgress silent (Nat.min 9999 (10000 * n / Nat.max 1 (n + x.sortTarget n))) 0
  obtain ⟨w, work', same', spaces'⟩ := (work.wrote x.fn x.sortOut (x.a 8 8) out.flatten).raiseProgress ((congrArg Cmd.pstep same :).trans silent)
    (Nat.min 9999 (10000 * (n + out.length) / Nat.max 1 (n + x.sortTarget n))) out.length
  exact ⟨⟨w, work', (congrArg Cmd.fn same' :).trans (congrArg Cmd.fn same :),
    (congrArg Cmd.argBase same' :).trans (congrArg Cmd.argBase same :)⟩, (spaces.wrote ..).trans spaces'⟩

theorem State.canWrite_wrote (s : State) (fn : Nat) (dev : Bool) (a : Nat) (bs : List Byte) (fn' : Nat) (dev' : Bool) (a' n : Nat) :
    (s.wrote fn dev a bs).canWrite fn' dev' a' n = s.canWrite fn' dev' a' n :=
  State.canWrite_congr (State.wrote_allocs ..) (State.wrote_refused ..) fn' dev' a' n

/-- A sort whose outputs can be written writes the records, then their count. -/
theorem State.sortDeliver_eq {s : State} {x : Cmd} {n : Nat} {out : List (List Byte)}
    (can : (s.raiseProgress x.id (Nat.min 9999 (10000 * n / Nat.max 1 (n + x.sortTarget n))) 0).canWrite x.fn x.sortOut (x.a 8 8)
      out.flatten.length = true) (can' : (s.sortWrote x n out).canWrite x.fn x.sortCount (x.a 0x28 8) (toLe 8 out.length).length = true) :
    s.sortDeliver x n out =
      ((s.sortWrote x n out).wrote x.fn x.sortCount (x.a 0x28 8) (toLe 8 out.length)).finish x.id stOk out.length out.length := by
  have count := State.spaceWr_eq can'
  unfold State.sortWrote at count
  unfold State.sortDeliver State.sortWrote
  dsimp only
  rw [State.spaceWr_eq can]
  dsimp only
  rw [count]

/-- The records stand where they are due, then their count where it does not overlap them, and the command has ended with it (R100, R460). -/
theorem Working.sortDeliver {s : State} {c : Nat} {y x : Cmd} (h : Working s c y) (id : x.id = c) (fn : y.fn = x.fn) (none : y.argBase = 0)
    (silent : y.pstep = 0) (n : Nat) {out : List (List Byte)} (can : s.canWrite x.fn x.sortOut (x.a 8 8) out.flatten.length = true)
    (can' : s.canWrite x.fn x.sortCount (x.a 0x28 8) 8 = true) (low : x.a 8 8 < 2 ^ 64) (low' : x.a 0x28 8 < 2 ^ 64)
    (apart : x.sortOut = x.sortCount → x.a 0x28 8 + 8 ≤ x.a 8 8 ∨ x.a 8 8 + out.flatten.length ≤ x.a 0x28 8) :
    (s.sortDeliver x n out).spaceBytes x.fn x.sortOut (x.a 8 8) out.flatten.length = out.flatten ∧
      (s.sortDeliver x n out).spaceBytes x.fn x.sortCount (x.a 0x28 8) 8 = toLe 8 out.length ∧
      Answered (s.sortDeliver x n out) c stOk out.length out.length 10000 := by
  obtain ⟨⟨w, work, sameFn, sameArg⟩, spaces⟩ := h.sortWrote id silent n out
  subst id
  obtain ⟨_, _, _, before⟩ := h.raiseProgress silent (Nat.min 9999 (10000 * n / Nat.max 1 (n + x.sortTarget n))) 0
  have length : (toLe 8 out.length).length = 8 := toLe_length ..
  have fn' : w.fn = x.fn := sameFn.trans fn
  have sent := work.delivered (sameArg.trans none) x.sortCount (x.a 0x28 8) (toLe 8 out.length) stOk out.length out.length
  have ends := (work.wrote w.fn x.sortCount (x.a 0x28 8) (toLe 8 out.length)).finish stOk out.length out.length
  have bytes := sent.bytes
  rw [fn'] at sent ends bytes
  rw [State.sortDeliver_eq ((before.canWrite ..).trans can) (by rw [length, spaces.canWrite, State.canWrite_wrote, can'])]
  refine ⟨?_, ?_, sent.entry⟩
  · rw [ends.spaceBytes (sameArg.trans none), State.spaceBytes_wrote_apart _ _ low low' (by rw [length]; exact apart), spaces.spaceBytes,
      State.spaceBytes_wrote]
  · rw [length] at bytes
    exact bytes

/-! ## `vr.sort` -/

theorem leNat_lt (bs : List Byte) : leNat bs < 256 ^ bs.length := by
  induction bs with
  | nil => simp [leNat]
  | cons b r ih =>
    have := b.isLt
    rw [leNat, List.length_cons, Nat.pow_succ]
    omega

theorem Cmd.a_lt (x : Cmd) (o n : Nat) : x.a o n < 256 ^ n :=
  (leNat_lt _).trans_le (Nat.pow_le_pow_right (by decide) (List.length_take_le ..))

/-- Runs that are sorted already are merged, and others sorted, into the records of `Cmd.sorted`. -/
theorem State.sortOutput_eq {s : State} {x : Cmd} {runs : List (List (List Byte))} (sound : x.sortMode = 1 → runs.all x.runSorted = true) :
    s.sortOutput x runs = x.sorted runs.flatten := by
  unfold State.sortOutput
  exact if_neg fun unsorted => unsorted.2 (sound unsorted.1)

theorem Runs.exec_vrSort_eq {s : State} {c : Nat} {x : Cmd} {rs : List (Nat × Nat)} {runs : List (List (List Byte))} (run : Runs s c x)
    (vr : x.vr = 0x120) (ok : x.sortOk = true) (table : s.sortRuns x = .ok rs) (fit : ∀ r ∈ rs, r.2 < 2 ^ 32 ∧ addrOk x.sortIn r.1 = true)
    (room : s.room x.fn (16 * sumBy (·.2) rs) = some true) (read : s.sortInput x rs = .ok runs)
    (sound : x.sortMode = 1 → runs.all x.runSorted = true) :
    ∃ segs, exec (.vrSort c) s = .next
      ((((s.roomy x).drew (sumBy (·.2) rs + 1)).varelmWells segs).sortDeliver x (sumBy (·.2) rs) (x.sorted runs.flatten)) := by
  have within : (rs.any fun r => decide (2 ^ 32 ≤ r.2) || !addrOk x.sortIn r.1) = false := by
    refine List.any_eq_false.2 fun r hr => ?_
    obtain ⟨short, addr⟩ := fit r hr
    simpa [addr] using short
  refine ⟨(s.roomy x).sortSegs x rs, ?_⟩
  rw [exec_vrSort, execVrSort, run.runCmd_eq (by simp [vr])]
  simp only [ok, table, within, Bool.not_true, Bool.false_eq_true, if_false]
  rw [← State.sortOutput_eq (s := s.roomy x) sound]
  refine congrArg Host.Outcome.next ((State.withRoom_eq room _).trans ?_)
  rw [(SameSpaces.roomy s x).sortInput read]

theorem vrSort_effect {s : State} {c : Nat} {x : Cmd} {rs : List (Nat × Nat)} {runs : List (List (List Byte))} {out : List (List Byte)}
    (run : Runs s c x) (vr : x.vr = 0x120) (ok : x.sortOk = true) (silent : x.pstep = 0) (table : s.sortRuns x = .ok rs)
    (fit : ∀ r ∈ rs, r.2 < 2 ^ 32 ∧ addrOk x.sortIn r.1 = true) (room : s.room x.fn (16 * sumBy (·.2) rs) = some true)
    (read : s.sortInput x rs = .ok runs) (sound : x.sortMode = 1 → runs.all x.runSorted = true) (hout : out = x.sorted runs.flatten)
    (none : x.argBase = 0) (can : s.canWrite x.fn x.sortOut (x.a 8 8) out.flatten.length = true)
    (can' : s.canWrite x.fn x.sortCount (x.a 0x28 8) 8 = true)
    (apart : x.sortOut = x.sortCount → x.a 0x28 8 + 8 ≤ x.a 8 8 ∨ x.a 8 8 + out.flatten.length ≤ x.a 0x28 8) :
    ∃ s', exec (.vrSort c) s = .next s' ∧ s'.spaceBytes x.fn x.sortOut (x.a 8 8) out.flatten.length = out.flatten ∧
      s'.spaceBytes x.fn x.sortCount (x.a 0x28 8) 8 = toLe 8 out.length ∧ Answered s' c stOk out.length out.length 10000 := by
  subst hout
  obtain ⟨segs, effect⟩ := run.exec_vrSort_eq vr ok table fit room read sound
  obtain ⟨t, ht⟩ : ∃ t, t = ((s.roomy x).drew (sumBy (·.2) rs + 1)).varelmWells segs := ⟨_, rfl⟩
  have wells := ((s.roomy x).drew (sumBy (·.2) rs + 1)).varelmWells_frame segs
  rw [← ht] at effect wells
  have work : Working t c { x with needRoom := 0 } := run.working.roomy.of_cmds (congrArg State.cmds wells :)
  have spaces : SameSpaces s t := (SameSpaces.roomy s x).trans ⟨(congrArg State.allocs wells :), (congrArg State.dev wells :),
    (congrArg State.out wells :), (congrArg State.poison wells :), (congrArg State.ranges wells :)⟩
  exact ⟨_, effect, work.sortDeliver run.id_eq rfl none silent _ ((spaces.canWrite ..).trans can) ((spaces.canWrite ..).trans can')
    (x.a_lt 8 8) (x.a_lt 0x28 8) apart⟩

/-- Settles O34: the effect of each command, and what the sort does to its records. -/
theorem rerankAndSort : Obligations.RerankAndSort := by
  unfold Obligations.RerankAndSort
  refine ⟨?_, ?_⟩
  · intro s c x o cb q t ids hits r dev run vr whole live ok cands query text hids hhits hdev hr none can
    subst hdev
    exact vrRerank_effect run vr whole live ok cands query text hids hhits rfl hr none can
  · intro s c x rs runs out run vr ok silent table fit room read sound hout none can can' apart
    obtain ⟨s', effect, records, count, entry⟩ := vrSort_effect run vr ok silent table fit room read sound hout none can can' apart
    subst hout
    refine ⟨s', effect, records, count, entry, x.sorted_ordered _, fun dedup => Cmd.sorted_nodup dedup _, fun top => Cmd.sorted_length top _,
      fun dedup whole => ?_, fun dedup whole k => ?_⟩
    · rw [Cmd.sorted_whole dedup whole]
      exact sortBy_perm ..
    · rw [Cmd.sorted_whole dedup whole]
      exact x.sortBy_filter_key _ k

end Sys2Proof.Machine

/-! O36: compaction of fine lists and the release of their old ranges (R69 to R72, R134, R135). -/
namespace Sys2Proof.Machine

/-! ## A program that notes where it stands -/

/-- A change of a command at work that keeps its number and phase leaves it at work where the change says. -/
theorem Working.atWork {s : State} {c : Nat} {x : Cmd} (h : Working s c x) {k : Work} (f : Cmd → Cmd) (id : ∀ y, (f y).id = y.id)
    (phase : (f x).phase = x.phase) (work : (f x).work = k) : AtWork (s.updCmd c f) c k :=
  ⟨f x, (s.cmd?_updCmd_self c f id).trans (congrArg (Option.map f) h.found), phase.trans h.admitted, work⟩

/-- The command with its work begun and standing at `w`. -/
def Cmd.begun (y : Cmd) (w : Work) : Cmd := { y with started := true, work := w }

/-- The device after a command has noted its position and reported it. -/
def State.noted (s : State) (c : Nat) (f : Cmd → Cmd) (bp pos : Nat) : State := (s.updCmd c f).raiseProgress c bp pos

theorem Working.noted {s : State} {c : Nat} {x : Cmd} (h : Working s c x) {k : Work} (f : Cmd → Cmd) (bp pos : Nat) (id : ∀ y, (f y).id = y.id)
    (phase : (f x).phase = x.phase) (work : (f x).work = k) : AtWork (s.noted c f bp pos) c k :=
  (Progressed.raiseProgress _ c bp pos).atWork (h.atWork f id phase work)

theorem State.noted_colls (s : State) (c : Nat) (f : Cmd → Cmd) (bp pos : Nat) : (s.noted c f bp pos).colls = s.colls :=
  (congrArg State.colls (Progressed.raiseProgress (s.updCmd c f) c bp pos).rest :)

theorem State.noted_oldRanges (s : State) (c : Nat) (f : Cmd → Cmd) (bp pos : Nat) : (s.noted c f bp pos).oldRanges = s.oldRanges :=
  (congrArg State.oldRanges (Progressed.raiseProgress (s.updCmd c f) c bp pos).rest :)

/-! ## A list of a collection -/

theorem Coll.list_put_self (c : Coll) (l : Nat) (f : FineList) : ({ c with lists := Map.put c.lists l f } : Coll).list l = f :=
  Map.getD_put_self ..

theorem Coll.list_put_ne (c : Coll) {k l : Nat} (f : FineList) (h : k ≠ l) : ({ c with lists := Map.put c.lists l f } : Coll).list k = c.list k :=
  Map.getD_put_ne _ _ _ h

/-! ## Tags of a list written whole (R134, R135) -/

theorem listScale_tag (t : Nat) : field (listScale t).toNat 31 24 = t % 256 := by
  have low : t % 256 < 256 := Nat.mod_lt _ (by decide)
  rw [field, listScale, BitVec.toNat_ofNat]
  omega

/-- Every code block of a rewritten list carries the tag of its scale entry. -/
theorem FineList.rewrite_agrees (f : FineList) (es : List Entry) (segs : List Seg) {j : Nat} (block : j < ceilDiv es.length 256) :
    ((f.rewrite es segs).tags.getD j 0).toNat = field ((f.rewrite es segs).scales.getD j 0).toNat 31 24 := by
  simp only [FineList.rewrite, List.getD_eq_getElem?_getD, List.getElem?_map, List.getElem?_range block, Option.map_some, Option.getD_some,
    BitVec.toNat_ofNat, listScale_tag]

/-- The collection with list `l` compacted into the segments `segs` (R70). -/
def Coll.compacted (c : Coll) (l : Nat) (segs : List Seg) : Coll :=
  { c with lists := Map.put c.lists l ((c.list l).rewrite ((c.list l).entries.filter fun e => !e.tomb) segs) }

theorem Coll.compacted_self (c : Coll) (l : Nat) (segs : List Seg) :
    (c.compacted l segs).list l = (c.list l).rewrite ((c.list l).entries.filter fun e => !e.tomb) segs := c.list_put_self ..

theorem Coll.compacted_ne (c : Coll) {k l : Nat} (segs : List Seg) (h : k ≠ l) : (c.compacted l segs).list k = c.list k := c.list_put_ne _ h

theorem Coll.compacted_listSkew (c : Coll) (l : Nat) (segs : List Seg) : (c.compacted l segs).listSkew l = none := by
  rw [Coll.listSkew, c.compacted_self]
  refine List.find?_eq_none.2 fun j hj => ?_
  have block : j < ceilDiv ((c.list l).entries.filter fun e => !e.tomb).length 256 := List.mem_range.1 hj
  simpa using FineList.rewrite_agrees (c.list l) _ segs block

/-! ## What a compaction leaves -/

theorem State.discards_frame (s : State) (c : Coll) (lids : List Nat) :
    { lids.foldl (fun t lid => t.discard c lid) s with flash := s.flash } = s :=
  List.foldlRecOn (motive := fun t : State => ({ t with flash := s.flash } : State) = s) lids _ rfl fun _ kept _ _ => kept

/-- `t` with what a compaction touches taken from `s`. -/
def State.butCompact (s t : State) : State :=
  { t with units := s.units, flash := s.flash, colls := s.colls, regs := s.regs, free := s.free, nextMove := s.nextMove, oldRanges := s.oldRanges }

theorem State.butCompact_trans {s t u : State} (h : s.butCompact t = s) (h' : t.butCompact u = t) : s.butCompact u = s :=
  (congrArg s.butCompact h' :).trans h

theorem State.wells_butCompact (s : State) (n : Nat) (segs : List Seg) : s.butCompact ((s.drew n).varelmWells segs) = s :=
  (congrArg s.butCompact ((s.drew n).varelmWells_frame segs) :)

theorem State.discards_butCompact (s : State) (c : Coll) (lids : List Nat) :
    s.butCompact (lids.foldl (fun t lid => t.discard c lid) s) = s :=
  (congrArg s.butCompact (s.discards_frame c lids) :)

theorem State.relisted_butCompact (s : State) (h : Nat) (f : Coll → Coll) (u : UnitId) (n : Nat) (g : PUnit → PUnit) :
    s.butCompact (((s.updColl h f).sizeUnit u n).updUnit u g) = s := by
  have coll : s.butCompact (s.updColl h f) = s := rfl
  have unit : ∀ (t : State) (k : PUnit → PUnit), t.butCompact (t.updUnit u k) = t := fun _ _ => rfl
  exact State.butCompact_trans (State.butCompact_trans coll (unit _ _)) (unit _ _)

theorem State.compactList_frame (s : State) (c : Coll) (l : Nat) : s.butCompact (s.compactList c l) = s := by
  unfold State.compactList
  extract_lets fl keep old readers segs s1 s2 s3
  have discarded : s.butCompact s1 = s := s.discards_butCompact c _
  have worked : s2.butCompact s3 = s2 := s2.wells_butCompact _ _
  have rewritten : s.butCompact s2 = s := State.butCompact_trans discarded (s1.relisted_butCompact ..)
  have all : s.butCompact s3 = s := State.butCompact_trans rewritten worked
  clear_value s3
  exact all

/-- The collection holds the list rewritten. -/
theorem State.compactList_found {s : State} {c : Coll} (found : s.colls.find? (fun k => k.handle == c.handle) = some c) (l : Nat) :
    ∃ segs, (s.compactList c l).colls.find? (fun k => k.handle == c.handle) = some (c.compacted l segs) := by
  unfold State.compactList
  extract_lets fl keep old readers segs s1 s2 s3
  refine ⟨segs, ?_⟩
  have discarded : s1.colls = s.colls := (congrArg State.colls (s.discards_frame c (s.orphans c l)) :)
  have worked : s3.colls = s2.colls := (congrArg State.colls ((s2.drew (2 * segs.length)).varelmWells_frame (s.wellSegs c l)) :)
  have rewritten := State.find?_updColl (s := s1) (fun o => { o with lists := Map.put o.lists l (fl.rewrite keep segs) }) (fun _ => rfl)
    ((congrArg (List.find? _) discarded).trans found)
  clear_value s3
  exact (congrArg (List.find? _) worked).trans rewritten

/-- The old range is held for the searches of the collection that are admitted. -/
theorem State.compactList_range (s : State) (c : Coll) (l : Nat) :
    ∃ r ∈ (s.compactList c l).oldRanges, r.handle = c.handle ∧ r.list = l ∧
      ∀ y ∈ s.cmds, y.phase = .admitted → y.vr = 0x110 → y.names.contains c.handle = true → y.id ∈ r.readers := by
  unfold State.compactList
  extract_lets fl keep old readers segs s1 s2 s3
  refine ⟨_, List.mem_append_right _ (List.mem_singleton_self _), rfl, rfl, fun y mem admitted vr names => ?_⟩
  exact List.mem_map_of_mem (List.mem_filter.2 ⟨mem, by rw [admitted, vr, names]; rfl⟩)

/-! ## The steps of a compaction -/

theorem Runs.exec_vrCompact_eq {s : State} {c : Nat} {x : Cmd} {o : Coll} {n a b d e f : Nat} (run : Runs s c x) (vr : x.vr = 0x113)
    (whole : x.names.any s.objLost = false) (live : s.coll? x (x.a 0 8) = some o) (work : x.work = .compact n a b d e f) :
    exec (.vrCompact c) s = .next (s.compactStep x o n a b d e f) := by
  rw [exec_vrCompact, execVrCompact, run.runVr_eq vr whole]
  simp only [live, work]

/-- A list that is due is compacted, and counted in the command's sums. -/
theorem State.compactStep_due {s : State} {x : Cmd} {o : Coll} {n : Nat} (a b d e f : Nat) (within : n ≤ (x.compactSpan o).2)
    (due : x.af 8 1 0 ≠ 0 ∨ x.a 0xC 4 ≤ (o.list n).share) (ready : s.compactable o n = true) :
    s.compactStep x o n a b d e f = (s.compactList o n).noted x.id (fun y => y.begun (.compact (n + 1) (a + 1) (b + 1)
        (d + ((o.list n).entries.filter (·.tomb)).length) (e + o.freed n) (f + (s.orphans o n).length)))
      (10000 * (a + 1) / ((x.compactSpan o).2 - (x.compactSpan o).1 + 1)) n := by
  have due' : (x.af 8 1 0 != 0 || decide (x.a 0xC 4 ≤ (o.list n).share)) = true := by simpa using due
  unfold State.compactStep
  simp only [due', ready, Nat.not_lt.2 within, if_false, Bool.not_true, Bool.false_eq_true]
  rfl

/-- A list below the share is counted as examined. -/
theorem State.compactStep_passed {s : State} {x : Cmd} {o : Coll} {n : Nat} (a b d e f : Nat) (within : n ≤ (x.compactSpan o).2)
    (mode : x.af 8 1 0 = 0) (below : (o.list n).share < x.a 0xC 4) :
    s.compactStep x o n a b d e f = s.noted x.id (fun y => y.begun (.compact (n + 1) (a + 1) b d e f))
      (10000 * (a + 1) / ((x.compactSpan o).2 - (x.compactSpan o).1 + 1)) n := by
  have due : (x.af 8 1 0 != 0 || decide (x.a 0xC 4 ≤ (o.list n).share)) = false := by simpa [mode] using below
  unfold State.compactStep
  simp only [due, Nat.not_lt.2 within, if_false, Bool.not_false, if_true]
  rfl

theorem reportBytes_length (n a b d e f : Nat) : (reportBytes (.compact n a b d e f)).length = 32 := by
  simp [reportBytes, toLe_length]

/-- Past the last list the command writes its report and ends. -/
theorem State.compactStep_end {s : State} {x : Cmd} {o : Coll} {n : Nat} (a b d e f : Nat) (past : (x.compactSpan o).2 < n)
    (can : s.canWrite x.fn (bit (x.a 8 4) 2) (x.a 0x18 8) 32 = true) :
    s.compactStep x o n a b d e f =
      (s.wrote x.fn (bit (x.a 8 4) 2) (x.a 0x18 8) (reportBytes (.compact n a b d e f))).finish x.id stOk 0 (x.compactSpan o).2 := by
  have wrote : s.putReport x (.compact n a b d e f) = some (s.wrote x.fn (bit (x.a 8 4) 2) (x.a 0x18 8) (reportBytes (.compact n a b d e f))) :=
    State.spaceWr_eq (by rw [reportBytes_length, can])
  unfold State.compactStep
  simp only [past, if_true, wrote]

theorem vrCompact_effect {s : State} {c : Nat} {x : Cmd} {o : Coll} {n a b d e f : Nat} (run : Runs s c x) (vr : x.vr = 0x113)
    (whole : x.names.any s.objLost = false) (live : s.coll? x (x.a 0 8) = some o) (found : s.colls.find? (fun k => k.handle == o.handle) = some o)
    (work : x.work = .compact n a b d e f) (within : n ≤ (x.compactSpan o).2) (due : x.af 8 1 0 ≠ 0 ∨ x.a 0xC 4 ≤ (o.list n).share)
    (ready : s.compactable o n = true) :
    ∃ s' o', exec (.vrCompact c) s = .next s' ∧ s'.colls.find? (fun k => k.handle == o.handle) = some o' ∧
      (o'.list n).entries = (o.list n).entries.filter (fun e => !e.tomb) ∧ (o'.list n).committed = (o'.list n).entries.length ∧
      (o'.list n).gen = ((o.list n).gen + 1) % 256 ∧ o'.listSkew n = none ∧ (∀ l, l ≠ n → o'.list l = o.list l) ∧
      AtWork s' c (.compact (n + 1) (a + 1) (b + 1) (d + ((o.list n).entries.filter (·.tomb)).length) (e + o.freed n)
        (f + (s.orphans o n).length)) ∧
      ∃ r ∈ s'.oldRanges, r.handle = o.handle ∧ r.list = n ∧
        ∀ y ∈ s.cmds, y.phase = .admitted → y.vr = 0x110 → y.names.contains o.handle = true → y.id ∈ r.readers := by
  obtain ⟨segs, compacted⟩ := State.compactList_found found n
  have range := s.compactList_range o n
  have still : Working (s.compactList o n) c x :=
    ⟨(congrArg (fun t : State => t.cmd? c) (s.compactList_frame o n) :).trans run.found, run.working.admitted, run.queued⟩
  have effect := (run.exec_vrCompact_eq vr whole live work).trans (congrArg _ (State.compactStep_due a b d e f within due ready))
  rw [run.id_eq] at effect
  refine ⟨_, o.compacted n segs, effect, ?_, ?_, ?_, ?_, o.compacted_listSkew n segs, fun l other => o.compacted_ne segs other, ?_, ?_⟩
  · rw [State.noted_colls]
    exact compacted
  · rw [o.compacted_self]
    rfl
  · rw [o.compacted_self]
    rfl
  · rw [o.compacted_self]
    rfl
  · exact still.noted _ _ _ (fun _ => rfl) rfl rfl
  · rw [State.noted_oldRanges]
    exact range

theorem vrCompact_report {s : State} {c : Nat} {x : Cmd} {o : Coll} {n a b d e f : Nat} {dev : Bool} (run : Runs s c x) (vr : x.vr = 0x113)
    (whole : x.names.any s.objLost = false) (live : s.coll? x (x.a 0 8) = some o) (work : x.work = .compact n a b d e f)
    (past : (x.compactSpan o).2 < n) (hdev : dev = bit (x.a 8 4) 2) (none : x.argBase = 0) (can : s.canWrite x.fn dev (x.a 0x18 8) 32 = true) :
    ∃ s', exec (.vrCompact c) s = .next s' ∧ s'.spaceBytes x.fn dev (x.a 0x18 8) 32 = toLe 4 a ++ toLe 4 b ++ toLe 8 d ++ toLe 8 e ++ toLe 8 f ∧
      Answered s' c stOk 0 (x.compactSpan o).2 10000 := by
  subst hdev
  have sent := run.working.delivered none (bit (x.a 8 4) 2) (x.a 0x18 8) (reportBytes (.compact n a b d e f)) stOk 0 (x.compactSpan o).2
  have effect := (run.exec_vrCompact_eq vr whole live work).trans (congrArg _ (State.compactStep_end a b d e f past can))
  rw [run.id_eq] at effect
  have bytes := sent.bytes
  rw [reportBytes_length] at bytes
  exact ⟨_, effect, bytes, sent.entry⟩

theorem autoCompaction_effect {s : State} {o : Coll} {h l : Nat} (active : s.active = true)
    (found : s.colls.find? (fun k => k.handle == h) = some o) (alive : o.dying = none) (on : o.compactAt ≠ 0) (listed : l < o.nlists)
    (due : o.compactAt ≤ (o.list l).share) (ready : s.compactable o l = true) : exec (.autoCompaction h l) s = .next (s.compactList o l) := by
  rw [exec_autoCompaction, execAutoCompaction]
  simp [found, onlyIf, active, alive, on, listed, due, ready]

/-- Settles O36: one list a step keeps its live entries under the next generation, and its old range waits for its readers. -/
theorem compaction : Obligations.Compaction := by
  unfold Obligations.Compaction
  refine ⟨fun s c x o n a b d e f run vr whole live found work => ⟨fun within due ready => ?_, fun within mode below => ?_,
    fun dev past hdev none can => vrCompact_report run vr whole live work past hdev none can⟩, ?_, ?_⟩
  · exact vrCompact_effect run vr whole live found work within due ready
  · have effect := (run.exec_vrCompact_eq vr whole live work).trans (congrArg _ (State.compactStep_passed a b d e f within mode below))
    rw [run.id_eq] at effect
    exact ⟨_, effect, State.noted_colls .., run.working.noted _ _ _ (fun _ => rfl) rfl rfl⟩
  · intro s o h l active found alive on listed due ready
    obtain rfl : o.handle = h := by simpa using List.find?_some found
    obtain ⟨segs, compacted⟩ := State.compactList_found found l
    exact ⟨_, o.compacted l segs, autoCompaction_effect active found alive on listed due ready, compacted, by rw [o.compacted_self]; rfl,
      by rw [o.compacted_self]; rfl, o.compacted_listSkew l segs, fun k other => o.compacted_ne segs other,
      (congrArg State.cmds (s.compactList_frame o l) :)⟩
  · intro s r v live found unread
    have effect : exec (.rangeRelease r) s = .next { s with oldRanges := s.oldRanges.filter fun x => x.id != r } := by
      rw [exec_rangeRelease, execRangeRelease]
      simp [found, onlyIf, live, unread]
    exact ⟨_, effect, fun k kept => by simpa using (List.mem_filter.1 kept).2, rfl⟩

end Sys2Proof.Machine

/-! O35: `vr.insert` and `vr.delete`, one vector a step (R61 to R66). -/
namespace Sys2Proof.Machine

/-! ## Lists changed in place -/

/-- What a key reads after a change of the map's values in place. -/
theorem Map.get?_map_values {α : Type} (m : Map α) {g : Nat × α → Nat × α} (keys : ∀ p, (g p).1 = p.1) (k : Nat) :
    Map.get? (m.map g) k = (m.find? fun p => p.1 == k).map fun p => (g p).2 := by
  simp only [Map.get?, List.find?_map, Function.comp_def, keys, Option.map_map]

theorem Coll.commitList_self (c : Coll) (l : Nat) :
    (c.commitList l).list l = { c.list l with committed := (c.list l).entries.length } := by
  unfold Coll.commitList Coll.list Map.getD
  rw [Map.get?_map_values _ (fun p => by split <;> rfl), Map.get?]
  cases found : c.lists.find? fun p => p.1 == l with
  | none => rfl
  | some p =>
    have key : p.1 = l := by simpa using List.find?_some found
    simp [key]

theorem Coll.commitList_ne (c : Coll) {k l : Nat} (other : k ≠ l) : (c.commitList l).list k = c.list k := by
  unfold Coll.commitList Coll.list Map.getD
  rw [Map.get?_map_values _ (fun p => by split <;> rfl), Map.get?]
  cases found : c.lists.find? fun p => p.1 == k with
  | none => rfl
  | some p =>
    have key : p.1 = k := by simpa using List.find?_some found
    simp [key, other]

/-- An entry after a delete of a local ID by the command `b` (R66). -/
def Entry.buried (lid b : Nat) (e : Entry) : Entry := if e.lid = lid ∧ !e.tomb then { e with tomb := true, del := b } else e

theorem Entry.buried_lid (lid b : Nat) (e : Entry) : (e.buried lid b).lid = e.lid := by unfold Entry.buried; split <;> rfl

theorem Entry.buried_other {lid b : Nat} {e : Entry} (other : e.lid ≠ lid) : e.buried lid b = e := if_neg fun h => other h.1

theorem Entry.buried_tomb {lid b : Nat} {e : Entry} (named : e.lid = lid) : (e.buried lid b).tomb = true := by
  unfold Entry.buried
  split
  · rfl
  · rename_i kept
    simpa [named] using kept

/-- A list after a delete. -/
def FineList.buried (lid b : Nat) (f : FineList) : FineList := { f with entries := f.entries.map (Entry.buried lid b) }

theorem Coll.bury_lists (c : Coll) (lid b : Nat) : (c.bury lid b).lists = c.lists.map fun p => (p.1, p.2.buried lid b) := rfl

theorem Coll.bury_entries (c : Coll) (lid b l : Nat) : ((c.bury lid b).list l).entries = (c.list l).entries.map (Entry.buried lid b) := by
  rw [Coll.list, Coll.list, c.bury_lists, Map.getD, Map.getD, 
    Map.get?_map_values (α := FineList) (g := fun p => (p.1, p.2.buried lid b)) _ (fun _ => rfl), Map.get?]
  cases c.lists.find? fun p => p.1 == l with
  | none => rfl
  | some p => rfl

theorem Coll.bury_entriesOf (c : Coll) (lid b k : Nat) : (c.bury lid b).entriesOf k = (c.entriesOf k).map (Entry.buried lid b) := by
  rw [Coll.entriesOf, Coll.entriesOf, c.bury_lists, List.flatMap_map, List.map_flatMap]
  refine List.flatMap_congr fun p _ => ?_
  change ((p.2.entries.map (Entry.buried lid b)).take p.2.committed).filter _ = _
  rw [← List.map_take, List.filter_map]
  simp only [Function.comp_def, Entry.buried_lid]

theorem Coll.bury_isLive (c : Coll) (lid b : Nat) : (c.bury lid b).isLive lid = false := by
  have dead : (c.bury lid b).liveEntries lid = [] := by
    rw [Coll.liveEntries, c.bury_entriesOf]
    refine List.filter_eq_nil_iff.2 fun e he => ?_
    obtain ⟨e', he', rfl⟩ := List.mem_map.1 he
    obtain ⟨p, _, hp⟩ := List.mem_flatMap.1 he'
    have named : e'.lid = lid := by simpa using (List.mem_filter.1 hp).2
    simp [Entry.buried_tomb named]
  rw [Coll.isLive, dead]
  rfl

/-- A delete leaves the entries of every other local ID. -/
theorem Coll.bury_liveEntries (c : Coll) {lid k : Nat} (b : Nat) (other : k ≠ lid) : (c.bury lid b).liveEntries k = c.liveEntries k := by
  have same : (c.entriesOf k).map (Entry.buried lid b) = c.entriesOf k := by
    refine (List.map_congr_left fun e he => ?_).trans (List.map_id _)
    obtain ⟨p, _, hp⟩ := List.mem_flatMap.1 he
    have named : e.lid = k := by simpa using (List.mem_filter.1 hp).2
    exact Entry.buried_other (named ▸ other)
  rw [Coll.liveEntries, c.bury_entriesOf, same, Coll.liveEntries]

/-! ## Entries appended to the lists of a vector (R61, R63) -/

/-- The collection with one entry of a vector in one of its lists. -/
def Coll.withEntry (o c : Coll) (g : Seg) (lid attr : Nat) (loc : Word) (cmd : Nat) (p : Nat × List Nat) : Coll :=
  { o with lists := Map.put o.lists p.1 ((o.list p.1).append (segSlots c.sub c.attrb) g
      { codes := p.2, lid := lid, attr := attr, tomb := false, loc := loc, ins := cmd, del := 0 }) }

/-- The device with one entry of a vector in one of its lists. -/
def State.addEntry (c : Coll) (lid attr : Nat) (loc : Word) (cmd : Nat) (s : State) (p : Nat × List Nat) : State :=
  ((s.updColl c.handle fun o => o.withEntry c (s.newSeg c p.1 0) lid attr loc cmd p).sizeUnit (.fineList c.handle p.1)
    (c.listSize ((c.list p.1).entries.length + 1))).drew 2

theorem State.addEntries_eq (s : State) (c : Coll) (places : List (Nat × List Nat)) (lid attr : Nat) (loc : Word) (cmd : Nat) :
    s.addEntries c places lid attr loc cmd = (places.foldl (State.addEntry c lid attr loc cmd) s).growIdMap c (lid + 1) := rfl

/-- The pieces of an ID map are units. -/
theorem State.growIdMap_frame (s : State) (c : Coll) (lids : Nat) : { s.growIdMap c lids with units := s.units, free := s.free } = s := by
  unfold State.growIdMap
  refine List.foldlRecOn (motive := fun t : State => ({ t with units := s.units, free := s.free } : State) = s) _ _ rfl fun t kept p _ => ?_
  split
  · exact kept
  · exact kept

theorem State.growIdMap_keeps (s : State) (c : Coll) (lids : Nat) :
    (s.growIdMap c lids).cmds = s.cmds ∧ (s.growIdMap c lids).colls = s.colls := by
  have keeps : ∀ {t : State}, ({ t with units := s.units, free := s.free } : State) = s → t.cmds = s.cmds ∧ t.colls = s.colls :=
    fun kept => ⟨(congrArg State.cmds kept :), (congrArg State.colls kept :)⟩
  exact keeps (s.growIdMap_frame c lids)

theorem State.addEntries_cmds (s : State) (c : Coll) (places : List (Nat × List Nat)) (lid attr : Nat) (loc : Word) (cmd : Nat) :
    (s.addEntries c places lid attr loc cmd).cmds = s.cmds := by
  rw [s.addEntries_eq]
  exact (State.growIdMap_keeps _ c (lid + 1)).1.trans
    (List.foldlRecOn (motive := fun t : State => t.cmds = s.cmds) places _ rfl fun _ kept _ _ => kept)

/-- `o'` is `o` with an entry of the vector behind the others of each of its places, and the other lists as they were. -/
structure Coll.Took (o o' : Coll) (places : List (Nat × List Nat)) (lid attr : Nat) : Prop where
  nextLid : o'.nextLid = o.nextLid
  taken : ∀ p ∈ places, (o'.list p.1).committed = (o.list p.1).committed ∧
    ∃ e, (o'.list p.1).entries = (o.list p.1).entries ++ [e] ∧ e.lid = lid ∧ e.codes = p.2 ∧ e.attr = attr ∧ e.tomb = false
  others : ∀ l, l ∉ places.map (·.1) → o'.list l = o.list l

theorem Coll.Took.cons {o o1 o' : Coll} {p : Nat × List Nat} {ps : List (Nat × List Nat)} {lid attr : Nat} (new : p.1 ∉ ps.map (·.1))
    (first : o.Took o1 [p] lid attr) (rest : o1.Took o' ps lid attr) : o.Took o' (p :: ps) lid attr where
  nextLid := rest.nextLid.trans first.nextLid
  taken q hq := by
    rcases List.mem_cons.1 hq with rfl | hq
    · rw [rest.others _ new]
      exact first.taken _ (List.mem_singleton_self _)
    · have other : q.1 ∉ [p].map (·.1) := fun same => by
        have same : q.1 = p.1 := by simpa using same
        exact new (same ▸ List.mem_map_of_mem hq)
      rw [← first.others _ other]
      exact rest.taken q hq
  others l hl := by
    rw [List.map_cons, List.mem_cons, not_or] at hl
    rw [rest.others l hl.2, first.others l (by simpa using hl.1)]

theorem Coll.took_withEntry (o c : Coll) (g : Seg) (lid attr : Nat) (loc : Word) (cmd : Nat) (p : Nat × List Nat) :
    o.Took (o.withEntry c g lid attr loc cmd p) [p] lid attr where
  nextLid := rfl
  taken q hq := by
    rw [List.mem_singleton.1 hq, Coll.withEntry, o.list_put_self]
    exact ⟨rfl, _, rfl, rfl, rfl, rfl, rfl⟩
  others l hl := o.list_put_ne _ (by simpa using hl)

theorem State.addEntries_took (c : Coll) (lid attr : Nat) (loc : Word) (cmd : Nat) (places : List (Nat × List Nat)) :
    ∀ (s : State) (o : Coll), (places.map (·.1)).Nodup → s.colls.find? (fun k => k.handle == c.handle) = some o →
      ∃ o', (s.addEntries c places lid attr loc cmd).colls.find? (fun k => k.handle == c.handle) = some o' ∧ o.Took o' places lid attr := by
  have folded : ∀ (s : State) (o : Coll), (places.map (·.1)).Nodup → s.colls.find? (fun k => k.handle == c.handle) = some o →
      ∃ o', (places.foldl (State.addEntry c lid attr loc cmd) s).colls.find? (fun k => k.handle == c.handle) = some o' ∧
        o.Took o' places lid attr := by
    induction places with
    | nil => exact fun s o _ found => ⟨o, found, rfl, fun _ h => absurd h (List.not_mem_nil), fun _ _ => rfl⟩
    | cons p ps ih =>
      intro s o distinct found
      obtain ⟨new, distinct⟩ := List.nodup_cons.1 distinct
      have one : (State.addEntry c lid attr loc cmd s p).colls.find? (fun k => k.handle == c.handle) =
          some (o.withEntry c (s.newSeg c p.1 0) lid attr loc cmd p) := State.find?_updColl _ (fun _ => rfl) found
      obtain ⟨o', found', took⟩ := ih _ _ distinct one
      exact ⟨o', found', (o.took_withEntry ..).cons new took⟩
  intro s o distinct found
  obtain ⟨o', found', took⟩ := folded s o distinct found
  refine ⟨o', ?_, took⟩
  rw [s.addEntries_eq, (State.growIdMap_keeps _ c (lid + 1)).2]
  exact found'

/-- The lists of a vector are distinct. -/
theorem Coll.place_nodup (c : Coll) (k : Nat) (v : List Nat) : ((c.place k v).map (·.1)).Nodup := by
  unfold Coll.place
  dsimp only
  split
  · exact List.nodup_nil
  · rename_i i _
    rw [List.map_map]
    refine (List.map_id _).symm ▸ ((rankBy_perm _ _).nodup_iff.2 ?_).sublist (List.take_sublist ..)
    exact List.nodup_range.map fun a b same => Nat.add_left_cancel same

end Sys2Proof.Machine

/-! O35, continued: the steps of `vr.insert` and `vr.delete` (R61 to R66). -/
namespace Sys2Proof.Machine

/-! ## The programs at this node -/

/-- A collection of this node alone, or one at a node that is no queen, is worked on here. -/
theorem notQueens {s : State} {o : Coll} (here : o.pod = none ∨ s.role ≠ 2) : ¬(o.pod.isSome = true ∧ s.role = 2) := by
  rintro ⟨pod, queen⟩
  rcases here with alone | worker
  · simp [alone] at pod
  · exact worker queen

theorem Runs.exec_vrInsert_eq {s : State} {c : Nat} {x : Cmd} {o : Coll} (run : Runs s c x) (vr : x.vr = 0x111)
    (whole : x.names.any s.objLost = false) (live : s.coll? x (x.a 0 8) = some o) (here : o.pod = none ∨ s.role ≠ 2) :
    exec (.vrInsert c) s = .next (s.insertHere x o) := by
  rw [exec_vrInsert, execVrInsert, run.runVr_eq vr whole]
  simp only [live, if_neg (notQueens here)]

theorem Runs.exec_vrDelete_eq {s : State} {c : Nat} {x : Cmd} {o : Coll} (run : Runs s c x) (vr : x.vr = 0x112)
    (whole : x.names.any s.objLost = false) (live : s.coll? x (x.a 0 8) = some o) (here : o.pod = none ∨ s.role ≠ 2) :
    exec (.vrDelete c) s = .next (s.deleteHere x o) := by
  rw [exec_vrDelete, execVrDelete, run.runVr_eq vr whole]
  simp only [live, if_neg (notQueens here)]

/-- The device after a command's work was set. -/
def State.setWork (s : State) (c : Nat) (w : Work) : State := s.updCmd c fun y => { y with work := w }

theorem State.setWork_colls (s : State) (c : Nat) (w : Work) : (s.setWork c w).colls = s.colls := rfl

theorem Working.setWork {s : State} {c : Nat} {x : Cmd} (h : Working s c x) (w : Work) : AtWork (s.setWork c w) c w :=
  h.atWork (fun y => { y with work := w }) (fun _ => rfl) rfl rfl

/-! ## The begin of an insert (R62) -/

theorem State.beginInsert_eq {s : State} {x : Cmd} {o : Coll} {idx : List Nat} (read : s.payIdx x o = .ok idx) (sound : payOk idx = true)
    (flash : s.flashTakes o x.id (insertFlash o (x.a 8 4) idx) = true) (chip : s.vectorRoom (x.a 8 4) = true)
    (room : s.room x.fn (x.a 8 4 * o.copies * entryBytes o.sub o.attrb) = some true) :
    s.beginInsert x o = (s.roomy x).updCmd x.id fun y => y.begun (.insert [] stOk none) := by
  unfold State.beginInsert
  simp only [read, sound, flash, chip, Bool.not_true, Bool.false_or, Bool.false_eq_true, if_false]
  exact State.withRoom_eq room _

theorem vrInsert_begins {s : State} {c : Nat} {x : Cmd} {o : Coll} {idx : List Nat} (run : Runs s c x)
    (effect : exec (.vrInsert c) s = .next (s.insertHere x o)) (idle : x.work = .idle) (ok : x.insertOk o = true)
    (read : s.payIdx x o = .ok idx) (sound : payOk idx = true) (flash : s.flashTakes o x.id (insertFlash o (x.a 8 4) idx) = true)
    (chip : s.vectorRoom (x.a 8 4) = true) (room : s.room x.fn (x.a 8 4 * o.copies * entryBytes o.sub o.attrb) = some true) :
    ∃ s', exec (.vrInsert c) s = .next s' ∧ AtWork s' c (.insert [] stOk none) ∧ s'.colls = s.colls ∧ SameBytes s s' := by
  have begins : s.insertHere x o = s.beginInsert x o := by
    unfold State.insertHere
    simp [idle, ok]
  rw [begins, State.beginInsert_eq read sound flash chip room, run.id_eq] at effect
  exact ⟨_, effect, run.working.roomy.atWork _ (fun _ => rfl) rfl rfl, rfl, fun _ => ⟨rfl, rfl, rfl⟩⟩

/-! ## One vector (R61, R63) -/

theorem State.insertOne_eq {s : State} {x : Cmd} {o : Coll} {v : NewVec} (ids : List Nat) (st : Nat) (bare : o.recfmt = 0)
    (free : o.nextLid < 2 ^ 40) (ready : s.listsReady o (o.place s.free v.elems) = true) :
    s.insertOne x o ids st v = (((s.updColl o.handle fun k => { k with nextLid := o.nextLid + 1 }).drew (2 ^ 128)).addEntries o
      (o.place s.free v.elems) o.nextLid v.attr noLoc x.id).setWork x.id
        (.insert ids st (some ⟨o.nextLid, noLoc, (o.place s.free v.elems).map (·.1)⟩)) := by
  unfold State.insertOne
  simp only [if_neg (Nat.not_le.2 free), ready, Bool.not_true, Bool.false_eq_true, if_false, if_pos bare, State.setWork]

theorem vrInsert_writes {s : State} {c : Nat} {x : Cmd} {o : Coll} {ids : List Nat} {st : Nat} {v : NewVec} (run : Runs s c x)
    (effect : exec (.vrInsert c) s = .next (s.insertHere x o)) (found : s.colls.find? (fun k => k.handle == o.handle) = some o)
    (work : x.work = .insert ids st none) (more : ids.length < x.a 8 4) (bare : o.recfmt = 0) (vec : s.newVec x o ids.length = .ok v)
    (free : o.nextLid < 2 ^ 40) (ready : s.listsReady o (o.place s.free v.elems) = true) :
    ∃ s' o', exec (.vrInsert c) s = .next s' ∧ s'.colls.find? (fun k => k.handle == o.handle) = some o' ∧ o'.nextLid = o.nextLid + 1 ∧
      (∀ p ∈ o.place s.free v.elems, (o'.list p.1).committed = (o.list p.1).committed ∧
        ∃ e, (o'.list p.1).entries = (o.list p.1).entries ++ [e] ∧ e.lid = o.nextLid ∧ e.codes = p.2 ∧ e.attr = v.attr ∧ e.tomb = false) ∧
      (∀ l, l ∉ (o.place s.free v.elems).map (·.1) → o'.list l = o.list l) ∧
      AtWork s' c (.insert ids st (some ⟨o.nextLid, noLoc, (o.place s.free v.elems).map (·.1)⟩)) := by
  have step : s.insertHere x o = s.insertOne x o ids st v := by
    unfold State.insertHere State.insertStep
    simp only [work, if_neg (Nat.not_le.2 more), vec]
  rw [step, State.insertOne_eq ids st bare free ready, run.id_eq] at effect
  have numbered := State.find?_updColl (fun k => { k with nextLid := o.nextLid + 1 }) (fun _ => rfl) found
  obtain ⟨o', found', took⟩ := State.addEntries_took o o.nextLid v.attr noLoc c (o.place s.free v.elems)
    ((s.updColl o.handle fun k => { k with nextLid := o.nextLid + 1 }).drew (2 ^ 128)) _ (o.place_nodup ..) numbered
  have numbering : Working ((s.updColl o.handle fun k => { k with nextLid := o.nextLid + 1 }).drew (2 ^ 128)) c x := run.working.of_cmds rfl
  have still := numbering.of_cmds (State.addEntries_cmds _ o (o.place s.free v.elems) o.nextLid v.attr noLoc c)
  exact ⟨_, o', effect, by rw [State.setWork_colls]; exact found', took.nextLid, took.taken, took.others, still.setWork _⟩

/-! ## A list commits (R21, R63) -/

/-- The list that commits next is one that is due, and with the last one the vector is decided. -/
theorem State.commitStep_eq {s : State} {x : Cmd} {o : Coll} {n : Committing} (ids : List Nat) (st : Nat) (decided : State → State)
    (covered : s.recCovered n.loc = true) (due : n.due ≠ []) (stacked : ∀ l ∈ n.due, s.resident (.fineList o.handle l) = true) :
    ∃ l ∈ n.due, s.commitStep x o ids st n decided = if n.due.filter (· != l) = [] then decided ((s.commitAll o [l]).drew 1)
      else ((s.commitAll o [l]).drew 1).setWork x.id (.insert ids st (some { n with due := n.due.filter (· != l) })) := by
  have some_due : 0 < n.due.length := List.length_pos_iff.2 due
  have chosen : s.draw 0 % Nat.max 1 n.due.length < n.due.length :=
    (Nat.mod_lt _ (Nat.lt_of_lt_of_le Nat.one_pos (Nat.le_max_left ..))).trans_le (Nat.max_le.2 ⟨some_due, le_rfl⟩)
  have mem := List.getElem_mem chosen
  refine ⟨_, mem, ?_⟩
  unfold State.commitStep
  rw [List.getElem?_eq_getElem chosen]
  simp only [covered, stacked _ mem, Bool.not_true, Bool.false_eq_true, if_false, List.isEmpty_iff]
  rfl

theorem vrInsert_commits {s : State} {c : Nat} {x : Cmd} {o : Coll} {ids : List Nat} {st : Nat} {n : Committing} (run : Runs s c x)
    (effect : exec (.vrInsert c) s = .next (s.insertHere x o)) (found : s.colls.find? (fun k => k.handle == o.handle) = some o)
    (work : x.work = .insert ids st (some n)) (covered : s.recCovered n.loc = true) (due : n.due ≠ [])
    (stacked : ∀ l ∈ n.due, s.resident (.fineList o.handle l) = true) :
    ∃ s' o' l, exec (.vrInsert c) s = .next s' ∧ s'.colls.find? (fun k => k.handle == o.handle) = some o' ∧ l ∈ n.due ∧
      (o'.list l).entries = (o.list l).entries ∧ (o'.list l).committed = (o.list l).entries.length ∧ (∀ k, k ≠ l → o'.list k = o.list k) ∧
      AtWork s' c (if n.due.filter (· != l) = [] then .insert (ids ++ [s.gidOf o n.lid]) st none
        else .insert ids st (some { n with due := n.due.filter (· != l) })) := by
  obtain ⟨l, mem, step⟩ := State.commitStep_eq (x := x) ids st (fun t => t.inserted x ids st (t.gidOf o n.lid) stOk) covered due stacked
  have here : s.insertHere x o = s.commitStep x o ids st n fun t => t.inserted x ids st (t.gidOf o n.lid) stOk := by
    unfold State.insertHere
    simp only [work]
  rw [here, step] at effect
  have found' : ((s.commitAll o [l]).drew 1).colls.find? (fun k => k.handle == o.handle) = some (o.commitList l) :=
    State.find?_updColl (fun k => k.commitList l) (fun _ => rfl) found
  have still : Working ((s.commitAll o [l]).drew 1) c x := ⟨run.found, run.working.admitted, run.queued⟩
  refine ⟨_, o.commitList l, l, effect, ?_, mem, by rw [o.commitList_self], by rw [o.commitList_self], fun k other => o.commitList_ne other, ?_⟩
  · split
    · exact (congrArg (List.find? _) (State.noted_colls _ x.id _ _ _)).trans found'
    · exact found'
  · split
    · have status : (if st = stOk then stOk else st) = st := by
        split
        · rename_i ok
          exact ok.symm
        · rfl
      have noted := still.noted (fun y => { y with work := .insert (ids ++ [s.gidOf o n.lid]) (if st = stOk then stOk else st) none })
        (10000 * (ids ++ [s.gidOf o n.lid]).length / x.a 8 4) (ids ++ [s.gidOf o n.lid]).length (fun _ => rfl) rfl rfl
      rw [status] at noted
      rw [State.inserted, status, run.id_eq]
      exact noted
    · rw [run.id_eq]
      exact still.setWork _

/-! ## The end of an insert (R64) -/

theorem Cmd.idBytes_full {x : Cmd} {ids : List Nat} (all : ids.length = x.a 8 4) : x.idBytes ids = ids.flatMap fun i => toLe 8 i := by
  rw [Cmd.idBytes, ← all, Nat.sub_self, List.replicate_zero, List.append_nil]

theorem flatMap_toLe_length (n : Nat) (ids : List Nat) : (ids.flatMap fun i => toLe n i).length = n * ids.length := by
  induction ids with
  | nil => rfl
  | cons i r ih => rw [List.flatMap_cons, List.length_append, toLe_length, ih, List.length_cons, Nat.mul_succ, Nat.add_comm]

theorem vrInsert_ends {s : State} {c : Nat} {x : Cmd} {o : Coll} {ids : List Nat} {st : Nat} {dev : Bool} (run : Runs s c x)
    (effect : exec (.vrInsert c) s = .next (s.insertHere x o)) (work : x.work = .insert ids st none) (all : ids.length = x.a 8 4)
    (hdev : dev = x.iFlag 7) (none : x.argBase = 0) (can : s.canWrite x.fn dev (x.a 0x30 8) (8 * ids.length) = true) :
    ∃ s', exec (.vrInsert c) s = .next s' ∧ s'.spaceBytes x.fn dev (x.a 0x30 8) (8 * ids.length) = (ids.flatMap fun i => toLe 8 i) ∧
      Answered s' c st 0 ids.length 10000 := by
  subst hdev
  have length := flatMap_toLe_length 8 ids
  have wrote : s.putIds x ids = some (s.wrote x.fn (x.iFlag 7) (x.a 0x30 8) (ids.flatMap fun i => toLe 8 i)) := by
    rw [State.putIds, Cmd.idBytes_full all]
    exact State.spaceWr_eq (by rw [length]; exact can)
  have step : s.insertHere x o = (s.wrote x.fn (x.iFlag 7) (x.a 0x30 8) (ids.flatMap fun i => toLe 8 i)).finish x.id st 0 ids.length := by
    unfold State.insertHere State.insertStep
    simp only [work, if_pos all.ge, wrote]
  rw [step, run.id_eq] at effect
  have sent := run.working.delivered none (x.iFlag 7) (x.a 0x30 8) (ids.flatMap fun i => toLe 8 i) st 0 ids.length
  have bytes := sent.bytes
  rw [length] at bytes
  exact ⟨_, effect, bytes, sent.entry⟩

/-! ## One ID of a delete (R65, R66) -/

/-- The device after a delete has decided an ID. -/
def State.saidDelete (s : State) (x : Cmd) (outs : List Byte) (b : Byte) : State :=
  s.noted x.id (fun y => y.begun (.delete (outs ++ [b]))) (10000 * (outs.length + 1) / x.a 8 4) (outs.length + 1)

theorem State.deleteHere_eq {s : State} {x : Cmd} {o : Coll} {outs : List Byte}
    (work : x.work = .delete outs ∨ (x.work = .idle ∧ x.deleteOk = true ∧ outs = [])) : s.deleteHere x o = s.deleteStep x o outs := by
  unfold State.deleteHere
  rcases work with work | ⟨idle, ok, rfl⟩
  · simp only [work]
  · simp [idle, ok]

/-- A live ID has its entries buried. -/
theorem State.deleteStep_live {s : State} {x : Cmd} {o : Coll} {outs b : List Byte} {lid : Nat} (more : outs.length < x.a 8 4)
    (read : s.input x (x.iFlag 0) (x.a 0x10 8 + 8 * outs.length) 8 = .ok b) (named : s.lidOf o (leNat b) = some lid) (live : o.isLive lid = true)
    (stacked : ∀ l ∈ o.listsOf lid, s.resident (.fineList o.handle l) = true) :
    s.deleteStep x o outs = (s.updColl o.handle fun k => k.bury lid x.id).saidDelete x outs 0 := by
  have none_away : ((o.listsOf lid).any fun l => !s.resident (.fineList o.handle l)) = false :=
    List.any_eq_false.2 fun l hl => by simp [stacked l hl]
  unfold State.deleteStep
  simp only [if_neg (Nat.not_le.2 more), read, named, live, none_away, Bool.not_true, Bool.false_eq_true, if_false]
  rfl

/-- An ID of another node, or of no live vector, is noted. -/
theorem State.deleteStep_dead {s : State} {x : Cmd} {o : Coll} {outs b : List Byte} (more : outs.length < x.a 8 4)
    (read : s.input x (x.iFlag 0) (x.a 0x10 8 + 8 * outs.length) 8 = .ok b)
    (dead : (s.lidOf o (leNat b)).all (fun lid => !o.isLive lid) = true) : s.deleteStep x o outs = s.saidDelete x outs 1 := by
  unfold State.deleteStep
  simp only [if_neg (Nat.not_le.2 more), read]
  cases named : s.lidOf o (leNat b) with
  | none => rfl
  | some lid =>
    have gone : (!o.isLive lid) = true := by simpa [named] using dead
    simp only [gone, if_true]
    rfl

theorem vrDelete_deletes {s : State} {c : Nat} {x : Cmd} {o : Coll} {outs b : List Byte} {lid : Nat} (run : Runs s c x)
    (effect : exec (.vrDelete c) s = .next (s.deleteStep x o outs)) (found : s.colls.find? (fun k => k.handle == o.handle) = some o)
    (more : outs.length < x.a 8 4) (read : s.input x (x.iFlag 0) (x.a 0x10 8 + 8 * outs.length) 8 = .ok b)
    (named : s.lidOf o (leNat b) = some lid) (live : o.isLive lid = true)
    (stacked : ∀ l ∈ o.listsOf lid, s.resident (.fineList o.handle l) = true) :
    ∃ s' o', exec (.vrDelete c) s = .next s' ∧ s'.colls.find? (fun k => k.handle == o.handle) = some o' ∧ o'.isLive lid = false ∧
      (∀ l, ∀ e ∈ (o'.list l).entries, e.lid = lid → e.tomb = true) ∧ (∀ k, k ≠ lid → o'.liveEntries k = o.liveEntries k) ∧
      AtWork s' c (.delete (outs ++ [0])) := by
  rw [State.deleteStep_live more read named live stacked, State.saidDelete, run.id_eq] at effect
  have still : Working (s.updColl o.handle fun k => k.bury lid c) c x := ⟨run.found, run.working.admitted, run.queued⟩
  refine ⟨_, o.bury lid c, effect, ?_, o.bury_isLive lid c, fun l e mem same => ?_, fun k other => o.bury_liveEntries c other,
    still.noted _ _ _ (fun _ => rfl) rfl rfl⟩
  · rw [State.noted_colls]
    exact State.find?_updColl (fun k => k.bury lid c) (fun _ => rfl) found
  · rw [o.bury_entries] at mem
    obtain ⟨e', _, rfl⟩ := List.mem_map.1 mem
    exact Entry.buried_tomb ((Entry.buried_lid ..).symm.trans same)

theorem vrDelete_ends {s : State} {c : Nat} {x : Cmd} {o : Coll} {outs : List Byte} {dev : Bool} (run : Runs s c x)
    (effect : exec (.vrDelete c) s = .next (s.deleteStep x o outs)) (all : outs.length = x.a 8 4) (hdev : dev = x.iFlag 1) (none : x.argBase = 0)
    (can : s.canWrite x.fn dev (x.a 0x18 8) outs.length = true) :
    ∃ s', exec (.vrDelete c) s = .next s' ∧ s'.spaceBytes x.fn dev (x.a 0x18 8) outs.length = outs ∧
      Answered s' c stOk 0 outs.length 10000 := by
  subst hdev
  have bytes : x.outBytes outs = outs := by rw [Cmd.outBytes, ← all, Nat.sub_self, List.replicate_zero, List.append_nil]
  have wrote : s.putOuts x outs = some (s.wrote x.fn (x.iFlag 1) (x.a 0x18 8) outs) := by
    rw [State.putOuts, bytes]
    exact State.spaceWr_eq can
  have step : s.deleteStep x o outs = (s.wrote x.fn (x.iFlag 1) (x.a 0x18 8) outs).finish x.id stOk 0 outs.length := by
    unfold State.deleteStep
    simp only [if_pos all.ge, wrote]
  rw [step, run.id_eq] at effect
  have sent := run.working.delivered none (x.iFlag 1) (x.a 0x18 8) outs stOk 0 outs.length
  exact ⟨_, effect, sent.bytes, sent.entry⟩

/-- Settles O35: the steps of both programs, one after the other. -/
theorem insertAndDelete : Obligations.InsertAndDelete := by
  unfold Obligations.InsertAndDelete
  refine ⟨?_, ?_, ?_, ?_, ?_, ?_⟩
  · intro s c x o idx run vr whole live here idle ok read sound flash chip room
    exact vrInsert_begins run (run.exec_vrInsert_eq vr whole live here) idle ok read sound flash chip room
  · intro s c x o ids st v run vr whole live found here work more bare vec free ready
    exact vrInsert_writes run (run.exec_vrInsert_eq vr whole live here) found work more bare vec free ready
  · intro s c x o ids st n run vr whole live found here work covered due stacked
    exact vrInsert_commits run (run.exec_vrInsert_eq vr whole live here) found work covered due stacked
  · intro s c x o ids st dev run vr whole live here work all hdev none can
    exact vrInsert_ends run (run.exec_vrInsert_eq vr whole live here) work all hdev none can
  · intro s c x o outs b run vr whole live found here work more read
    have effect := (run.exec_vrDelete_eq vr whole live here).trans (congrArg _ (State.deleteHere_eq work))
    refine ⟨fun lid named alive stacked => vrDelete_deletes run effect found more read named alive stacked, fun dead => ?_⟩
    rw [State.deleteStep_dead more read dead, State.saidDelete, run.id_eq] at effect
    exact ⟨_, effect, State.noted_colls .., run.working.noted _ _ _ (fun _ => rfl) rfl rfl⟩
  · intro s c x o outs dev run vr whole live here work all hdev none can
    exact vrDelete_ends run ((run.exec_vrDelete_eq vr whole live here).trans (congrArg _ (State.deleteHere_eq (.inl work)))) all hdev none can

end Sys2Proof.Machine

/-! O30: `vr.create` and `vr.pod.create` (R28, R38, R504, R505, R507, R511). -/
namespace Sys2Proof.Machine

/-! ## The units and the record of a new collection (R209) -/

/-- `t` with the units, the collections and the free values of `s`. -/
def State.butColls (s t : State) : State := { t with units := s.units, colls := s.colls, free := s.free }

theorem State.butColls_trans {s t u : State} (h : s.butColls t = s) (h' : t.butColls u = t) : s.butColls u = s :=
  (congrArg s.butColls h' :).trans h

/-- What is left of `s` where units and collections alone have changed. -/
theorem State.kept_of_butColls {s t : State} (h : s.butColls t = s) : t.cmds = s.cmds ∧ SameSpaces s t ∧ t.fab = s.fab ∧ t.regs = s.regs :=
  ⟨(congrArg State.cmds h :), ⟨(congrArg State.allocs h :), (congrArg State.dev h :), (congrArg State.out h :), (congrArg State.poison h :),
    (congrArg State.ranges h :)⟩, (congrArg State.fab h :), (congrArg State.regs h :)⟩

theorem State.growIdMap_butColls (s : State) (c : Coll) (lids : Nat) : s.butColls (s.growIdMap c lids) = s := by
  have keeps : ∀ {t : State}, ({ t with units := s.units, free := s.free } : State) = s → s.butColls t = s :=
    fun kept => (congrArg s.butColls kept :)
  exact keeps (s.growIdMap_frame c lids)

/-- The device with the centroids, the codebook and the empty lists of a new collection. -/
def State.withLists (s : State) (c : Coll) : State :=
  let s1 := ((s.addUnit (.centroids c.handle 0) c.tenant (.stack (s.draw 1 % 12)) (2 * c.ncent * c.dim)).addUnit (.centroids c.handle 1) c.tenant
    (.stack (s.draw 2 % 12)) (2 * c.nlists * c.dim)).addUnit (.centroids c.handle 2) c.tenant (.stack (s.draw 3 % 12)) (32 * c.dim)
  ({ s1 with units := s1.units ++ (List.range c.nlists).map fun l =>
      { uid := .fineList c.handle l, tenant := c.tenant, home := .stack (s.listStack l), bytes := c.listSize 0,
        heat := 0, promotedAt := none, demotedAt := none, lost := false, parked := false, part := none } } : State).drew (16 + 2 * c.nlists)

theorem State.addCollUnits_eq (s : State) (c : Coll) : s.addCollUnits c = (s.withLists c).growIdMap c 0 := rfl

/-- The device has a unit in stack memory for a list. -/
def State.Stacked (s : State) (h l : Nat) : Prop := ∃ u ∈ s.units, u.uid = .fineList h l ∧ u.home ≠ .flash

theorem State.withLists_stacked (s : State) (c : Coll) {l : Nat} (listed : l < c.nlists) : (s.withLists c).Stacked c.handle l :=
  ⟨_, List.mem_append_right _ (List.mem_map_of_mem (List.mem_range.2 listed)), rfl, Home.noConfusion⟩

theorem State.Stacked.sizeUnit {s : State} {h l : Nat} (stacked : s.Stacked h l) (u : UnitId) (n : Nat) : (s.sizeUnit u n).Stacked h l := by
  obtain ⟨v, mem, uid, home⟩ := stacked
  obtain ⟨_, same⟩ | ⟨xs, a, ys, units, _, _, same⟩ := updFirst_cases (fun x => x.uid == u) (fun x : PUnit => { x with bytes := n }) s.units
  · exact ⟨v, by rw [State.sizeUnit, State.updUnit, same]; exact mem, uid, home⟩
  · rw [units, List.mem_append, List.mem_cons] at mem
    rcases mem with mem | rfl | mem
    · exact ⟨v, by rw [State.sizeUnit, State.updUnit, same]; exact List.mem_append_left _ mem, uid, home⟩
    · exact ⟨{ v with bytes := n }, by rw [State.sizeUnit, State.updUnit, same]; exact List.mem_append_right _ (List.mem_cons_self ..), uid,
        home⟩
    · exact ⟨v, by rw [State.sizeUnit, State.updUnit, same]; exact List.mem_append_right _ (List.mem_cons_of_mem _ mem), uid, home⟩

theorem State.Stacked.addUnit {s : State} {h l : Nat} (stacked : s.Stacked h l) (u : UnitId) (t : Nat) (home : Home) (n : Nat) :
    ((s.addUnit u t home n).drew 1).Stacked h l := by
  obtain ⟨v, mem, named⟩ := stacked
  exact ⟨v, List.mem_append_left _ mem, named⟩

theorem State.Stacked.growIdMap {s : State} {h l : Nat} (stacked : s.Stacked h l) (c : Coll) (lids : Nat) : (s.growIdMap c lids).Stacked h l := by
  unfold State.growIdMap
  refine List.foldlRecOn (motive := fun t : State => t.Stacked h l) _ _ stacked fun t kept p _ => ?_
  split
  · exact kept.sizeUnit ..
  · exact kept.addUnit ..

/-- The device with a new collection and its units. -/
def State.withColl (s : State) (c : Coll) : State := { (s.addCollUnits c).tookHandle with colls := s.colls ++ [c] }

theorem State.withColl_butColls (s : State) (c : Coll) : s.butColls (s.withColl c) = s := by
  have record : ∀ t : State, s.butColls t = s → s.butColls { t.tookHandle with colls := s.colls ++ [c] } = s := fun _ kept => kept
  have one : ∀ (t : State) (u : UnitId) (n : Nat) (home : Home) (m : Nat), t.butColls (t.addUnit u n home m) = t := fun _ _ _ _ _ => rfl
  have more : ∀ (t : State) (us : List PUnit) (n : Nat), t.butColls (({ t with units := us } : State).drew n) = t := fun _ _ _ => rfl
  have lists : s.butColls (s.withLists c) = s :=
    State.butColls_trans (State.butColls_trans (State.butColls_trans (one s _ _ _ _) (one _ _ _ _ _)) (one _ _ _ _ _)) (more _ _ _)
  have units : s.butColls (s.addCollUnits c) = s := by
    rw [s.addCollUnits_eq]
    exact State.butColls_trans lists (State.growIdMap_butColls _ c 0)
  exact record _ units

theorem State.withColl_stacked (s : State) (c : Coll) {l : Nat} (listed : l < c.nlists) : (s.withColl c).Stacked c.handle l := by
  have record : ∀ t : State, t.Stacked c.handle l → ({ t.tookHandle with colls := s.colls ++ [c] } : State).Stacked c.handle l :=
    fun _ kept => kept
  refine record _ ?_
  rw [s.addCollUnits_eq]
  exact (s.withLists_stacked c listed).growIdMap c 0

/-- A new collection has empty lists. -/
theorem State.newColl_lists (s : State) (x : Cmd) (r : CreateReq) (pod : Option (Bool × Bool)) (h l : Nat) :
    ((s.newColl x r pod h).list l).entries = [] ∧ ((s.newColl x r pod h).list l).committed = 0 := by
  unfold State.newColl Coll.list Map.getD Map.get?
  cases found : ((List.range r.nlists).map fun l => (l, s.emptyList (s.listStack l) (16 + 2 * l))).find? fun e => e.1 == l with
  | none => simp
  | some p =>
    obtain ⟨k, _, rfl⟩ := List.mem_map.1 (List.mem_of_find?_eq_some found)
    simp [State.emptyList]

/-! ## Creating a collection (R28, R38) -/

/-- What a create asks for, with its centroids and codebooks. -/
def Cmd.createReq (x : Cmd) (co fi bo : List Byte) : CreateReq := ⟨x.a 0 4, x.a 4 2, x.a 8 4, x.a 0xC 4, co, fi, bo⟩

/-- The inputs of a create. -/
def Cmd.createInputs (x : Cmd) : List (Bool × Nat × Nat) :=
  [(bit (x.a 0x10 4) 25, x.a 0x18 8, 2 * x.a 8 4 * x.a 0 4), (bit (x.a 0x10 4) 25, x.a 0x20 8, 2 * x.a 0xC 4 * x.a 0 4),
    (bit (x.a 0x10 4) 25, x.a 0x28 8, 32 * x.a 0 4)]

/-- The collection that a create makes. -/
def State.created (s : State) (x : Cmd) (co fi bo : List Byte) (pod : Option (Bool × Bool)) : Coll :=
  (s.roomy x).newColl x (x.createReq co fi bo) pod (s.roomy x).newHandle

/-- A create is taken, and its inputs are read. -/
structure Creatable (s : State) (x : Cmd) (co fi bo : List Byte) : Prop where
  reserve : s.reserveTakes 0 (x.a 0x16 1) (x.a 0x38 8) = true
  chip : s.chipHolds (x.a 0xC 4) = true
  room : s.room x.fn (createBytes (x.createReq co fi bo) (field (x.a 0x10 4) 15 8)) = some true
  read : s.inputs x x.createInputs = .ok [co, fi, bo]

theorem State.createColl_quota {s : State} {x : Cmd} (full : s.reserveTakes 0 (x.a 0x16 1) (x.a 0x38 8) = false ∨ s.chipHolds (x.a 0xC 4) = false)
    (pod : Option (Bool × Bool)) (k : Coll → State → State) : s.createColl x pod k = s.fail x.id stQuota := by
  unfold State.createColl
  dsimp only
  exact if_pos (by rcases full with full | full <;> simp [full])

theorem Creatable.createColl_eq {s : State} {x : Cmd} {co fi bo : List Byte} (ok : Creatable s x co fi bo) (pod : Option (Bool × Bool))
    (k : Coll → State → State) {t : State} (out : (if pod.isSome then some (s.roomy x) else (s.roomy x).spaceWr x.fn (bit (x.a 0x10 4) 26)
      (x.a 0x30 8) (toLe 8 (s.roomy x).newHandle)) = some t) :
    s.createColl x pod k = k (s.created x co fi bo pod) (t.withColl (s.created x co fi bo pod)) := by
  have read : (s.roomy x).inputs x x.createInputs = .ok [co, fi, bo] := (SameSpaces.roomy s x).inputs ok.read
  unfold State.createColl
  dsimp only
  rw [if_neg (by simp [ok.reserve, ok.chip])]
  refine (State.withRoom_eq ok.room _).trans ?_
  rw [Cmd.createInputs] at read
  rw [read]
  dsimp only
  rw [out]
  rfl

end Sys2Proof.Machine

/-! O30, continued: the effects of `vr.create` and `vr.pod.create`. -/
namespace Sys2Proof.Machine

/-- What a draw of a free value leaves of the checks of a create. -/
theorem Creatable.drew {s : State} {x : Cmd} {co fi bo : List Byte} (ok : Creatable s x co fi bo) (n : Nat) : Creatable (s.drew n) x co fi bo where
  reserve := ok.reserve
  chip := ok.chip
  room := ok.room
  read := (SameSpaces.drew s n).inputs ok.read

/-- The end of a command leaves units, registers and the fabric. -/
theorem EndsWith.rest_kept {s s' : State} {c : Nat} {x : Cmd} {st ct v bp : Nat} (h : EndsWith s s' c x st ct v bp) :
    s'.units = s.units ∧ s'.fab = s.fab ∧ s'.regs = s.regs :=
  ⟨(congrArg State.units h.rest :), (congrArg State.fab h.rest :), (congrArg State.regs h.rest :)⟩

theorem State.created_handle (s : State) (x : Cmd) (co fi bo : List Byte) (pod : Option (Bool × Bool)) :
    (s.created x co fi bo pod).handle = (s.roomy x).newHandle := rfl

/-! ## `vr.create` -/

theorem Runs.exec_vrCreate_eq {s : State} {c : Nat} {x : Cmd} (run : Runs s c x) (vr : x.vr = 0x101) (new : x.started = false)
    (alone : s.role = 0) (ok : x.createOk [] = true) :
    exec (.vrCreate c) s = .next (s.createColl x none fun _ t => t.finish c stOk 0 0) := by
  rw [exec_vrCreate, execVrCreate, run.runCmd_eq (by simp [vr])]
  simp [new, alone, ok]

theorem vrCreate_effect {s : State} {c : Nat} {x : Cmd} {co fi bo : List Byte} {dev : Bool} (run : Runs s c x) (vr : x.vr = 0x101)
    (new : x.started = false) (alone : s.role = 0) (ok : x.createOk [] = true) (hdev : dev = bit (x.a 0x10 4) 26)
    (create : Creatable s x co fi bo) (none : x.argBase = 0) (idle : x.midCommit = false) (can : s.canWrite x.fn dev (x.a 0x30 8) 8 = true) :
    ∃ s' o, exec (.vrCreate c) s = .next s' ∧ o = s.created x co fi bo Option.none ∧ s'.colls = s.colls ++ [o] ∧
      s'.spaceBytes x.fn dev (x.a 0x30 8) 8 = toLe 8 o.handle ∧ (∀ l, l < x.a 0xC 4 → s'.Stacked o.handle l) ∧
      Answered s' c stOk 0 0 10000 := by
  subst hdev
  have length : (toLe 8 (s.roomy x).newHandle).length = 8 := toLe_length ..
  have wrote := State.spaceWr_eq (s := s.roomy x) (fn := x.fn) (dev := bit (x.a 0x10 4) 26) (a := x.a 0x30 8) (bs := toLe 8 (s.roomy x).newHandle)
    (by rw [length, (SameSpaces.roomy s x).canWrite, can])
  have effect := (run.exec_vrCreate_eq vr new alone ok).trans (congrArg _ (create.createColl_eq Option.none _ wrote))
  have delivered := run.working.roomy.wrote x.fn (bit (x.a 0x10 4) 26) (x.a 0x30 8) (toLe 8 (s.roomy x).newHandle)
  have colls : ((s.roomy x).wrote x.fn (bit (x.a 0x10 4) 26) (x.a 0x30 8) (toLe 8 (s.roomy x).newHandle)).colls = s.colls :=
    (congrArg State.colls ((s.roomy x).wrote_frame ..) :)
  have bytes := (s.roomy x).spaceBytes_wrote x.fn (bit (x.a 0x10 4) 26) (x.a 0x30 8) (toLe 8 (s.roomy x).newHandle)
  rw [length] at bytes
  generalize (s.roomy x).wrote x.fn (bit (x.a 0x10 4) 26) (x.a 0x30 8) (toLe 8 (s.roomy x).newHandle) = t at effect delivered colls bytes
  obtain ⟨cmds, spaces, _, _⟩ := State.kept_of_butColls (t.withColl_butColls (s.created x co fi bo Option.none))
  have ends := (delivered.of_cmds cmds).finish stOk 0 0
  refine ⟨_, _, effect, rfl, ?_, ?_, fun l listed => ?_, ends.entry⟩
  · exact (ends.colls idle).trans (congrArg (· ++ [_]) colls)
  · rw [State.created_handle]
    exact (ends.spaceBytes none ..).trans ((spaces.spaceBytes ..).trans bytes)
  · rw [State.Stacked, ends.rest_kept.1]
    exact t.withColl_stacked _ listed

end Sys2Proof.Machine

/-! O30, continued: `vr.pod.create` on a queen that has no other node (R505, R507, R511). -/
namespace Sys2Proof.Machine

/-! ## A map published to no other node -/

theorem State.fld_of_regs {s t : State} (regs : t.regs = s.regs) (o hi lo : Nat) : t.fld o hi lo = s.fld o hi lo := by
  simp only [State.fld, State.word, regs]

theorem State.adopt_epoch (s : State) {e : Nat} (small : e < 2 ^ 32) : (s.adopt e).fld oFabEpoch 31 0 = e := by
  unfold State.adopt
  dsimp only
  split
  · assumption
  · exact (State.fld_setFld_self _ oFabEpoch 0 e (by decide)).trans (Nat.mod_eq_of_lt small)

theorem State.workers_alone {s : State} (alone : s.fab.nodes = []) : s.workers = [] := by simp [State.workers, alone]

/-- The adopted map has the epoch after the one in force. -/
theorem State.adoptedMap_alone (s : State) (m : List ShardEntry) (alone : s.fab.nodes = []) :
    (s.adoptedMap m).fab.shards = m ∧ (s.adoptedMap m).fld oFabEpoch 31 0 = (s.fld oFabEpoch 31 0 + 1) % 2 ^ 32 ∧
      (s.adoptedMap m).workers = [] := by
  refine ⟨rfl, s.adopt_epoch (Nat.mod_lt _ (by decide)), State.workers_alone ?_⟩
  have nodes : ∀ e, (s.adopt e).fab.nodes = s.fab.nodes := fun e => by
    unfold State.adopt
    dsimp only
    split <;> rfl
  exact (nodes _).trans alone

theorem State.routeNow_keeps (s : State) : s.routeNow.fab.shards = s.fab.shards ∧ s.routeNow.regs = s.regs := by
  unfold State.routeNow
  split <;> exact ⟨rfl, rfl⟩

/-- Where no other node is to be told, the map and the next epoch stand at once. -/
theorem State.publish_alone (s : State) (m : List ShardEntry) (alone : s.fab.nodes = []) :
    (s.publish m).fab.shards = m ∧ (s.publish m).fld oFabEpoch 31 0 = (s.fld oFabEpoch 31 0 + 1) % 2 ^ 32 := by
  obtain ⟨shards, epoch, none⟩ := s.adoptedMap_alone m alone
  have told : (s.adoptedMap m).sendMaps = s.adoptedMap m := by rw [State.sendMaps, none, List.foldl_nil]
  obtain ⟨same, regs⟩ := (s.adoptedMap m).routeNow_keeps
  rw [s.publish_eq, told]
  exact ⟨same.trans shards, (State.fld_of_regs regs ..).trans epoch⟩

/-- With one node every bucket is that node's. -/
theorem State.assignBuckets_alone (s : State) (h n : Nat) :
    s.assignBuckets h [n] [] false = (List.range 4096).map fun b => ShardEntry.mk h b n := by
  have shard : ∀ b i, s.shardNode [n] [] (s.podOf [] b) i = n := fun b i => by
    simp [State.shardNode, State.podOf, Nat.mod_one]
  unfold State.assignBuckets
  exact List.map_congr_left fun b _ => congrArg (ShardEntry.mk h b) (shard b _)

/-- An output leaves the fabric and the registers. -/
theorem State.wrote_fabric (s : State) (fn : Nat) (dev : Bool) (a : Nat) (bs : List Byte) :
    (s.wrote fn dev a bs).fab = s.fab ∧ (s.wrote fn dev a bs).regs = s.regs :=
  ⟨(congrArg State.fab (s.wrote_frame fn dev a bs) :), (congrArg State.regs (s.wrote_frame fn dev a bs) :)⟩

/-! ## The create at the queen -/

/-- The device with the buckets of a new collection of its own published. -/
def State.withShards (s : State) (c : Coll) (n : Nat) : State :=
  (s.drew 8192).publish (s.fab.shards ++ (List.range 4096).map fun b => ShardEntry.mk c.handle b n)

theorem State.withShards_shards (s : State) (c : Coll) (n : Nat) (alone : s.fab.nodes = []) :
    (s.withShards c n).fab.shards = s.fab.shards ++ (List.range 4096).map (fun b => ShardEntry.mk c.handle b n) ∧
      (s.withShards c n).fld oFabEpoch 31 0 = (s.fld oFabEpoch 31 0 + 1) % 2 ^ 32 :=
  State.publish_alone (s.drew 8192) _ alone

/-- What a publication leaves. -/
theorem State.kept_of_butFabric {s t : State} (h : s.butFabric t = s) : t.cmds = s.cmds ∧ SameSpaces s t ∧ t.colls = s.colls :=
  ⟨(congrArg State.cmds h :), ⟨(congrArg State.allocs h :), (congrArg State.dev h :), (congrArg State.out h :), (congrArg State.poison h :),
    (congrArg State.ranges h :)⟩, (congrArg State.colls h :)⟩

theorem State.withShards_keeps (s : State) (c : Coll) (n : Nat) :
    (s.withShards c n).cmds = s.cmds ∧ SameSpaces s (s.withShards c n) ∧ (s.withShards c n).colls = s.colls := by
  obtain ⟨cmds, spaces, colls⟩ := State.kept_of_butFabric
    ((s.drew 8192).publish_frame (s.fab.shards ++ (List.range 4096).map fun b => ShardEntry.mk c.handle b n))
  exact ⟨cmds, (SameSpaces.drew s 8192).trans spaces, colls⟩

/-- The device in which the queen's own part of a pod collection is made and its map is published. -/
def State.podMade (s : State) (x : Cmd) (o : Coll) : State := ((s.roomy x).withColl o).withShards o s.nodeId

/-- What such a device shows: the collection, its buckets under the next epoch, and otherwise the host and device space of before. -/
structure PodMade (s t : State) (o : Coll) : Prop where
  spaces : SameSpaces s t
  colls : t.colls = s.colls ++ [o]
  shards : t.fab.shards = s.fab.shards ++ (List.range 4096).map fun b => ShardEntry.mk o.handle b s.nodeId
  epoch : t.fld oFabEpoch 31 0 = (s.fld oFabEpoch 31 0 + 1) % 2 ^ 32

theorem State.podMade_cmds (s : State) (x : Cmd) (o : Coll) : (s.podMade x o).cmds = (s.roomy x).cmds :=
  (State.withShards_keeps ..).1.trans (State.kept_of_butColls ((s.roomy x).withColl_butColls o)).1

theorem State.podMade_shows (s : State) (x : Cmd) (o : Coll) (alone : s.fab.nodes = []) : PodMade s (s.podMade x o) o := by
  obtain ⟨_, spaces, fab, regs⟩ := State.kept_of_butColls ((s.roomy x).withColl_butColls o)
  have fab : ((s.roomy x).withColl o).fab = s.fab := fab
  have regs : ((s.roomy x).withColl o).regs = s.regs := regs
  have colls : ((s.roomy x).withColl o).colls = s.colls ++ [o] := rfl
  have spaces := (SameSpaces.roomy s x).trans spaces
  unfold State.podMade
  generalize (s.roomy x).withColl o = t at spaces fab regs colls
  obtain ⟨_, spaces', colls'⟩ := t.withShards_keeps o s.nodeId
  obtain ⟨shards, epoch⟩ := t.withShards_shards o s.nodeId (fab ▸ alone)
  exact ⟨spaces.trans spaces', colls'.trans colls, fab ▸ shards, epoch.trans (by rw [State.fld_of_regs regs])⟩

theorem Creatable.createPod_alone {s : State} {x : Cmd} {co fi bo : List Byte} (ok : Creatable s x co fi bo) {o : Coll}
    (made : o = s.created x co fi bo (some (false, false))) :
    s.createPod x false false [s.nodeId] [] = (s.podMade x o).podCreated x o := by
  unfold State.createPod State.podMade
  rw [ok.createColl_eq (some (false, false)) _ rfl, ← made]
  obtain ⟨_, _, _, regs⟩ := State.kept_of_butColls ((s.roomy x).withColl_butColls o)
  have self : ((s.roomy x).withColl o).nodeId = s.nodeId := State.fld_of_regs regs ..
  generalize (s.roomy x).withColl o = t at self
  dsimp only
  rw [t.assignBuckets_alone, self, if_pos]
  · rfl
  · rw [List.isEmpty_iff, List.filter_eq_nil_iff]
    intro n mem
    obtain ⟨b, _, rfl⟩ : ∃ b, b < 4096 ∧ s.nodeId = n := by simpa using mem
    simp

/-- The handle of a pod collection is delivered. -/
theorem podCreated_eq {s : State} {c : Nat} {x : Cmd} (id : x.id = c) (o : Coll)
    (can : s.canWrite x.fn (bit (x.a 0x10 4) 26) (x.a 0x30 8) 8 = true) :
    s.podCreated x o = (s.wrote x.fn (bit (x.a 0x10 4) 26) (x.a 0x30 8) (toLe 8 o.handle)).finish c stOk 0 0 := by
  have length : (toLe 8 o.handle).length = 8 := toLe_length ..
  unfold State.podCreated
  dsimp only
  rw [State.spaceWr_eq (by rw [length, can]), id]

theorem Runs.exec_vrPodCreate_eq {s : State} {c : Nat} {x : Cmd} (run : Runs s c x) (vr : x.vr = 0x160) (new : x.started = false)
    (queen : s.role = 2) (alone : s.fab.nodes = []) (ok : x.createOk [(0x40, 8)] = true) (flags : x.a 0x40 4 = 0) (width : x.a 0x44 4 = 0) :
    exec (.vrPodCreate c) s = .next ((s.drew 1).createPod x false false [s.nodeId] []) := by
  have plain : ∀ hi lo, field 0 hi lo = 0 := fun hi lo => by simp [field]
  have near : s.widthNodes 0 = [s.nodeId] := by rw [State.widthNodes, if_pos rfl, State.workers_alone alone]
  rw [exec_vrPodCreate, execVrPodCreate, run.runCmd_eq (by simp [vr])]
  simp [new, queen, ok, flags, width, near, plain, bit]

theorem vrPodCreate_effect {s : State} {c : Nat} {x : Cmd} {co fi bo : List Byte} {dev : Bool} (run : Runs s c x) (vr : x.vr = 0x160)
    (new : x.started = false) (queen : s.role = 2) (alone : s.fab.nodes = []) (ok : x.createOk [(0x40, 8)] = true) (flags : x.a 0x40 4 = 0)
    (width : x.a 0x44 4 = 0) (hdev : dev = bit (x.a 0x10 4) 26) (create : Creatable s x co fi bo) (none : x.argBase = 0)
    (idle : x.midCommit = false) (can : s.canWrite x.fn dev (x.a 0x30 8) 8 = true) :
    ∃ s' o, exec (.vrPodCreate c) s = .next s' ∧ s'.colls = s.colls ++ [o] ∧ o.pod = some (false, false) ∧ o.nlists = x.a 0xC 4 ∧
      (∀ b, b < 4096 → ⟨o.handle, b, s.nodeId⟩ ∈ s'.fab.shards) ∧ (∀ e ∈ s.fab.shards, e ∈ s'.fab.shards) ∧
      s'.fld oFabEpoch 31 0 = (s.fld oFabEpoch 31 0 + 1) % 2 ^ 32 ∧ s'.spaceBytes x.fn dev (x.a 0x30 8) 8 = toLe 8 o.handle ∧
      Answered s' c stOk 0 0 10000 := by
  subst hdev
  obtain ⟨o, made⟩ : ∃ o, o = (s.drew 1).created x co fi bo (some (false, false)) := ⟨_, rfl⟩
  have pod : o.pod = some (false, false) := by rw [made]; rfl
  have lists : o.nlists = x.a 0xC 4 := by rw [made]; rfl
  have drawn : Working (s.drew 1) c x := run.working.of_cmds rfl
  have work := drawn.roomy.of_cmds ((s.drew 1).podMade_cmds x o)
  obtain ⟨spaces, colls, shards, epoch⟩ := (s.drew 1).podMade_shows x o alone
  have effect := (run.exec_vrPodCreate_eq vr new queen alone ok flags width).trans (congrArg _ ((create.drew 1).createPod_alone made))
  generalize (s.drew 1).podMade x o = t at effect work spaces colls shards epoch
  rw [podCreated_eq run.id_eq o ((((SameSpaces.drew s 1).trans spaces).canWrite ..).trans can)] at effect
  have sent := work.delivered none (bit (x.a 0x10 4) 26) (x.a 0x30 8) (toLe 8 o.handle) stOk 0 0
  have bytes := sent.bytes
  rw [toLe_length] at bytes
  obtain ⟨_, fab, regs⟩ := ((work.wrote x.fn (bit (x.a 0x10 4) 26) (x.a 0x30 8) (toLe 8 o.handle)).finish stOk 0 0).rest_kept
  obtain ⟨wroteFab, wroteRegs⟩ := t.wrote_fabric x.fn (bit (x.a 0x10 4) 26) (x.a 0x30 8) (toLe 8 o.handle)
  have map := (congrArg (·.shards) (fab.trans wroteFab)).trans shards
  refine ⟨_, o, effect, (sent.colls idle).trans colls, pod, lists, fun b bucket => ?_, fun e mem => ?_, ?_, bytes, sent.entry⟩
  · rw [map]
    exact List.mem_append_right _ (List.mem_map_of_mem (List.mem_range.2 bucket))
  · rw [map]
    exact List.mem_append_left _ mem
  · exact (State.fld_of_regs (regs.trans wroteRegs) ..).trans epoch

/-- Settles O30: what each create makes, and who may not ask for it. -/
theorem createCollections : Obligations.CreateCollections := by
  unfold Obligations.CreateCollections
  refine ⟨?_, ?_, ?_, ?_, ?_⟩
  · intro s c x co fi bo dev run vr new alone ok hdev reserve chip room read none idle can
    obtain ⟨s', o, effect, made, colls, bytes, stacked, entry⟩ :=
      vrCreate_effect run vr new alone ok hdev ⟨reserve, chip, room, read⟩ none idle can
    have empty : ∀ l, (o.list l).entries = [] ∧ (o.list l).committed = 0 := by
      rw [made]
      exact State.newColl_lists (s.roomy x) x (x.createReq co fi bo) Option.none (s.roomy x).newHandle
    refine ⟨s', o, effect, colls, ?_⟩
    subst made
    exact ⟨rfl, rfl, rfl, rfl, rfl, rfl, rfl, rfl, rfl, rfl, rfl, rfl, rfl, rfl, fun l _ => empty l, rfl, rfl, rfl, bytes, stacked, entry⟩
  · intro s c x run vr new alone ok full
    have effect := (run.exec_vrCreate_eq vr new alone ok).trans (congrArg _ (State.createColl_quota full Option.none _))
    rw [run.id_eq] at effect
    exact ⟨_, effect, run.working.fail stQuota⟩
  · intro s c x run vr new worker
    refine ⟨s.fail c stDenied, ?_, run.working.fail stDenied⟩
    rw [exec_vrCreate, execVrCreate, run.runCmd_eq (by simp [vr])]
    simp [new, worker]
  · intro s c x run vr new other
    refine ⟨s.fail c stDenied, ?_, run.working.fail stDenied⟩
    rw [exec_vrPodCreate, execVrPodCreate, run.runCmd_eq (by simp [vr])]
    simp [new, other]
  · intro s c x co fi bo dev run vr new queen alone ok flags width hdev reserve chip room read none idle can
    exact vrPodCreate_effect run vr new queen alone ok flags width hdev ⟨reserve, chip, room, read⟩ none idle can

end Sys2Proof.Machine

/-! O15 and O16: the comb (R84 to R94). A context from `comb.open` to `comb.close`, and the merge of runs. -/
namespace Sys2Proof.Machine

/-! ## An instruction that retires -/

/-- A thread that goes on with the next word. -/
def Thread.retired (th : Thread) : Thread := { th with st := .ready, pc := th.pc + 8 }

theorem runInsn_done {opc : Nat} {legal : Nat → Bool} {eff : Ictx → State → Eff} {t : Tid} {s s1 : State} {c : Ictx}
    (h : At s t opc c) (legalWord : legal c.w = true) (effect : eff c s = .done s1) :
    runInsn opc legal eff t s = .next (s1.updThread t Thread.retired) := by
  obtain ⟨_, _, _, _, _, _, _, _, _, thread, _⟩ := insn_some h.1
  rw [runInsn_legal h legalWord, effect, ← thread]
  rfl

/-! ## Contexts of a cluster -/

theorem State.ctx_setCtx (s : State) (l n : Nat) (k : CombCtx) :
    ((s.setCtx l n k).cluster l).ctx = Map.put (s.cluster l).ctx n k := by
  simp [State.setCtx, State.updCluster, State.setCluster, State.cluster]

theorem combCtx_some {c : Ictx} {s : State} {n : Nat} {k : CombCtx} (h : c.combCtx s n = some k) :
    Map.get? (s.cluster c.mem.cluster).ctx n = some k := by
  unfold Ictx.combCtx at h
  split at h
  · cases h
  · rename_i found
    split at h
    · exact found.trans h
    · cases h

theorem CombCtx.full_iff (k : CombCtx) : k.full = true ↔ 256 ≤ k.block.length := decide_eq_true_iff

theorem CombCtx.not_full {k : CombCtx} (h : k.block.length < 256) : k.full = false := by simpa [CombCtx.full] using h

/-! ## Opening (R84, R85) -/

/-- The context that a descriptor in the cistern describes, still empty. -/
def Ictx.opened (c : Ictx) (b : List Byte) : CombCtx :=
  { frag := c.t.frag, tenant := c.tenant, k := leAt b 0 4, dedup := bit (leAt b 4 4) 7, desc := bit (leAt b 4 4) 6,
    ktype := field (leAt b 4 4) 5 4, wide := bit (leAt b 4 4) 3, area := c.mem.base + leAt b 8 4, descAt := c.mem.base + c.ga.toNat,
    run := [], block := [], pushed := 0, dups := 0, astray := false }

/-- The descriptor at gA lies in the member's area, breaks no rule of R84, and its run area overlaps no other; a context of that number
has room in its input stage (R80, R85). -/
structure Openable (s : State) (c : Ictx) (b : List Byte) : Prop where
  inside : (c.th.rg (wA c.w)).toNat + 32 ≤ c.frag.cis * 65536
  bytes : b = c.cisRd s (c.th.rg (wA c.w)).toNat 32
  least : 1 ≤ leAt b 0 4
  most : leAt b 0 4 ≤ 65536
  type : field (leAt b 4 4) 5 4 ≠ 3
  high : field (leAt b 4 4) 31 8 = 0
  low : field (leAt b 4 4) 2 0 = 0
  last : leAt b 0x1C 4 = 0
  aligned : leAt b 8 4 % 64 = 0
  area : c.inArea (leAt b 8 4) (runAreaBytes (bit (leAt b 4 4) 3) (leAt b 0 4)) = true
  room : c.combFull s (field c.w 1 0) = false
  alone : s.overlapping c.mem.cluster (field c.w 1 0) (c.mem.base + leAt b 8 4) (runAreaBytes (bit (leAt b 4 4) 3) (leAt b 0 4)) = []

theorem exec_combOpen_next {s : State} {t : Tid} {c : Ictx} {b : List Byte} (h : At s t 0x6C c)
    (uses : onlyUses c.w (usesA ||| usesSub 1 0) = true) (ok : Openable s c b) :
    exec (.combOpen t) s = .next ((s.setCtx c.mem.cluster (field c.w 1 0) (c.opened b)).updThread t Thread.retired) := by
  refine (exec_combOpen t s).trans (runInsn_done h uses ?_)
  have inside : c.inArea c.ga.toNat 32 = true := decide_eq_true ok.inside
  have bytes : c.cisRd s c.ga.toNat 32 = b := ok.bytes.symm
  have count : ¬(leAt b 0 4 = 0 ∨ 65536 < leAt b 0 4) := fun h => h.elim (Nat.ne_of_gt ok.least) ok.most.not_gt
  simp [wCtx, inside, bytes, count, Ictx.cluster, Ictx.opened, ok.room, ok.type, ok.area, ok.high, ok.low, ok.last, ok.aligned, ok.alone]

/-! ## Pushing (R87, R89) -/

/-- While the run has room and tags may repeat, every pushed pair is counted and kept. -/
theorem CombCtx.foldl_push {α : Type} (pair : α → F32 × Nat) (lanes : List α) {k : CombCtx} (plain : k.dedup = false)
    (room : k.run.length < k.k) :
    lanes.foldl (fun k i => k.push (pair i)) k = { k with pushed := k.pushed + lanes.length, block := k.block ++ lanes.map pair } := by
  induction lanes generalizing k with
  | nil => simp
  | cons i r ih =>
    have one : k.push (pair i) = { k with pushed := k.pushed + 1, block := k.block ++ [pair i] } := by
      simp [CombCtx.push, plain, room.ne]
    rw [List.foldl_cons, one, ih (by exact plain) (by exact room)]
    simp only [List.length_cons, List.map_cons, List.append_assoc, List.singleton_append, CombCtx.mk.injEq, true_and, and_true]
    omega

/-- A 32-bit lane of a group of vector registers. -/
theorem Ictx.groupLane_32 (c : Ictx) (r i : Nat) : c.groupLane r 32 i = lane1 32 (c.th.rv (r + i / 32)) (i % 32) := by
  rw [Ictx.groupLane, show i * 32 / 1024 = i / 32 by omega]

theorem Ictx.groupLane_64 (c : Ictx) (r i : Nat) : c.groupLane r 64 i = lane1 64 (c.th.rv (r + i / 16)) (i % 16) := by
  rw [Ictx.groupLane, show i * 64 / 1024 = i / 16 by omega]

/-- A context with the pairs of some lanes counted and kept. -/
def CombCtx.took (k : CombCtx) (lanes : List Nat) (pair : Nat → F32 × Nat) : CombCtx :=
  { k with pushed := k.pushed + lanes.length, block := k.block ++ lanes.map pair }

/-- A push puts the pairs of the active lanes into the context. -/
theorem combPush_effect {opc lanes top : Nat} {wide : Bool} {tag key : Ictx → Nat → Nat} {s : State} {t : Tid} {c : Ictx} {k : CombCtx}
    {pair : Nat → F32 × Nat} (h : At s t opc c) (operand : wA c.w ≤ top)
    (uses : onlyUses c.w (usesMk ||| usesA ||| usesSub 1 0) = true) (opened : c.combCtx s (field c.w 1 0) = some k)
    (width : k.wide = wide) (space : k.block.length < 256) (plain : k.dedup = false) (room : k.run.length < k.k)
    (pairs : ∀ i, i < lanes → (BitVec.ofNat 32 (key c i), tag c i) = pair i) :
    ∃ s', combPush opc lanes wide top tag key t s = .next s' ∧ SameBytes s s' ∧
      Map.get? (s'.cluster c.mem.cluster).ctx (field c.w 1 0) = some (k.took ((List.range lanes).filter c.active) pair) := by
  refine ⟨_, runInsn_done (s1 := s.setCtx c.mem.cluster (field c.w 1 0) (k.took ((List.range lanes).filter c.active) pair)) h
    (by simp [operand, uses]) ?_, SameBytes.refl s, ?_⟩
  · simp only [wCtx, opened, width, bne_self_eq_false, Bool.false_eq_true, if_false, CombCtx.not_full space]
    rw [CombCtx.foldl_push (fun i => (BitVec.ofNat 32 (key c i), tag c i)) _ plain room,
      List.map_congr_left fun i lane => pairs i (List.mem_range.1 (List.mem_of_mem_filter lane))]
    rfl
  · exact (congrArg (Map.get? · _) (s.ctx_setCtx ..)).trans (Map.get?_put_self ..)

/-! ## Merging a block (R82, R89) -/

/-- What pair order compares in either direction: the ordering keys, turned round with DESC, then the tags. -/
def directedKey (kt : Nat) (desc : Bool) (p : F32 × Nat) : Int ×ₗ Nat :=
  toLex (if desc then -(okey kt p.1.toNat : Int) else okey kt p.1.toNat, p.2)

theorem compares_directed (kt : Nat) (desc : Bool) : Compares (pairBefore kt desc) (directedKey kt desc) := by
  intro p q
  cases desc <;> simp only [pairBefore, directedKey, Prod.Lex.toLex_lt_toLex, Bool.or_eq_true, Bool.and_eq_true, decide_eq_true_eq,
    beq_iff_eq, if_true, Bool.false_eq_true, if_false] <;> omega

theorem directedKey_le {kt : Nat} {desc : Bool} {p q : F32 × Nat} (h : directedKey kt desc p ≤ directedKey kt desc q) :
    pairBefore kt desc q p = false :=
  Bool.eq_false_iff.2 fun less => h.not_gt ((compares_directed kt desc q p).1 less)

/-- Sorted pairs stand in pair order. -/
theorem pairs_sorted (kt : Nat) (desc : Bool) (l : List (F32 × Nat)) :
    (sortBy (pairBefore kt desc) l).Pairwise fun p q => pairBefore kt desc q p = false :=
  (sortBy_sorted (compares_directed kt desc) l).imp directedKey_le

/-- A merge keeps the least K pairs of the run and the block, in order. -/
theorem CombCtx.mergeBlock_least (k : CombCtx) (n : Nat) :
    ∃ rest, ((k.mergeBlock n).run ++ rest).Perm (k.run ++ k.block.take n) ∧
      ((k.mergeBlock n).run ++ rest).Pairwise fun p q => pairBefore k.ktype k.desc q p = false := by
  refine ⟨(sortBy (pairBefore k.ktype k.desc) (k.run ++ k.block.take n)).drop k.k, ?_⟩
  rw [CombCtx.mergeBlock, List.take_append_drop]
  exact ⟨sortBy_perm _ _, pairs_sorted ..⟩

theorem CombCtx.mergeBlock_run_length (k : CombCtx) {n : Nat} (enough : n ≤ k.block.length) :
    (k.mergeBlock n).run.length = Nat.min k.k (k.run.length + n) := by
  rw [CombCtx.mergeBlock, List.length_take, (sortBy_perm _ _).length_eq, List.length_append, List.length_take, Nat.min_eq_left enough]

theorem CombCtx.mergeBlock_all (k : CombCtx) :
    k.mergeBlock k.block.length =
      { k with run := (sortBy (pairBefore k.ktype k.desc) (k.run ++ k.block)).take k.k, block := [] } := by
  simp [CombCtx.mergeBlock]

/-! ## Closing (R86, R89) -/

theorem Mem.wrMask_all (m : Mem) (a : Nat) (bs : List Byte) : m.wrMask a (bs.map fun b => (true, b)) = m.wrN a bs := by
  induction bs generalizing m a with
  | nil => rfl
  | cons b r ih => exact ih ..

theorem Ictx.withinArea_all {c : Ictx} {off : Nat} {bs : List Byte} (above : c.mem.base ≤ off)
    (below : off + bs.length ≤ c.mem.base + c.frag.cis * 65536) : c.withinArea off bs = bs.map fun b => (true, b) := by
  refine List.ext_getElem (by simp [Ictx.withinArea]) fun i hi _ => ?_
  have : i < bs.length := by simpa [Ictx.withinArea] using hi
  simp only [Ictx.withinArea, List.getElem_map, List.getElem_zipIdx, Nat.zero_add, Prod.mk.injEq, decide_eq_true_eq, and_true]
  omega

theorem runEntry_length (wide : Bool) (kt : Nat) (p : F32 × Nat) : (runEntry wide kt p).length = runEntrySize wide := by
  cases wide <;> simp [runEntry, runEntrySize, toLe_length]

theorem runEntries_length (wide : Bool) (kt : Nat) (run : List (F32 × Nat)) :
    (run.flatMap (runEntry wide kt)).length = run.length * runEntrySize wide := by
  induction run with
  | nil => simp
  | cons p r ih => rw [List.flatMap_cons, List.length_append, ih, runEntry_length, List.length_cons]; ring

/-- A run fits into its area, with room for the unsorted block besides. -/
theorem run_fits {wide : Bool} {kt k : Nat} {run : List (F32 × Nat)} (h : run.length ≤ k) :
    (run.flatMap (runEntry wide kt)).length ≤ runAreaBytes wide k := by
  rw [runEntries_length]
  cases wide <;> simp only [runEntrySize, runAreaBytes, Bool.false_eq_true, if_true, if_false] <;> omega

/-- The state of the cluster after the close: the run and the counts written, the context gone. -/
def State.combClosed (s : State) (c : Ictx) (n : Nat) (k : CombCtx) : State :=
  { s with
    cis := (s.cis.wrN (cisKey c.mem.cluster k.area) (k.run.flatMap (runEntry k.wide k.ktype))).wrN
      (cisKey c.mem.cluster (k.descAt + 0xC)) (toLe 4 k.run.length ++ toLe 8 k.pushed ++ toLe 4 k.dups) }.updCluster
    c.mem.cluster fun x => { x with ctx := Map.del x.ctx n }

theorem exec_combClose_next {s : State} {t : Tid} {c : Ictx} {k : CombCtx} (h : At s t 0x6F c) (uses : onlyUses c.w (usesSub 1 0) = true)
    (opened : c.combCtx s (field c.w 1 0) = some k) (space : k.block.length < 256) (sound : k.astray = false)
    (areaLow : c.mem.base ≤ k.area) (areaHigh : k.area + runAreaBytes k.wide k.k ≤ c.mem.base + c.frag.cis * 65536)
    (descLow : c.mem.base ≤ k.descAt) (descHigh : k.descAt + 32 ≤ c.mem.base + c.frag.cis * 65536) :
    exec (.combClose t) s =
      .next ((s.combClosed c (field c.w 1 0) (k.mergeBlock k.block.length)).updThread t Thread.retired) := by
  refine (exec_combClose t s).trans (runInsn_done h uses ?_)
  have fits := run_fits (wide := k.wide) (kt := k.ktype) (k := k.k) (run := (k.mergeBlock k.block.length).run)
    (by rw [CombCtx.mergeBlock_run_length k le_rfl]; exact Nat.min_le_left ..)
  have bytes : s.runBytes (k.mergeBlock k.block.length) = (k.mergeBlock k.block.length).run.flatMap (runEntry k.wide k.ktype) := by
    unfold State.runBytes
    rw [if_neg (by simp [CombCtx.mergeBlock, sound])]
    rfl
  simp only [wCtx, opened, CombCtx.not_full space, bytes, sound, Ictx.cluster, Bool.false_eq_true, if_false]
  rw [Ictx.withinArea_all areaLow (by omega), Ictx.withinArea_all (by omega) (by simp [toLe_length]; omega), Mem.wrMask_all, Mem.wrMask_all]
  rfl

/-- Settles O15: a context is opened empty, takes pairs, keeps the least, and is closed with its run in memory. -/
theorem combContexts : Obligations.CombContexts := by
  unfold Obligations.CombContexts
  refine ⟨?_, ?_, ?_, ?_⟩
  · intro s t c b h uses desc hb least most type high low rsvd align area free alone
    obtain ⟨_, _, _, _, _, _, _, _, _, thread, _⟩ := insn_some h.1
    have ok : Openable s c b := ⟨desc, hb, least, most, type, high, low, rsvd, align, area, free, alone⟩
    refine ⟨_, c.opened b, exec_combOpen_next h uses ok, SameBytes.refl s, ?_, rfl,
      congrArg Tid.frag thread, rfl, rfl, rfl, rfl, rfl, rfl, rfl, rfl, rfl, fun n other => ?_⟩
    · exact (congrArg (Map.get? · _) (s.ctx_setCtx ..)).trans (Map.get?_put_self ..)
    · exact (congrArg (Map.get? · _) (s.ctx_setCtx ..)).trans (Map.get?_put_ne _ _ other)
  · intro s t c k uses opened space plain room
    refine ⟨fun h operand narrow => ?_, fun h operand wide => ?_⟩
    · exact combPush_effect h operand uses opened narrow space plain room fun i _ => by rw [Ictx.groupLane_32, Ictx.groupLane_32]
    · refine combPush_effect h operand uses opened wide space plain room fun i small => ?_
      rw [Ictx.groupLane_32, Ictx.groupLane_64, Nat.div_eq_of_lt small, Nat.mod_eq_of_lt small, Nat.add_zero]
  · intro s l n k active found full
    obtain ⟨rest, same, sorted⟩ := k.mergeBlock_least 256
    have effect : exec (.combBlockMerge l n) s = .next (s.setCtx l n (k.mergeBlock 256)) := by
      rw [exec_combBlockMerge, execCombBlockMerge, found]
      simp [onlyIf, active, k.full_iff.2 full]
    have ⟨run, _, least⟩ := List.pairwise_append.1 sorted
    refine ⟨_, k.mergeBlock 256, rest, effect, SameBytes.refl s, ?_, rfl, k.mergeBlock_run_length full, same, run, least⟩
    rw [s.ctx_setCtx, Map.get?_put_self]
  · intro s t c k h uses opened _ space sound areaLow areaHigh descLow descHigh
    refine ⟨_, _, exec_combClose_next h uses opened space sound areaLow areaHigh descLow descHigh, ?_, rfl, ?_⟩
    · simp [State.combClosed, State.cluster, State.updCluster, State.setCluster, State.updThread, State.updMember, State.updFrag]
    · rw [k.mergeBlock_all]
      rfl

/-! ## Merging two runs (R92 to R94) -/

theorem runPairs_length (wide : Bool) (n : Nat) (bs : List Byte) : (runPairs wide n bs).length = n := by simp [runPairs]

/-- Two runs are read one after the other. -/
theorem Ictx.readRuns_two {c : Ictx} {s1 s2 s3 : State} {wide : Bool} {a1 n1 a2 n2 : Nat} {r1 r2 : List Byte}
    (first : Reads c s1 a1 (n1 * runEntrySize wide) s2 r1) (second : Reads c s2 a2 (n2 * runEntrySize wide) s3 r2)
    (k : State → List (List (F32 × Nat)) → Eff) :
    c.readRuns wide [(a1, n1), (a2, n2)] s1 [] k = k s3 [runPairs wide n1 r1, runPairs wide n2 r2] := by
  simp only [Ictx.readRuns]
  rw [first, second]
  rfl

/-- Settles O16: two runs in pair order give the first K pairs of their union. -/
theorem combMerge : Obligations.CombMerge := by
  unfold Obligations.CombMerge
  intro s t c b f s1 s2 s3 s4 list r1 r2 out u h uses desc hb hf two least most type high low rsvd rest readList zero1 zero2 read1 read2
    sorted1 sorted2 hu hout write
  subst hf
  refine ⟨_, (exec_combMerge t s).trans (runInsn_done h uses
    (s1 := c.cisWr s4 (c.ga.toNat + 0x20) (toLe 4 (Nat.min (leAt b 0 4) u.length) ++ toLe 4 (leAt list 8 4 + leAt list 24 4 - u.length))) ?_),
    rfl, rfl, rfl, rfl⟩
  have inside : c.inArea c.ga.toNat 64 = true := decide_eq_true desc
  have bytes : c.cisRd s c.ga.toNat 64 = b := hb.symm
  have count : ¬(leAt b 0 4 = 0 ∨ (bit (leAt b 4 4) 7 = true ∧ 65536 < leAt b 0 4)) := by omega
  have clean : (b.drop 0x28).any (· != 0) = false := by simpa using rest
  have cut : leAt b 0 4 ≠ 0xFFFFFFFF := by omega
  simp only [inside, bytes, count, type, two, high, low, rsvd, clean, Bool.not_true, Bool.false_eq_true, if_false, ne_eq, not_true,
    or_self, show ¬((2 : Nat) < 2 ∨ 16 < 2) by omega]
  rw [readList]
  have flags : ((List.range 2).any fun i => leAt list (16 * i + 12) 4 != 0) = false := by simp [List.range_succ, zero1, zero2]
  have runs : ((List.range 2).map fun i => (leAt list (16 * i) 8, leAt list (16 * i + 8) 4)) =
      [(leAt list 0 8, leAt list 8 4), (leAt list 16 8, leAt list 24 4)] := by simp [List.range_succ]
  simp only [flags, runs, Bool.false_eq_true, if_false]
  rw [Ictx.readRuns_two read1 read2]
  simp only [List.all_cons, List.all_nil, sorted1, sorted2, Bool.and_self, if_true, List.flatten_cons, List.flatten_nil, List.append_nil,
    List.length_append, runPairs_length, cut, if_false, ← hu]
  have first : (u.take (Nat.min (leAt b 0 4) u.length)).flatMap (runEntry (bit (leAt b 4 4) 3) (field (leAt b 4 4) 5 4)) = out :=
    (congrArg _ List.take_eq_take_min.symm).trans hout.symm
  rw [first, write]

end Sys2Proof.Machine

/-! O54: an insert whose command stands under a fragment of its own. The end of a command removes the programs that its fragments
posted (R306, R310), so such a command leaves no ended entry behind. -/
namespace Sys2Proof.Machine

/-- The end of a command that one of its own fragments posted leaves no command of its number. -/
theorem State.cmd?_endCmd_own {s : State} {c : Nat} {x : Cmd} (found : s.cmd? c = some x) (working : x.phase = .admitted)
    (own : ∀ y ∈ s.cmds, y.id = c → ∃ f ∈ s.frags, f.cmd = c ∧ y.parent = some f.id) (st ct v pos bp : Nat) :
    (s.endCmd c st ct v pos bp).cmd? c = none := by
  have ended : s.endCmd c st ct v pos bp = (s.signedOff c x bp pos).updCmd c fun y =>
      { y with phase := .ended, status := st, count := ct, value := v, finalBp := bp, pos := pos } := by
    unfold State.endCmd
    rw [found]
    dsimp only
    rw [working, if_neg (by decide)]
    rfl
  have gone : (s.signedOff c x bp pos).cmd? c = none := by
    rw [State.cmd?, State.signedOff_cmds, List.find?_eq_none]
    intro y kept
    obtain ⟨listed, outside⟩ := List.mem_filter.1 kept
    intro same
    obtain ⟨f, running, cmd, parent⟩ := own y listed (by simpa using same)
    have inside : f.id ∈ (s.frags.filter fun f => f.cmd == c).map (·.id) :=
      List.mem_map_of_mem (List.mem_filter.2 ⟨running, by simpa using cmd⟩)
    simp [parent, inside] at outside
  rw [ended, State.cmd?, State.updCmd, updFirst_none _ _ _ gone]
  exact gone

/-! ## The state that refutes -/

/-- A pod insert that waits for worker 1 with its first vector, posted by fragment 5. -/
def ownInsert : Cmd :=
  { id := 1, fn := 0, sq := 0, cmdid := 0, cq := none, entry := [], args := [], phase := .admitted, cls := 1, slot := none, seq := 1,
    bp := 0, pos := 0, lastBp := 0, status := 0, count := 0, value := 0, finalBp := 0, started := true, argBase := 0, skewed := [],
    losses := [], waits := [], parent := some 5, work := .insert [] stOk (some ⟨0, 0, []⟩), needRoom := 0, admittedAt := 0, bound := 0,
    unposted := [] }

/-- Fragment 5, which belongs to that same insert. -/
def ownFrag : Frag :=
  { id := 5, cmd := 1, tenant := 0, cls := 1, desc := [], prog := 0, phase := .dispatchable, groups := [], joinOn := none, members := [],
    posts := [], logs := [], status := none, prog2 := none, held := [], inner := false, reissues := 0, avoid := [], skewUsed := false,
    readyAt := 0, dispAt := 0, waitFrom := 0, missed := false, charged := 0 }

def ownColl : Coll :=
  { handle := 7, tenant := 0, index := 0, dim := 8, sub := 8, ncent := 1, nlists := 1, spill := false, recfmt := 0, attrb := 0,
    metric := 0, cls := 1, was := [], compactAt := 0, budget := 0, coarse := [], fine := [], book := [], lists := [], nextLid := 1,
    dying := none, pod := some (false, false), staging := [] }

/-- The update of that insert, of which worker 1 owes the one part. -/
def ownUpdate : UpdateCtx :=
  { uid := 1, cmd := 1, coll := 7, lid := some 0, isDelete := false, owing := [1], status := stOk, src := 0, ref := 0 }

/-- A queen with that insert in flight. -/
def ownedQueen : State :=
  { State.reset.setFld oFabNode 23 22 2 with
    cmds := [ownInsert], frags := [ownFrag], colls := [ownColl], fab := { Fabric.reset with updates := [ownUpdate], nextQid := 2 } }

/-- Worker 1 reports `ST_QUOTA`: the vector is undone and the insert ends. -/
theorem exec_updateReport_owned :
    exec (.updateReport 1 1 stQuota) ownedQueen =
      .next (({ ownedQueen with fab := { ownedQueen.fab with updates := [] } }.updColl 7 fun o => o.bury 0 0).fail 1 stQuota) := by
  rw [exec_updateReport, execUpdateReport]
  rfl

/-- Refutes O54: the clause of an update report with `ST_QUOTA` promises an ended insert for every command in flight. A command that a
fragment of its own posted (`parent`, which the clause leaves free) is removed with that fragment's programs when it ends. -/
theorem not_podQueries : ¬ Obligations.PodQueries := by
  unfold Obligations.PodQueries
  intro h
  obtain ⟨_, _, _, reports, _⟩ := h
  obtain ⟨_, _, inserts, _⟩ := reports ownedQueen 1 1 stQuota ownUpdate stQuota (by decide +kernel) (by decide +kernel) rfl (by decide) rfl
  obtain ⟨s', effect, _, _, _, undone⟩ :=
    inserts ownInsert ownColl 0 [] stOk ⟨0, 0, []⟩ (by decide) rfl rfl rfl (by decide) rfl rfl rfl
  obtain ⟨_, _, ended⟩ := undone (by decide)
  obtain ⟨y, found, _⟩ := ended rfl
  have left := exec_updateReport_owned.symm.trans effect
  have gone : s'.cmd? 1 = none := by
    rw [← Host.Outcome.next.inj left]
    exact State.cmd?_endCmd_own (x := ownInsert) rfl rfl (by decide) ..
  exact Option.some_ne_none y (found.symm.trans gone)

end Sys2Proof.Machine

/-! O21: `quant`, `dequant`, `stat.amax` and `stat.clip` (R125 to R130, R375 to R377). -/
namespace Sys2Proof.Machine

/-! ## Lanes of a register (R343) -/

theorem testBit_packLanes {w : Nat} (pos : 0 < w) (l : List Nat) (j : Nat) :
    (packLanes w l).testBit j = (l.getD (j / w) 0).testBit (j % w) := by
  induction l generalizing j with
  | nil => simp [packLanes]
  | cons x r ih =>
    rw [packLanes, Nat.add_comm, Nat.testBit_two_pow_mul_add _ (Nat.mod_lt _ (Nat.two_pow_pos _))]
    by_cases first : j < w
    · simp [first, Nat.div_eq_of_lt first, Nat.mod_eq_of_lt first, Nat.testBit_mod_two_pow]
    · rw [if_neg first, ih, Nat.div_eq_sub_div pos (Nat.le_of_not_lt first), List.getD_cons_succ, Nat.mod_eq_sub_mod (Nat.le_of_not_lt first)]

/-- A lane of a register made of lanes is the one that was given, cut to its width. -/
theorem lane1_ofLanes {w i : Nat} (pos : 0 < w) (inside : i < 1024 / w) (l : List Nat) : lane1 w (ofLanes w l) i = l.getD i 0 % 2 ^ w := by
  have last : w * i + w ≤ 1024 := (Nat.mul_succ w i).symm.le.trans ((Nat.mul_le_mul_left w inside).trans (Nat.mul_div_le 1024 w))
  refine Nat.eq_of_testBit_eq fun k => ?_
  rw [lane1, ofLanes, testBit_field, BitVec.testBit_toNat, BitVec.getLsbD_ofNat, Nat.testBit_mod_two_pow, testBit_packLanes pos,
    show w * i + w - 1 + 1 - w * i = w by omega]
  by_cases low : k < w
  · rw [Nat.mul_add_div pos, Nat.div_eq_of_lt low, Nat.mul_add_mod, Nat.mod_eq_of_lt low, decide_eq_true (show w * i + k < 1024 by omega),
      Bool.true_and, Nat.add_zero]
  · simp [low]

/-- A lane of a register of which the first `n` lanes were given. -/
theorem lane1_ofLanes_range {w n i : Nat} (pos : 0 < w) (inside : i < 1024 / w) (f : Nat → Nat) :
    lane1 w (ofLanes w ((List.range n).map f)) i = if i < n then f i % 2 ^ w else 0 := by
  rw [lane1_ofLanes pos inside]
  by_cases h : i < n <;> simp [List.getD_eq_getElem?_getD, h]

theorem zipIdx_map_range {α : Type} (n : Nat) (f : Nat → α) : ((List.range n).map f).zipIdx = (List.range n).map fun i => (f i, i) :=
  List.ext_getElem (by simp) fun i _ _ => by simp

/-- 32 lanes of a register from lane `k` upward. -/
theorem lanesOf_group {w k : Nat} (v : BitVec 1024) (inside : k + 32 ≤ 1024 / w) :
    ((lanesOf w v).drop k).take 32 = (List.range 32).map fun i => lane1 w v (k + i) :=
  List.ext_getElem (by simp [lanesOf]; omega) fun i _ _ => by simp [lanesOf]

theorem Ictx.anyActive_eq_false (c : Ictx) {l : List Bool} (all : ∀ b ∈ l, b = false) : c.anyActive l = false :=
  List.any_eq_false.2 fun p hp => by simp [all p.1 (List.fst_mem_of_mem_zipIdx hp)]

/-! ## Updates of the thread one after the other -/

theorem At.tid {s : State} {t : Tid} {opc : Nat} {c : Ictx} (h : At s t opc c) : c.t = t := by
  obtain ⟨_, _, _, _, _, _, _, _, _, thread, _⟩ := insn_some h.1
  exact thread

theorem OnlyThread.refl {s : State} {t : Tid} {th : Thread} (h : s.thread? t = some th) : OnlyThread s s t th :=
  ⟨⟨h, fun _ _ => rfl, fun _ _ => rfl, fun _ => rfl⟩, SameBytes.refl s, rfl⟩

theorem OnlyThread.updThread {s s1 : State} {t : Tid} {th : Thread} (h : OnlyThread s s1 t th) (g : Thread → Thread) :
    OnlyThread s (s1.updThread t g) t (g th) :=
  h.trans (onlyThread_updThread s1 t g th h.thread.self)

/-- A thread with a sticky flag set where a condition holds. -/
def Thread.flagIf (th : Thread) (p : Bool) (i : Nat) : Thread := { th with flags := if p then setFlagBit th.flags i else th.flags }

theorem OnlyThread.flagIf {s s1 : State} {c : Ictx} {th : Thread} (h : OnlyThread s s1 c.t th) (p : Bool) (i : Nat) :
    OnlyThread s (c.flagIf p i s1) c.t (th.flagIf p i) := by
  cases p with
  | false => exact h
  | true => exact h.updThread fun th => { th with flags := setFlagBit th.flags i }

/-- Writing a vector register and going on, after a sticky flag. -/
theorem WroteV.flagIf {th th' : Thread} {p : Bool} {i d : Nat} {x : BitVec 1024} (h : WroteV (th.flagIf p i) th' d x) : WroteV th th' d x :=
  ⟨h.g, h.v, h.m, h.pc, h.st⟩

/-! ## `quant` (R125, R126, R375) -/

/-- The integer codes: int4 and int8. -/
theorem intCode_bounds : ∀ ty ∈ [1, 2], ty < 10 ∧ 0 < tyWidth ty ∧ 32 ≤ 1024 / tyWidth ty := by decide

theorem intCode_known : ∀ ty ∈ [1, 2], [1, 2, 10, 11].contains ty = true := by decide

/-- A zero of either sign is zero in FP16. -/
theorem f16_val_zero {s : Nat} (h : s % 2 ^ 15 = 0) : ∃ e, fF16.val s = .fin (bit s 15) 0 e := by
  simp only [Fmt.val, fF16, Fmt.width, Nat.reduceAdd, Nat.reduceSub, h]
  exact ⟨_, rfl⟩

theorem quantise_nan {x : Nat} (h : fF32.isNan x = true) (s : Nat) (z lo hi : Int) : quantise x s z lo hi = (z, true) := if_pos h

theorem quantise_zero_scale {s : Nat} (h : s % 2 ^ 15 = 0) (x : Nat) (z lo hi : Int) : (quantise x s z lo hi).1 = z := by
  obtain ⟨e, zero⟩ := f16_val_zero h
  unfold quantise
  split
  · rfl
  · rw [zero]
    rfl

/-- The code of a NaN is the zero point, and sets NANQ. -/
theorem quantCode_nan {ty : Nat} (int : ty < 10) (free e : Nat) {x : Nat} (h : fF32.isNan x = true) :
    quantCode ty free e x = ⟨ofSigned (tyWidth ty) (entryZp e), true, false⟩ := by
  simp [quantCode, Nat.not_le.2 int, h, quantise_nan h]

/-- The code of a value with a zero scale is the zero point. -/
theorem quantCode_zero_scale {ty e : Nat} (int : ty < 10) (free x : Nat) (h : e % 2 ^ 15 = 0) :
    (quantCode ty free e x).bits = ofSigned (tyWidth ty) (entryZp e) := by
  have zero : entryScale e % 2 ^ 15 = 0 := by unfold entryScale; omega
  simp only [quantCode, if_neg (Nat.not_le.2 int), zero, quantise_zero_scale zero, bne_self_eq_false, Bool.and_false, Bool.false_and,
    Bool.false_eq_true, if_false]

theorem ofSigned_lt (w : Nat) (i : Int) : ofSigned w i < 2 ^ w := by
  have pos : (0 : Int) < (2 ^ w : Nat) := by exact_mod_cast Nat.two_pow_pos w
  have := Int.emod_lt_of_pos i pos
  have := Int.emod_nonneg i pos.ne'
  unfold ofSigned
  omega

/-- What `quant` computes for lane `i`. -/
def Ictx.quantLane (c : Ictx) (s : State) (i : Nat) : Code :=
  if c.active i then quantCode (wTy c.w) (s.free + i) c.gb.toNat (lane1 32 c.va i) else ⟨idleCode (wTy c.w) c.gb.toNat, false, false⟩

/-- The codes of the 32 lanes, and the register that holds them. -/
def Ictx.quantCodes (c : Ictx) (s : State) : List Code := (List.range 32).map (c.quantLane s)
def Ictx.quantReg (c : Ictx) (s : State) : BitVec 1024 := ofLanes (tyWidth (wTy c.w)) ((c.quantCodes s).map (·.bits))

theorem Ictx.quantCodes_eq (c : Ictx) (s : State) :
    ((lanesOf 32 c.va).zipIdx.map fun p =>
      if c.active p.2 then quantCode (wTy c.w) (s.free + p.2) c.gb.toNat p.1 else ⟨idleCode (wTy c.w) c.gb.toNat, false, false⟩) =
      c.quantCodes s := by
  rw [lanesOf, zipIdx_map_range, List.map_map]
  rfl

/-- A lane that is inactive, holds a NaN or meets a zero scale becomes the zero point. -/
theorem Ictx.quantLane_zp {c : Ictx} {i : Nat} (s : State) (int : wTy c.w < 10)
    (h : c.active i = false ∨ fF32.isNan (lane1 32 c.va i) = true ∨ c.gb.toNat % 2 ^ 15 = 0) :
    (c.quantLane s i).bits = ofSigned (tyWidth (wTy c.w)) (entryZp c.gb.toNat) := by
  unfold Ictx.quantLane
  split
  · rename_i active
    obtain idle | nan | zero := h
    · simp [idle] at active
    · rw [quantCode_nan int _ _ nan]
    · exact quantCode_zero_scale int _ _ zero
  · exact if_neg (Nat.not_le.2 int)

theorem Ictx.lane1_quantReg (c : Ictx) (s : State) {i : Nat} (pos : 0 < tyWidth (wTy c.w)) (inside : i < 1024 / tyWidth (wTy c.w)) :
    lane1 (tyWidth (wTy c.w)) (c.quantReg s) i = if i < 32 then (c.quantLane s i).bits % 2 ^ tyWidth (wTy c.w) else 0 := by
  rw [Ictx.quantReg, Ictx.quantCodes, List.map_map]
  exact lane1_ofLanes_range pos inside _

/-- The machine after `quant`, before its thread goes on. -/
def Ictx.quantDone (c : Ictx) (s : State) : State :=
  c.putV (c.flagIf ((c.quantCodes s).any (·.nanq)) flagNanq (c.flagIf ((c.quantCodes s).any (·.inv)) flagFpinv (s.drew 32))) (c.quantReg s)

/-- The thread after `quant`: its flags, then vD. -/
def Ictx.quantThread (c : Ictx) (s : State) : Thread :=
  (((c.th.flagIf ((c.quantCodes s).any (·.inv)) flagFpinv).flagIf ((c.quantCodes s).any (·.nanq)) flagNanq).setV (wD c.w)
    (c.quantReg s)).retired

theorem exec_quant_next {s : State} {t : Tid} {c : Ictx} (h : At s t 0x88 c)
    (uses : onlyUses c.w (usesTy ||| usesMk ||| usesD ||| usesA ||| usesB) = true) (dest : wD c.w ≤ 31) (src : wA c.w ≤ 31)
    (type : wTy c.w ∈ [1, 2]) (entry : c.gb.toNat < 2 ^ 32) :
    ∃ s', exec (.quant t) s = .next s' ∧ OnlyThread (s.drew 32) s' t (c.quantThread s) := by
  have int := (intCode_bounds _ type).1
  have sound : ¬(2 ^ 32 ≤ c.gb.toNat ∨ (10 ≤ wTy c.w ∧ entryZp c.gb.toNat ≠ 0)) := by omega
  refine ⟨_, (exec_quant t s).trans (runInsn_done (s1 := c.quantDone s) h ?_ ?_), ?_⟩
  · simpa [vDA, dest, src, uses] using intCode_known _ type
  · refine (if_neg sound).trans ?_
    rw [Ictx.quantCodes_eq]
    rfl
  · have self : (s.drew 32).thread? c.t = some c.th := h.tid ▸ insn_thread h.1
    rw [← h.tid]
    exact ((((OnlyThread.refl self).flagIf _ _).flagIf _ _).updThread _).updThread _

/-- A NaN in an active lane sets NANQ. -/
theorem Ictx.quantThread_nanq {c : Ictx} {i : Nat} (s : State) (int : wTy c.w < 10) (small : i < 32) (active : c.active i = true)
    (nan : fF32.isNan (lane1 32 c.va i) = true) : (c.quantThread s).flags.getLsbD 2 = true := by
  have lane : (c.quantLane s i).nanq = true := by rw [Ictx.quantLane, if_pos active, quantCode_nan int _ _ nan]
  have reported : (c.quantCodes s).any (·.nanq) = true :=
    List.any_eq_true.2 ⟨_, List.mem_map.2 ⟨i, List.mem_range.2 small, rfl⟩, lane⟩
  simp [Ictx.quantThread, Thread.retired, Thread.setV, Thread.flagIf, reported, setFlagBit, flagNanq]

/-! ## `dequant` (R126, R376) -/

/-- An FP16 pattern whose exponent is not all ones is finite. -/
theorem f16_val_finite {e : Nat} (h : field e 14 10 ≠ 31) : ∃ neg m x, fF16.val (entryScale e) = .fin neg m x := by
  have small : entryScale e % 2 ^ 15 < 0x7C00 := by
    simp only [field, Nat.shiftRight_eq_div_pow] at h
    unfold entryScale
    omega
  generalize entryScale e = s at small ⊢
  have number : ¬s % 2 ^ 15 > 0x7C00 := by omega
  have bounded : ¬fF16.inf = some (s % 2 ^ 15) := fun same => by simp [fF16] at same; omega
  rw [show fF16.val s = _ from (if_neg number).trans (if_neg bounded)]
  split
  · exact ⟨_, _, _, rfl⟩
  · exact ⟨_, _, _, rfl⟩

/-- A pattern up to the infinity, with a sign, is no NaN. -/
theorem f32_signed_number {mag : Nat} (neg : Bool) (h : mag ≤ 0x7F800000) : fF32.isNan (fF32.signed neg mag) = false := by
  have cut : fF32.signed neg mag % 2 ^ 31 = mag := by
    cases neg <;> simp only [Fmt.signed, fF32, Fmt.width, b2n, Bool.false_eq_true, if_true, if_false] <;> omega
  have number : ¬mag > 0x7F800000 := Nat.not_lt.2 h
  generalize fF32.signed neg mag = x at cut
  simp only [Fmt.isNan, Fmt.val, fF32, Fmt.width, Nat.reduceAdd, Nat.reduceSub, Option.getD_some, cut, if_neg number]
  split
  · rfl
  · split <;> rfl

theorem f32_ofInf_number (neg : Bool) : fF32.isNan (fF32.ofInf neg) = false := by cases neg <;> decide

/-- Packing a significand gives a number or an infinity. -/
theorem f32_pack_number (neg : Bool) (i : Nat) (q : Int) : fF32.isNan (fF32.pack neg i q) = false := by
  have greatest : fF32.maxFin = 0x7F7FFFFF := rfl
  simp only [Fmt.pack]
  generalize (if i < 2 ^ fF32.mbits then i else _) = mag
  split
  · exact f32_ofInf_number neg
  · exact f32_signed_number neg (by omega)

theorem f32_roundQ_number (neg : Bool) (num den : Nat) : fF32.isNan (fF32.roundQ neg num den) = false := by
  unfold Fmt.roundQ
  split
  · exact f32_signed_number neg (Nat.zero_le _)
  · exact f32_pack_number ..

theorem f32_roundDy_number (zneg : Bool) (i e : Int) : fF32.isNan (fF32.roundDy zneg i e) = false := by
  unfold Fmt.roundDy
  split
  · exact f32_signed_number zneg (Nat.zero_le _)
  · exact f32_roundQ_number ..

/-- With a finite scale a code has a value that is no NaN. -/
theorem dequantise_number {s m : Nat} {neg : Bool} {x : Int} (finite : fF16.val s = .fin neg m x) (q z : Int) :
    fF32.isNan (dequantise q s z) = false := by
  unfold dequantise
  rw [finite]
  cases m with
  | zero => exact f32_signed_number false (Nat.zero_le _)
  | succ m => exact f32_roundDy_number ..

/-- The codes that `dequant` converts: 32 lanes from lane 32 · P on. -/
def Ictx.dequantSrc (c : Ictx) (i : Nat) : Nat := lane1 (tyWidth (wTy c.w)) c.va (32 * field c.w 6 4 + i)

/-- What `dequant` to FP32 writes to lane `i`. -/
def Ictx.dequantLane (c : Ictx) (i : Nat) : Nat :=
  if c.active i then cvtF fF32 fF32 (codeValue (wTy c.w) c.gb.toNat (c.dequantSrc i))
  else if wX c.w = 1 then 0 else (lanesOf 32 (c.th.rv (wD c.w))).getD i 0

/-- Whether converting code `x` makes a NaN that FPINV reports. -/
def Ictx.dequantInv (c : Ictx) (x : Nat) : Bool :=
  fF32.isNan (codeValue (wTy c.w) c.gb.toNat x) && !(decide (10 ≤ wTy c.w) && (tyFmt (wTy c.w)).isNan x) &&
    !fF16.isNan (entryScale c.gb.toNat)

def Ictx.dequantFpinv (c : Ictx) : Bool := c.anyActive (((List.range 32).map c.dequantSrc).map c.dequantInv)
def Ictx.dequantReg (c : Ictx) : BitVec 1024 := ofLanes 32 ((List.range 32).map c.dequantLane)

/-- The thread after `dequant`: FPINV where a NaN came about, then vD. -/
def Ictx.dequantThread (c : Ictx) : Thread := ((c.th.flagIf c.dequantFpinv flagFpinv).setV (wD c.w) c.dequantReg).retired

theorem dequant_group {ty p : Nat} (type : ty ∈ [1, 2]) (h : p ≤ if ty = 1 then 7 else 3) : 32 * p + 32 ≤ 1024 / tyWidth ty := by
  obtain rfl | rfl : ty = 1 ∨ ty = 2 := by simpa using type
  · exact show 32 * p + 32 ≤ 256 by simp at h; omega
  · exact show 32 * p + 32 ≤ 128 by simp at h; omega

theorem exec_dequant_next {s : State} {t : Tid} {c : Ictx} (h : At s t 0x89 c)
    (uses : onlyUses c.w (usesTy ||| usesMk ||| usesX ||| usesD ||| usesA ||| usesB ||| usesSub 6 0) = true) (dest : wD c.w ≤ 31)
    (src : wA c.w ≤ 31) (type : wTy c.w ∈ [1, 2]) (single : field c.w 3 0 = 14) (part : field c.w 6 4 ≤ if wTy c.w = 1 then 7 else 3) :
    ∃ s', exec (.dequant t) s = .next s' ∧ OnlyThread s s' t c.dequantThread := by
  refine ⟨_, (exec_dequant t s).trans (runInsn_done (s1 := c.putV (c.flagIf c.dequantFpinv flagFpinv s) c.dequantReg) h ?_ ?_), ?_⟩
  · simpa [dequantLegal, single, part, vDA, dest, src, usesV, uses] using intCode_known _ type
  · dsimp only
    rw [single, lanesOf_group _ (dequant_group type part), zipIdx_map_range, List.map_map]
    rfl
  · rw [← h.tid]
    exact (((OnlyThread.refl (h.tid ▸ insn_thread h.1)).flagIf _ _).updThread _).updThread _

/-- A finite scale leaves the flags. -/
theorem Ictx.dequantThread_flags {c : Ictx} (int : wTy c.w < 10) (finite : field c.gb.toNat 14 10 ≠ 31) :
    c.dequantThread.flags = c.th.flags := by
  have number : ∀ x, c.dequantInv x = false := fun x => by
    obtain ⟨neg, m, e, scale⟩ := f16_val_finite finite
    simp [Ictx.dequantInv, codeValue, Nat.not_le.2 int, dequantise_number scale]
  have quiet : c.dequantFpinv = false := c.anyActive_eq_false fun b hb => by
    obtain ⟨x, -, rfl⟩ := List.mem_map.1 hb
    exact number x
  exact if_neg (by simp [quiet])

theorem Ictx.lane1_dequantReg {c : Ictx} {i : Nat} (int : wTy c.w < 10) (small : i < 32) (active : c.active i = true) :
    lane1 32 c.dequantReg i = cvtF fF32 fF32 (dequantise (toSigned (tyWidth (wTy c.w)) (c.dequantSrc i)) (entryScale c.gb.toNat)
      (entryZp c.gb.toNat)) % 2 ^ 32 := by
  rw [Ictx.dequantReg, lane1_ofLanes_range (by decide) small, if_pos small, Ictx.dequantLane, if_pos active, codeValue,
    if_neg (Nat.not_le.2 int)]

/-! ## Statistics (R127 to R130, R377) -/

/-- With one channel only the first lane counts. -/
theorem foldl_first_lane {α : Type} (n : Nat) (f : α → Nat → α) (a : α) (rest : ∀ b i, f b (i + 1) = b) :
    (List.range (n + 1)).foldl f a = f a 0 := by
  rw [List.range_succ_eq_map, List.foldl_cons, List.foldl_map]
  exact List.foldl_fixed' (fun i => rest (f a 0) i) _

/-- A descriptor at gB for one FP32 channel, whose slot and scale entry lie in the member's area (R127). -/
structure OneChannel (s : State) (c : Ictx) (d : StatDesc) : Prop where
  inside : (c.th.rg (wB c.w)).toNat + 16 ≤ c.frag.cis * 65536
  desc : d = statDesc (c.cisRd s (c.th.rg (wB c.w)).toNat 16)
  count : d.nch = 1
  first : d.ch0 = 0
  high : fieldAt (c.cisRd s (c.th.rg (wB c.w)).toNat 16) 8 31 26 = 0
  last : fieldAt (c.cisRd s (c.th.rg (wB c.w)).toNat 16) 0xC 31 24 = 0
  aligned : d.slots % 64 = 0
  slot : c.inArea d.slots 8 = true
  scale : c.inArea d.scales 4 = true

/-- The channel's slot after the value of lane 0. -/
def Ictx.statSlot (c : Ictx) (s : State) (d : StatDesc) (f : Nat → StatDesc → Nat → Nat → Nat → Nat) : Nat :=
  f s.free d (leNat (c.cisRd s d.scales 4)) (leNat (c.cisRd s d.slots 8)) (cvtF fF32 fF32 (lane1 32 c.va 0))

/-- A statistic writes the slot, and nothing else of the machine but the thread's place and the free values drawn. -/
theorem statOp_next {opc : Nat} {scales : Bool} {f : Nat → StatDesc → Nat → Nat → Nat → Nat} {s : State} {t : Tid} {c : Ictx}
    {d : StatDesc} (h : At s t opc c) (uses : onlyUses c.w (usesTy ||| usesMk ||| usesA ||| usesB) = true) (src : wA c.w ≤ 31)
    (single : wTy c.w = 14) (active : c.active 0 = true) (ok : OneChannel s c d) :
    statOp opc scales f t s =
      .next ((c.cisWr (if scales then s.drew 64 else s) d.slots (toLe 8 (c.statSlot s d f))).updThread t Thread.retired) := by
  refine runInsn_done h (by simp [single, src, uses]) ?_
  have inside : c.inArea c.gb.toNat 16 = true := decide_eq_true ok.inside
  have desc : statDesc (c.cisRd s c.gb.toNat 16) = d := ok.desc.symm
  have high : fieldAt (c.cisRd s c.gb.toNat 16) 8 31 26 = 0 := ok.high
  have last : fieldAt (c.cisRd s c.gb.toNat 16) 0xC 31 24 = 0 := ok.last
  simp only [inside, desc, high, last, ok.count, ok.first, ok.aligned, ok.slot, ok.scale, Nat.mul_one, Bool.not_true, Bool.false_eq_true,
    if_false, ne_eq, not_true, and_false, or_self, Nat.one_ne_zero, show ¬65536 < 1 by decide]
  rw [lanesOf, zipIdx_map_range, List.foldl_map, Ictx.width, single]
  refine congrArg Eff.done ((foldl_first_lane 31 _ _ fun b i => ?_).trans ?_)
  · simp
  · cases scales <;> exact if_pos (by simp [active])

/-- What the statistics leave of the machine. -/
theorem onlyThreadOf_cisWr {s : State} {t : Tid} {c : Ictx} {opc : Nat} (h : At s t opc c) (n off : Nat) (bs : List Byte) :
    OnlyThreadOf s ((c.cisWr (s.drew n) off bs).updThread t Thread.retired) t c.th.retired :=
  have only := onlyThreadOf_updThread (c.cisWr (s.drew n) off bs) t Thread.retired c.th (insn_thread h.1)
  ⟨only.self, only.others, only.members, only.frags⟩

/-- Settles O21: each clause is the effect of one instruction, lane by lane. -/
theorem quantAndStatistics : Obligations.QuantAndStatistics := by
  unfold Obligations.QuantAndStatistics
  refine ⟨?_, ?_, ?_⟩
  · rintro s t c _ h uses dest src type rfl entry
    obtain ⟨int, pos, wide⟩ := intCode_bounds _ type
    obtain ⟨s', next, only⟩ := exec_quant_next h uses dest src type entry
    obtain ⟨⟨self, others, members, frags⟩, bytes, -⟩ := only
    refine ⟨s', _, c.quantReg s, next, ⟨self, others, members, frags⟩, bytes, (wroteV_setV ..).flagIf.flagIf,
      fun i high inside => ?_, fun i low zp => ?_, fun ⟨i, low, active, nan⟩ => Ictx.quantThread_nanq s int low active nan⟩
    · rw [c.lane1_quantReg s pos inside, if_neg (Nat.not_lt.2 high)]
    · rw [c.lane1_quantReg s pos (low.trans_le wide), if_pos low, Ictx.quantLane_zp s int zp, Nat.mod_eq_of_lt (ofSigned_lt _ _)]
      rfl
  · rintro s t c _ h uses dest src type single part rfl
    have int := (intCode_bounds _ type).1
    obtain ⟨s', next, only⟩ := exec_dequant_next h uses dest src type single part
    exact ⟨s', _, c.dequantReg, next, only, (wroteV_setV ..).flagIf, Ictx.dequantThread_flags int,
      fun i small active => Ictx.lane1_dequantReg int small active⟩
  · intro s t c d uses src single inside desc count first high last aligned slot scale active
    have ok : OneChannel s c d := ⟨inside, desc, count, first, high, last, aligned, slot, scale⟩
    refine ⟨fun h => ⟨_, (exec_statAmax t s).trans (statOp_next h uses src single active ok), ?_, rfl, rfl⟩,
      fun h => ⟨_, (exec_statClip t s).trans (statOp_next h uses src single active ok), ?_, rfl, rfl⟩⟩
    · exact onlyThreadOf_cisWr h 0 _ _
    · exact onlyThreadOf_cisWr h 64 _ _

end Sys2Proof.Machine

/-! O20: `seal`, `unseal`, `wcall`, an interval of a COPY, and a refresh (R149 to R161, R169, R172, R174). -/
namespace Sys2Proof.Machine

/-! ## What a change of one thread leaves of the other fragments -/

theorem onlyThreadOf_of_frags {s s1 : State} {t : Tid} {th : Thread} (same : s1.frags = s.frags) (self : s.thread? t = some th)
    (g : Thread → Thread) : OnlyThreadOf s (s1.updThread t g) t (g th) := by
  have frag : ∀ f, s1.frag? f = s.frag? f := fun f => by rw [State.frag?, State.frag?, same]
  have member : ∀ f m, s1.member? f m = s.member? f m := fun f m => by rw [State.member?, State.member?, frag]
  have thread : ∀ u, s1.thread? u = s.thread? u := fun u => by rw [State.thread?, State.thread?, member]
  have only := onlyThreadOf_updThread s1 t g th ((thread t).trans self)
  exact ⟨only.self, fun u other => (only.others u other).trans (thread u), fun f m => (only.members f m).trans (by rw [member]),
    fun f => (only.frags f).trans (by rw [frag])⟩

/-! ## An instruction that the HBMC accepts (R174) -/

/-- A thread that no longer waits at the HBMC, and goes on with the next word. -/
def Thread.accepted (th : Thread) : Thread := { th with queuedAt := none }.retired

theorem wroteG_accepted (th : Thread) (d : Nat) (v : Word) : WroteG th (th.setG d v).accepted d v :=
  have wrote := wroteG_setG th d v
  ⟨wrote.g, wrote.v, wrote.m, wrote.pc, wrote.st⟩

/-- An instruction that leaves the queue of its segment. -/
theorem runInsn_leave {opc : Nat} {legal : Nat → Bool} {eff : Ictx → State → Eff} {s s1 : State} {t : Tid} {c : Ictx}
    (h : At s t opc c) (uses : legal c.w = true) (effect : eff c s = c.leave s1) :
    runInsn opc legal eff t s = .next (s1.updThread t Thread.accepted) := by
  rw [runInsn_done h uses effect, h.tid, updThread_updThread]
  rfl

/-! ## Entries of a range table (R169) -/

/-- The entry makes address `b` of tenant `u` inner-only. -/
def Range.Covers (r : Range) (u b : Nat) : Prop := r.tenant = u ∧ r.base ≤ b ∧ b < r.base + r.len

theorem State.innerOnly_iff (s : State) (u b : Nat) : s.innerOnly u b = true ↔ ∃ r ∈ s.ranges, r.Covers u b := by
  simp [State.innerOnly, Range.Covers]

/-- An entry of whole granules, by the number of an address's granule. -/
theorem Range.covers_granules (stack tenant x k u b : Nat) :
    (⟨stack, tenant, x * 4096, k * 4096⟩ : Range).Covers u b ↔ tenant = u ∧ x ≤ b / 4096 ∧ b / 4096 < x + k := by
  simp only [Range.Covers]
  omega

theorem RangesAligned.covers_iff {s : State} (aligned : RangesAligned s) {r : Range} (mem : r ∈ s.ranges) (u b : Nat) :
    r.Covers u b ↔ r.tenant = u ∧ r.base / 4096 ≤ b / 4096 ∧ b / 4096 < (r.base + r.len) / 4096 := by
  obtain ⟨base, len⟩ := aligned r mem
  simp only [Range.Covers]
  omega

/-- A granule is inner-only as a whole or not at all. -/
theorem RangesAligned.innerOnly_granule {s : State} (aligned : RangesAligned s) (u b : Nat) :
    s.innerOnly u (b / 4096 * 4096) = s.innerOnly u b := by
  have same : ∀ r ∈ s.ranges, r.Covers u (b / 4096 * 4096) ↔ r.Covers u b := fun r mem => by
    rw [aligned.covers_iff mem, aligned.covers_iff mem, Nat.mul_div_cancel _ (by decide)]
  rw [Bool.eq_iff_iff, State.innerOnly_iff, State.innerOnly_iff]
  exact exists_congr fun r => and_congr_right (same r)

theorem mem_granules {a n g : Nat} (start : a % 4096 = 0) (whole : n % 4096 = 0) :
    g ∈ granules a n ↔ a / 4096 ≤ g ∧ g < (a + n) / 4096 := by
  simp only [granules, ceilDiv, List.mem_map, List.mem_range]
  constructor
  · rintro ⟨i, small, rfl⟩
    omega
  · rintro ⟨low, high⟩
    exact ⟨g - a / 4096, by omega, by omega⟩

theorem granules_length {a n : Nat} (start : a % 4096 = 0) (whole : n % 4096 = 0) : (granules a n).length = n / 4096 := by
  simp only [granules, ceilDiv, List.length_map, List.length_range]
  omega

theorem runsOfNat_cons (x : Nat) (l : List Nat) :
    (∃ n q, runsOfNat l = (x + 1, n) :: q ∧ runsOfNat (x :: l) = (x, n + 1) :: q) ∨ runsOfNat (x :: l) = (x, 1) :: runsOfNat l := by
  cases rest : runsOfNat l with
  | nil => exact .inr (by simp [runsOfNat, rest])
  | cons r q =>
    obtain ⟨b, n⟩ := r
    by_cases next : b = x + 1
    · subst next
      exact .inl ⟨n, q, rfl, by simp [runsOfNat, rest]⟩
    · exact .inr (by simp [runsOfNat, rest, next])

/-- The runs of a list hold its numbers and no other. -/
theorem mem_runsOfNat (l : List Nat) (g : Nat) : (∃ r ∈ runsOfNat l, r.1 ≤ g ∧ g < r.1 + r.2) ↔ g ∈ l := by
  induction l with
  | nil => simp [runsOfNat]
  | cons x l ih =>
    have single : g = x ↔ x ≤ g ∧ g < x + 1 := by omega
    obtain ⟨n, q, rest, joined⟩ | apart := runsOfNat_cons x l
    · have grown : (x ≤ g ∧ g < x + (n + 1)) ↔ g = x ∨ (x + 1 ≤ g ∧ g < x + 1 + n) := by omega
      rw [List.mem_cons, ← ih, rest, joined, List.exists_mem_cons_iff, List.exists_mem_cons_iff, grown, or_assoc]
    · rw [List.mem_cons, ← ih, apart, List.exists_mem_cons_iff, single]

theorem runsOfNat_length (l : List Nat) : (runsOfNat l).length ≤ l.length := by
  induction l with
  | nil => exact Nat.le_refl 0
  | cons x l ih =>
    obtain ⟨n, q, rest, joined⟩ | apart := runsOfNat_cons x l
    · rw [rest] at ih
      rw [joined]
      exact Nat.le_succ_of_le ih
    · rw [apart]
      exact Nat.succ_le_succ ih

/-- An address of another tenant, below the range or above it. -/
theorem not_within_of_outside {u v a b n : Nat} (outside : v ≠ u ∨ b < a ∨ a + n ≤ b) : ¬(u = v ∧ a ≤ b ∧ b < a + n) := by omega

/-! ## `unseal` (R172) -/

/-- The entries that `unseal` adds: the runs of granules that are still sealed. -/
def State.newRanges (s : State) (stack u a n : Nat) : List Range :=
  (runsOfNat ((granules a n).filter fun g => !s.innerOnly u (g * 4096))).map fun r =>
    { stack := stack, tenant := u, base := r.1 * 4096, len := r.2 * 4096 }

def State.unsealed (s : State) (stack u a n : Nat) : State := { s with ranges := s.ranges ++ s.newRanges stack u a n }

theorem State.newRanges_length (s : State) (stack u : Nat) {a n : Nat} (start : a % 4096 = 0) (whole : n % 4096 = 0) :
    (s.newRanges stack u a n).length ≤ n / 4096 := by
  rw [State.newRanges, List.length_map, ← granules_length start whole]
  exact (runsOfNat_length _).trans (List.length_filter_le ..)

theorem RangesAligned.covers_newRanges {s : State} (aligned : RangesAligned s) (stack u : Nat) {a n : Nat} (start : a % 4096 = 0)
    (whole : n % 4096 = 0) (v b : Nat) :
    (∃ r ∈ s.newRanges stack u a n, r.Covers v b) ↔ u = v ∧ (a ≤ b ∧ b < a + n) ∧ s.innerOnly u b = false := by
  have granule : (a / 4096 ≤ b / 4096 ∧ b / 4096 < (a + n) / 4096) ↔ a ≤ b ∧ b < a + n := by omega
  simp only [State.newRanges, List.mem_map, exists_exists_and_eq_and, Range.covers_granules]
  calc (∃ r ∈ runsOfNat ((granules a n).filter fun g => !s.innerOnly u (g * 4096)), u = v ∧ r.1 ≤ b / 4096 ∧ b / 4096 < r.1 + r.2)
    _ ↔ u = v ∧ b / 4096 ∈ (granules a n).filter fun g => !s.innerOnly u (g * 4096) := by
      rw [← mem_runsOfNat]
      tauto
    _ ↔ u = v ∧ (a ≤ b ∧ b < a + n) ∧ s.innerOnly u b = false := by
      rw [List.mem_filter, mem_granules start whole, granule, aligned.innerOnly_granule, Bool.not_eq_true']

/-- After `unseal` its range is inner-only, and the rest is as before. -/
theorem RangesAligned.innerOnly_unsealed {s : State} (aligned : RangesAligned s) (stack u : Nat) {a n : Nat} (start : a % 4096 = 0)
    (whole : n % 4096 = 0) (v b : Nat) :
    (s.unsealed stack u a n).innerOnly v b = true ↔ s.innerOnly v b = true ∨ (u = v ∧ a ≤ b ∧ b < a + n) := by
  rw [State.innerOnly_iff, State.unsealed]
  simp only [List.mem_append, or_and_right, exists_or, aligned.covers_newRanges stack u start whole, ← State.innerOnly_iff]
  by_cases tenant : u = v
  · subst tenant
    cases s.innerOnly u b <;> simp
  · simp [tenant]

/-! ## `seal` (R172) -/

/-- What `seal` leaves of an entry. -/
def Range.sealedOff (u lo hi : Nat) (r : Range) : List Range := if r.tenant = u then r.cut lo hi else [r]

def State.sealedOff (s : State) (u a n : Nat) : State :=
  { s with ranges := s.ranges.flatMap (Range.sealedOff u (a / 4096) ((a + n) / 4096)) }

/-- The parts of an entry outside the sealed granules. -/
theorem Range.covers_cut {r : Range} (base : r.base % 4096 = 0) (len : r.len % 4096 = 0) (lo hi v b : Nat) :
    (∃ p ∈ r.cut lo hi, p.Covers v b) ↔ r.Covers v b ∧ ¬(lo ≤ b / 4096 ∧ b / 4096 < hi) := by
  simp only [Range.cut, List.mem_append, List.mem_ite_nil_right, List.mem_singleton, or_and_right, exists_or, and_assoc,
    exists_and_left, exists_eq_left, Range.Covers, Nat.min_def, Nat.max_def]
  by_cases tenant : r.tenant = v
  · simp only [tenant, true_and]
    split <;> split <;> omega
  · simp [tenant]

theorem Range.cut_length (r : Range) (lo hi : Nat) : (r.cut lo hi).length ≤ 2 := by
  dsimp only [Range.cut]
  split <;> split <;> simp

theorem Range.stack_of_mem_cut {r p : Range} {lo hi : Nat} (mem : p ∈ r.cut lo hi) : p.stack = r.stack := by
  simp only [Range.cut, List.mem_append, List.mem_ite_nil_right, List.mem_singleton] at mem
  obtain ⟨-, rfl⟩ | ⟨-, rfl⟩ := mem <;> rfl

theorem Range.sealedOff_length (u lo hi : Nat) (r : Range) : (r.sealedOff u lo hi).length ≤ 2 := by
  unfold Range.sealedOff
  split
  · exact r.cut_length lo hi
  · exact Nat.le_succ 1

theorem Range.stack_of_mem_sealedOff {u lo hi : Nat} {r p : Range} (mem : p ∈ r.sealedOff u lo hi) : p.stack = r.stack := by
  unfold Range.sealedOff at mem
  split at mem
  · exact Range.stack_of_mem_cut mem
  · rw [List.mem_singleton.1 mem]

/-- A seal leaves at most two parts of each entry of a stack. -/
theorem sealedOff_entries (k u lo hi : Nat) (rs : List Range) :
    ((rs.flatMap (Range.sealedOff u lo hi)).filter fun r => r.stack == k).length ≤ 2 * (rs.filter fun r => r.stack == k).length := by
  induction rs with
  | nil => exact Nat.zero_le _
  | cons r rs ih =>
    rw [List.flatMap_cons, List.filter_append, List.length_append]
    by_cases here : r.stack = k
    · have parts := (List.length_filter_le (fun p => p.stack == k) (r.sealedOff u lo hi)).trans (r.sealedOff_length u lo hi)
      simp only [List.filter_cons, here, beq_self_eq_true, if_true, List.length_cons]
      omega
    · have none : (r.sealedOff u lo hi).filter (fun p => p.stack == k) = [] :=
        List.filter_eq_nil_iff.2 fun p mem => by simpa [Range.stack_of_mem_sealedOff mem] using here
      simpa [none, here] using ih

theorem State.rangesUsed_le (s : State) (k : Nat) : s.rangesUsed k ≤ (s.ranges.filter fun r => r.stack == k).length := by
  rw [State.rangesUsed, ← List.filter_filter]
  exact (List.filter_sublist.filter _).length_le

/-- A table with room for a second part of each entry does not overflow. -/
theorem State.sealedOff_fits {s : State} {k : Nat} (room : (s.ranges.filter fun r => r.stack == k).length + s.ranges.length ≤ 16384)
    (u a n : Nat) : (s.sealedOff u a n).rangesUsed k ≤ 16384 := by
  have used := (s.sealedOff u a n).rangesUsed_le k
  have entries := sealedOff_entries k u (a / 4096) ((a + n) / 4096) s.ranges
  have own := List.length_filter_le (fun r : Range => r.stack == k) s.ranges
  exact used.trans (entries.trans (by omega))

/-- After `seal` its range is sealed, and the rest is as before. -/
theorem RangesAligned.innerOnly_sealedOff {s : State} (aligned : RangesAligned s) (u : Nat) {a n : Nat} (start : a % 4096 = 0)
    (whole : n % 4096 = 0) (v b : Nat) :
    (s.sealedOff u a n).innerOnly v b = true ↔ s.innerOnly v b = true ∧ ¬(u = v ∧ a ≤ b ∧ b < a + n) := by
  have granule : (a / 4096 ≤ b / 4096 ∧ b / 4096 < (a + n) / 4096) ↔ a ≤ b ∧ b < a + n := by omega
  have left : ∀ r ∈ s.ranges, (∃ p ∈ r.sealedOff u (a / 4096) ((a + n) / 4096), p.Covers v b) ↔
      r.Covers v b ∧ ¬(u = v ∧ a ≤ b ∧ b < a + n) := fun r mem => by
    obtain ⟨base, len⟩ := aligned r mem
    unfold Range.sealedOff
    split
    · rename_i own
      rw [Range.covers_cut base len, granule, Range.Covers, own]
      tauto
    · rename_i other
      simp only [List.mem_singleton, exists_eq_left, Range.Covers]
      exact ⟨fun covers => ⟨covers, fun inside => other (covers.1.trans inside.1.symm)⟩, And.left⟩
  rw [State.innerOnly_iff, State.innerOnly_iff, ← exists_and_right]
  calc (∃ p ∈ s.ranges.flatMap (Range.sealedOff u (a / 4096) ((a + n) / 4096)), p.Covers v b)
    _ ↔ ∃ r ∈ s.ranges, ∃ p ∈ r.sealedOff u (a / 4096) ((a + n) / 4096), p.Covers v b := by
      simp only [List.mem_flatMap]
      tauto
    _ ↔ ∃ r, (r ∈ s.ranges ∧ r.Covers v b) ∧ ¬(u = v ∧ a ≤ b ∧ b < a + n) :=
      exists_congr fun r => (and_congr_right (left r)).trans and_assoc.symm

/-! ## The two instructions (R172, R374) -/

/-- Operands that `seal` and `unseal` accept: whole granules of a segment of the tenant, in the instruction's turn. -/
structure Sealable (s : State) (c : Ictx) (a n : Nat) (m : Alloc) : Prop where
  uses : onlyUses c.w (usesD ||| usesA ||| usesB) = true
  base : a = c.ga.toNat
  size : n = c.gb.toNat
  start : a % 4096 = 0
  whole : n % 4096 = 0
  nonempty : 0 < n
  segment : s.segmentOf c.tenant a n = some m
  turn : c.inTurn s m = true

theorem sealOp_empty {opc : Nat} {f : Ictx → State → Alloc → Nat → Nat → Eff} {s : State} {t : Tid} {c : Ictx} (h : At s t opc c)
    (uses : onlyUses c.w (usesD ||| usesA ||| usesB) = true) (start : c.ga.toNat % 4096 = 0) (empty : c.gb.toNat = 0) :
    ∃ s' th', sealOp opc f t s = .next s' ∧ OnlyThread s s' t th' ∧ WroteG c.th th' (wD c.w) 0 := by
  obtain ⟨th', only, wrote, -⟩ := applyEff_putG h 0
  refine ⟨_, th', (runInsn_legal h uses).trans ?_, only, wrote⟩
  simp [start, empty]

/-- An accepted instruction writes its status and goes on. -/
theorem Sealable.sealOp_leave {s s1 : State} {c : Ictx} {a n : Nat} {m : Alloc} (ok : Sealable s c a n m) {opc : Nat} {t : Tid}
    (h : At s t opc c) {f : Ictx → State → Alloc → Nat → Nat → Eff} {v : Word} (effect : f c s m a n = c.leave (c.putG s1 v)) :
    sealOp opc f t s = .next (s1.updThread t fun th => (th.setG (wD c.w) v).accepted) := by
  obtain ⟨uses, rfl, rfl, start, whole, nonempty, segment, turn⟩ := ok
  refine (runInsn_leave h uses (s1 := c.putG s1 v) ?_).trans ?_
  · simp [start, whole, nonempty.ne', segment, turn, effect]
  · rw [Ictx.putG, h.tid, updThread_updThread]

theorem Sealable.unseals {s : State} {c : Ictx} {a n : Nat} {m : Alloc} (ok : Sealable s c a n m) {t : Tid} (h : At s t 0x82 c)
    (room : s.rangesUsed m.stack + n / 4096 ≤ 16384) :
    exec (.unseal t) s =
      .next (((s.unsealed m.stack c.tenant a n).notePeak m.stack).updThread t fun th => (th.setG (wD c.w) 0).accepted) := by
  have few := s.newRanges_length m.stack c.tenant ok.start ok.whole
  refine (exec_unseal t s).trans (ok.sealOp_leave h (if_neg ?_))
  exact Nat.not_lt.2 ((Nat.add_le_add_left few _).trans room)

theorem Sealable.seals {s : State} {c : Ictx} {a n : Nat} {m : Alloc} (ok : Sealable s c a n m) {t : Tid} (h : At s t 0x81 c)
    (idle : s.wellWrites c.tenant a n = false)
    (room : (s.ranges.filter fun r => r.stack == m.stack).length + s.ranges.length ≤ 16384) (sound : s.badInner c.tenant a n = []) :
    exec (.seal t) s = .next (((s.sealedOff c.tenant a n).notePeak m.stack).updThread t fun th => (th.setG (wD c.w) 0).accepted) := by
  have fits := State.sealedOff_fits room c.tenant a n
  refine (exec_seal t s).trans (ok.sealOp_leave h ?_)
  rw [if_neg (by simp [idle]), sound]
  exact if_neg fun full => Nat.not_lt.2 fits full.2

/-! ## `wcall` (R149, R155, R174) -/

/-- The operation that an accepted call queues. -/
def Ictx.callOf (c : Ictx) (s : State) (m m2 : Alloc) (b : List Byte) : WellOp :=
  { id := s.nextWell, tenant := c.tenant, cmd := c.frag.cmd, frag := c.t.frag, cls := c.frag.cls,
    cluster := c.cluster, descAt := c.mem.base + c.ga.toNat, desc := b, stack := m.stack, well := m.well,
    well2 := if m2.base = m.base then none else some m2.well, pos := 0, count := 0, outPos := 0, st := .queued,
    intervals := 0, loaded := 0, credit := 0, stop := false, breach := s.wellBreach c.tenant (wellDesc b) }

/-- The state with a call queued and WST = QUEUED in its descriptor. -/
def Ictx.called (c : Ictx) (s : State) (m m2 : Alloc) (b : List Byte) : State :=
  c.cisWr { s with wells := s.wells ++ [c.callOf s m m2 b], nextWell := s.nextWell + 1 } (c.ga.toNat + 0x3F)
    [BitVec.ofNat 8 (leAt b 0x3F 1 % 16)]

/-- A descriptor that `wcall` accepts: its ranges lie in segments that stand still, with their wells in service. -/
structure Callable (s : State) (c : Ictx) (b : List Byte) (m m2 : Alloc) : Prop where
  inside : c.ga.toNat + 64 ≤ c.frag.cis * 65536
  desc : b = c.cisRd s c.ga.toNat 64
  ranges : s.wellRangeBad c.tenant (wellDesc b) = none
  input : s.segmentOf c.tenant (wellDesc b).inp (wellDesc b).inlen = some m
  output : s.segmentOf c.tenant (wellDesc b).out (wellDesc b).outlen = some m2
  still : s.moving c.tenant m.base = false
  still2 : s.moving c.tenant m2.base = false
  aligned : c.ga.toNat % 64 = 0
  checked : wellUnchecked b = false
  tables : s.wellTablesBad c.tenant (wellDesc b) = false
  turn : c.inTurn s m = true
  up : s.wellUp m = true
  up2 : s.wellUp m2 = true

theorem Callable.calls {s : State} {c : Ictx} {b : List Byte} {m m2 : Alloc} (ok : Callable s c b m m2) {t : Tid} (h : At s t 0x80 c)
    (uses : onlyUses c.w usesA = true) : exec (.wcall t) s = .next ((c.called s m m2 b).updThread t Thread.accepted) := by
  obtain ⟨inside, rfl, ranges, input, output, still, still2, aligned, checked, tables, turn, up, up2⟩ := ok
  have area : c.inArea c.ga.toNat 64 = true := decide_eq_true inside
  refine (exec_wcall t s).trans (runInsn_leave h uses ?_)
  simp only [area, input, turn, ranges, output, still, still2, up, up2, aligned, checked, tables, Bool.not_true, Bool.or_self,
    Bool.false_eq_true, if_false, ne_eq, not_true, or_self]
  rfl

/-! ## An interval of a COPY (R150, R156, R157, R183) -/

theorem State.intervalLen_ge {s : State} {d : WellDesc} (long : 32 ≤ d.dur) : 32 ≤ s.intervalLen d := by
  dsimp only [State.intervalLen]
  split
  · decide
  · exact long

/-- A COPY has units of 32 bytes, no table and no bitmap. -/
theorem WellDesc.copy_layout {d : WellDesc} (copy : d.op = 5) : d.isScan = false ∧ d.unit = 32 ∧ d.tblLen = 0 ∧ d.auxLen = 0 := by
  simp [WellDesc.isScan, WellDesc.unit, WellDesc.tblLen, WellDesc.auxLen, copy, wSCAN4, wFILTER, wDOT8, wCOMPACT]

/-- A COPY of sound lines meets no line that the inner code cannot correct. -/
theorem State.wellPoison_copy {s : State} {d : WellDesc} {w : WellOp} (copy : d.op = 5)
    (sound : s.poisoned w.tenant (d.inp + w.pos * 32) 32 = false) : s.wellPoison d w = false := by
  obtain ⟨-, unit, tbl, aux⟩ := WellDesc.copy_layout copy
  have clean : ∀ ln ∈ linesOf (d.inp + w.pos * 32) 32, s.poison.contains (w.tenant * 2 ^ 58 + ln) = false := by
    simpa [State.poisoned] using sound
  have lines : ((linesOf (d.inp + w.pos * 32) 32).any fun ln =>
      s.poison.contains (w.tenant * 2 ^ 58 + ln) && (s.innerOnly w.tenant (ln * 64) || s.draw 0 % 2 == 1)) = false :=
    List.any_eq_false.2 fun ln mem => by simp only [clean ln mem, Bool.false_and, Bool.false_eq_true, not_false_eq_true]
  simp only [State.wellPoison, unit, tbl, aux, copy, lines, wADD, wSWAP]
  rfl

/-- The operation once it has moved its next unit. -/
def WellOp.moved (w : WellOp) : WellOp := { w with pos := w.pos + 1, outPos := 32 * w.pos + 32 }

/-- The state once an operation has moved a unit of 32 bytes. -/
def State.movedUnit (s : State) (d : WellDesc) (w : WellOp) : State :=
  s.devWr w.tenant (d.out + 32 * w.pos) (s.devRd w.tenant (d.inp + w.pos * 32) 32)

theorem State.wellUnit_copy {d : WellDesc} {w : WellOp} (s : State) (copy : d.op = 5) (room : 32 * w.pos + 32 ≤ d.outlen) :
    s.wellUnit d w = some (w.moved, s.movedUnit d w) := by
  obtain ⟨scan, unit, -, -⟩ := WellDesc.copy_layout copy
  have fits : ¬d.outlen < 32 * w.pos + 32 := by omega
  simp only [State.wellUnit, scan, unit, copy, wDOT8, wCOMPACT, wCOPY, fits, Bool.false_eq_true, if_false, if_true, Nat.reduceEqDiff]
  rfl

theorem State.wellRun_done {d : WellDesc} {w : WellOp} (s : State) (fuel work : Nat) (all : w.pos = d.units) :
    s.wellRun d fuel work w = ({ w with st := .done }, s) := by
  cases fuel <;> simp [State.wellRun, all]

/-- A COPY moves its next unit when work for 64 bytes is left. -/
theorem State.wellRun_copy {s : State} {d : WellDesc} {w : WellOp} (fuel : Nat) {work : Nat} (copy : d.op = 5) (more : w.pos ≠ d.units)
    (sound : s.poisoned w.tenant (d.inp + w.pos * 32) 32 = false) (room : 32 * w.pos + 32 ≤ d.outlen) (enough : 512 ≤ work) :
    s.wellRun d (fuel + 1) work w = (s.movedUnit d w).wellRun d fuel (work - 512) w.moved := by
  have cost : d.unitWork w w.moved = 512 := by simp [WellDesc.unitWork, copy, wADD, wSWAP, wCOPY]
  rw [State.wellRun, if_neg more, State.wellPoison_copy copy sound, if_neg Bool.false_ne_true, State.wellUnit_copy s copy room]
  simp only [cost, Nat.not_lt.2 enough, if_false]

/-- A COPY of one unit, ready to run: what it reads is sound and what it writes has room. -/
structure OneUnitCopy (s : State) (w : WellOp) (d : WellDesc) : Prop where
  copy : d.op = 5
  input : d.inlen = 32
  output : d.outlen = 32
  new : w.pos = 0
  sound : s.poisoned w.tenant d.inp 32 = false

/-- An operation whose work is done, with nothing of the interval left over. -/
def WellOp.finished (w : WellOp) : WellOp := { { w with credit := 0 }.moved with st := .done }

theorem OneUnitCopy.wellWork_eq {s : State} {w : WellOp} {d : WellDesc} (h : OneUnitCopy s w d) {len units : Nat} (units1 : 1 ≤ units)
    (long : 32 ≤ len) : s.wellWork d w len units = (w.finished, s.movedUnit d w) := by
  obtain ⟨copy, input, output, new, sound⟩ := h
  obtain ⟨-, unit, tbl, -⟩ := WellDesc.copy_layout copy
  obtain ⟨fuel, rfl⟩ := Nat.exists_eq_succ_of_ne_zero (Nat.one_le_iff_ne_zero.1 units1)
  have one : d.units = 1 := by simp [WellDesc.units, input, unit]
  have need : ceilDiv d.tblLen 32 - w.loaded = 0 := by simp [tbl, ceilDiv]
  simp only [State.wellWork, need, Nat.not_lt_zero, if_false, Nat.sub_zero, Nat.add_zero]
  rw [State.wellRun_copy (w := { w with credit := 0 }) fuel copy (by simp [new, one]) (by simpa [new] using sound)
    (by simp [new, output]) (by omega), State.wellRun_done _ _ _ (by simp [WellOp.moved, new, one])]
  rfl

/-- An operation at a final state is gone from the wells; memory and registers stay. -/
theorem State.settleWell_final {w : WellOp} (s : State) (final : ¬(w.st = .running ∨ w.st = .queued)) :
    (s.settleWell w).wells = s.wells.filter (fun x => x.id != w.id) ∧ (s.settleWell w).dev = s.dev ∧
      (s.settleWell w).regs = s.regs := by
  rw [State.settleWell, State.putWell, if_neg final, State.writeWst]
  split <;> exact ⟨rfl, rfl, rfl⟩

/-- The counters of an interval on `n` wells, of which `capped` were cut short. -/
def State.countedInterval (s : State) (n capped : Nat) : State := (s.wrapAdd oWellcCnt 31 0 n).wrapAdd oWellcCnt 63 32 capped

theorem State.countedInterval_fld (s : State) (n capped : Nat) :
    (s.countedInterval n capped).fld oWellcCnt 31 0 = (s.fld oWellcCnt 31 0 + n) % 2 ^ 32 := by
  rw [State.countedInterval, State.wrapAdd, State.fld_setFld_disjoint _ _ _ (by decide) (by decide), State.wrapAdd,
    State.fld_setFld_self _ _ _ _ (by decide), Nat.mod_mod]

/-- A running operation that begins an interval. -/
def WellOp.begun (w : WellOp) : WellOp := { w with intervals := w.intervals + 1, st := .running }

/-- The state in which an interval of the operation starts. -/
def State.intervalBegun (s : State) (w : WellOp) : State :=
  (s.countedInterval w.usedWells.length
    (if s.intervalLen (wellDesc w.desc) < (wellDesc w.desc).dur then w.usedWells.length else 0)).setAside w

/-- The state after the interval of `s` that has done work `r`. -/
def State.intervalEnded (s : State) (w : WellOp) (r : WellOp × State) : State :=
  (if r.1.st = .fault then (r.2.applyBreach (wellDesc w.desc) w).wellCodeFault (wellDesc w.desc) r.1
    else (r.2.applyBreach (wellDesc w.desc) w).settleWell r.1).noteWell s (wellDesc w.desc) w r.1 (s.intervalLen (wellDesc w.desc))

/-- An operation that is next on its wells works for an interval (R156, R163). -/
theorem exec_wellInterval_works {s : State} {op : Nat} {w : WellOp} (units : Nat) (live : s.live = true) (cool : s.tripped = false)
    (found : s.wells.find? (fun x => x.id == op) = some w) (next : s.nextOp w = true)
    (up : w.usedWells.all (fun k => (s.wellsIn (k / 512)).contains (k % 512)) = true) (going : w.stop = false) :
    exec (.wellInterval op units none) s = .next (s.intervalEnded w
      ((s.intervalBegun w).wellWork (wellDesc w.desc) w.begun (s.intervalLen (wellDesc w.desc)) units)) := by
  have inService : (w.usedWells.any fun k => !(s.wellsIn (k / 512)).contains (k % 512)) = false := by
    rw [← List.not_all_eq_any_not, up, Bool.not_true]
  have unstopped : ¬w.stop = true := by simp [going]
  have busy : ¬(w.stop && ((w.usedWells.any fun k => !(s.wellsIn (k / 512)).contains (k % 512)) || w.st == .queued)) = true := by
    simp [going]
  rw [exec_wellInterval, execWellInterval, found]
  dsimp only
  rw [onlyIf, if_neg busy, if_neg unstopped]
  exact congrArg Host.Outcome.next
    (if_pos (by simp only [live, cool, next, inService, Bool.not_false, Bool.and_self, Bool.or_true, Option.all_none]))

/-- An interval of a COPY of one unit: the unit lies in memory, the operation is gone, and its wells are counted. -/
theorem OneUnitCopy.ended {s : State} {w : WellOp} {d : WellDesc} (h : OneUnitCopy s w d) (desc : d = wellDesc w.desc)
    (clean : w.breach = false) {units : Nat} (units1 : 1 ≤ units) (long : 32 ≤ d.dur) {s' : State}
    (done : s' = s.intervalEnded w ((s.intervalBegun w).wellWork (wellDesc w.desc) w.begun (s.intervalLen (wellDesc w.desc)) units)) :
    s'.dev = s.dev.wrN (devKey w.tenant d.out) (s.devRd w.tenant d.inp 32) ∧ (∀ x ∈ s'.wells, x.id ≠ w.id) ∧
      s'.fld oWellcCnt 31 0 = (s.fld oWellcCnt 31 0 + w.usedWells.length) % 2 ^ 32 := by
  have started : OneUnitCopy (s.intervalBegun w) w.begun d := ⟨h.copy, h.input, h.output, h.new, h.sound⟩
  have final : ¬(w.begun.finished.st = .running ∨ w.begun.finished.st = .queued) := by simp [WellOp.finished]
  have kept : ∀ t : State, t.applyBreach d w = t := fun t => if_neg (by simp [clean])
  obtain ⟨wells, dev, regs⟩ := ((s.intervalBegun w).movedUnit d w.begun).settleWell_final final
  rw [State.intervalEnded, ← desc, started.wellWork_eq units1 (State.intervalLen_ge long), kept,
    if_neg (by simp [WellOp.finished])] at done
  subst done
  refine ⟨dev.trans ?_, fun x mem => ?_, ?_⟩
  · simp only [State.movedUnit, State.devWr, WellOp.begun, h.new, Nat.mul_zero, Nat.zero_mul, Nat.add_zero]
    rfl
  · have left : x ∈ ((s.intervalBegun w).movedUnit d w.begun).wells.filter fun y => y.id != w.id := wells ▸ mem
    simpa using List.of_mem_filter left
  · exact (State.fld_congr (State.word_congr regs _) 31 0).trans (State.countedInterval_fld s _ _)

/-- Settles O20: the range table after `seal` and `unseal`, an accepted call, an interval of a COPY, and a refresh. -/
theorem sealsAndWells : Obligations.SealsAndWells := by
  unfold Obligations.SealsAndWells
  refine ⟨fun s t c a n m uses base size start whole => ⟨fun h empty => ?_, fun h empty => ?_,
    fun h nonempty segment turn aligned room => ?_, fun h nonempty segment turn aligned idle room sound => ?_⟩, ?_, ?_, ?_⟩
  · rw [exec_seal, execSeal]
    exact sealOp_empty h uses (base ▸ start) (size ▸ empty)
  · rw [exec_unseal, execUnseal]
    exact sealOp_empty h uses (base ▸ start) (size ▸ empty)
  · have ok : Sealable s c a n m := ⟨uses, base, size, start, whole, nonempty, segment, turn⟩
    have inner := aligned.innerOnly_unsealed m.stack c.tenant start whole
    have only := onlyThreadOf_of_frags (s := s) (s1 := (s.unsealed m.stack c.tenant a n).notePeak m.stack) rfl (insn_thread h.1)
    exact ⟨_, _, ok.unseals h room, only _, wroteG_accepted .., SameBytes.refl s, fun i small => (inner _ _).2 (.inr ⟨rfl, by omega⟩),
      fun u b outside => Bool.eq_iff_iff.2 ((inner u b).trans (or_iff_left (not_within_of_outside outside)))⟩
  · have ok : Sealable s c a n m := ⟨uses, base, size, start, whole, nonempty, segment, turn⟩
    have inner := aligned.innerOnly_sealedOff c.tenant start whole
    have only := onlyThreadOf_of_frags (s := s) (s1 := (s.sealedOff c.tenant a n).notePeak m.stack) rfl (insn_thread h.1)
    exact ⟨_, _, ok.seals h idle room sound, only _, wroteG_accepted .., SameBytes.refl s,
      fun i small => Bool.eq_false_iff.2 fun still => ((inner _ _).1 still).2 ⟨rfl, by omega⟩,
      fun u b outside => Bool.eq_iff_iff.2 ((inner u b).trans (and_iff_left (not_within_of_outside outside)))⟩
  · rintro s t c b _ m m2 h uses inside desc rfl ranges input output still still2 aligned checked tables turn up up2
    have ok : Callable s c b m m2 := ⟨inside, desc, ranges, input, output, still, still2, aligned, checked, tables, turn, up, up2⟩
    have only := onlyThreadOf_of_frags (s1 := c.called s m m2 b) rfl (insn_thread h.1) Thread.accepted
    exact ⟨_, c.callOf s m m2 b, ok.calls h uses, rfl, rfl, rfl, rfl, rfl, rfl, congrArg Tid.frag h.tid, rfl, rfl, rfl, only.self, rfl⟩
  · intro s op units w d live cool found desc next up going clean sound copy input output new units1 long _ _
    have id : w.id = op := by simpa using List.find?_some found
    have ready : OneUnitCopy s w d := ⟨copy, input, output, new, sound⟩
    have size : (s.devRd w.tenant d.inp 32).length = 32 := Mem.rdN_length ..
    obtain ⟨dev, gone, counted⟩ := ready.ended desc clean units1 long rfl
    refine ⟨_, exec_wellInterval_works units live cool found next up going, ?_, id ▸ gone, counted, fun a apart => ?_⟩
    · have back := Mem.rdN_wrN s.dev (devKey w.tenant d.out) (s.devRd w.tenant d.inp 32)
      rwa [size, ← dev] at back
    · rw [dev, Mem.rd_wrN_out _ _ _ _ (by rwa [size])]
  · intro s stack channel bank awake stackOk channelOk bankOk
    rw [exec_refresh, execRefresh]
    exact onlyIf_next (by simp [awake, stackOk, channelOk, bankOk]) ⟨SameBytes.refl s, rfl, Map.getD_put_self ..⟩

end Sys2Proof.Machine

/-! Moves of placement units: what the parts of a move change, and what they leave (R202, R206 to R208, R220, R231, R619). -/
namespace Sys2Proof.Machine

/-! ## Counters that wrap, and bytes of memory -/

theorem countedUp_wrapAdd (s : State) (o lo : Nat) {hi : Nat} (h : hi < 64) : CountedUp s (s.wrapAdd o hi lo 1) o hi lo := by
  rw [CountedUp, State.wrapAdd, State.fld_setFld_self _ _ _ _ h, Nat.mod_mod]

/-- A wrapping counter's step is seen through fields that did not change before and after it. -/
theorem CountedUp.congr {s s' t t' : State} {o hi lo : Nat} (h : CountedUp s s' o hi lo) (before : s.fld o hi lo = t.fld o hi lo)
    (after : t'.fld o hi lo = s'.fld o hi lo) : CountedUp t t' o hi lo := by
  rw [CountedUp, after, h, before]

theorem SameBytes.trans {s t u : State} (h : SameBytes s t) (h' : SameBytes t u) : SameBytes s u := fun a =>
  ⟨(h' a).1.trans (h a).1, (h' a).2.1.trans (h a).2.1, (h' a).2.2.trans (h a).2.2⟩

theorem SameBytes.of_eq {s t : State} (dev : t.dev = s.dev) (cis : t.cis = s.cis) (host : t.out.hostMem = s.out.hostMem) : SameBytes s t :=
  fun a => by rw [dev, cis, host]; exact ⟨rfl, rfl, rfl⟩

theorem State.sendMsix_out (s : State) (fn v : Nat) : { (s.sendMsix fn v).out with msix := s.out.msix } = s.out := by
  unfold State.sendMsix; dsimp only; split <;> rfl

theorem State.recordSignalled_out (s t : State) (code : Nat) :
    { (s.recordSignalled t code).out with msix := t.out.msix, ibi := t.out.ibi } = t.out := by
  have msix : { (if s.fld oEvtCtrl 8 8 = 1 ∧ 1 ≤ evSev code then t.sendMsix 0 (s.fld oEvtCtrl 7 0) else t).out with
      msix := t.out.msix } = t.out := by
    split
    · exact t.sendMsix_out _ _
    · rfl
  have both := congrArg (fun o : Outside => { o with ibi := t.out.ibi }) msix
  unfold State.recordSignalled
  dsimp only
  split
  · exact both
  · exact both

/-- An event record is signalled, and concerns the outside in no other way. -/
theorem State.logEvent_out (s : State) (code tenant : Nat) (data : List Nat) :
    { (s.logEvent code tenant data).out with msix := s.out.msix, ibi := s.out.ibi } = s.out := by
  have written : (s.recordCounted (s.recordWritten code tenant data)).out = s.out :=
    (congrArg State.out (s.recordCounted_frame _) :).trans (congrArg State.out (s.recordWritten_frame code tenant data) :)
  have signalled := s.recordSignalled_out (s.recordCounted (s.recordWritten code tenant data)) code
  rwa [written] at signalled

theorem State.logEvent_hostMem (s : State) (code tenant : Nat) (data : List Nat) :
    (s.logEvent code tenant data).out.hostMem = s.out.hostMem := (congrArg Outside.hostMem (s.logEvent_out code tenant data) :)

/-! ## Units by name -/

@[simp] theorem wholeUnit_wholeUnit (k : UnitId) : wholeUnit (wholeUnit k) = wholeUnit k := by cases k <;> rfl

@[simp] theorem unitIsAlloc_wholeUnit (k : UnitId) : unitIsAlloc (wholeUnit k) = unitIsAlloc k := by cases k <;> rfl

/-- A name that is no list segment's reads the unit of that name. -/
theorem State.unit?_of_whole (s : State) {k : UnitId} (whole : wholeUnit k = k) : s.unit? k = s.units.find? fun x => x.uid == k := by
  cases k with
  | listSegment h l i => exact absurd whole (by simp [wholeUnit])
  | _ => rfl

/-- A list segment's name reads its part of the list's unit. -/
theorem State.unit?_segment_eq_some {s : State} {h l k : Nat} {u : PUnit} (found : s.unit? (.listSegment h l k) = some u) :
    ∃ x c g, s.unit? (.fineList h l) = some x ∧ s.listSeg h l k = some (c, g) ∧
      u = { x with uid := .listSegment h l k, home := if x.home = .flash then .flash else .stack g.stack, bytes := segBytes c.sub c.attrb } := by
  dsimp only [State.unit?] at found
  split at found
  · rename_i x c g list seg
    exact ⟨x, c, g, list, seg, (Option.some.inj found).symm⟩
  · cases found

theorem State.unit?_uid {s : State} {k : UnitId} {u : PUnit} (found : s.unit? k = some u) : u.uid = k := by
  by_cases whole : wholeUnit k = k
  · rw [s.unit?_of_whole whole] at found
    simpa using List.find?_some found
  · cases k with
    | listSegment h l i =>
      obtain ⟨x, c, g, -, -, rfl⟩ := State.unit?_segment_eq_some found
      rfl
    | _ => exact absurd rfl whole

/-- The units alone decide what a whole unit's name reads. -/
theorem State.unit?_congr {s t : State} {k : UnitId} (whole : wholeUnit k = k) (units : t.units = s.units) : t.unit? k = s.unit? k := by
  rw [t.unit?_of_whole whole, s.unit?_of_whole whole, units]

theorem State.unit?_updUnit_self (s : State) {k : UnitId} (whole : wholeUnit k = k) (f : PUnit → PUnit) (keeps : ∀ x, (f x).uid = x.uid) :
    (s.updUnit k f).unit? k = (s.unit? k).map f := by
  rw [State.unit?_of_whole _ whole, s.unit?_of_whole whole]
  exact find?_updFirst_self _ f _ fun x => by rw [keeps]

theorem State.unit?_updUnit_ne (s : State) {k j : UnitId} (whole : wholeUnit j = j) (f : PUnit → PUnit) (keeps : ∀ x, (f x).uid = x.uid)
    (other : j ≠ k) : (s.updUnit k f).unit? j = s.unit? j := by
  rw [State.unit?_of_whole _ whole, s.unit?_of_whole whole]
  refine find?_updFirst _ _ f _ (fun x => by rw [keeps]) fun x named => ?_
  rw [beq_iff_eq] at named
  rw [named, beq_eq_false_iff_ne]
  exact other.symm

/-! ## A move that is dropped or abandoned (R207) -/

theorem State.dropMove_gone (s : State) (m : Nat) : ∀ k ∈ (s.dropMove m).moves, k.id ≠ m := fun k mem => by
  simpa using List.of_mem_filter mem

theorem State.abandon_eq (s : State) (m : Move) :
    s.abandon m = ((s.dropMove m.id).wrapAdd oPlcMoved 63 48 1).logEvent evMoveAbandon (((s.unit? m.uid).map PUnit.tenant).getD 0)
      [unitHandle m.uid, unitKind m.uid] := by
  obtain ⟨id, uid, dest, demand, late, switched, readers⟩ := m
  cases uid <;> rfl

theorem State.abandon_frame (s : State) (m : Move) : { s.butRecord (s.abandon m) with moves := s.moves } = s := by
  rw [State.abandon_eq]
  exact (congrArg (fun t : State => { s.butRecord t with moves := s.moves })
    (State.logEvent_frame ((s.dropMove m.id).wrapAdd oPlcMoved 63 48 1) evMoveAbandon _ [unitHandle m.uid, unitKind m.uid]) :)

theorem State.abandon_moves (s : State) (m : Move) : (s.abandon m).moves = (s.dropMove m.id).moves := by
  rw [State.abandon_eq]
  exact (congrArg State.moves (State.logEvent_frame ((s.dropMove m.id).wrapAdd oPlcMoved 63 48 1) ..) :)

theorem State.abandon_word (s : State) (m : Move) {o : Nat} (other : o ≠ oPlcMoved) (out : o < 0x50000 ∨ 0x60000 ≤ o) :
    (s.abandon m).word o = s.word o := by
  rw [State.abandon_eq, State.logEvent_word _ _ _ (by simp) out]
  exact State.word_setFld_ne _ _ _ _ other

theorem State.abandon_counted (s : State) (m : Move) : CountedUp s (s.abandon m) oPlcMoved 63 48 := by
  refine (countedUp_wrapAdd (s.dropMove m.id) oPlcMoved 48 (by decide)).congr rfl ?_
  rw [State.abandon_eq]
  exact State.fld_congr (State.logEvent_word _ _ _ (by simp) (by decide)) 63 48

theorem State.abandon_logged (s : State) (m : Move) :
    Logged s (s.abandon m) evMoveAbandon (((s.unit? m.uid).map PUnit.tenant).getD 0) [unitHandle m.uid, unitKind m.uid] := by
  rw [State.abandon_eq]
  exact (State.logged_logEvent _ _ _ (by simp)).congr (State.word_setFld_ne _ _ _ _ (by decide)) rfl

theorem State.abandon_hostMem (s : State) (m : Move) : (s.abandon m).out.hostMem = s.out.hostMem := by
  rw [State.abandon_eq, State.logEvent_hostMem]
  rfl

theorem State.abandon_sameBytes (s : State) (m : Move) : SameBytes s (s.abandon m) :=
  .of_eq (congrArg State.dev (s.abandon_frame m) :) (congrArg State.cis (s.abandon_frame m) :) (s.abandon_hostMem m)

/-! ## An uncorrectable fault of the source (R207, R619) -/

/-- `t` is `s` with at most an uncorrectable line of stack memory counted and recorded. -/
structure FaultNoted (s t : State) : Prop where
  rest : s.butRecord t = s
  host : t.out.hostMem = s.out.hostMem
  words : ∀ o, o ≠ oSafMem → (o < 0x50000 ∨ 0x60000 ≤ o) → t.word o = s.word o

/-- A fault of the source is noted, and costs a line of the unit that moves. -/
theorem State.sourceFault_eq (s : State) (u : PUnit) (line : Nat) :
    ∃ t, FaultNoted s t ∧ s.sourceFault u line = t.loseLine (wholeUnit u.uid) line := by
  have noted : ∀ (tenant : Nat) (a b c : Nat), FaultNoted s (((s.drew 3).satAdd oSafMem 63 32 1).logEvent evStackUe tenant [a, b, c]) :=
    fun tenant a b c =>
      ⟨(congrArg s.butRecord (State.logEvent_frame ((s.drew 3).satAdd oSafMem 63 32 1) evStackUe tenant [a, b, c]) :),
        (State.logEvent_hostMem ..).trans rfl,
        fun o other out => (State.logEvent_word _ _ _ (by simp) out).trans (State.word_satAdd_ne _ _ _ _ other)⟩
  have plain : FaultNoted s s := ⟨rfl, rfl, fun _ _ _ => rfl⟩
  unfold State.sourceFault
  split
  · exact ⟨_, noted _ _ _ _, rfl⟩
  · exact ⟨s, plain, rfl⟩

theorem State.loseLine_frame (s : State) (k : UnitId) (line : Nat) : { s.loseLine k line with units := s.units, poison := s.poison } = s := by
  unfold State.loseLine
  split
  · rfl
  · split <;> rfl

/-- A line of a unit that is neither an allocation nor rebuilt by its pod loses the unit. -/
theorem State.loseLine_eq (s : State) {k : UnitId} (line : Nat) (soft : unitIsAlloc k = false) (bare : s.codedUnit k = false) :
    s.loseLine k line = s.updUnit (wholeUnit k) fun x => { x with lost := true } := by
  cases k with
  | alloc t b => simp [unitIsAlloc] at soft
  | _ => simp only [State.loseLine, bare, Bool.false_eq_true, if_false]

/-- A pod's code is a matter of its collections. -/
theorem State.codedUnit_congr {s t : State} (k : UnitId) (colls : t.colls = s.colls) : t.codedUnit k = s.codedUnit k := by
  simp only [State.codedUnit, State.unitColl, colls]

theorem State.sourceFault_frame (s : State) (u : PUnit) (line : Nat) :
    { s.butRecord (s.sourceFault u line) with units := s.units, poison := s.poison } = s := by
  obtain ⟨t, noted, eq⟩ := s.sourceFault_eq u line
  rw [eq]
  exact (congrArg (fun r : State => { s.butRecord r with units := s.units, poison := s.poison })
    (t.loseLine_frame (wholeUnit u.uid) line) :).trans (congrArg (fun r : State => { r with units := s.units, poison := s.poison }) noted.rest :)

theorem State.sourceFault_word (s : State) (u : PUnit) (line : Nat) {o : Nat} (other : o ≠ oSafMem) (out : o < 0x50000 ∨ 0x60000 ≤ o) :
    (s.sourceFault u line).word o = s.word o := by
  obtain ⟨t, noted, eq⟩ := s.sourceFault_eq u line
  have regs : (t.loseLine (wholeUnit u.uid) line).regs = t.regs := (congrArg State.regs (t.loseLine_frame ..) :)
  rw [eq, State.word_congr regs]
  exact noted.words o other out

theorem State.sourceFault_hostMem (s : State) (u : PUnit) (line : Nat) : (s.sourceFault u line).out.hostMem = s.out.hostMem := by
  obtain ⟨t, noted, eq⟩ := s.sourceFault_eq u line
  rw [eq]
  exact (congrArg (fun r : State => r.out.hostMem) (t.loseLine_frame (wholeUnit u.uid) line) :).trans noted.host

/-- The unit whose source failed is lost. -/
theorem State.sourceFault_unit? (s : State) (u : PUnit) (line : Nat) (soft : unitIsAlloc u.uid = false)
    (bare : s.codedUnit (wholeUnit u.uid) = false) :
    (s.sourceFault u line).unit? (wholeUnit u.uid) = (s.unit? (wholeUnit u.uid)).map fun x => { x with lost := true } := by
  obtain ⟨t, noted, eq⟩ := s.sourceFault_eq u line
  have colls : t.colls = s.colls := (congrArg State.colls noted.rest :)
  have units : t.units = s.units := (congrArg State.units noted.rest :)
  rw [eq, t.loseLine_eq line (by simpa using soft) ((State.codedUnit_congr _ colls).trans bare), wholeUnit_wholeUnit,
    ← State.unit?_congr (wholeUnit_wholeUnit _) units]
  exact t.unit?_updUnit_self (wholeUnit_wholeUnit _) _ (by intro; rfl)

/-! ## A deadline that has passed (R220, R221) -/

theorem State.turnLate_counted (s : State) (m : Move) : CountedUp s (s.turnLate m) oPlcMoves 63 32 :=
  (countedUp_wrapAdd _ oPlcMoves 32 (by decide)).congr rfl rfl

/-- The move is late, and every other one is as it was. -/
theorem State.turnLate_find? {s : State} {m : Nat} {v : Move} (found : s.moves.find? (fun x => x.id == m) = some v) :
    (s.turnLate v).moves.find? (fun x => x.id == m) = some { v with late := true } := by
  have id : v.id = m := by simpa using List.find?_some found
  have keeps : ((fun x : Move => x.id == m) ∘ fun x => if x.id = v.id then { x with late := true } else x) = fun x => x.id == m := by
    funext x
    simp only [Function.comp]
    split <;> rfl
  refine List.find?_map.trans ?_
  rw [keeps, found, Option.map_some, if_pos rfl]

/-- The command of a generation notes the unit that comes late. -/
theorem State.turnLate_cmd? {s : State} {v : Move} {c d : Nat} {y : Cmd} {g : GenSt} (demand : v.demand = some (c, some d))
    (found : s.cmd? c = some y) (work : y.work = .generate g) :
    (s.turnLate v).cmd? c = some { y with work := .generate { g with late := g.late ++ [v.uid] } } := by
  have keeps : ∀ z : Cmd, (z.noteLate v.uid).id = z.id := by
    intro z
    unfold Cmd.noteLate
    split <;> rfl
  have noted : y.noteLate v.uid = { y with work := .generate { g with late := g.late ++ [v.uid] } } := by
    simp only [Cmd.noteLate, work]
  have late := State.cmd?_updCmd_self { s with moves := s.moves.map fun x => if x.id = v.id then { x with late := true } else x } c
    (fun z => z.noteLate v.uid) keeps
  simp only [State.turnLate, demand, Option.map_some, Option.getD_some]
  exact late.trans ((congrArg (Option.map _) found).trans (congrArg some noted))

/-! ## Segments that change place (R147, R148) -/

theorem Coll.setSegs_self (c : Coll) (l : Nat) (f : Nat → Seg → Seg) :
    (c.setSegs l f).list l = { c.list l with segs := (c.list l).segs.zipIdx.map fun p => f p.2 p.1 } := Map.getD_put_self ..

theorem Coll.setSegs_ne (c : Coll) {l j : Nat} (f : Nat → Seg → Seg) (other : j ≠ l) : (c.setSegs l f).list j = c.list j :=
  Map.getD_put_ne _ _ _ other

theorem Coll.setSegs_segs (c : Coll) (l : Nat) (f : Nat → Seg → Seg) (i : Nat) :
    ((c.setSegs l f).list l).segs[i]? = ((c.list l).segs[i]?).map (f i) := by
  rw [Coll.setSegs_self, List.getElem?_map, List.getElem?_zipIdx, Option.map_map, Nat.zero_add]
  rfl

/-- A change of place concerns allocations, ranges, lists and the home of a list, and of the registers the peak of a range table. -/
theorem State.resettle_frame (s : State) (u : UnitId) (dest : Home) :
    { s.resettle u dest with allocs := s.allocs, ranges := s.ranges, regs := s.regs, colls := s.colls, units := s.units, free := s.free } = s := by
  unfold State.resettle
  split <;> rfl

/-- The range tables' registers are none of the placement engine's. -/
theorem State.resettle_word (s : State) (u : UnitId) (dest : Home) {o : Nat} (placement : o = oPlcMoves ∨ o = oPlcMoved) :
    (s.resettle u dest).word o = s.word o := by
  unfold State.resettle
  split
  · refine State.word_setFld_ne _ _ _ _ ?_
    simp only [oPlcMoves, oPlcMoved, oRtUse] at placement ⊢
    omega
  · rfl
  · rfl
  · rfl

/-- Only the move of a list segment gives another unit a home. -/
theorem State.resettle_units (s : State) {u : UnitId} (dest : Home) (whole : wholeUnit u = u) : (s.resettle u dest).units = s.units := by
  unfold State.resettle
  split
  · rfl
  · rfl
  · simp [wholeUnit] at whole
  · rfl

/-! ## The switch (R202, R231) -/

/-- A unit at its new home. -/
def PUnit.rehomed (x : PUnit) (s : State) (m : Move) (u : PUnit) : PUnit :=
  { x with home := m.dest, part := if m.dest = .flash then (s.unitPart u.tenant u.uid).map fun p => (p.tenant, p.pid) else none, parked := false,
           promotedAt := if m.dest != .flash && x.home == .flash then some s.clock else x.promotedAt,
           demotedAt := if m.dest == .flash then some s.clock else x.demotedAt }

/-- The moves once `m` has switched; what worked on its unit reads the source on. -/
def State.movesSwitched (s : State) (m : Move) : List Move :=
  s.moves.map fun x => if x.id = m.id then { x with switched := true, readers :=
    (s.cmds.filter fun c => c.phase == .admitted && State.needsUnit c (wholeUnit m.uid)).map (·.id) } else x

theorem State.switchMove_eq (s : State) (m : Move) (u : PUnit) :
    s.switchMove m u =
      { (((s.updUnit m.uid fun x => x.rehomed s m u).countMove u.bytes).resettle m.uid m.dest) with moves := s.movesSwitched m } := rfl

theorem State.switchMove_frame (s : State) (m : Move) (u : PUnit) :
    { s.switchMove m u with allocs := s.allocs, ranges := s.ranges, regs := s.regs, colls := s.colls, units := s.units, moves := s.moves,
                            movedBytes := s.movedBytes, free := s.free } = s := by
  rw [State.switchMove_eq]
  exact (congrArg (fun t : State => { t with allocs := s.allocs, ranges := s.ranges, regs := s.regs, colls := s.colls, units := s.units,
                                             moves := s.moves, movedBytes := s.movedBytes, free := s.free })
    (((s.updUnit m.uid fun x => x.rehomed s m u).countMove u.bytes).resettle_frame m.uid m.dest) :)

theorem State.switchMove_sameBytes (s : State) (m : Move) (u : PUnit) : SameBytes s (s.switchMove m u) :=
  have frame := s.switchMove_frame m u
  .of_eq (congrArg State.dev frame :) (congrArg State.cis frame :) (congrArg (fun t : State => t.out.hostMem) frame :)

theorem State.switchMove_fld (s : State) (m : Move) (u : PUnit) (hi lo : Nat) :
    (s.switchMove m u).fld oPlcMoves hi lo = (s.wrapAdd oPlcMoves 31 0 1).fld oPlcMoves hi lo := by
  rw [State.switchMove_eq]
  refine State.fld_congr ((State.resettle_word _ m.uid m.dest (.inl rfl)).trans ?_) hi lo
  exact State.word_setFld_ne _ _ _ _ (by decide)

theorem State.switchMove_counted (s : State) (m : Move) (u : PUnit) : CountedUp s (s.switchMove m u) oPlcMoves 31 0 :=
  (countedUp_wrapAdd s oPlcMoves 0 (by decide)).congr rfl (s.switchMove_fld m u 31 0)

theorem State.switchMove_switched {s : State} {m : Move} (u : PUnit) (listed : m ∈ s.moves) :
    ∃ k ∈ (s.switchMove m u).moves, k.id = m.id ∧ k.switched = true :=
  ⟨_, List.mem_map.2 ⟨m, listed, if_pos rfl⟩, rfl, rfl⟩

/-- The unit that moves has its new home, and every other one is as it was. -/
theorem State.switchMove_unit? {s : State} {m : Move} (u : PUnit) (whole : wholeUnit m.uid = m.uid) {k : UnitId} (unit : wholeUnit k = k) :
    (s.switchMove m u).unit? k = if k = m.uid then (s.unit? k).map fun x => x.rehomed s m u else s.unit? k := by
  have units : (s.switchMove m u).units = (s.updUnit m.uid fun x => x.rehomed s m u).units := by
    rw [State.switchMove_eq]
    exact State.resettle_units _ m.dest whole
  rw [State.unit?_congr unit units]
  split
  · rename_i same
    subst same
    exact s.unit?_updUnit_self unit _ fun _ => rfl
  · rename_i other
    exact s.unit?_updUnit_ne unit _ (fun _ => rfl) other

/-- A segment of a list has another place, and the list's first segment gives the list its home. -/
theorem State.switchMove_segment {s : State} {m : Move} (u : PUnit) {h l k n : Nat} {c : Coll} {g : Seg} {x : PUnit}
    (uid : m.uid = .listSegment h l k) (dest : m.dest = .stack n) (found : s.colls.find? (fun o => o.handle == h) = some c)
    (seg : (c.list l).segs[k]? = some g) (list : s.unit? (.fineList h l) = some x) :
    ∃ c' w, (s.switchMove m u).colls.find? (fun o => o.handle == h) = some c' ∧ (c'.list l).segs[k]? = some ⟨n, w⟩ ∧
      (∀ j, j ≠ k → (c'.list l).segs[j]? = (c.list l).segs[j]?) ∧ (c'.list l).entries = (c.list l).entries ∧
      (∀ j, j ≠ l → c'.list j = c.list j) ∧ (k = 0 → ∃ y, (s.switchMove m u).unit? (.fineList h l) = some y ∧ y.home = .stack n) := by
  generalize counted : (s.updUnit m.uid fun x => x.rehomed s m u).countMove u.bytes = t
  have colls : t.colls = s.colls := counted ▸ rfl
  have units : t.units = (s.updUnit m.uid fun x => x.rehomed s m u).units := counted ▸ rfl
  have switched : s.switchMove m u = { ((t.updColl h fun c => c.setSegs l fun i g => if i = k then t.reseg n 0 g else g).drew 1).updUnit
      (.fineList h l) (fun x => if k = 0 then { x with home := m.dest } else x) with moves := s.movesSwitched m } := by
    rw [State.switchMove_eq, counted, uid, dest]
    rfl
  refine ⟨c.setSegs l fun i g => if i = k then t.reseg n 0 g else g, (t.reseg n 0 g).well, ?_, ?_, fun j other => ?_, ?_, fun j other => ?_, ?_⟩
  · rw [switched]
    exact State.find?_updColl _ (fun _ => rfl) (colls ▸ found)
  · rw [Coll.setSegs_segs, seg, Option.map_some, if_pos rfl]
    rfl
  · rw [Coll.setSegs_segs]
    simp [other]
  · rw [Coll.setSegs_self]
  · exact Coll.setSegs_ne c _ other
  · rintro rfl
    refine ⟨{ x with home := m.dest }, ?_, dest⟩
    have other : UnitId.fineList h l ≠ m.uid := by simp [uid]
    have kept : t.unit? (.fineList h l) = some x :=
      (State.unit?_congr rfl units).trans ((s.unit?_updUnit_ne rfl _ (by intro; rfl) other).trans list)
    rw [switched]
    exact (t.unit?_updUnit_self rfl (fun x => { x with home := m.dest }) (by intro; rfl)).trans (congrArg (Option.map _) kept)

end Sys2Proof.Machine

/-! O45: moves of placement units, from their entry to the release of their source, and the half-life of heat (R202 to R208, R219
to R221, R231). -/
namespace Sys2Proof.Machine

/-! ## Entering a move -/

theorem backgroundMove_effect {s : State} {u : UnitId} {dest : Home} {x : PUnit} (active : s.active = true) (found : s.unit? u = some x)
    (may : s.mayMove x dest = true) :
    ∃ s' m, exec (.backgroundMove u dest) s = .next s' ∧ s'.moves = s.moves ++ [m] ∧ m.uid = u ∧ m.dest = dest ∧ m.demand = none ∧
      m.switched = false ∧ m.late = false ∧ { s' with moves := s.moves, nextMove := s.nextMove } = s := by
  refine ⟨s.addMove u dest none, _, ?_, rfl, rfl, rfl, rfl, rfl, rfl, rfl⟩
  simp [exec_backgroundMove, execBackgroundMove, found, onlyIf, active, may]

/-- A unit may be asked for by an admitted command that needs it, or by none where a list changes without one (R219). -/
theorem State.mayDemand_of {s : State} {c : Nat} {u : UnitId} {deadline : Option Nat} {tenant : Nat}
    (asked : (∃ y, s.cmd? c = some y ∧ y.phase = .admitted ∧ State.needsUnit y u = true ∧ tenant = y.fn ∧ s.deadlineOk y u deadline = true) ∨
      (c = 0 ∧ s.cmd? 0 = none ∧ s.needsList u = true ∧ deadline = none)) : s.mayDemand c u deadline tenant = true := by
  obtain ⟨y, found, admitted, needs, own, timely⟩ | ⟨rfl, nobody, changes, rfl⟩ := asked
  · simp [State.mayDemand, found, admitted, needs, own, timely]
  · simp [State.mayDemand, nobody, changes]

theorem demandMove_effect {s : State} {c : Nat} {u : UnitId} {stack : Nat} {deadline : Option Nat} {x : PUnit} (active : s.active = true)
    (found : s.unit? u = some x) (home : x.home = .flash) (whole : x.lost = false) (still : s.onMove u = false)
    (ok : s.destOk x (.stack stack) = true) (asked : s.mayDemand c u deadline x.tenant = true) :
    ∃ s' m, exec (.demandMove c u stack deadline) s = .next s' ∧ s'.moves = s.moves ++ [m] ∧ m.uid = u ∧ m.dest = .stack stack ∧
      m.demand = some (c, deadline) ∧ m.switched = false ∧ m.late = false ∧ { s' with moves := s.moves, nextMove := s.nextMove } = s := by
  refine ⟨s.addMove u (.stack stack) (some (c, deadline)), _, ?_, rfl, rfl, rfl, rfl, rfl, rfl, rfl⟩
  simp [exec_demandMove, execDemandMove, found, onlyIf, active, home, whole, still, ok, asked]

/-! ## The end of a copy (R202, R207) -/

/-- The copy of move `v`, numbered `m`, ends now; `u` is the unit that it moves, on which no well works. -/
structure CopyEnds (s : State) (m : Nat) (v : Move) (u : PUnit) : Prop where
  active : s.active = true
  found : s.moves.find? (fun x => x.id == m) = some v
  waiting : v.switched = false
  unit : s.unit? v.uid = some u
  idle : s.wellOn v.uid = false

section
variable {s : State} {m : Nat} {v : Move} {u : PUnit}

theorem CopyEnds.id_eq (h : CopyEnds s m v u) : v.id = m := by simpa using List.find?_some h.found

theorem CopyEnds.uid_eq (h : CopyEnds s m v u) : u.uid = v.uid := State.unit?_uid h.unit

theorem CopyEnds.exec_eq (h : CopyEnds s m v u) (fault : Option MoveFault) :
    exec (.moveSwitch ⟨m, fault⟩) s =
      .next (if s.pastDue v then (s.turnLate v).endCopy { v with late := true } u fault else s.endCopy v u fault) := by
  simp [exec_moveSwitch, execMoveSwitch, h.found, onlyIf, h.active, h.waiting, h.idle, h.unit]

theorem CopyEnds.exec_timely (h : CopyEnds s m v u) (timely : s.pastDue v = false) (fault : Option MoveFault) :
    exec (.moveSwitch ⟨m, fault⟩) s = .next (s.endCopy v u fault) := by
  rw [h.exec_eq, timely]
  rfl

/-- However a copy ends, it leaves the count of late moves. -/
theorem State.endCopy_lateCount (s : State) (v : Move) (u : PUnit) (fault : Option MoveFault) :
    (s.endCopy v u fault).fld oPlcMoves 63 32 = s.fld oPlcMoves 63 32 := by
  have abandoned : (s.abandon v).word oPlcMoves = s.word oPlcMoves := s.abandon_word v (by decide) (by decide)
  cases fault with
  | some f =>
    cases f with
    | destination => exact State.fld_congr abandoned 63 32
    | source line => exact State.fld_congr ((State.sourceFault_word _ u line (by decide) (by decide)).trans abandoned) 63 32
  | none =>
    dsimp only [State.endCopy]
    split
    · split
      · rfl
      · exact State.fld_congr abandoned 63 32
    split
    · rfl
    split
    · rfl
    · rw [State.switchMove_fld]
      exact State.fld_setFld_disjoint _ _ _ (by decide) (by decide)

/-- A copy that ends past its deadline was late (R220). -/
theorem CopyEnds.late (h : CopyEnds s m v u) (due : s.pastDue v = true) (fault : Option MoveFault) :
    ∃ s', exec (.moveSwitch ⟨m, fault⟩) s = .next s' ∧ CountedUp s s' oPlcMoves 63 32 := by
  refine ⟨_, h.exec_eq fault, ?_⟩
  rw [due]
  exact (s.turnLate_counted v).congr rfl (State.endCopy_lateCount ..)

/-- What a switch needs: a sound source, a destination that takes the unit, a move that is still due, and for a demand move room. -/
structure MaySwitch (s : State) (v : Move) (u : PUnit) : Prop where
  source : s.sourceGood u = true
  dest : s.destWritable u v.dest = true
  due : s.stillDue v u = true
  room : v.demand.isSome = true → s.demandRoom u = true ∧ s.reserveRoom 0 = true

theorem MaySwitch.endCopy_eq (h : MaySwitch s v u) : s.endCopy v u none = s.switchMove v u := by
  have room : (v.demand.isSome && !(s.demandRoom u && s.reserveRoom 0)) = false := by
    cases demand : v.demand.isSome with
    | false => rfl
    | true => simp [h.room demand]
  simp only [State.endCopy, h.source, h.dest, h.due, room, Bool.not_true, Bool.or_self, Bool.false_eq_true, if_false]

theorem CopyEnds.switches (h : CopyEnds s m v u) (timely : s.pastDue v = false) (may : MaySwitch s v u) :
    exec (.moveSwitch ⟨m, none⟩) s = .next (s.switchMove v u) := by
  rw [h.exec_timely timely, may.endCopy_eq]

theorem CopyEnds.marked (h : CopyEnds s m v u) : ∃ k ∈ (s.switchMove v u).moves, k.id = m ∧ k.switched = true :=
  h.id_eq ▸ State.switchMove_switched u (List.mem_of_find?_eq_some h.found)

/-- The switch of a whole unit: the destination is its home, and no other unit moves. -/
theorem CopyEnds.switch_whole (h : CopyEnds s m v u) (timely : s.pastDue v = false) (may : MaySwitch s v u) (whole : wholeUnit v.uid = v.uid) :
    ∃ s' w, exec (.moveSwitch ⟨m, none⟩) s = .next s' ∧ s'.unit? v.uid = some w ∧ w.home = v.dest ∧ w.bytes = u.bytes ∧ w.heat = u.heat ∧
      w.lost = u.lost ∧ w.parked = false ∧ (∀ k, wholeUnit k = k → k ≠ v.uid → s'.unit? k = s.unit? k) ∧ CountedUp s s' oPlcMoves 31 0 ∧
      SameBytes s s' ∧ ∃ k ∈ s'.moves, k.id = m ∧ k.switched = true := by
  refine ⟨_, u.rehomed s v u, h.switches timely may, ?_, rfl, rfl, rfl, rfl, rfl, fun k unit other => ?_, s.switchMove_counted v u,
    s.switchMove_sameBytes v u, h.marked⟩
  · rw [State.switchMove_unit? u whole whole, if_pos rfl, h.unit, Option.map_some]
  · rw [State.switchMove_unit? u whole unit, if_neg other]

/-- The switch of a list segment: the segment has its new stack, and the rest of the collection is as it was. -/
theorem CopyEnds.switch_segment (h : CopyEnds s m v u) (timely : s.pastDue v = false) (may : MaySwitch s v u) {hd l k n : Nat} {c : Coll}
    (uid : v.uid = .listSegment hd l k) (dest : v.dest = .stack n) (found : s.colls.find? (fun o => o.handle == hd) = some c) :
    ∃ s' c' w, exec (.moveSwitch ⟨m, none⟩) s = .next s' ∧ s'.colls.find? (fun o => o.handle == hd) = some c' ∧
      (c'.list l).segs[k]? = some ⟨n, w⟩ ∧ (∀ j, j ≠ k → (c'.list l).segs[j]? = (c.list l).segs[j]?) ∧
      (c'.list l).entries = (c.list l).entries ∧ (∀ j, j ≠ l → c'.list j = c.list j) ∧
      (k = 0 → ∃ x, s'.unit? (.fineList hd l) = some x ∧ x.home = .stack n) ∧ CountedUp s s' oPlcMoves 31 0 ∧ SameBytes s s' ∧
      ∃ z ∈ s'.moves, z.id = m ∧ z.switched = true := by
  obtain ⟨x, c₁, g, list, part, -⟩ := State.unit?_segment_eq_some (uid ▸ h.unit)
  have seg : (c.list l).segs[k]? = some g := by
    simp only [State.listSeg, found, Option.bind_some, Option.map_eq_some_iff, Prod.mk.injEq] at part
    obtain ⟨_, seg, -, rfl⟩ := part
    exact seg
  obtain ⟨c', w, found', place, segs, entries, lists, first⟩ := State.switchMove_segment u uid dest found seg list
  exact ⟨_, c', w, h.switches timely may, found', place, segs, entries, lists, first, s.switchMove_counted v u, s.switchMove_sameBytes v u, h.marked⟩

theorem CopyEnds.abandon_gone (h : CopyEnds s m v u) : ∀ k ∈ (s.abandon v).moves, k.id ≠ m := by
  rw [State.abandon_moves, h.id_eq]
  exact s.dropMove_gone m

/-- A destination that fails or cannot be written leaves the source the home (R207). -/
theorem CopyEnds.abandons (h : CopyEnds s m v u) (timely : s.pastDue v = false) {fault : Option MoveFault}
    (fails : fault = some .destination ∨
      fault = none ∧ (s.sourceGood u = false ∨ s.destWritable u v.dest = false) ∧ (v.dest = .hub → s.unitClass u.uid = 0)) :
    ∃ s', exec (.moveSwitch ⟨m, fault⟩) s = .next s' ∧ s'.units = s.units ∧ (∀ k ∈ s'.moves, k.id ≠ m) ∧ CountedUp s s' oPlcMoved 63 48 ∧
      Logged s s' evMoveAbandon u.tenant [unitHandle v.uid, unitKind v.uid] ∧ SameBytes s s' := by
  have ends : s.endCopy v u fault = s.abandon v := by
    obtain rfl | ⟨rfl, bad, hub⟩ := fails
    · rfl
    · have bad : (!s.sourceGood u || !s.destWritable u v.dest) = true := by simpa using bad
      have kept : ¬(v.dest = .hub ∧ s.unitClass u.uid ≠ 0) := fun ⟨dest, other⟩ => other (hub dest)
      simp only [State.endCopy, if_pos bad, if_neg kept]
  have logged := s.abandon_logged v
  rw [h.unit] at logged
  exact ⟨_, (h.exec_timely timely fault).trans (congrArg _ ends), (congrArg State.units (s.abandon_frame v) :), h.abandon_gone,
    s.abandon_counted v, logged, s.abandon_sameBytes v⟩

/-- An uncorrectable fault of the source ends the move, and loses a unit that no code rebuilds (R207, R619). -/
theorem CopyEnds.source_fails (h : CopyEnds s m v u) (timely : s.pastDue v = false) (line : Nat) :
    ∃ s', exec (.moveSwitch ⟨m, some (.source line)⟩) s = .next s' ∧ (∀ k ∈ s'.moves, k.id ≠ m) ∧ CountedUp s s' oPlcMoved 63 48 ∧
      SameBytes s s' ∧ ∀ x, s.unit? (wholeUnit v.uid) = some x → unitIsAlloc v.uid = false → s.codedUnit (wholeUnit v.uid) = false →
        s'.unit? (wholeUnit v.uid) = some { x with lost := true } := by
  have frame := (s.abandon v).sourceFault_frame u line
  have moves : ((s.abandon v).sourceFault u line).moves = (s.abandon v).moves := (congrArg State.moves frame :)
  have dev : ((s.abandon v).sourceFault u line).dev = (s.abandon v).dev := (congrArg State.dev frame :)
  have cis : ((s.abandon v).sourceFault u line).cis = (s.abandon v).cis := (congrArg State.cis frame :)
  have bytes : SameBytes (s.abandon v) ((s.abandon v).sourceFault u line) := .of_eq dev cis (State.sourceFault_hostMem ..)
  refine ⟨_, h.exec_timely timely _, moves ▸ h.abandon_gone, ?_, (s.abandon_sameBytes v).trans bytes, fun x found soft bare => ?_⟩
  · exact (s.abandon_counted v).congr rfl (State.fld_congr (State.sourceFault_word _ u line (by decide) (by decide)) 63 48)
  · have colls : (s.abandon v).colls = s.colls := (congrArg State.colls (s.abandon_frame v) :)
    have units : (s.abandon v).units = s.units := (congrArg State.units (s.abandon_frame v) :)
    rw [← h.uid_eq] at found soft bare ⊢
    refine ((s.abandon v).sourceFault_unit? u line soft ((State.codedUnit_congr _ colls).trans bare)).trans ?_
    rw [State.unit?_congr (wholeUnit_wholeUnit _) units, found, Option.map_some]

/-- A move that R211, R215 or R216 allows no more ends without a switch and without an event. -/
theorem CopyEnds.lapses (h : CopyEnds s m v u) (timely : s.pastDue v = false)
    (lapsed : s.sourceGood u = true ∧ s.destWritable u v.dest = true ∧ s.stillDue v u = false ∨ v.dest = .hub ∧ s.unitClass u.uid ≠ 0) :
    ∃ s', exec (.moveSwitch ⟨m, none⟩) s = .next s' ∧ (∀ k ∈ s'.moves, k.id ≠ m) ∧ { s' with moves := s.moves } = s := by
  have ends : s.endCopy v u none = s.dropMove m := by
    rw [← h.id_eq]
    obtain ⟨source, dest, late⟩ | hub := lapsed
    · simp [State.endCopy, source, dest, late]
    · have late : s.stillDue v u = false := by simp [State.stillDue, hub.1, hub.2]
      simp only [State.endCopy, if_pos hub, late]
      split <;> rfl
  exact ⟨_, (h.exec_timely timely none).trans (congrArg _ ends), s.dropMove_gone m, rfl⟩

/-- A demand move that has no room waits at its switch. -/
theorem CopyEnds.waits (h : CopyEnds s m v u) (timely : s.pastDue v = false) (source : s.sourceGood u = true)
    (dest : s.destWritable u v.dest = true) (due : s.stillDue v u = true) (demand : v.demand.isSome = true)
    (full : s.demandRoom u = false ∨ s.reserveRoom 0 = false) : exec (.moveSwitch ⟨m, none⟩) s = .next s := by
  have full : (s.demandRoom u && s.reserveRoom 0) = false := Bool.and_eq_false_iff.2 full
  rw [h.exec_timely timely]
  simp only [State.endCopy, source, dest, due, demand, full, Bool.not_true, Bool.or_self, Bool.false_eq_true, if_false, Bool.not_false,
    Bool.and_self, if_true]

end

/-! ## After the switch, past the deadline, and at the half-life (R202, R208, R210, R220) -/

theorem moveSourceRelease_effect {s : State} {m : Nat} {v : Move} (live : s.live = true) (found : s.moves.find? (fun x => x.id == m) = some v)
    (switched : v.switched = true) (read : s.noneOf v.readers = true) (idle : s.wellOn v.uid = false) :
    ∃ s', exec (.moveSourceRelease m) s = .next s' ∧ (∀ k ∈ s'.moves, k.id ≠ m) ∧ { s' with moves := s.moves } = s := by
  refine ⟨s.dropMove m, ?_, s.dropMove_gone m, rfl⟩
  simp only [exec_moveSourceRelease, execMoveSourceRelease, found, onlyIf, live, switched, read, idle]
  rfl

theorem deadlineExpiry_effect {s : State} {m : Nat} {v : Move} {c d : Nat} (live : s.live = true)
    (found : s.moves.find? (fun x => x.id == m) = some v) (waiting : v.switched = false) (timely : v.late = false)
    (demand : v.demand = some (c, some d)) :
    ∃ s', exec (.deadlineExpiry m) s = .next s' ∧ s'.clock = Nat.max s.clock d ∧ s'.moves.find? (fun x => x.id == m) = some { v with late := true } ∧
      CountedUp s s' oPlcMoves 63 32 ∧ s'.units = s.units ∧
      ∀ y g, s.cmd? c = some y → y.work = .generate g → s'.cmd? c = some { y with work := .generate { g with late := g.late ++ [v.uid] } } := by
  refine ⟨{ s.turnLate v with clock := Nat.max s.clock d }, ?_, rfl, State.turnLate_find? found, s.turnLate_counted v, rfl,
    fun y g asked work => State.turnLate_cmd? demand asked work⟩
  simp only [exec_deadlineExpiry, execDeadlineExpiry, found, demand, onlyIf, live, waiting, timely]
  rfl

theorem State.halfLife_pos (s : State) : 0 < s.halfLife := Nat.mul_pos (Nat.two_pow_pos _) (by decide)

/-- A staging set may change for load; nothing else of a collection does (R210). -/
theorem State.restage_colls {s : State} {i : Nat} {c : Coll} (found : s.colls[i]? = some c) :
    ∃ g, s.restage.colls[i]? = some { c with staging := g } := by
  have changed : s.restage.colls[i]? = some (if s.draw (2 * i) % 2 = 0 then c else { c with staging := s.newStaging (s.draw (2 * i + 1)) }) := by
    refine List.getElem?_map.trans ?_
    rw [List.getElem?_zipIdx, found, Option.map_some, Option.map_some, Nat.zero_add]
  rw [changed]
  split
  · exact ⟨c.staging, rfl⟩
  · exact ⟨_, rfl⟩

theorem heatHalfLife_effect {s : State} (active : s.active = true) :
    ∃ s', exec .heatHalfLife s = .next s' ∧ s.clock < s'.clock ∧ s'.clock % s.halfLife = 0 ∧
      (∀ (i : Nat) x, s.units[i]? = some x → s'.units[i]? = some { x with heat := x.heat / 2 }) ∧
      (∀ (i : Nat) c, s.colls[i]? = some c → ∃ g, s'.colls[i]? = some { c with staging := g }) ∧
      { s' with units := s.units, clock := s.clock, colls := s.colls, free := s.free } = s := by
  rw [exec_heatHalfLife, execHeatHalfLife]
  refine onlyIf_next active ⟨?_, Nat.mul_mod_left .., fun i x found => ?_, fun i c found => State.restage_colls found, rfl⟩
  · exact (Nat.mul_comm _ _) ▸ Nat.lt_mul_div_succ s.clock s.halfLife_pos
  · exact List.getElem?_map.trans (congrArg (Option.map _) found)

/-- Settles O45: a move is entered, ends in one of the ways of its copy, and gives up its source; a deadline that passes makes it late, and
a half-life halves the heats. -/
theorem placementMoves : Obligations.PlacementMoves := by
  unfold Obligations.PlacementMoves
  refine ⟨fun s u dest x active found may => backgroundMove_effect active found may,
    fun s c u stack deadline x active found home whole still ok asked =>
      demandMove_effect active found home whole still ok (State.mayDemand_of asked),
    fun s m v u active found waiting unit idle => ?_,
    fun s m v live found switched read idle => moveSourceRelease_effect live found switched read idle,
    fun s m v c d live found waiting timely demand => deadlineExpiry_effect live found waiting timely demand,
    fun s active => heatHalfLife_effect active⟩
  have ends : CopyEnds s m v u := ⟨active, found, waiting, unit, idle⟩
  refine ⟨fun fault due => ends.late due fault, fun timely => ⟨fun source dest due room => ?_, fun fault fails => ends.abandons timely fails,
    fun line => ends.source_fails timely line, fun lapsed => ends.lapses timely lapsed,
    fun source dest due demand full => ends.waits timely source dest due demand full⟩⟩
  have may : MaySwitch s v u := ⟨source, dest, due, room⟩
  exact ⟨fun whole => ends.switch_whole timely may whole, fun h l k n c uid target coll => ends.switch_segment timely may uid target coll⟩

end Sys2Proof.Machine

/-! O29: parking a unit that stands under the name of a list segment. That name reads the segment's part of its list (R148), which the
park of the unit does not touch. -/
namespace Sys2Proof.Machine

/-- The device as a step of PARK finds it: moves that would leave flash are cancelled (R222). -/
def State.inboundCancelled (s : State) : State := { s with moves := s.moves.filter fun m => m.switched || m.dest == .flash }

/-- PARK parks the first unit that is not on flash and on which no well works. -/
theorem Runs.exec_park_eq {s : State} {c : Nat} {x : Cmd} {u : PUnit} {p : Part} (run : Runs s c x) (opc : x.opc = 7) (fn : x.fn = 0)
    (action : x.u 0x10 2 = 0x10) (unparked : s.power.parked = false)
    (found : s.units.find? (fun u => u.home != .flash && !u.lost && !s.wellOn u.uid) = some u) (part : s.part? 0 0 = some p)
    (writable : p.readOnly = false) : exec (.park c) s = .next (s.inboundCancelled.parkUnit x u) := by
  have left : (s.units.all fun u => u.home == .flash || u.lost) = false := by
    have here := List.find?_some found
    simp only [Bool.and_eq_true, bne_iff_ne, Bool.not_eq_true'] at here
    obtain ⟨⟨away, kept⟩, -⟩ := here
    exact List.all_eq_false.2 ⟨u, List.mem_of_find?_eq_some found, by simp [away, kept]⟩
  have next : s.inboundCancelled.units.find? (fun u => u.home != .flash && !u.lost && !s.inboundCancelled.wellOn u.uid) = some u := found
  have room : (s.inboundCancelled.part? 0 0).any (fun p => !p.readOnly) = true := by
    rw [show s.inboundCancelled.part? 0 0 = some p from part]
    simp [writable]
  have step : s.parkStep x = s.inboundCancelled.parkUnit x u := by
    simp only [State.inboundCancelled] at next room ⊢
    simp only [State.parkStep, left, next, room, Bool.false_eq_true, if_false, if_true]
  rw [exec_park, execPark, run.runCmd_eq (by simp [opc, fn, action])]
  simp [unparked, step]

/-- What a segment's name reads rests on the list's unit and on the collections. -/
theorem State.unit?_segment_congr {s t : State} {h l : Nat} (k : Nat) (list : t.unit? (.fineList h l) = s.unit? (.fineList h l))
    (colls : t.colls = s.colls) : t.unit? (.listSegment h l k) = s.unit? (.listSegment h l k) := by
  simp only [State.unit?, State.listSeg, colls] at list ⊢
  rw [list]

/-- The park of a unit that a list segment's name names leaves what that name reads. -/
theorem State.parkUnit_segment (s : State) (x : Cmd) {u : PUnit} {h l k : Nat} (uid : u.uid = .listSegment h l k) :
    (s.parkUnit x u).unit? (.listSegment h l k) = s.unit? (.listSegment h l k) := by
  have unpoisoned : s.parkPoison u.uid x.id = s := by rw [uid]; rfl
  have other : UnitId.fineList h l ≠ u.uid := by simp [uid]
  have reported : ∀ (t : State) (bp pos : Nat), (t.raiseProgress x.id bp pos).units = t.units ∧ (t.raiseProgress x.id bp pos).colls = t.colls :=
    fun t bp pos =>
      have rest := (Progressed.raiseProgress t x.id bp pos).rest
      ⟨(congrArg State.units rest :), (congrArg State.colls rest :)⟩
  unfold State.parkUnit
  rw [unpoisoned]
  refine State.unit?_segment_congr k ?_ (reported _ _ _).2
  refine (State.unit?_congr rfl (reported _ _ _).1).trans ?_
  exact s.unit?_updUnit_ne rfl (fun v => { v with home := .flash, parked := true, part := some (0, 0) }) (by intro; rfl) other

/-! ## The state that refutes -/

/-- ADMIN PARK of the PF, at work. -/
def strayPark : Cmd :=
  { ownInsert with
    entry := [7] ++ List.replicate 15 0 ++ [0x10], phase := .admitted, slot := some (0, 0), started := false, parent := none, work := .idle }

/-- A collection with one list of one segment, in stack memory. -/
def strayColl : Coll := { ownColl with lists := [(0, { entries := [], committed := 0, gen := 0, segs := [⟨0, 0⟩], scales := [], tags := [] })] }

/-- The unit of that list. -/
def strayList : PUnit :=
  { uid := .fineList 7 0, tenant := 0, home := .stack 0, bytes := segBytes 8 0, heat := 0, promotedAt := none, demotedAt := none, lost := false,
    parked := false, part := none }

/-- A unit that stands under the name of the list's segment. -/
def straySegment : PUnit := { strayList with uid := .listSegment 7 0 0 }

/-- The system partition (R409). -/
def strayPart : Part :=
  { tenant := 0, pid := 0, density := false, kind := false, classes := 0, capGb := 0, op := 1250, bufGib := 64, bufNow := 0, turn := [],
    readOnly := false, dropping := false, hostw := 0, mediaw := 0, corr := 0, uncorr := 0, rebuilt := 0, pfail := 0, efail := 0,
    retiredBlocks := 0, noticesOut := 0, tmax := -128, t0 := 0, t1 := 0, t2 := 0, t3 := 0 }

/-- A device that parks, with both units. -/
def strayParking : State :=
  { (State.reset.setFld oPwrState 2 2 1).setFld oPwrState 1 0 0 with
    cmds := [strayPark], colls := [strayColl], units := [straySegment, strayList], parts := [strayPart] }

/-- Refutes O29: the clause of a PARK step asks that the name of the unit reads that unit, and promises that it reads the unit on flash
afterwards. A unit that stands in the table under the name of a list segment, equal to its list's part there, meets what the clause
asks: the unit goes to flash, and its name still reads the part of the list, which is in stack memory. -/
theorem not_parkAndDetach : ¬ Obligations.ParkAndDetach := by
  unfold Obligations.ParkAndDetach
  rintro ⟨-, parks, -⟩
  have run : Runs strayParking 1 strayPark := ⟨by decide +kernel, rfl, by decide +kernel⟩
  have found : strayParking.units.find? (fun u => u.home != .flash && !u.lost && !strayParking.wellOn u.uid) = some straySegment := by
    decide +kernel
  have named : strayParking.unit? straySegment.uid = some straySegment := by decide +kernel
  have part : strayParking.part? 0 0 = some strayPart := by decide +kernel
  obtain ⟨s', v, _, effect, reads, flash, -⟩ :=
    parks strayParking 1 strayPark straySegment strayPart run (by decide) rfl (by decide) rfl found named part rfl
  have left := (run.exec_park_eq (by decide) rfl (by decide) rfl found part rfl).symm.trans effect
  have kept : s'.unit? straySegment.uid = some straySegment := by
    rw [← Host.Outcome.next.inj left]
    exact (strayParking.inboundCancelled.parkUnit_segment strayPark rfl).trans named
  obtain rfl := Option.some.inj (kept.symm.trans reads)
  cases flash

end Sys2Proof.Machine

/-! Block indexes of agent memories (R246): what an entry leaves of an index, and what a clustering holds. -/
namespace Sys2Proof.Machine

/-! ## One entry -/

/-- The numbers of the blocks that an index holds, list by list. -/
def BlockIndex.held (x : BlockIndex) : List Nat := x.lists.flatMap fun f => f.entries.map (·.lid)

/-- The coarse list nearest to a summary key. -/
def BlockIndex.nearest (x : BlockIndex) (k : Nat) (key : List (BitVec 16)) : Nat :=
  (rankBy (fun i => centroidDist mIP (k + 1024 * i) (bits16 key) (x.coarse.getD i [])) (List.range x.coarse.length)).headD 0

theorem headD_rankBy_mem (dist : Nat → Nat) {ids : List Nat} (some : ids ≠ []) : (rankBy dist ids).headD 0 ∈ ids := by
  have ranked := rankBy_perm dist ids
  cases order : rankBy dist ids with
  | nil => exact absurd (order ▸ ranked).nil_eq.symm some
  | cons l r => exact ranked.mem_iff.1 (by simp [order])

theorem BlockIndex.nearest_lt {x : BlockIndex} (coarse : 0 < x.coarse.length) (k : Nat) (key : List (BitVec 16)) :
    x.nearest k key < x.coarse.length :=
  List.mem_range.1 (headD_rankBy_mem _ (by simp; rintro h; simp [h] at coarse))

theorem zipIdx_map_ite_eq_modify {α : Type} (l : List α) (i : Nat) (f : α → α) :
    (l.zipIdx.map fun p => if p.2 = i then f p.1 else p.1) = l.modify i f := by
  refine List.ext_getElem? fun j => ?_
  rw [List.getElem?_map, List.getElem?_zipIdx, List.getElem?_modify]
  by_cases at_i : j = i <;> cases l[j]? <;> simp [at_i, Ne.symm]

/-- A block has been entered: the index holds its number once more, in one of the lists that it has. -/
structure BlockIndex.Entered (x y : BlockIndex) (b : Nat) : Prop where
  coarse : y.coarse = x.coarse
  lists : y.lists.length = x.lists.length
  held : y.held.Perm (b :: x.held)

/-- A list with one entry more, committed. -/
def FineList.entered (e : Entry) (f : FineList) : FineList :=
  let g := f.append (2 ^ 64) ⟨0, 0⟩ e
  { g with committed := g.entries.length }

theorem FineList.entered_lids (e : Entry) (f : FineList) : (f.entered e).entries.map (·.lid) = f.entries.map (·.lid) ++ [e.lid] := List.map_append

theorem BlockIndex.enter_eq (x : BlockIndex) (k d b : Nat) (key : List (BitVec 16)) :
    ∃ e : Entry, e.lid = b ∧ x.enter k d b key = { x with lists := x.lists.modify (x.nearest k key) (FineList.entered e) } :=
  ⟨_, rfl, congrArg (fun l => ({ x with lists := l } : BlockIndex)) (zipIdx_map_ite_eq_modify x.lists (x.nearest k key) (FineList.entered _))⟩

theorem BlockIndex.enter_entered {x : BlockIndex} (coarse : 0 < x.coarse.length) (whole : x.coarse.length ≤ x.lists.length) (k d b : Nat)
    (key : List (BitVec 16)) : x.Entered (x.enter k d b key) b := by
  obtain ⟨e, rfl, eq⟩ := x.enter_eq k d b key
  have inside : x.nearest k key < x.lists.length := Nat.lt_of_lt_of_le (x.nearest_lt coarse k key) whole
  rw [eq]
  refine ⟨rfl, List.length_modify .., ?_⟩
  have split : x.held = (x.lists.take (x.nearest k key)).flatMap (fun f => f.entries.map (·.lid)) ++
      ((x.lists[x.nearest k key].entries.map (·.lid)) ++ (x.lists.drop (x.nearest k key + 1)).flatMap fun f => f.entries.map (·.lid)) := by
    conv_lhs => rw [BlockIndex.held, ← List.take_append_drop (x.nearest k key) x.lists, List.drop_eq_getElem_cons inside]
    rw [List.flatMap_append, List.flatMap_cons]
  rw [split, BlockIndex.held, List.modify_eq_take_cons_drop inside, List.flatMap_append, List.flatMap_cons, FineList.entered_lids]
  simp only [List.append_assoc]
  exact (List.Perm.append_left _ List.perm_middle).trans List.perm_middle

/-! ## A clustering -/

theorem BlockIndex.foldl_enter {x : BlockIndex} (coarse : 0 < x.coarse.length) (whole : x.coarse.length ≤ x.lists.length) (k : Nat → Nat) (d : Nat)
    (ps : List (List (BitVec 16) × Nat)) :
    (ps.foldl (fun x p => x.enter (k p.2) d p.2 p.1) x).lists.length = x.lists.length ∧
      (ps.foldl (fun x p => x.enter (k p.2) d p.2 p.1) x).held.Perm (ps.map (·.2) ++ x.held) := by
  induction ps generalizing x with
  | nil => exact ⟨rfl, .refl _⟩
  | cons p ps ih =>
    obtain ⟨same, lists, held⟩ := BlockIndex.enter_entered coarse whole (k p.2) d p.2 p.1
    obtain ⟨lists', held'⟩ := ih (x := x.enter (k p.2) d p.2 p.1) (by rwa [same]) (by rwa [same, lists])
    exact ⟨lists'.trans lists, held'.trans ((held.append_left _).trans List.perm_middle)⟩

theorem coarseCount_pos {n : Nat} (pos : 0 < n) : 0 < coarseCount n := by
  unfold coarseCount
  dsimp only
  refine Nat.lt_min.2 ⟨by decide, ?_⟩
  split
  · rename_i square
    exact Nat.pos_of_ne_zero fun zero => by simp [zero] at square; omega
  · exact Nat.succ_pos _

/-- An index clustered anew has the lists of R246 and holds every block once. -/
theorem clustered_holds (k : Nat) (m : Config.ModelImage) (old : BlockIndex) {keys : List (List (BitVec 16))} (some : 0 < keys.length) :
    (clustered k m old keys).lists.length = coarseCount keys.length ∧ (clustered k m old keys).held.Perm (List.range keys.length) := by
  have pos := coarseCount_pos some
  unfold clustered
  dsimp only
  generalize start : BlockIndex.mk _ _ _ = x
  have coarse : x.coarse.length = coarseCount keys.length := by rw [← start]; simp [shaped]
  have lists : x.lists.length = coarseCount keys.length := by rw [← start]; simp
  have none : x.held = [] := by rw [← start]; simp [BlockIndex.held]
  obtain ⟨length, held⟩ := BlockIndex.foldl_enter (by omega) (by omega) (fun b => k + 2 ^ 30 + 2 ^ 24 * b) m.headDim keys.zipIdx (x := x)
  refine ⟨length.trans lists, held.trans ?_⟩
  rw [none, List.append_nil, List.zipIdx_map_snd, List.range_eq_range']

end Sys2Proof.Machine

/-! O37: `vr.embed`, agent memories, `vr.model.info` and re-clustering (R237, R240, R242, R243, R246). -/
namespace Sys2Proof.Machine

/-! ## Byte strings written one behind the other -/

theorem Mem.rdN_add (m : Mem) (a n k : Nat) : m.rdN a (n + k) = m.rdN a n ++ m.rdN (a + n) k := by
  induction n generalizing a with
  | zero => simp [Mem.rdN]
  | succ n ih => rw [Nat.succ_add, Mem.rdN, ih, Mem.rdN, List.cons_append, Nat.add_right_comm a 1 n, Nat.add_assoc a n 1]

/-- A range below the end of a function's space is read part by part. -/
theorem State.spaceBytes_add (s : State) (fn : Nat) (dev : Bool) {a n k : Nat} (inside : a + (n + k) ≤ 2 ^ 64) :
    s.spaceBytes fn dev a (n + k) = s.spaceBytes fn dev a n ++ s.spaceBytes fn dev (a + n) k := by
  rcases Nat.eq_zero_or_pos k with rfl | more
  · cases dev <;> simp [State.spaceBytes, State.devRd, State.hostBytes, Mem.rdN]
  rcases Nat.eq_zero_or_pos n with rfl | some
  · cases dev <;> simp [State.spaceBytes, State.devRd, State.hostBytes, Mem.rdN]
  have host : hostKey fn (a + n) = hostKey fn a + n := by simp only [hostKey]; omega
  have device : devKey fn (a + n) = devKey fn a + n := by simp only [devKey]; omega
  cases dev
  · simp only [State.spaceBytes, State.hostBytes, Bool.false_eq_true, if_false, host, Mem.rdN_add]
  · simp only [State.spaceBytes, State.devRd, if_true, device, Mem.rdN_add]

/-- The strings stand one behind the other from an address on. -/
def State.wroteRows (s : State) (fn : Nat) (dev : Bool) : Nat → List (List Byte) → State
  | _, [] => s
  | a, r :: rs => (s.wrote fn dev a r).wroteRows fn dev (a + r.length) rs

theorem State.wroteRows_frame (s : State) (fn : Nat) (dev : Bool) (a : Nat) (rs : List (List Byte)) :
    { s.wroteRows fn dev a rs with dev := s.dev, poison := s.poison, out := s.out } = s := by
  induction rs generalizing s a with
  | nil => rfl
  | cons r rs ih =>
    exact (congrArg (fun t : State => { t with dev := s.dev, poison := s.poison, out := s.out }) (ih (s.wrote fn dev a r) _) :).trans
      (s.wrote_frame fn dev a r)

theorem Working.wroteRows {s : State} {c : Nat} {x : Cmd} (h : Working s c x) (fn : Nat) (dev : Bool) (a : Nat) (rs : List (List Byte)) :
    Working (s.wroteRows fn dev a rs) c x := h.of_cmds (congrArg State.cmds (s.wroteRows_frame fn dev a rs) :)

theorem State.canWrite_wroteRows (s : State) (fn : Nat) (dev : Bool) (a : Nat) (rs : List (List Byte)) (fn' : Nat) (dev' : Bool) (a' n : Nat) :
    (s.wroteRows fn dev a rs).canWrite fn' dev' a' n = s.canWrite fn' dev' a' n := by
  induction rs generalizing s a with
  | nil => rfl
  | cons r rs ih => exact (ih (s.wrote fn dev a r) _).trans (s.canWrite_wrote ..)

/-- A write beyond a range of the same space leaves the range. -/
theorem State.spaceBytes_wrote_beyond (s : State) (fn : Nat) (dev : Bool) {a n b : Nat} {bs : List Byte} (beyond : a + n ≤ b)
    (inside : b + bs.length ≤ 2 ^ 64) : (s.wrote fn dev b bs).spaceBytes fn dev a n = s.spaceBytes fn dev a n := by
  rcases bs with _ | ⟨x, bs⟩
  · cases dev <;> rfl
  rw [List.length_cons] at inside
  exact s.spaceBytes_wrote_apart fn (by omega) (by omega) fun _ => .inr beyond

theorem State.spaceBytes_wroteRows_beyond (s : State) (fn : Nat) (dev : Bool) {a n b : Nat} {rs : List (List Byte)} (beyond : a + n ≤ b)
    (inside : b + rs.flatten.length ≤ 2 ^ 64) : (s.wroteRows fn dev b rs).spaceBytes fn dev a n = s.spaceBytes fn dev a n := by
  induction rs generalizing s b with
  | nil => rfl
  | cons r rs ih =>
    rw [List.flatten_cons, List.length_append] at inside
    exact (ih (s.wrote fn dev b r) (by omega) (by omega)).trans (s.spaceBytes_wrote_beyond fn dev beyond (by omega))

theorem State.spaceBytes_wroteRows (s : State) (fn : Nat) (dev : Bool) {a : Nat} {rs : List (List Byte)}
    (inside : a + rs.flatten.length ≤ 2 ^ 64) : (s.wroteRows fn dev a rs).spaceBytes fn dev a rs.flatten.length = rs.flatten := by
  induction rs generalizing s a with
  | nil => cases dev <;> rfl
  | cons r rs ih =>
    rw [List.flatten_cons, List.length_append] at inside ⊢
    rw [State.spaceBytes_add _ _ _ inside, State.wroteRows, ih _ (by omega), State.spaceBytes_wroteRows_beyond _ _ _ le_rfl (by omega),
      State.spaceBytes_wrote]

/-! ## `vr.embed` (R240) -/

/-- Rows and a report that can be written are written, and the command ends with them. -/
theorem State.embedOut_eq {s : State} {x : Cmd} {cut a : Nat} {rows : List (List Byte)}
    (can : ∀ (i : Nat) r, rows[i]? = some r → s.canWrite x.fn (bit (x.a 0xC 4) 5) (a + (rows.take i).flatten.length) r.length = true)
    (can' : s.canWrite x.fn (bit (x.a 0xC 4) 6) (x.a 0x28 8) 8 = true) :
    s.embedOut x cut a rows = ((s.wroteRows x.fn (bit (x.a 0xC 4) 5) a rows).wrote x.fn (bit (x.a 0xC 4) 6) (x.a 0x28 8)
      (toLe 4 cut ++ toLe 4 0)).finish x.id stOk 0 0 := by
  induction rows generalizing s a with
  | nil =>
    have length : (toLe 4 cut ++ toLe 4 0).length = 8 := by simp [toLe_length]
    rw [State.embedOut, State.spaceWr_eq (length ▸ can')]
    rfl
  | cons r rs ih =>
    have first := can 0 r rfl
    rw [List.take_zero, List.flatten_nil, List.length_nil, Nat.add_zero] at first
    rw [State.embedOut, State.spaceWr_eq first]
    refine ih (fun i q at_i => ?_) ((s.canWrite_wrote ..).trans can')
    have later := can (i + 1) q at_i
    rw [List.take_succ_cons, List.flatten_cons, List.length_append, ← Nat.add_assoc] at later
    exact (s.canWrite_wrote ..).trans later

/-- The rows stand where they are due, then the report where it does not overlap them, and the command has ended (R240). -/
theorem Working.embedOut {s : State} {c : Nat} {x : Cmd} (h : Working s c x) (none : x.argBase = 0) (cut : Nat) {rows : List (List Byte)}
    (inside : x.a 0x20 8 + rows.flatten.length ≤ 2 ^ 64)
    (can : ∀ (i : Nat) r, rows[i]? = some r → s.canWrite x.fn (bit (x.a 0xC 4) 5) (x.a 0x20 8 + (rows.take i).flatten.length) r.length = true)
    (can' : s.canWrite x.fn (bit (x.a 0xC 4) 6) (x.a 0x28 8) 8 = true)
    (apart : bit (x.a 0xC 4) 5 = bit (x.a 0xC 4) 6 → x.a 0x28 8 + 8 ≤ x.a 0x20 8 ∨ x.a 0x20 8 + rows.flatten.length ≤ x.a 0x28 8) :
    (s.embedOut x cut (x.a 0x20 8) rows).spaceBytes x.fn (bit (x.a 0xC 4) 5) (x.a 0x20 8) rows.flatten.length = rows.flatten ∧
      leAt ((s.embedOut x cut (x.a 0x20 8) rows).spaceBytes x.fn (bit (x.a 0xC 4) 6) (x.a 0x28 8) 8) 0 4 = cut % 2 ^ 32 ∧
      Answered (s.embedOut x cut (x.a 0x20 8) rows) c stOk 0 0 10000 := by
  have id := h.id_eq
  subst id
  have length : (toLe 4 cut ++ toLe 4 0).length = 8 := by simp [toLe_length]
  have sent := (h.wroteRows x.fn (bit (x.a 0xC 4) 5) (x.a 0x20 8) rows).delivered none (bit (x.a 0xC 4) 6) (x.a 0x28 8)
    (toLe 4 cut ++ toLe 4 0) stOk 0 0
  have ends := ((h.wroteRows x.fn (bit (x.a 0xC 4) 5) (x.a 0x20 8) rows).wrote x.fn (bit (x.a 0xC 4) 6) (x.a 0x28 8)
    (toLe 4 cut ++ toLe 4 0)).finish stOk 0 0
  have report := sent.bytes
  rw [length] at report
  rw [State.embedOut_eq can can']
  refine ⟨?_, ?_, sent.entry⟩
  · rw [ends.spaceBytes none, State.spaceBytes_wrote_apart _ _ (x.a_lt 0x20 8) (x.a_lt 0x28 8) (by rw [length]; exact apart),
      State.spaceBytes_wroteRows _ _ _ inside]
  · rw [report]
    exact leAt_append_toLe [] (toLe 4 0) 4 cut

/-- What a `vr.embed` writes for its texts: one vector each. -/
def State.embedRows (s : State) (x : Cmd) (o : Model) (ts : List (List Byte)) : List (List Byte) :=
  ts.zipIdx.map fun t => writeElems (x.af 0xC 2 1) (s.embedding t.2 o (bit (x.a 0xC 4) 3) t.1)

/-- The device after a model's dense tensors were read (R208). -/
def State.denseRead (s : State) (o : Model) : State :=
  ((List.range o.tensors.length).map fun i => UnitId.dense o.handle i).foldl State.heatUnit (s.drew (2 ^ 128))

theorem State.denseRead_frame (s : State) (o : Model) : { s.denseRead o with units := s.units, free := s.free } = s :=
  (congrArg (fun t : State => { t with units := s.units, free := s.free }) (State.heatUnits_frame (s.drew (2 ^ 128)) _) :)

theorem SameSpaces.denseRead (s : State) (o : Model) : SameSpaces s (s.denseRead o) :=
  have frame := s.denseRead_frame o
  ⟨(congrArg State.allocs frame :), (congrArg State.dev frame :), (congrArg State.out frame :), (congrArg State.poison frame :),
    (congrArg State.ranges frame :)⟩

/-- A well-formed `vr.embed` of a live model without a mismatch of tags writes its vectors and its report. -/
theorem Runs.exec_vrEmbed_eq {s : State} {c : Nat} {x : Cmd} {o : Model} {ts : List (List Byte)} (run : Runs s c x) (vr : x.vr = 0x130)
    (whole : x.names.any s.objLost = false) (live : s.model? x (x.a 0 8) = some o) (ok : x.embedOk = true) (read : s.embedTexts x = .ok ts)
    (sound : o.tensors.findSome? QTensor.skew = none) :
    exec (.vrEmbed c) s = .next ((s.denseRead o).embedOut x
      (ts.filter fun t => decide (o.img.inputLen < (tokenise o.img t).length)).length (x.a 0x20 8) (s.embedRows x o ts)) := by
  rw [exec_vrEmbed, execVrEmbed, run.runVr_eq vr whole]
  simp only [live, ok, read, sound, Bool.not_true, Bool.false_eq_true, if_false]
  rfl

theorem vrEmbed_effect {s : State} {c : Nat} {x : Cmd} {o : Model} {ts rows : List (List Byte)} {d : Bool} (run : Runs s c x)
    (vr : x.vr = 0x130) (whole : x.names.any s.objLost = false) (live : s.model? x (x.a 0 8) = some o) (ok : x.embedOk = true)
    (read : s.embedTexts x = .ok ts) (sound : o.tensors.findSome? QTensor.skew = none) (hrows : rows = s.embedRows x o ts)
    (hd : d = bit (x.a 0xC 4) 5) (inside : x.a 0x20 8 + rows.flatten.length ≤ 2 ^ 64) (none : x.argBase = 0)
    (can : ∀ (i : Nat) r, rows[i]? = some r → s.canWrite x.fn d (x.a 0x20 8 + (rows.take i).flatten.length) r.length = true)
    (can' : s.canWrite x.fn (bit (x.a 0xC 4) 6) (x.a 0x28 8) 8 = true)
    (apart : d = bit (x.a 0xC 4) 6 → x.a 0x28 8 + 8 ≤ x.a 0x20 8 ∨ x.a 0x20 8 + rows.flatten.length ≤ x.a 0x28 8) :
    ∃ s', exec (.vrEmbed c) s = .next s' ∧ s'.spaceBytes x.fn d (x.a 0x20 8) rows.flatten.length = rows.flatten ∧
      leAt (s'.spaceBytes x.fn (bit (x.a 0xC 4) 6) (x.a 0x28 8) 8) 0 4 =
        (ts.filter fun t => decide (o.img.inputLen < (tokenise o.img t).length)).length % 2 ^ 32 ∧ Answered s' c stOk 0 0 10000 := by
  subst hrows hd
  have same := (SameSpaces.denseRead s o).canWrite x.fn
  have work : Working (s.denseRead o) c x := run.working.of_cmds (congrArg State.cmds (s.denseRead_frame o) :)
  exact ⟨_, run.exec_vrEmbed_eq vr whole live ok read sound,
    work.embedOut none _ inside (fun i r at_i => (same ..).trans (can i r at_i)) ((same ..).trans can') apart⟩

end Sys2Proof.Machine

/-! O37, continued: memories, `vr.model.info` and re-clustering. -/
namespace Sys2Proof.Machine

/-! ## A new memory and its units (R242) -/

/-- The record of a new memory, which holds no token. -/
def Model.newMem (o : Model) (h cap cls budget : Nat) (temp : Bool) : AgentMem :=
  { handle := h, tenant := o.tenant, model := o.handle, cap := cap, cls := cls, budget := budget, tokens := [], opened := [], blocks := [], sums := [],
    indexes := (List.range (o.img.layers * o.img.kvHeads)).map fun _ => ⟨[], [], []⟩, clustered := 0, temp := temp, dying := none }

/-- Units added one after the other show in the units alone. -/
theorem State.addUnits_frame (s : State) (u : Nat → UnitId) (t : Nat) (n : Nat → Nat) (l : List Nat) :
    { l.foldl (fun (s : State) i => (s.addUnit (u i) t s.anyStack (n i)).drew 1) s with units := s.units, free := s.free } = s :=
  List.foldlRecOn (motive := fun r : State => ({ r with units := s.units, free := s.free } : State) = s) l _ rfl fun _ kept _ _ => kept

theorem State.addMem_frame (s : State) (o : Model) (h cap cls budget : Nat) (temp : Bool) :
    { s.addMem o h cap cls budget temp with units := s.units, free := s.free } =
      { s with mems := s.mems ++ [o.newMem h cap cls budget temp] } :=
  (congrArg (fun t : State => { t with units := s.units, free := s.free })
    (State.addUnits_frame { s with mems := s.mems ++ [o.newMem h cap cls budget temp] } (.summaries h) o.tenant (memTensor o.img 0) _) :)

theorem State.addMem_mems (s : State) (o : Model) (h cap cls budget : Nat) (temp : Bool) :
    (s.addMem o h cap cls budget temp).mems = s.mems ++ [o.newMem h cap cls budget temp] :=
  (congrArg State.mems (s.addMem_frame o h cap cls budget temp) :)

theorem SameSpaces.addMem (s : State) (o : Model) (h cap cls budget : Nat) (temp : Bool) : SameSpaces s (s.addMem o h cap cls budget temp) :=
  have frame := s.addMem_frame o h cap cls budget temp
  ⟨(congrArg State.allocs frame :), (congrArg State.dev frame :), (congrArg State.out frame :), (congrArg State.poison frame :),
    (congrArg State.ranges frame :)⟩

theorem Working.addMem {s : State} {c : Nat} {x : Cmd} (work : Working s c x) (o : Model) (h cap cls budget : Nat) (temp : Bool) :
    Working (s.addMem o h cap cls budget temp) c x := work.of_cmds (congrArg State.cmds (s.addMem_frame o h cap cls budget temp) :)

/-! ## `vr.mem.create` and `vr.mem.drop` (R242, R243) -/

theorem Runs.exec_vrMemCreate_eq {s : State} {c : Nat} {x : Cmd} {o : Model} (run : Runs s c x) (vr : x.vr = 0x132)
    (live : s.model? x (x.a 0 8) = some o) (ok : x.memOk = true) (room : s.room x.fn (memBytes o.img 0) = some true)
    (can : s.canWrite x.fn (bit (x.a 0xC 4) 2) (x.a 0x18 8) 8 = true) :
    exec (.vrMemCreate c) s = .next ((((s.roomy x).wrote x.fn (bit (x.a 0xC 4) 2) (x.a 0x18 8) (toLe 8 (s.roomy x).newHandle)).addMem o
      (s.roomy x).newHandle (x.a 8 4) (x.af 0xC 1 0) (x.a 0x10 8) false).finish c stOk 0 0) := by
  have can' : (s.roomy x).canWrite x.fn (bit (x.a 0xC 4) 2) (x.a 0x18 8) (toLe 8 (s.roomy x).newHandle).length = true := by
    rw [toLe_length, (SameSpaces.roomy s x).canWrite, can]
  rw [exec_vrMemCreate, execVrMemCreate, run.runCmd_eq (by simp [vr])]
  simp only [live, ok, Bool.not_true, Bool.false_eq_true, if_false]
  rw [State.withRoom_eq room, State.spaceWr_eq can']

theorem vrMemCreate_effect {s : State} {c : Nat} {x : Cmd} {o : Model} {d : Bool} (run : Runs s c x) (vr : x.vr = 0x132)
    (live : s.model? x (x.a 0 8) = some o) (ok : x.memOk = true) (hd : d = bit (x.a 0xC 4) 2) (none : x.argBase = 0)
    (room : s.room x.fn (memBytes o.img 0) = some true) (can : s.canWrite x.fn d (x.a 0x18 8) 8 = true) :
    ∃ s' m, exec (.vrMemCreate c) s = .next s' ∧ s'.mems = s.mems ++ [m] ∧ m.tenant = o.tenant ∧ m.model = o.handle ∧ m.cap = x.a 8 4 ∧
      m.tokens = [] ∧ m.blocks = [] ∧ m.cls = x.af 0xC 1 0 ∧ m.budget = x.a 0x10 8 ∧ m.temp = false ∧
      s'.spaceBytes x.fn d (x.a 0x18 8) 8 = toLe 8 m.handle ∧ Answered s' c stOk 0 0 10000 := by
  subst hd
  have delivered := State.spaceBytes_wrote (s.roomy x) x.fn (bit (x.a 0xC 4) 2) (x.a 0x18 8) (toLe 8 (s.roomy x).newHandle)
  rw [toLe_length] at delivered
  have ends := ((run.working.roomy.wrote x.fn (bit (x.a 0xC 4) 2) (x.a 0x18 8) (toLe 8 (s.roomy x).newHandle)).addMem o
    (s.roomy x).newHandle (x.a 8 4) (x.af 0xC 1 0) (x.a 0x10 8) false).finish stOk 0 0
  refine ⟨_, o.newMem (s.roomy x).newHandle (x.a 8 4) (x.af 0xC 1 0) (x.a 0x10 8) false, run.exec_vrMemCreate_eq vr live ok room can, ?_,
    rfl, rfl, rfl, rfl, rfl, rfl, rfl, rfl, ?_, ends.entry⟩
  · have wrote : ((s.roomy x).wrote x.fn (bit (x.a 0xC 4) 2) (x.a 0x18 8) (toLe 8 (s.roomy x).newHandle)).mems = s.mems :=
      (congrArg State.mems (State.wrote_frame ..) :)
    exact (congrArg State.mems ends.rest :).trans ((State.addMem_mems ..).trans (by rw [wrote]))
  · exact (ends.spaceBytes none ..).trans (((SameSpaces.addMem ..).spaceBytes ..).trans delivered)

theorem vrMemDrop_effect {s : State} {c : Nat} {x : Cmd} (run : Runs s c x) (vr : x.vr = 0x133) (ok : cleanBut x.args [(0, 8)] = true) :
    ∃ s', exec (.vrMemDrop c) s = .next s' ∧ s'.mems = s.mems.filter (fun m => m.handle != x.a 0 8) ∧
      (∀ u ∈ s'.units, unitIsAlloc u.uid = true ∨ unitHandle u.uid ≠ x.a 0 8) ∧ Answered s' c stOk 0 0 10000 := by
  have effect : exec (.vrMemDrop c) s = .next ((s.dropMem (x.a 0 8)).finish c stOk 0 0) := by
    rw [exec_vrMemDrop, execVrMemDrop, run.runCmd_eq (by simp [vr])]
    simp [ok]
  have ends := (run.working.of_cmds (t := s.dropMem (x.a 0 8)) rfl).finish stOk 0 0
  have units : ((s.dropMem (x.a 0 8)).finish c stOk 0 0).units =
      s.units.filter fun u => unitIsAlloc u.uid || unitHandle u.uid != x.a 0 8 := (congrArg State.units ends.rest :)
  refine ⟨_, effect, (congrArg State.mems ends.rest :), fun u listed => ?_, ends.entry⟩
  rw [units] at listed
  simpa using (List.mem_filter.1 listed).2

/-! ## `vr.model.info` (R237) -/

theorem modelReport_length (m : Config.ModelImage) : (modelReport m).length = 64 := by simp [modelReport, toLe_length]

/-- A number is read at the head of the bytes, and those behind it at their offset less its length. -/
theorem leAt_toLe_append (n v : Nat) (post : List Byte) : leAt (toLe n v ++ post) 0 n = v % 256 ^ n := leAt_append_toLe [] post n v

theorem leAt_toLe_append_of_le {k o : Nat} (past : k ≤ o) (v : Nat) (post : List Byte) (n : Nat) :
    leAt (toLe k v ++ post) o n = leAt post (o - k) n := by
  rw [leAt, List.drop_append, List.drop_eq_nil_of_le (by rwa [toLe_length]), toLe_length, List.nil_append, leAt]

/-- WIDTH, VOCAB and the dense bytes stand where R237 places them. -/
theorem modelReport_fields (m : Config.ModelImage) :
    leAt (modelReport m) 4 4 = m.width % 2 ^ 32 ∧ leAt (modelReport m) 0x14 4 = m.vocab.length % 2 ^ 32 ∧
      leAt (modelReport m) 0x20 8 = denseBytes m % 2 ^ 64 := by
  simp [modelReport, leAt_toLe_append, leAt_toLe_append_of_le]

theorem Runs.exec_vrModelInfo_eq {s : State} {c : Nat} {x : Cmd} (run : Runs s c x) (vr : x.vr = 0x134) (ok : cleanBut x.args [(0, 17)] = true)
    (space : x.a 0x10 1 ≤ 1) (addr : addrOk (bit (x.a 0x10 1) 0) (x.a 8 8) = true) :
    (∀ o t, s.model? x (x.a 0 8) = some o → s.spaceWr x.fn (bit (x.a 0x10 1) 0) (x.a 8 8) (modelReport o.img) = some t →
      exec (.vrModelInfo c) s = .next (t.finish c stOk 0 0)) ∧
    (s.model? x (x.a 0 8) = none → exec (.vrModelInfo c) s = .next (s.fail c stBadHandle)) := by
  rw [exec_vrModelInfo, execVrModelInfo, run.runCmd_eq (by simp [vr])]
  exact ⟨fun o t live wrote => by simp [ok, Nat.not_lt.2 space, addr, live, wrote], fun gone => by simp [ok, Nat.not_lt.2 space, addr, gone]⟩

theorem vrModelInfo_effect {s : State} {c : Nat} {x : Cmd} {d : Bool} (run : Runs s c x) (vr : x.vr = 0x134)
    (ok : cleanBut x.args [(0, 17)] = true) (space : x.a 0x10 1 ≤ 1) (hd : d = bit (x.a 0x10 1) 0) (addr : addrOk d (x.a 8 8) = true) :
    (∀ o, s.model? x (x.a 0 8) = some o → s.canWrite x.fn d (x.a 8 8) 64 = true → x.argBase = 0 →
      ∃ s', exec (.vrModelInfo c) s = .next s' ∧ s'.spaceBytes x.fn d (x.a 8 8) 64 = modelReport o.img ∧
        leAt (modelReport o.img) 4 4 = o.img.width % 2 ^ 32 ∧ leAt (modelReport o.img) 0x14 4 = o.img.vocab.length % 2 ^ 32 ∧
        leAt (modelReport o.img) 0x20 8 = denseBytes o.img % 2 ^ 64 ∧ Answered s' c stOk 0 0 10000) ∧
    (s.model? x (x.a 0 8) = none → ∃ s', exec (.vrModelInfo c) s = .next s' ∧ EndsWith s s' c x stBadHandle 0 x.pos 10000) := by
  subst hd
  obtain ⟨answers, refuses⟩ := run.exec_vrModelInfo_eq vr ok space addr
  refine ⟨fun o live can none => ?_, fun gone => ⟨_, refuses gone, run.working.fail stBadHandle⟩⟩
  obtain ⟨width, vocab, dense⟩ := modelReport_fields o.img
  have sent := run.working.delivered none (bit (x.a 0x10 1) 0) (x.a 8 8) (modelReport o.img) stOk 0 0
  have bytes := sent.bytes
  rw [modelReport_length] at bytes
  exact ⟨_, answers o _ live (State.spaceWr_eq (modelReport_length o.img ▸ can)), bytes, width, vocab, dense, sent.entry⟩

/-! ## Re-clustering (R246) -/

/-- A memory whose indexes are clustered anew over all its full blocks. -/
def AgentMem.reclustered (m : AgentMem) (k : Nat) (img : Config.ModelImage) : AgentMem :=
  { m with
    clustered := m.full
    indexes := m.indexes.zipIdx.map fun p => Machine.clustered (k + 2 ^ 60 * (p.2 + 1)) img p.1 ((List.range m.full).map (summaryKey img m.sums p.2)) }

theorem AgentMem.reclustered_indexes {m : AgentMem} (full : 0 < m.full) (k : Nat) (img : Config.ModelImage) :
    ∀ ix ∈ (m.reclustered k img).indexes, ix.lists.length = coarseCount m.full ∧ ∀ b, b < m.full → ix.held.count b = 1 := by
  intro ix listed
  obtain ⟨p, -, rfl⟩ := List.mem_map.1 listed
  have length : ((List.range m.full).map (summaryKey img m.sums p.2)).length = m.full := by simp
  obtain ⟨lists, held⟩ := clustered_holds (k + 2 ^ 60 * (p.2 + 1)) img p.1 (length ▸ full)
  rw [length] at lists held
  exact ⟨lists, fun b known => (held.count_eq b).trans (List.count_eq_one_of_mem List.nodup_range (List.mem_range.2 known))⟩

theorem reClustering_effect {s : State} {h : Nat} {m : AgentMem} {o : Model} (active : s.active = true)
    (found : s.mems.find? (fun k => k.handle == h) = some m) (model : s.models.find? (fun k => k.handle == m.model) = some o)
    (full : 0 < m.full) (due : 2 * Nat.max 1 m.clustered ≤ m.full) :
    ∃ s' m', exec (.reClustering h) s = .next s' ∧ s'.mems.find? (fun k => k.handle == h) = some m' ∧
      { m' with clustered := m.clustered, indexes := m.indexes } = m ∧ m'.clustered = m.full ∧ m'.indexes.length = m.indexes.length ∧
      (∀ ix ∈ m'.indexes, ix.lists.length = coarseCount m.full ∧
        ∀ b, b < m.full → (ix.lists.flatMap fun f => f.entries.map (·.lid)).count b = 1) ∧
      { s' with mems := s.mems, free := s.free } = s := by
  have effect : exec (.reClustering h) s = .next ((s.updMem h fun m => m.reclustered s.free o.img).drew (2 ^ 128)) := by
    simp only [exec_reClustering, execReClustering, found, model]
    exact congrArg Host.Outcome.next (if_pos (by simp [active, full, due]))
  have anew := (find?_updFirst_self _ (fun m : AgentMem => m.reclustered s.free o.img) s.mems fun _ => rfl).trans (congrArg _ found)
  exact ⟨_, m.reclustered s.free o.img, effect, anew, rfl, rfl, by simp [AgentMem.reclustered],
    AgentMem.reclustered_indexes full s.free o.img, rfl⟩

/-- Settles O37: one effect for each command. -/
theorem modelPrograms : Obligations.ModelPrograms := by
  unfold Obligations.ModelPrograms
  exact ⟨fun s c x o ts rows d run vr whole live ok read sound hrows hd inside none can can' apart =>
      vrEmbed_effect run vr whole live ok read sound hrows hd inside none can can' apart,
    fun s c x o d run vr live ok hd none room can => vrMemCreate_effect run vr live ok hd none room can,
    fun s c x run vr ok => vrMemDrop_effect run vr ok,
    fun s c x d run vr ok space hd addr => vrModelInfo_effect run vr ok space hd addr,
    fun s h m o active found model full due => reClustering_effect active found model full due⟩

end Sys2Proof.Machine

/-! O38: `vr.generate`, from its start over the tokens of its prompt (R244, R245, R259 to R263, R290). -/
namespace Sys2Proof.Machine

/-! ## The start (R260, R263, R290) -/

theorem Runs.exec_vrGenerate_begins {s : State} {c : Nat} {x : Cmd} {o : Model} (run : Runs s c x) (vr : x.vr = 0x131)
    (live : s.model? x (x.a 0 8) = some o) (idle : x.work = .idle) (ok : x.genOk = true) : exec (.vrGenerate c) s = .next (s.beginGen x o) := by
  rw [exec_vrGenerate, execVrGenerate, run.runCmd_eq (by simp [vr])]
  simp [live, idle, ok]

/-- A stream whose first position can be written is opened with that position zeroed. -/
theorem Working.openGen {s : State} {c : Nat} {y x : Cmd} (h : Working s c y) (id : x.id = c) (g : GenSt)
    (can : s.canWrite x.fn (x.genFlag 3) (x.a 0x20 8) 4 = true) :
    AtWork (s.openGen x g) c (.generate g) ∧ (s.openGen x g).spaceBytes x.fn (x.genFlag 3) (x.a 0x20 8) 4 = [0, 0, 0, 0] ∧
      (s.openGen x g).mems = s.mems := by
  subst id
  have opened : s.openGen x g =
      (s.wrote x.fn (x.genFlag 3) (x.a 0x20 8) [0, 0, 0, 0]).updCmd x.id fun y => y.begun (.generate g) := by
    rw [State.openGen, State.spaceWr_eq can]
    rfl
  rw [opened]
  exact ⟨(h.wrote ..).atWork (fun y => y.begun (.generate g)) (fun _ => rfl) rfl rfl,
    ((SameSpaces.updCmd ..).spaceBytes ..).trans (s.spaceBytes_wrote ..), (congrArg State.mems (s.wrote_frame ..) :)⟩

/-- What `vr.generate` finds before its first token: its quota, its objects, its text and no stop strings. -/
structure Generable (s : State) (x : Cmd) (o : Model) (len : Nat) (start : List Nat) (text : List Byte) : Prop where
  tokens : len = ((s.mems.find? fun k => k.handle == x.a 8 8).map (·.tokens.length)).getD 0
  first : start = if len = 0 then startToken o.img else []
  room : s.room x.fn (genBytes o.img len (Nat.min (start.length + x.a 0x18 4 + if x.genFlag 8 then x.maxTok else 0) (16777216 - len))) = some true
  whole : s.genLost x 0 = false
  read : s.input x (x.genFlag 2) (x.a 0x10 8) (x.a 0x18 4) = .ok text
  stops : x.nstop = 0

theorem Generable.beginGen_eq {s : State} {x : Cmd} {o : Model} {len : Nat} {start : List Nat} {text : List Byte}
    (ok : Generable s x o len start text) {prompt : List Nat} (hprompt : prompt = start ++ tokenise o.img text) :
    s.beginGen x o =
      if x.a 8 8 ≠ 0 then (s.roomy x).openGen x (genStart (x.a 8 8) prompt [])
      else ((s.roomy x).addMem o (s.roomy x).newHandle (Nat.min (prompt.length + x.maxTok) 16777216) x.cls 0 true).openGen x
        (genStart (s.roomy x).newHandle prompt []) := by
  obtain ⟨rfl, rfl, room, whole, read, stops⟩ := ok
  subst hprompt
  have whole' : (s.roomy x).genLost x 0 = false := whole
  unfold State.beginGen
  dsimp only
  refine (State.withRoom_eq room _).trans ?_
  rw [whole', if_neg (by decide), (SameSpaces.roomy s x).input read, if_pos stops, stops]
  rfl

theorem vrGenerate_begins {s : State} {c : Nat} {x : Cmd} {o : Model} {len : Nat} {start prompt : List Nat} {text : List Byte} {dev : Bool}
    (run : Runs s c x) (vr : x.vr = 0x131) (live : s.model? x (x.a 0 8) = some o) (hdev : dev = x.genFlag 3) (idle : x.work = .idle)
    (ok : x.genOk = true) (found : Generable s x o len start text) (hprompt : prompt = start ++ tokenise o.img text)
    (can : s.canWrite x.fn dev (x.a 0x20 8) 4 = true) :
    (x.a 8 8 ≠ 0 →
      ∃ s', exec (.vrGenerate c) s = .next s' ∧ AtWork s' c (.generate (genStart (x.a 8 8) prompt [])) ∧
        s'.spaceBytes x.fn dev (x.a 0x20 8) 4 = [0, 0, 0, 0] ∧ s'.mems = s.mems) ∧
    (x.a 8 8 = 0 →
      ∃ s' m, exec (.vrGenerate c) s = .next s' ∧ s'.mems = s.mems ++ [m] ∧ m.temp = true ∧ m.tokens = [] ∧ m.model = o.handle ∧
        AtWork s' c (.generate (genStart m.handle prompt [])) ∧ s'.spaceBytes x.fn dev (x.a 0x20 8) 4 = [0, 0, 0, 0]) := by
  subst hdev
  have begins := (run.exec_vrGenerate_begins vr live idle ok).trans (congrArg _ (found.beginGen_eq hprompt))
  have roomy := SameSpaces.roomy s x
  refine ⟨fun named => ?_, fun unnamed => ?_⟩
  · obtain ⟨work, zeroed, mems⟩ := run.working.roomy.openGen run.id_eq (genStart (x.a 8 8) prompt []) ((roomy.canWrite ..).trans can)
    rw [if_pos named] at begins
    exact ⟨_, begins, work, zeroed, mems⟩
  · have spaces := roomy.trans (SameSpaces.addMem (s.roomy x) o (s.roomy x).newHandle (Nat.min (prompt.length + x.maxTok) 16777216) x.cls 0 true)
    obtain ⟨work, zeroed, mems⟩ := (run.working.roomy.addMem o (s.roomy x).newHandle (Nat.min (prompt.length + x.maxTok) 16777216) x.cls 0
      true).openGen run.id_eq (genStart (s.roomy x).newHandle prompt []) ((spaces.canWrite ..).trans can)
    rw [if_neg (not_not.2 unnamed)] at begins
    exact ⟨_, _, begins, mems.trans (State.addMem_mems ..), rfl, rfl, rfl, work, zeroed⟩

/-! ## A memory with one token more (R244, R245, R261) -/

theorem AgentMem.append_handle (a : AgentMem) (k : Nat) (m : Config.ModelImage) (tok : Nat) (kv : List (List (BitVec 16))) :
    (a.append k m tok kv).handle = a.handle := by
  unfold AgentMem.append; dsimp only; split <;> rfl

theorem AgentMem.append_tokens (a : AgentMem) (k : Nat) (m : Config.ModelImage) (tok : Nat) (kv : List (List (BitVec 16))) :
    (a.append k m tok kv).tokens = a.tokens ++ [tok] := by
  unfold AgentMem.append; dsimp only; split <;> rfl

/-- A token of an open block stays in it. -/
theorem AgentMem.append_within {a : AgentMem} (within : a.opened.length + 1 < 64) (k : Nat) (m : Config.ModelImage) (tok : Nat)
    (kv : List (List (BitVec 16))) : (a.append k m tok kv).blocks = a.blocks ∧ (a.append k m tok kv).opened.length = a.opened.length + 1 := by
  have length : (a.opened ++ [kv]).length = a.opened.length + 1 := by simp
  unfold AgentMem.append
  dsimp only
  rw [if_pos (length ▸ within)]
  exact ⟨rfl, length⟩

/-- The 64th token of a block closes it. -/
theorem AgentMem.append_closes {a : AgentMem} (last : 64 ≤ a.opened.length + 1) (k : Nat) (m : Config.ModelImage) (tok : Nat)
    (kv : List (List (BitVec 16))) : (a.append k m tok kv).blocks.length = a.blocks.length + 1 ∧ (a.append k m tok kv).opened = [] := by
  have length : (a.opened ++ [kv]).length = a.opened.length + 1 := by simp
  unfold AgentMem.append
  dsimp only
  rw [if_neg (length ▸ Nat.not_lt.2 last)]
  exact ⟨List.length_append, rfl⟩

/-! ## A prompt token (R259, R261) -/

theorem AtWork.of_cmds {s t : State} {c : Nat} {w : Work} (h : AtWork s c w) (same : t.cmds = s.cmds) : AtWork t c w := by
  rw [AtWork, State.cmd?, same]
  exact h

theorem State.sizeUnits_frame (s : State) (u : Nat → UnitId) (n : Nat → Nat) (l : List Nat) :
    { l.foldl (fun (s : State) i => s.sizeUnit (u i) (n i)) s with units := s.units } = s :=
  List.foldlRecOn (motive := fun r : State => ({ r with units := s.units } : State) = s) l _ rfl fun _ kept _ _ => kept

theorem State.drew_of_frame {t u : State} (h : { u with units := t.units } = t) (n : Nat) :
    { u.drew n with units := t.units, free := t.free } = t := (congrArg (fun r : State => { r with free := t.free }) h :)

theorem State.drew_of_frames {t u v : State} (h : { u with units := t.units } = t) (h' : { v with units := u.units, free := u.free } = u) (n : Nat) :
    { v.drew n with units := t.units, free := t.free } = t :=
  (congrArg (fun r : State => { r with units := t.units, free := t.free }) h' :).trans (congrArg (fun r : State => { r with free := t.free }) h :)

/-- Beside the units, a token appended shows in its memory alone. -/
theorem State.appendToken_frame (s : State) (o : Model) (mem tok : Nat) (kv : List (List (BitVec 16))) :
    { s.appendToken o mem tok kv with units := s.units, free := s.free } = s.updMem mem fun a => a.append s.free o.img tok kv := by
  unfold State.appendToken
  generalize appended : (s.updMem mem fun a => a.append s.free o.img tok kv) = t
  have units : s.units = t.units := by rw [← appended]; rfl
  have free : s.free = t.free := by rw [← appended]; rfl
  rw [units, free]
  dsimp only
  split
  · exact State.drew_of_frame (t.sizeUnits_frame ..) _
  · exact State.drew_of_frames (t.sizeUnits_frame ..) (State.addUnits_frame ..) _

theorem State.satAdd_of_frame {s t : State} (h : { t with units := s.units } = s) (o hi lo n o' hi' lo' n' : Nat) :
    { (t.satAdd o hi lo n).satAdd o' hi' lo' n' with units := s.units, regs := s.regs } = s :=
  (congrArg (fun r : State => { r with regs := s.regs }) h :)

theorem State.chargeToken_frame (s : State) (x : Cmd) (o : Model) (g : GenSt) (u : Subst) :
    { s.chargeToken x o g u with units := s.units, regs := s.regs } = s := by
  unfold State.chargeToken
  exact State.satAdd_of_frame (s.heatUnits_frame _) ..

/-- A generation that has taken a token of its prompt: the last of a group of 64, or of the prompt, ends what the group retrieved (R259). -/
def GenSt.prompted (g : GenSt) (rest : List Nat) : GenSt :=
  { g with
    prompt := rest, fed := g.fed + 1, group := if (g.fed + 1) % 64 = 0 ∨ rest.isEmpty then [] else g.group, rank := [], gates := [], late := [] }

/-- `t` with what reading units and counting substitutes touch taken from `s`. -/
def State.butCharge (s t : State) : State := { t with units := s.units, regs := s.regs, free := s.free }

theorem State.butCharge_of_drew {s t u : State} {n : Nat} (h : { u with units := t.units, regs := t.regs } = t) (drew : t = s.drew n) :
    s.butCharge u = s := by
  subst drew
  exact (congrArg s.butCharge h :)

/-- What is left where units, counters and free values alone have changed. -/
theorem State.kept_of_butCharge {s t u : State} (h : s.butCharge t = u) :
    t.mems = u.mems ∧ t.cmds = u.cmds ∧ t.dev = u.dev ∧ t.cis = u.cis ∧ t.out = u.out :=
  ⟨(congrArg State.mems h :), (congrArg State.cmds h :), (congrArg State.dev h :), (congrArg State.cis h :), (congrArg State.out h :)⟩

theorem State.butCharge_updMem {s t u : State} {mem : Nat} {f : AgentMem → AgentMem} (charged : s.butCharge t = s)
    (changed : { u with units := t.units, free := t.free } = t.updMem mem f) : s.butCharge u = s.updMem mem f :=
  (congrArg s.butCharge changed :).trans (congrArg (fun r : State => r.updMem mem f) charged :)

theorem State.butCharge_setGen {s t u : State} (h : s.butCharge t = u) (c : Nat) (g : GenSt) : s.butCharge (t.setGen c g) = u.setGen c g :=
  (congrArg (fun r : State => r.setGen c g) h :)

/-- Taking a prompt token shows in its memory and in the command, beside units, counters and free values. -/
theorem State.promptToken_frame (s : State) (x : Cmd) (o : Model) (g : GenSt) (tok : Nat) (rest : List Nat) :
    ∃ k, s.butCharge (s.promptToken x o g tok rest) =
      (s.updMem g.mem fun a => a.append k o.img tok (s.nextKv o g tok)).setGen x.id (g.prompted rest) := by
  have charged := State.butCharge_of_drew ((s.drew (2 ^ 128)).chargeToken_frame x o g (s.substOf o g)) rfl
  exact ⟨_, State.butCharge_setGen (State.butCharge_updMem charged (State.appendToken_frame _ o g.mem tok (s.nextKv o g tok))) x.id (g.prompted rest)⟩

theorem Runs.exec_vrGenerate_steps {s : State} {c : Nat} {x : Cmd} {o : Model} {g : GenSt} (run : Runs s c x) (vr : x.vr = 0x131)
    (live : s.model? x (x.a 0 8) = some o) (work : x.work = .generate g) : exec (.vrGenerate c) s = .next (s.genStep x o g) := by
  rw [exec_vrGenerate, execVrGenerate, run.runCmd_eq (by simp [vr])]
  simp only [live, work]

/-- A planned prompt token whose units are in place is taken, where its memory has room. -/
theorem State.genStep_prompt {s : State} {x : Cmd} {o : Model} {g : GenSt} {tok : Nat} {rest : List Nat} {m : AgentMem}
    (prompt : g.prompt = tok :: rest) (planned : g.rank ≠ []) (whole : s.genLost x g.mem = false) (sound : s.tokenSkew o g = none)
    (found : s.mems.find? (fun k => k.handle == g.mem) = some m) (room : m.tokens.length < m.cap) (ready : s.tokenReady x o g = true) :
    s.genStep x o g = (s.setGen x.id g).promptToken x o g tok rest := by
  have roomy : s.memRoom g.mem = true := by simp [State.memRoom, found, room]
  have ready' : (s.setGen x.id g).tokenReady x o g = true := ready
  unfold State.genStep
  dsimp only
  rw [whole, if_neg (by decide), sound]
  dsimp only
  rw [prompt]
  simp [roomy, planned, ready']

theorem vrGenerate_takes {s : State} {c : Nat} {x : Cmd} {o : Model} {g : GenSt} {tok : Nat} {rest : List Nat} {m : AgentMem} (run : Runs s c x)
    (vr : x.vr = 0x131) (live : s.model? x (x.a 0 8) = some o) (work : x.work = .generate g) (prompt : g.prompt = tok :: rest)
    (planned : g.rank ≠ []) (whole : s.genLost x g.mem = false) (sound : s.tokenSkew o g = none)
    (found : s.mems.find? (fun k => k.handle == g.mem) = some m) (room : m.tokens.length < m.cap) (ready : s.tokenReady x o g = true) :
    ∃ s' m' g', exec (.vrGenerate c) s = .next s' ∧ s'.mems.find? (fun k => k.handle == g.mem) = some m' ∧ m'.tokens = m.tokens ++ [tok] ∧
      (m.opened.length + 1 < 64 → m'.blocks = m.blocks ∧ m'.opened.length = m.opened.length + 1) ∧
      (64 ≤ m.opened.length + 1 → m'.blocks.length = m.blocks.length + 1 ∧ m'.opened = []) ∧
      AtWork s' c (.generate g') ∧ g'.prompt = rest ∧ g'.fed = g.fed + 1 ∧ g'.gen = g.gen ∧ g'.text = g.text ∧ SameBytes s s' := by
  have id := run.id_eq
  subst id
  obtain ⟨k, frame⟩ := (s.setGen x.id g).promptToken_frame x o g tok rest
  obtain ⟨mems, cmds, dev, cis, out⟩ := State.kept_of_butCharge frame
  have planned' : Working (s.setGen x.id g) x.id { x with work := .generate g } :=
    run.working.updCmd (fun y => { y with work := .generate g }) (fun _ => rfl) rfl rfl
  have taken : AtWork ((s.setGen x.id g).setGen x.id (g.prompted rest)) x.id (.generate (g.prompted rest)) :=
    planned'.atWork (fun y => { y with work := .generate (g.prompted rest) }) (fun _ => rfl) rfl rfl
  refine ⟨_, m.append k o.img tok ((s.setGen x.id g).nextKv o g tok), g.prompted rest, (run.exec_vrGenerate_steps vr live work).trans
    (congrArg _ (State.genStep_prompt prompt planned whole sound found room ready)), ?_, m.append_tokens .., fun within => m.append_within within ..,
    fun last => AgentMem.append_closes last .., taken.of_cmds cmds, rfl, rfl, rfl, rfl, .of_eq dev cis (congrArg Outside.hostMem out)⟩
  rw [mems]
  exact (find?_updFirst_self _ (fun a : AgentMem => a.append k o.img tok ((s.setGen x.id g).nextKv o g tok)) _
    fun a => by rw [AgentMem.append_handle]).trans (congrArg _ found)

end Sys2Proof.Machine

/-! O38, continued: the END record of `vr.generate` (R289 to R292). -/
namespace Sys2Proof.Machine

/-! ## A record of the stream (R290, R291) -/

/-- The data of a record, filled up to 8 bytes. -/
def recordBody (data : List Byte) : List Byte := data ++ List.replicate (roundUp data.length 8 - data.length) 0

/-- The words behind a record's sequence number. -/
def recordHead (g : GenSt) (ty bytepos : Nat) (data : List Byte) : List Byte :=
  toLe 4 (data.length * 65536 + ty) ++ toLe 4 g.gen ++ toLe 4 bytepos

/-- The data of a record stand, and the position behind it is zeroed where the buffer holds one. -/
def State.recordData (s : State) (x : Cmd) (g : GenSt) (data : List Byte) : State :=
  let t := s.wrote x.fn (x.genFlag 3) (x.a 0x20 8 + g.out + 16) (recordBody data)
  if g.out + (16 + (recordBody data).length) < x.a 0x28 4 then
    t.wrote x.fn (x.genFlag 3) (x.a 0x20 8 + g.out + (16 + (recordBody data).length)) [0, 0, 0, 0]
  else t

/-- A record stands in the stream. -/
def State.recorded (s : State) (x : Cmd) (g : GenSt) (ty bytepos : Nat) (data : List Byte) : State :=
  ((s.recordData x g data).wrote x.fn (x.genFlag 3) (x.a 0x20 8 + g.out + 4) (recordHead g ty bytepos data)).wrote x.fn (x.genFlag 3)
    (x.a 0x20 8 + g.out) (toLe 4 (g.seq + 1))

theorem recordHead_length (g : GenSt) (ty bytepos : Nat) (data : List Byte) : (recordHead g ty bytepos data).length = 12 := by
  simp [recordHead, toLe_length]

theorem State.canWrite_recordData (s : State) (x : Cmd) (g : GenSt) (data : List Byte) (fn : Nat) (dev : Bool) (a n : Nat) :
    (s.recordData x g data).canWrite fn dev a n = s.canWrite fn dev a n := by
  unfold State.recordData
  dsimp only
  split
  · exact (State.canWrite_wrote ..).trans (s.canWrite_wrote ..)
  · exact s.canWrite_wrote ..

/-- A record whose bytes can be written, with the position behind it, is written. -/
theorem State.putRecord_eq {s : State} {x : Cmd} {g : GenSt} {data : List Byte}
    (can : ∀ i n, i + n ≤ 20 + (recordBody data).length → s.canWrite x.fn (x.genFlag 3) (x.a 0x20 8 + g.out + i) n = true) (ty bytepos : Nat) :
    s.putRecord x g ty bytepos data =
      some (s.recorded x g ty bytepos data, { g with out := g.out + (16 + (recordBody data).length), seq := g.seq + 1 }) := by
  have body := State.spaceWr_eq (can 16 (recordBody data).length (by omega))
  have next : (if g.out + (16 + (recordBody data).length) < x.a 0x28 4 then
      (s.wrote x.fn (x.genFlag 3) (x.a 0x20 8 + g.out + 16) (recordBody data)).spaceWr x.fn (x.genFlag 3)
        (x.a 0x20 8 + g.out + (16 + (recordBody data).length)) [0, 0, 0, 0]
      else some (s.wrote x.fn (x.genFlag 3) (x.a 0x20 8 + g.out + 16) (recordBody data))) = some (s.recordData x g data) := by
    unfold State.recordData
    dsimp only
    split
    · exact State.spaceWr_eq ((s.canWrite_wrote ..).trans (can (16 + (recordBody data).length) 4 (by omega)))
    · rfl
  have head : (s.recordData x g data).spaceWr x.fn (x.genFlag 3) (x.a 0x20 8 + g.out + 4) (recordHead g ty bytepos data) = _ :=
    State.spaceWr_eq ((s.canWrite_recordData ..).trans (can 4 _ (by rw [recordHead_length]; omega)))
  have seq : ((s.recordData x g data).wrote x.fn (x.genFlag 3) (x.a 0x20 8 + g.out + 4) (recordHead g ty bytepos data)).spaceWr x.fn (x.genFlag 3)
      (x.a 0x20 8 + g.out) (toLe 4 (g.seq + 1)) = _ :=
    State.spaceWr_eq ((State.canWrite_wrote ..).trans ((s.canWrite_recordData ..).trans (can 0 _ (by rw [toLe_length]; omega))))
  unfold State.putRecord
  dsimp only
  rw [← recordBody, body, Option.bind_some, next, Option.bind_some, ← recordHead, head, Option.bind_some, seq]
  rfl

theorem State.spaceBytes_length (s : State) (fn : Nat) (dev : Bool) (a n : Nat) : (s.spaceBytes fn dev a n).length = n := by
  cases dev <;> exact Mem.rdN_length ..

/-- A record begins with its sequence number, its type and the length of its data. -/
theorem State.recorded_head (s : State) {x : Cmd} {g : GenSt} (inside : x.a 0x20 8 + g.out + 16 ≤ 2 ^ 64) (ty bytepos : Nat) (data : List Byte) :
    (s.recorded x g ty bytepos data).spaceBytes x.fn (x.genFlag 3) (x.a 0x20 8 + g.out) 8 =
      toLe 4 (g.seq + 1) ++ toLe 4 (data.length * 65536 + ty) := by
  have length : (toLe 4 (g.seq + 1)).length = 4 := toLe_length ..
  have number := State.spaceBytes_wrote ((s.recordData x g data).wrote x.fn (x.genFlag 3) (x.a 0x20 8 + g.out + 4) (recordHead g ty bytepos data))
    x.fn (x.genFlag 3) (x.a 0x20 8 + g.out) (toLe 4 (g.seq + 1))
  have head := State.spaceBytes_wrote (s.recordData x g data) x.fn (x.genFlag 3) (x.a 0x20 8 + g.out + 4) (recordHead g ty bytepos data)
  rw [recordHead_length] at head
  rw [length] at number
  have later : (s.recorded x g ty bytepos data).spaceBytes x.fn (x.genFlag 3) (x.a 0x20 8 + g.out + 4) (4 + 8) = recordHead g ty bytepos data :=
    (State.spaceBytes_wrote_apart _ _ (by omega) (by omega) fun _ => .inl (by omega)).trans head
  rw [State.spaceBytes_add _ _ _ (by omega), recordHead, List.append_assoc] at later
  have word := (List.append_inj later (by rw [State.spaceBytes_length, toLe_length])).1
  exact (State.spaceBytes_add _ _ _ (n := 4) (k := 4) (by omega)).trans (congrArg₂ (· ++ ·) number word)

theorem State.recorded_cmds (s : State) (x : Cmd) (g : GenSt) (ty bytepos : Nat) (data : List Byte) :
    (s.recorded x g ty bytepos data).cmds = s.cmds := by
  have wrote : ∀ (t : State) (a : Nat) (bs : List Byte), (t.wrote x.fn (x.genFlag 3) a bs).cmds = t.cmds := fun t a bs =>
    (congrArg State.cmds (t.wrote_frame x.fn (x.genFlag 3) a bs) :)
  rw [State.recorded, wrote, wrote, State.recordData]
  split
  · rw [wrote, wrote]
  · rw [wrote]

/-! ## The end (R292) -/

/-- A temporary memory goes with its units and their moves. -/
theorem State.releaseTemp_frame (s : State) (x : Cmd) :
    { s.releaseTemp x with units := s.units, moves := s.moves, oldRanges := s.oldRanges, mems := s.mems } = s := by
  unfold State.releaseTemp
  split
  · split <;> rfl
  · rfl

theorem SameSpaces.releaseTemp (s : State) (x : Cmd) : SameSpaces s (s.releaseTemp x) :=
  have frame := s.releaseTemp_frame x
  ⟨(congrArg State.allocs frame :), (congrArg State.dev frame :), (congrArg State.out frame :), (congrArg State.poison frame :),
    (congrArg State.ranges frame :)⟩

theorem Working.releaseTemp {s : State} {c : Nat} {y : Cmd} (h : Working s c y) (x : Cmd) : Working (s.releaseTemp x) c y :=
  h.of_cmds (congrArg State.cmds (s.releaseTemp_frame x) :)

theorem State.endData_length (s : State) (x : Cmd) (g : GenSt) (st reason stopidx dropped : Nat) :
    (s.endData x g st reason stopidx dropped).length = 16 := by simp [State.endData, toLe_length]

theorem recordBody_length {data : List Byte} (words : data.length = 16) : (recordBody data).length = 16 := by
  simp [recordBody, words, roundUp, ceilDiv]

/-- The device after the END record of a generation. -/
def State.endRecorded (s : State) (x : Cmd) (g : GenSt) (st reason stopidx : Nat) : State :=
  s.recorded x g 2 0 (s.endData x g st reason stopidx (g.text.length - g.released))

/-- A generation whose bytes are all released ends with its END record, where that can be written. -/
theorem State.endGen_eq {s : State} {x : Cmd} {g : GenSt} {upto : Nat} (released : upto ≤ g.released)
    (can : ∀ i n, i + n ≤ 36 → s.canWrite x.fn (x.genFlag 3) (x.a 0x20 8 + g.out + i) n = true) (st reason stopidx : Nat) :
    s.endGen x g st reason stopidx upto = ((s.endRecorded x g st reason stopidx).releaseTemp x).finish x.id st 0 g.gen := by
  have body := recordBody_length (s.endData_length x g st reason stopidx (g.text.length - g.released))
  unfold State.endGen
  dsimp only
  rw [State.release, if_pos released]
  dsimp only
  rw [State.putRecord_eq (by rw [body]; exact can)]
  rfl

/-- A generation whose prompt is used up and that has made its tokens ends (R292). -/
theorem State.genStep_full {s : State} {x : Cmd} {o : Model} {g : GenSt} (prompt : g.prompt = []) (full : x.maxTok ≤ g.gen)
    (whole : s.genLost x g.mem = false) (sound : s.tokenSkew o g = none) : s.genStep x o g = s.endGen x g stOk 0 0 g.text.length := by
  unfold State.genStep
  dsimp only
  rw [whole, if_neg (by decide), sound]
  dsimp only
  rw [prompt]
  exact if_pos full

theorem vrGenerate_ends {s : State} {c : Nat} {x : Cmd} {o : Model} {g : GenSt} {a : Nat} {dev : Bool} (run : Runs s c x) (vr : x.vr = 0x131)
    (live : s.model? x (x.a 0 8) = some o) (hdev : dev = x.genFlag 3) (work : x.work = .generate g) (prompt : g.prompt = [])
    (full : x.maxTok ≤ g.gen) (whole : s.genLost x g.mem = false) (sound : s.tokenSkew o g = none) (released : g.text.length ≤ g.released)
    (ha : a = x.a 0x20 8 + g.out) (none : x.argBase = 0) (inside : a + 36 ≤ 2 ^ 64)
    (can : ∀ i n, i + n ≤ 36 → s.canWrite x.fn dev (a + i) n = true) :
    ∃ s', exec (.vrGenerate c) s = .next s' ∧ Answered s' c stOk 0 g.gen 10000 ∧
      leAt (s'.spaceBytes x.fn dev a 8) 0 4 = (g.seq + 1) % 2 ^ 32 ∧ leAt (s'.spaceBytes x.fn dev a 8) 4 4 = 16 * 65536 + 2 := by
  have id := run.id_eq
  subst id hdev ha
  have recorded : (s.endRecorded x g stOk 0 0).cmds = s.cmds := s.recorded_cmds ..
  have ends := ((run.working.of_cmds recorded).releaseTemp x).finish stOk 0 g.gen
  have head := s.recorded_head (x := x) (g := g) (by omega) 2 0 (s.endData x g stOk 0 0 (g.text.length - g.released))
  have bytes := ((ends.spaceBytes none x.fn (x.genFlag 3) (x.a 0x20 8 + g.out) 8).trans ((SameSpaces.releaseTemp ..).spaceBytes ..)).trans head
  rw [State.endData_length] at bytes
  refine ⟨_, (run.exec_vrGenerate_steps vr live work).trans
    (congrArg _ ((State.genStep_full prompt full whole sound).trans (State.endGen_eq released can stOk 0 0))), ends.entry, ?_, ?_⟩
  · rw [bytes, leAt_toLe_append, show (256 : Nat) ^ 4 = 2 ^ 32 by decide]
  · rw [bytes, leAt_toLe_append_of_le le_rfl, ← List.append_nil (toLe 4 (16 * 65536 + 2)), leAt_toLe_append]
    decide

/-- Settles O38: its start, a token of its prompt, and its END record. -/
theorem generateSteps : Obligations.GenerateSteps := by
  unfold Obligations.GenerateSteps
  intro s c x o dev run vr live hdev
  refine ⟨?_, ?_, ?_⟩
  · intro text len start prompt idle ok tokens first room whole read stops hprompt can
    exact vrGenerate_begins run vr live hdev idle ok ⟨tokens, first, room, whole, read, stops⟩ hprompt can
  · intro g tok rest m work prompt planned whole sound found room ready
    exact vrGenerate_takes run vr live work prompt planned whole sound found room ready
  · intro g a work prompt full whole sound released ha none inside can
    exact vrGenerate_ends run vr live hdev work prompt full whole sound released ha none inside can

end Sys2Proof.Machine

/-! Fragments and members that an instruction of one of their threads changes (R293, R297, R303). -/
namespace Sys2Proof.Machine

/-! ## The fragment and the member of a thread -/

section
variable {s : State} {t : Tid} {opc : Nat} {c : Ictx} {legal : Nat → Bool} {eff : Ictx → State → Eff}

theorem At.fragment (h : At s t opc c) : s.frag? t.frag = some c.frag := by
  obtain ⟨_, _, found, _⟩ := insn_some h.1
  exact found

theorem At.member (h : At s t opc c) : s.member? t.frag t.mem = some c.mem := by
  obtain ⟨_, _, found, _, _, member, _⟩ := insn_some h.1
  simp [State.member?, found, member]

/-- A fragment whose thread `t` has gone on with the next word. -/
def Frag.retired (x : Frag) (t : Tid) : Frag :=
  { x with members := x.members.modify t.mem fun m => { m with threads := m.threads.modify t.idx Thread.retired } }

/-- An instruction that changes its fragment, and nothing else. -/
theorem runInsn_frag (h : At s t opc c) (word : legal c.w = true) {g : Frag → Frag} (keeps : KeepsId g)
    (effect : eff c s = .done (s.updFrag c.t.frag g)) :
    ∃ s', runInsn opc legal eff t s = .next s' ∧ { s' with frags := s.frags } = s ∧ s'.frag? t.frag = some ((g c.frag).retired t) := by
  refine ⟨_, runInsn_done h word effect, rfl, ?_⟩
  have id : KeepsId fun x => (g x).retired t := keeps
  exact h.tid ▸ (congrArg (State.frag? · _) (updFrag_updFrag s c.t.frag g _ keeps)).trans
    ((frag?_updFrag_self s c.t.frag _ (h.tid ▸ id)).trans (by rw [h.tid, h.fragment]; rfl))

end

/-! ## The instructions that build a commit -/

section
variable {s : State} {t : Tid} {c : Ictx}

theorem exec_fragPost_next (h : At s t 0x78 c) (uses : onlyUses c.w usesA = true) (inside : c.ga.toNat + 64 ≤ c.frag.cis * 65536)
    (room : c.frag.posts.length < 64) :
    ∃ s', exec (.fragPost t) s = .next s' ∧ { s' with frags := s.frags } = s ∧
      s'.frag? t.frag = some ({ c.frag with posts := c.frag.posts ++ [c.cisRd s c.ga.toNat 64] }.retired t) := by
  rw [exec_fragPost]
  have area : c.inArea c.ga.toNat 64 = true := decide_eq_true inside
  exact runInsn_frag (g := fun f => { f with posts := f.posts ++ [c.cisRd s c.ga.toNat 64] }) h uses (fun _ => rfl)
    (by simp [area, Nat.not_le.2 room])

/-- The log entry of the instruction. -/
def Ictx.logEntry (c : Ictx) (isAdd : Bool) : LogEntry := ⟨isAdd, c.ga.toNat, c.gb⟩

/-- A log entry that keeps the limits of R303 is held for the commit. -/
theorem logOp_next {opc : Nat} (isAdd : Bool) (h : At s t opc c) (uses : onlyUses c.w (usesA ||| usesB) = true)
    (aligned : c.ga.toNat % 8 = 0) (device : c.ga.toNat < 2 ^ 63) (writable : s.devWritable c.frag.tenant c.ga.toNat 8 = true)
    (entries : c.frag.logs.length < 256) (lines : (logLines (c.frag.logs ++ [c.logEntry isAdd])).length ≤ 16) :
    ∃ s', logOp opc isAdd t s = .next s' ∧ { s' with frags := s.frags } = s ∧
      s'.frag? t.frag = some ({ c.frag with logs := c.frag.logs ++ [c.logEntry isAdd] }.retired t) := by
  unfold logOp
  refine runInsn_frag (g := fun f => { f with logs := c.frag.logs ++ [c.logEntry isAdd] }) h uses (fun _ => rfl) ?_
  have mapped : s.devWritable c.tenant c.ga.toNat 8 = true := writable
  have within : ¬(256 < (c.frag.logs ++ [c.logEntry isAdd]).length ∨ 16 < (logLines (c.frag.logs ++ [c.logEntry isAdd])).length) := by
    rw [List.length_append, List.length_singleton]
    omega
  have entry : (⟨isAdd, c.ga.toNat, c.gb⟩ : LogEntry) = c.logEntry isAdd := rfl
  dsimp only
  rw [aligned, mapped, entry, decide_eq_false within, decide_eq_false (Nat.not_le.2 device)]
  rfl

theorem exec_fragStatus_next (h : At s t 0x7B c) (uses : onlyUses c.w usesA = true) (small : c.ga.toNat < 2 ^ 16) :
    ∃ s', exec (.fragStatus t) s = .next s' ∧ { s' with frags := s.frags } = s ∧
      s'.frag? t.frag = some ({ c.frag with status := some c.ga.toNat }.retired t) := by
  rw [exec_fragStatus]
  exact runInsn_frag (g := fun f => { f with status := some c.ga.toNat }) h uses (fun _ => rfl) (if_neg (Nat.not_le.2 small))

theorem exec_fragProg_next (h : At s t 0x7C c) (uses : onlyUses c.w (usesA ||| usesB) = true) :
    ∃ s', exec (.fragProg t) s = .next s' ∧ { s' with frags := s.frags } = s ∧
      s'.frag? t.frag = some ({ c.frag with prog2 := some (c.ga.toNat, c.gb.toNat) }.retired t) := by
  rw [exec_fragProg]
  exact runInsn_frag (g := fun f => { f with prog2 := some (c.ga.toNat, c.gb.toNat) }) h uses (fun _ => rfl) rfl

theorem exec_fragEnd_next (h : At s t 0x7D c) (uses : onlyUses c.w 0 = true) :
    ∃ s', exec (.fragEnd t) s = .next s' ∧ OnlyThread s s' t { c.th with st := .ended } :=
  ⟨_, (exec_fragEnd t s).trans (runInsn_legal h uses),
    h.tid ▸ onlyThread_updThread s c.t (fun th => { th with st := .ended }) c.th (h.tid ▸ insn_thread h.1)⟩

end

/-- Settles O19: each instruction changes one field of its fragment, or ends its thread. -/
theorem fragmentBuilding : Obligations.FragmentBuilding := by
  unfold Obligations.FragmentBuilding
  intro s t c
  refine ⟨?_, ?_, ?_, ?_, fun h uses => exec_fragEnd_next h uses⟩
  · intro h uses inside room
    obtain ⟨s', next, rest, frag⟩ := exec_fragPost_next h uses inside room
    exact ⟨s', _, next, rest, frag, rfl, rfl, rfl⟩
  · intro row listed h uses aligned device writable entries lines
    obtain rfl | rfl : row = (0x79, false, .fragLogSt t) ∨ row = (0x7A, true, .fragLogAdd t) := by simpa using listed
    · obtain ⟨s', next, rest, frag⟩ := logOp_next false h uses aligned device writable entries lines
      exact ⟨s', _, (exec_fragLogSt t s).trans next, rest, frag, rfl, rfl⟩
    · obtain ⟨s', next, rest, frag⟩ := logOp_next true h uses aligned device writable entries lines
      exact ⟨s', _, (exec_fragLogAdd t s).trans next, rest, frag, rfl, rfl⟩
  · intro h uses small
    obtain ⟨s', next, rest, frag⟩ := exec_fragStatus_next h uses small
    exact ⟨s', _, next, rest, frag, rfl, rfl, rfl⟩
  · intro h uses
    obtain ⟨s', next, rest, frag⟩ := exec_fragProg_next h uses
    exact ⟨s', _, next, rest, frag, rfl, rfl⟩

end Sys2Proof.Machine

/-! Pumps and their ports (R328 to R333): binding, starting, fetching, `q.pop` and `q.push`. -/
namespace Sys2Proof.Machine

/-! ## Members and their ports -/

/-- A fragment that keeps its members. -/
theorem State.member?_updFrag (s : State) (k : Nat) {g : Frag → Frag} (keeps : KeepsId g) (same : ∀ x, (g x).members = x.members) (f m : Nat) :
    (s.updFrag k g).member? f m = s.member? f m := by
  rw [State.member?, State.member?, frag?_updFrag _ _ _ _ keeps]
  split
  · cases s.frag? f with
    | none => rfl
    | some x => simp [same]
  · rfl

theorem State.member?_congr {s s1 : State} (frags : s1.frags = s.frags) (f m : Nat) : s1.member? f m = s.member? f m := by
  rw [State.member?, State.member?, State.frag?, State.frag?, frags]

/-- What a thread does concerns no port of its member. -/
theorem State.ports_updThread (s : State) (t : Tid) (g : Thread → Thread) (f m : Nat) :
    ((s.updThread t g).member? f m).map Member.ports = (s.member? f m).map Member.ports := by
  rw [State.updThread, member?_updMember]
  split
  · rw [Option.map_map]; rfl
  · rfl

theorem State.ports_noteInner (s : State) (c : Ictx) (p : Bool) (f m : Nat) :
    ((c.noteInner p s).member? f m).map Member.ports = (s.member? f m).map Member.ports := by
  cases p with
  | false => rfl
  | true =>
    have same := (c.setFlag s flagIo).member?_updFrag c.t.frag (g := fun f => { f with inner := true }) (fun _ => rfl) (fun _ => rfl) f m
    exact (congrArg (Option.map Member.ports) same).trans (s.ports_updThread ..)

theorem State.thread?_noteInner (s : State) {c : Ictx} {th : Thread} (found : s.thread? c.t = some th) (p : Bool) :
    (c.noteInner p s).thread? c.t = some (th.flagIf p flagIo) := by
  cases p with
  | false => exact found
  | true =>
    have same := (c.setFlag s flagIo).member?_updFrag c.t.frag (g := fun f => { f with inner := true }) (fun _ => rfl) (fun _ => rfl)
      c.t.frag c.t.mem
    have flagged : (c.setFlag s flagIo).thread? c.t = some (th.flagIf true flagIo) := by
      simp [Ictx.setFlag, thread?_updThread, found, Thread.flagIf]
    exact (congrArg (fun m : Option Member => m.bind fun m => m.threads[c.t.idx]?) same).trans flagged

theorem Ictx.noteInner_frame (c : Ictx) (p : Bool) (s : State) : { c.noteInner p s with frags := s.frags } = s := by cases p <;> rfl

theorem Thread.rg_setG (th : Thread) (d : Nat) (v : Word) (n : Nat) :
    (th.setG d v).rg n = if n = 0 then 0 else if n = d then v else th.rg n := (wroteG_setG th d v).g n

theorem Thread.pc_setG (th : Thread) (d : Nat) (v : Word) : (th.setG d v).pc = th.pc := by unfold Thread.setG; split <;> rfl

/-- An update of a member, and then of one of its threads. -/
theorem At.member?_updated {s s1 : State} {t : Tid} {opc : Nat} {c : Ictx} (h : At s t opc c) (frags : s1.frags = s.frags)
    (g : Member → Member) (u : Thread → Thread) :
    ((s1.updMember t g).updThread t u).member? t.frag t.mem =
      some { g c.mem with threads := (g c.mem).threads.modify t.idx u } := by
  rw [State.updThread, updMember_updMember, member?_updMember, if_pos ⟨rfl, rfl⟩, State.member?_congr frags, h.member]
  rfl

/-! ## Binding and starting a pump (R328, R329) -/

theorem exec_pumpSet_next {s : State} {t : Tid} {c : Ictx} (h : At s t 0x74 c) (uses : onlyUses c.w (usesA ||| usesSub 2 0) = true)
    (claimed : wPump c.w < c.frag.pumps) (inside : c.ga.toNat + 64 ≤ c.frag.cis * 65536) (sound : pumpBad (c.cisRd s c.ga.toNat 64) = none)
    (port : (pumpDesc (c.cisRd s c.ga.toNat 64)).port < c.frag.ports) (aligned : (pumpDesc (c.cisRd s c.ga.toNat 64)).buf % 64 = 0)
    (buffer : c.inArea (pumpDesc (c.cisRd s c.ga.toNat 64)).buf
      ((pumpDesc (c.cisRd s c.ga.toNat 64)).depth * (pumpDesc (c.cisRd s c.ga.toNat 64)).size) = true) :
    exec (.pumpSet t) s =
      .next ((s.updMember t fun m => m.bind (wPump c.w) (pumpDesc (c.cisRd s c.ga.toNat 64))).updThread t Thread.retired) := by
  have area : c.inArea c.ga.toNat 64 = true := decide_eq_true inside
  refine (exec_pumpSet t s).trans (runInsn_done h uses ?_)
  simp [Nat.not_le.2 claimed, area, sound, Nat.not_le.2 port, aligned, buffer, h.tid]

/-- A member whose pump `n` has been started; a stream of no elements has ended at once. -/
def Member.started (m : Member) (n : Nat) : Member :=
  match Map.get? m.pumps n with
  | none => m
  | some p =>
    let m1 := { m with pumps := Map.put m.pumps n { p with running := p.running || p.next == 0 } }
    if p.desc.mailbox || decide (0 < p.desc.total) then m1
    else { m1 with ports := m1.ports.map fun e => if e.2.pump = n then (e.1, { e.2 with ended := true }) else e }

theorem Member.started_pump {m : Member} {n : Nat} {p : Pump} (bound : Map.get? m.pumps n = some p) :
    Map.get? (m.started n).pumps n = some { p with running := p.running || p.next == 0 } := by
  unfold Member.started
  rw [bound]
  dsimp only
  split
  · exact Map.get?_put_self ..
  · exact Map.get?_put_self ..

theorem exec_pumpGo_next {s : State} {t : Tid} {c : Ictx} (h : At s t 0x75 c) (uses : onlyUses c.w (usesSub 2 0) = true)
    (claimed : wPump c.w < c.frag.pumps) :
    exec (.pumpGo t) s = .next ((s.updMember t fun m => m.started (wPump c.w)).updThread t Thread.retired) :=
  (exec_pumpGo t s).trans (runInsn_done h uses ((if_neg (Nat.not_le.2 claimed)).trans (by rw [h.tid]; rfl)))

/-! ## The run-ahead buffer (R329) -/

theorem toLe_eq_map_range (n x : Nat) : toLe n x = (List.range n).map fun i => BitVec.ofNat 8 (x / 256 ^ i) := by
  induction n generalizing x with
  | zero => rfl
  | succ n ih =>
    rw [toLe, ih, List.range_succ_eq_map, List.map_cons, List.map_map, pow_zero, Nat.div_one]
    simp [Function.comp_def, Nat.pow_succ', Nat.div_div_eq_div_mul]

/-- What the elements of a buffer leave of the machine. -/
def State.butBuffer (s t : State) : State := { t with frags := s.frags, cis := s.cis, free := s.free }

theorem State.bufferElems_frame (s : State) (x : Frag) (m : Member) (d : PumpDesc) (es : List (List Byte)) :
    { s.bufferElems x m d es with cis := s.cis, free := s.free } = s := by
  unfold State.bufferElems
  split
  · exact List.foldlRecOn (motive := fun t : State => ({ t with cis := s.cis, free := s.free } : State) = s) es _ rfl fun _ kept _ _ => kept
  · rfl

/-- A slot of the buffer lies in it. -/
theorem slot_within (r : Nat) {depth : Nat} (pos : 0 < depth) (size : Nat) : r % depth * size + size ≤ depth * size :=
  (Nat.succ_mul (r % depth) size).symm.le.trans (Nat.mul_le_mul_right size (Nat.mod_lt r pos))

/-- Elements enter the cistern in the pump's buffer alone. -/
theorem State.bufferElems_outside (s : State) (x : Frag) (m : Member) (d : PumpDesc) (es : List (List Byte)) {a : Nat}
    (outside : a < cisKey m.cluster (m.base + d.buf) ∨ cisKey m.cluster (m.base + d.buf) + d.depth * d.size ≤ a) :
    (s.bufferElems x m d es).cis.rd a = s.cis.rd a := by
  unfold State.bufferElems
  split
  · refine List.foldlRecOn (motive := fun t : State => t.cis.rd a = s.cis.rd a) es _ rfl fun t kept b _ => ?_
    have slot := slot_within (t.draw 0) (Nat.two_pow_pos d.ldepth) d.size
    have short : (b.take d.size).length ≤ d.size := List.length_take_le ..
    refine (Mem.rd_wrN_out _ _ _ _ ?_).trans kept
    simp only [PumpDesc.depth, cisKey] at outside ⊢
    omega
  · rfl

/-! ## A fetch past the line cache (R330, R331) -/

/-- No well operation writes the range, so a read of it disturbs none. -/
theorem State.noteBreach_quiet {s : State} {t a n : Nat} (quiet : s.wellWrites t a n = false) : s.noteBreach t a n = s := by
  have unmet : ∀ w ∈ s.wells, w.meets t a n ≠ true := List.any_eq_false.1 quiet
  have same : (s.wells.map fun w => if w.meets t a n then { w with breach := true } else w) = s.wells :=
    (List.map_congr_left fun w mem => if_neg (unmet w mem)).trans (List.map_id' _)
  unfold State.noteBreach
  rw [same]

/-- The element that a running strided pump fetches next lies aligned in mapped, sound device space that no well writes. -/
structure Fetchable (s : State) (x : Frag) (p : Pump) : Prop where
  strided : p.desc.mode = 0
  stream : p.desc.stream = true
  device : p.desc.addrAt p.next < 2 ^ 63
  aligned : p.desc.addrAt p.next % p.desc.size = 0
  mapped : s.devMapped x.tenant (p.desc.addrAt p.next) p.desc.size = true
  sound : s.poisoned x.tenant (p.desc.addrAt p.next) p.desc.size = false
  quiet : s.wellWrites x.tenant (p.desc.addrAt p.next) p.desc.size = false

/-- The bytes of the element that is fetched next. -/
def State.nextElem (s : State) (x : Frag) (p : Pump) : List Byte := s.devRd x.tenant (p.desc.addrAt p.next) p.desc.size

/-- The read of the element notes an inner-only line with the fragment (R314). -/
def State.elemNoted (s : State) (x : Frag) (f : Nat) (p : Pump) : State :=
  if (linesOf (p.desc.addrAt p.next) p.desc.size).any fun ln => s.innerOnly x.tenant (ln * 64) then
    s.updFrag f fun y => { y with inner := true }
  else s

theorem Fetchable.fetchElem_eq {s : State} {x : Frag} {p : Pump} (h : Fetchable s x p) (mb : Member) (f m n : Nat) :
    s.fetchElem x mb f m n p =
      ((s.elemNoted x f p).bufferElems x mb p.desc [s.nextElem x p]).deliverElem f m n (.bytes (s.nextElem x p) false)
        (decide (p.next + 1 < p.desc.total)) := by
  have read : s.pumpRead x mb.cluster true (p.desc.addrAt p.next) p.desc.size =
      .ok s (s.nextElem x p) ((linesOf (p.desc.addrAt p.next) p.desc.size).any fun ln => s.innerOnly x.tenant (ln * 64)) := by
    have host : isHost (p.desc.addrAt p.next) = false := decide_eq_false (Nat.not_le.2 h.device)
    simp [State.pumpRead, host, h.mapped, h.sound, State.noteBreach_quiet h.quiet, State.nextElem]
  simp only [State.fetchElem, h.strided, h.aligned, h.stream, read, if_true, ne_eq, not_true, if_false, Bool.not_true, Bool.and_false]
  rfl

theorem State.elemNoted_frame (s : State) (x : Frag) (f : Nat) (p : Pump) : { s.elemNoted x f p with frags := s.frags } = s := by
  unfold State.elemNoted; split <;> rfl

theorem State.member?_elemNoted (s : State) (x : Frag) (f : Nat) (p : Pump) (k m : Nat) : (s.elemNoted x f p).member? k m = s.member? k m := by
  unfold State.elemNoted
  split
  · exact s.member?_updFrag f (g := fun y => { y with inner := true }) (fun _ => rfl) (fun _ => rfl) k m
  · rfl

/-- A member with an element delivered to the ports of a pump. -/
def Member.delivered (x : Member) (n : Nat) (e : Elem) (more : Bool) : Member :=
  { x with
    ports := x.ports.map fun p => if p.2.pump = n then (p.1, { p.2 with elems := p.2.elems ++ [e], ended := p.2.ended || !more }) else p
    pumps := match Map.get? x.pumps n with
      | none => x.pumps
      | some p => Map.put x.pumps n { p with next := p.next + 1, running := more } }

theorem State.member?_deliverElem {s : State} {f m : Nat} {mb : Member} (found : s.member? f m = some mb) (n : Nat) (e : Elem) (more : Bool) :
    (s.deliverElem f m n e more).member? f m = some (mb.delivered n e more) := by
  refine (member?_updMember ..).trans ?_
  rw [if_pos ⟨rfl, rfl⟩, found]
  rfl

theorem Member.delivered_pump {x : Member} {n : Nat} {p : Pump} (bound : Map.get? x.pumps n = some p) (e : Elem) (more : Bool) :
    Map.get? (x.delivered n e more).pumps n = some { p with next := p.next + 1, running := more } := by
  unfold Member.delivered
  rw [bound]
  exact Map.get?_put_self ..

theorem Member.delivered_port {x : Member} {k n : Nat} {q : Port} (found : Map.get? x.ports k = some q) (bound : q.pump = n) (e : Elem)
    (more : Bool) :
    Map.get? (x.delivered n e more).ports k = some { q with elems := q.elems ++ [e], ended := q.ended || !more } := by
  have keys : ∀ p : Nat × Port, (if p.2.pump = n then (p.1, { p.2 with elems := p.2.elems ++ [e], ended := p.2.ended || !more }) else p).1 = p.1 :=
    fun p => by split <;> rfl
  obtain ⟨entry, first, rfl⟩ := Option.map_eq_some_iff.1 found
  exact (Map.get?_map_values x.ports keys k).trans (by rw [first]; exact congrArg some (congrArg Prod.snd (if_pos bound)))

/-- A running strided pump fetches its next element into the port that it is bound to. -/
theorem exec_pumpFetch_next {s : State} {f m n k : Nat} {x : Frag} {mb : Member} {p : Pump} {q : Port} (active : s.active = true)
    (cool : s.tripped = false) (found : s.frag? f = some x) (running : x.phase = .running) (member : x.members[m]? = some mb)
    (bound : Map.get? mb.pumps n = some p) (started : p.running = true) (more : p.next < p.desc.total)
    (port : Map.get? mb.ports k = some q) (pump : q.pump = n) (room : q.elems.length < q.depth) (h : Fetchable s x p) :
    exec (.pumpFetch f m n) s = .next (s.fetchElem x mb f m n p) := by
  have space : (mb.ports.any fun e => e.2.pump == n && decide (e.2.elems.length < e.2.depth)) = true := by
    obtain ⟨entry, first, rfl⟩ := Option.map_eq_some_iff.1 port
    exact List.any_eq_true.2 ⟨entry, List.mem_of_find?_eq_some first, by simp [pump, room]⟩
  have strided : p.desc.mailbox = false := by simp [PumpDesc.mailbox, h.strided]
  rw [exec_pumpFetch, execPumpFetch, found]
  simp only [member, bound]
  rw [space]
  simp [onlyIf, active, cool, running, started, strided, more]

/-! ## Taking an element (R332) -/

/-- An element of a scalar port goes into gD, and the count 1 into gC. -/
def Ictx.popped (c : Ictx) (s : State) (q : Port) (bs : List Byte) (inner : Bool) (rest : List Elem) : State :=
  c.noteInner inner
    ((c.putG (c.putPort s c.t.mem (wPort c.w) { q with elems := rest }) (BitVec.ofNat 64 (leNat bs))).updThread c.t fun th => th.setG (wC c.w) 1)

theorem exec_qPop_next {s : State} {t : Tid} {c : Ictx} {q : Port} {bs : List Byte} {inner : Bool} {rest : List Elem} (h : At s t 0x76 c)
    (uses : onlyUses c.w (usesX ||| usesD ||| usesC ||| usesSub 7 4) = true) (scalar : wX c.w = 0) (claimed : wPort c.w < c.frag.ports)
    (port : Map.get? c.mem.ports (wPort c.w) = some q) (narrow : q.esize ≤ 3) (first : q.elems = .bytes bs inner :: rest) :
    exec (.qPop t) s = .next ((c.popped s q bs inner rest).updThread t Thread.retired) := by
  refine (exec_qPop t s).trans (runInsn_done h (by simp [scalar, uses]) ?_)
  have found : c.port (wPort c.w) = some q := (if_pos claimed).trans port
  simp [found, scalar, Nat.not_lt.2 narrow, first, firstPoison, portBytes, elemInner, Ictx.popped]

/-- The thread after a `q.pop`. -/
theorem popped_thread {s : State} {t : Tid} {c : Ictx} (h : At s t 0x76 c) (q : Port) (bs : List Byte) (inner : Bool) (rest : List Elem) :
    ((c.popped s q bs inner rest).updThread t Thread.retired).thread? t =
      some ((((c.th.setG (wD c.w) (BitVec.ofNat 64 (leNat bs))).setG (wC c.w) 1).flagIf inner flagIo).retired) := by
  have old : (c.putPort s c.t.mem (wPort c.w) { q with elems := rest }).thread? c.t = some c.th := by
    have member : s.member? c.t.frag c.t.mem = some c.mem := h.tid ▸ h.member
    have thread : s.thread? c.t = some c.th := h.tid ▸ insn_thread h.1
    rw [State.thread?, member] at thread
    rw [State.thread?, Ictx.putPort, member?_updMember, if_pos ⟨rfl, rfl⟩, member]
    exact thread
  have written := State.thread?_noteInner (c := c)
    ((c.putG (c.putPort s c.t.mem (wPort c.w) { q with elems := rest }) (BitVec.ofNat 64 (leNat bs))).updThread c.t fun th => th.setG (wC c.w) 1)
    (by rw [thread?_updThread, if_pos rfl, Ictx.putG, thread?_updThread, if_pos rfl, old]; rfl) inner
  rw [thread?_updThread, if_pos rfl, ← h.tid]
  exact congrArg (Option.map Thread.retired) written

/-- The port after a `q.pop`. -/
theorem popped_port {s : State} {t : Tid} {c : Ictx} (h : At s t 0x76 c) (q : Port) (bs : List Byte) (inner : Bool) (rest : List Elem) :
    ∃ m, ((c.popped s q bs inner rest).updThread t Thread.retired).member? t.frag t.mem = some m ∧
      Map.get? m.ports (wPort c.w) = some { q with elems := rest } := by
  have ports : (((c.popped s q bs inner rest).updThread t Thread.retired).member? t.frag t.mem).map Member.ports =
      some (Map.put c.mem.ports (wPort c.w) { q with elems := rest }) := by
    rw [State.ports_updThread, Ictx.popped, State.ports_noteInner, State.ports_updThread, Ictx.putG, State.ports_updThread, Ictx.putPort,
      member?_updMember, if_pos (by rw [h.tid]; exact ⟨rfl, rfl⟩), h.member]
    rfl
  obtain ⟨m, found, same⟩ := Option.map_eq_some_iff.1 ports
  exact ⟨m, found, same ▸ Map.get?_put_self ..⟩

/-! ## Pushing an element (R333) -/

/-- The buffer of the pump that a mailbox port is bound to takes the element. -/
def Ictx.pushBuffered (c : Ictx) (s : State) (q : Port) : State :=
  match Map.get? c.mem.pumps q.pump with
  | some p => s.bufferElems c.frag c.mem p.desc [toLe (2 ^ q.esize) c.ga.toNat]
  | none => s

theorem Ictx.pushBuffered_frame (c : Ictx) (s : State) (q : Port) : { c.pushBuffered s q with cis := s.cis, free := s.free } = s := by
  unfold Ictx.pushBuffered
  split
  · exact s.bufferElems_frame ..
  · rfl

theorem Ictx.pushBuffered_outside (c : Ictx) (s : State) (q : Port) {a : Nat}
    (outside : ∀ p, Map.get? c.mem.pumps q.pump = some p → a < cisKey c.mem.cluster (c.mem.base + p.desc.buf) ∨
      cisKey c.mem.cluster (c.mem.base + p.desc.buf) + p.desc.depth * p.desc.size ≤ a) :
    (c.pushBuffered s q).cis.rd a = s.cis.rd a := by
  unfold Ictx.pushBuffered
  split
  · rename_i p bound
    exact s.bufferElems_outside _ _ _ _ (outside p bound)
  · rfl

/-- The port with the element appended. -/
def Ictx.pushedPort (c : Ictx) (q : Port) : Port :=
  { q with mailbox := true, elems := q.elems ++ [.bytes (toLe (2 ^ q.esize) c.ga.toNat) false], ended := field c.w 8 8 == 1 }

theorem exec_qPush_next {s : State} {t : Tid} {c : Ictx} {q : Port} (h : At s t 0x77 c)
    (uses : onlyUses c.w (usesX ||| usesA ||| usesSub 9 4 ||| usesSub 15 12) = true) (scalar : wX c.w = 0) (own : field c.w 9 9 = 0)
    (plain : field c.w 15 12 = 0) (claimed : wPort c.w < c.frag.ports) (port : Map.get? c.mem.ports (wPort c.w) = some q)
    (mailbox : q.mailbox = true) (going : q.ended = false) (narrow : q.esize ≤ 3) (room : q.elems.length < q.depth) :
    exec (.qPush t) s =
      .next (((c.pushBuffered s q).updMember t fun m => { m with ports := Map.put m.ports (wPort c.w) (c.pushedPort q) }).updThread t
        Thread.retired) := by
  refine (exec_qPush t s).trans (runInsn_done h (by simp [scalar, plain, uses]) ?_)
  obtain ⟨_, _, _, _, _, member, _⟩ := insn_some h.1
  have bytes : c.pushed s q.esize = [toLe (2 ^ q.esize) c.ga.toNat] := by
    have few : 2 ^ q.esize ≤ 8 := Nat.pow_le_pow_right (by decide) narrow
    rw [Ictx.pushed, if_neg (by simp [scalar]), toLe_eq_map_range]
    exact congrArg (fun l => [l]) (List.map_congr_left fun i mem => if_pos ((List.mem_range.1 mem).trans_le few))
  simp only [own, member, claimed, port, mailbox, going, bytes, scalar, Nat.not_lt.2 narrow, if_true, if_false, Nat.zero_ne_one,
    Bool.not_true, Bool.or_self, Bool.false_eq_true, List.length_singleton, Nat.not_lt.2 room, and_false, List.map_cons, List.map_nil, Ictx.putPort, h.tid]
  rfl

/-! ## The pumps of a fragment -/

theorem pumpFetch_effect {s : State} {f m n k : Nat} {x : Frag} {mb : Member} {p : Pump} {q : Port} (active : s.active = true)
    (cool : s.tripped = false) (found : s.frag? f = some x) (running : x.phase = .running) (member : x.members[m]? = some mb)
    (bound : Map.get? mb.pumps n = some p) (started : p.running = true) (more : p.next < p.desc.total)
    (port : Map.get? mb.ports k = some q) (pump : q.pump = n) (room : q.elems.length < q.depth) (h : Fetchable s x p) :
    ∃ s' mb' q', exec (.pumpFetch f m n) s = .next s' ∧ { s' with frags := s.frags, cis := s.cis, free := s.free } = s ∧
      (∀ a, (a < cisKey mb.cluster (mb.base + p.desc.buf) ∨ cisKey mb.cluster (mb.base + p.desc.buf) + p.desc.depth * p.desc.size ≤ a) →
        s'.cis.rd a = s.cis.rd a) ∧ s'.member? f m = some mb' ∧
      Map.get? mb'.pumps n = some { p with next := p.next + 1, running := decide (p.next + 1 < p.desc.total) } ∧
      Map.get? mb'.ports k = some q' ∧ q'.ended = (q.ended || decide (p.desc.total ≤ p.next + 1)) ∧
      q'.elems = q.elems ++ [.bytes (s.nextElem x p) false] := by
  have own : s.member? f m = some mb := by rw [State.member?, found]; exact member
  have noted := s.elemNoted_frame x f p
  have buffered := (s.elemNoted x f p).bufferElems_frame x mb p.desc [s.nextElem x p]
  have kept : ((s.elemNoted x f p).bufferElems x mb p.desc [s.nextElem x p]).member? f m = some mb :=
    (State.member?_congr (congrArg State.frags buffered :) f m).trans ((s.member?_elemNoted x f p f m).trans own)
  refine ⟨_, _, _, (exec_pumpFetch_next active cool found running member bound started more port pump room h).trans
    (congrArg _ (h.fetchElem_eq mb f m n)), ?_, fun a outside => ?_, State.member?_deliverElem kept n _ _, Member.delivered_pump bound _ _,
    Member.delivered_port port pump _ _, ?_, rfl⟩
  · exact (congrArg s.butBuffer buffered :).trans (congrArg s.butBuffer noted :)
  · have cis : (s.elemNoted x f p).cis = s.cis := (congrArg State.cis noted :)
    exact ((s.elemNoted x f p).bufferElems_outside x mb p.desc [s.nextElem x p] outside).trans (by rw [cis])
  · exact congrArg (q.ended || ·) (by simp only [← decide_not, Nat.not_lt])

/-- Settles O18: a pump is bound, is started, and fetches; a thread pops and pushes. -/
theorem pumpsAndQueues : Obligations.PumpsAndQueues := by
  unfold Obligations.PumpsAndQueues
  refine ⟨?_, ?_, ?_, ?_, ?_⟩
  · rintro s t c b n h uses rfl claimed inside rfl sound port aligned buffer
    exact ⟨_, _, _, _, exec_pumpSet_next h uses claimed inside sound port aligned buffer, rfl, h.member?_updated rfl _ _,
      Map.get?_put_self .., rfl, rfl, rfl, Map.get?_put_self .., rfl, rfl, rfl, rfl, rfl⟩
  · rintro s t c n p h uses rfl claimed bound
    exact ⟨_, _, exec_pumpGo_next h uses claimed, rfl, h.member?_updated rfl _ _, Member.started_pump bound⟩
  · intro s f m n x mb p k q active cool found running member bound started strided stream more port pump room device aligned mapped sound quiet
    exact pumpFetch_effect active cool found running member bound started more port pump room
      ⟨strided, stream, device, aligned, mapped, sound, quiet⟩
  · intro s t c q bs inner rest h uses scalar apart claimed port narrow first
    obtain ⟨m, member, taken⟩ := popped_port h q bs inner rest
    refine ⟨_, _, m, _, exec_qPop_next h uses scalar claimed port narrow first, ?_, popped_thread h q bs inner rest, ?_, fun n => ?_,
      member, taken, rfl⟩
    · exact (congrArg (fun u : State => { u with frags := s.frags }) (Ictx.noteInner_frame c inner _) :)
    · exact congrArg (· + 8) ((Thread.pc_setG ..).trans (Thread.pc_setG ..))
    · exact (Thread.rg_setG ..).trans (by rw [Thread.rg_setG]; split <;> rfl)
  · intro s t c q h uses scalar own plain claimed port mailbox going narrow room
    have buffered := c.pushBuffered_frame s q
    refine ⟨_, _, _, exec_qPush_next h uses scalar own plain claimed port mailbox going narrow room, ?_,
      fun a outside => c.pushBuffered_outside s q outside, h.member?_updated (congrArg State.frags buffered :) _ _, Map.get?_put_self ..,
      rfl, rfl⟩
    exact (congrArg s.butBuffer buffered :)

end Sys2Proof.Machine

/-! O39: allocations of device space, from `vr.alloc` over `vr.free` to the return of the memory (R24, R317, R320 to R322). -/
namespace Sys2Proof.Machine

/-! ## Memory that is cleared (R321) -/

theorem Mem.rd_clear (m : Mem) (a n b : Nat) : (Mem.clear m a n).rd b = if b < a ∨ a + n ≤ b then m.rd b else 0 := by
  unfold Mem.rd Mem.clear Map.get?
  rw [Map.find?_keys_filter m (fun k => decide (k < a ∨ a + n ≤ k))]
  simp only [decide_eq_true_eq]
  split <;> rfl

theorem Mem.rd_clear_in (m : Mem) {a n b : Nat} (low : a ≤ b) (high : b < a + n) : (Mem.clear m a n).rd b = 0 := by
  rw [Mem.rd_clear, if_neg (by omega)]

theorem Mem.rd_clear_out (m : Mem) {a n b : Nat} (outside : b < a ∨ a + n ≤ b) : (Mem.clear m a n).rd b = m.rd b := by
  rw [Mem.rd_clear, if_pos outside]

/-! ## The base of a new allocation (R24, R321) -/

theorem le_foldl_max {α : Type} (f : α → Nat) (l : List α) (b : Nat) :
    b ≤ l.foldl (fun b a => Nat.max b (f a)) b ∧ ∀ a ∈ l, f a ≤ l.foldl (fun b a => Nat.max b (f a)) b := by
  induction l generalizing b with
  | nil => simp
  | cons c r ih =>
    obtain ⟨start, all⟩ := ih (Nat.max b (f c))
    refine ⟨(Nat.le_max_left ..).trans start, fun a mem => ?_⟩
    obtain rfl | later := List.mem_cons.1 mem
    · exact (Nat.le_max_right ..).trans start
    · exact all a later

/-- The base that the device chooses lies apart from every allocation of the tenant. -/
theorem State.newBase_apart (s : State) (n : Nat) {m : Alloc} (listed : m ∈ s.allocs) :
    s.newBase m.tenant n + n ≤ m.base ∨ m.base + m.size ≤ s.newBase m.tenant n := by
  unfold State.newBase
  dsimp only
  split
  · rename_i free
    simp only [State.baseFree, Bool.and_eq_true, List.all_eq_true] at free
    simpa using free.2 m listed
  · have own : m ∈ s.allocs.filter fun k => k.tenant == m.tenant := List.mem_filter.2 ⟨listed, by simp⟩
    have above := (le_foldl_max (fun m : Alloc => roundUp (m.base + m.size) 65536) _ 0x10000).2 m own
    have rounded : m.base + m.size ≤ roundUp (m.base + m.size) 65536 := by
      simp only [roundUp, ceilDiv]
      omega
    exact .inr (rounded.trans above)

/-- Every byte of a range that is mapped lies in an allocation of the tenant. -/
theorem rangeOk_covered {s : State} {t : Nat} {p : Alloc → Bool} {fuel a n : Nat} (ok : rangeOk s t p fuel a n = true) {b : Nat} (low : a ≤ b)
    (high : b < a + n) : ∃ m ∈ s.allocs, m.tenant = t ∧ m.base ≤ b ∧ b < m.base + m.size := by
  induction fuel generalizing a n with
  | zero =>
    have none : n = 0 := by simpa [rangeOk] using ok
    omega
  | succ fuel ih =>
    rw [rangeOk, if_neg (by omega)] at ok
    split at ok
    · cases ok
    rename_i m found
    have holds := List.find?_some found
    simp only [Bool.and_eq_true, beq_iff_eq, decide_eq_true_eq] at holds
    obtain ⟨⟨tenant, -⟩, start, inside⟩ := holds
    by_cases here : b < m.base + m.size
    · exact ⟨m, List.mem_of_find?_eq_some found, tenant, by omega, here⟩
    · rw [if_neg (by omega), Bool.and_eq_true] at ok
      exact ih ok.2 (by omega) (by omega)

/-! ## `vr.alloc` (R320, R321) -/

/-- The base of the new allocation delivered at OUT. -/
def State.baseWritten (s : State) (x : Cmd) : State :=
  (s.roomy x).wrote x.fn (bit (x.a 8 4) 2) (x.a 0x10 8) (toLe 8 (s.newBase x.fn (x.a 0 8)))

/-- The allocation mapped besides. -/
def State.mapped (s : State) (x : Cmd) : State :=
  (s.baseWritten x).mapAlloc x.fn (s.newBase x.fn (x.a 0 8)) (x.a 0 8) (x.af 8 1 1 == 1) (x.af 8 0 0 == 1)

/-- What a `vr.alloc` maps at a base. -/
def State.newAlloc (s : State) (x : Cmd) (base : Nat) : Alloc :=
  { tenant := x.fn, base := base, size := x.a 0 8, shared := x.af 8 1 1 == 1, wellSeg := x.af 8 0 0 == 1, readOnly := false,
    stack := s.draw 1 % 12, well := s.anyWell (s.draw 1 % 12) 2, mapped := true, freeing := none }

theorem Runs.exec_vrAlloc_eq {s : State} {c : Nat} {x : Cmd} (run : Runs s c x) (vr : x.vr = 0x140) (ok : x.allocOk = true)
    (room : s.room x.fn (x.a 0 8) = some true) (can : s.canWrite x.fn (bit (x.a 8 4) 2) (x.a 0x10 8) 8 = true) :
    exec (.vrAlloc c) s = .next ((s.mapped x).finish c stOk 0 0) := by
  have can' : (s.roomy x).canWrite x.fn (bit (x.a 8 4) 2) (x.a 0x10 8) (toLe 8 ((s.roomy x).newBase x.fn (x.a 0 8))).length = true := by
    rw [toLe_length, (SameSpaces.roomy s x).canWrite, can]
  rw [exec_vrAlloc, execVrAlloc, run.runCmd_eq (by simp [vr])]
  simp only [ok, Bool.not_true, Bool.false_eq_true, if_false]
  rw [State.withRoom_eq room, State.spaceWr_eq can']
  rfl

/-- A command whose new bytes exceed the tenant's quota ends with `ST_QUOTA`. -/
theorem State.withRoom_full {s : State} {x : Cmd} {new : Nat} (full : s.room x.fn new = none) (f : State → State) :
    s.withRoom x new f = s.fail x.id stQuota := by
  have unfolded : ∀ w, w = State.withRoom → w s x new f = s.fail x.id stQuota := by
    intro w hw
    delta State.withRoom at hw
    subst hw
    beta_reduce
    rw [full]
  exact unfolded _ rfl

theorem vrAlloc_quota {s : State} {c : Nat} {x : Cmd} (run : Runs s c x) (vr : x.vr = 0x140) (ok : x.allocOk = true)
    (full : s.room x.fn (x.a 0 8) = none) : ∃ s', exec (.vrAlloc c) s = .next s' ∧ EndsWith s s' c x stQuota 0 x.pos 10000 := by
  refine ⟨_, ?_, run.working.fail stQuota⟩
  rw [exec_vrAlloc, execVrAlloc, run.runCmd_eq (by simp [vr])]
  simp only [ok, Bool.not_true, Bool.false_eq_true, if_false]
  rw [State.withRoom_full full, run.id_eq]

theorem State.mapped_cmds (s : State) (x : Cmd) : (s.mapped x).cmds = (s.roomy x).cmds :=
  (congrArg State.cmds ((s.roomy x).wrote_frame x.fn (bit (x.a 8 4) 2) (x.a 0x10 8) (toLe 8 (s.newBase x.fn (x.a 0 8)))) :)

theorem State.mapped_allocs (s : State) (x : Cmd) :
    (s.mapped x).allocs = s.allocs ++ [(s.baseWritten x).newAlloc x (s.newBase x.fn (x.a 0 8))] :=
  congrArg (· ++ [(s.baseWritten x).newAlloc x (s.newBase x.fn (x.a 0 8))]) ((s.roomy x).wrote_allocs ..)

theorem State.mapped_dev (s : State) (x : Cmd) :
    (s.mapped x).dev = Mem.clear (s.baseWritten x).dev (devKey x.fn (s.newBase x.fn (x.a 0 8))) (x.a 0 8) := rfl

/-- The new allocation reads zero. -/
theorem State.mapped_zero (s : State) (x : Cmd) {i : Nat} (inside : i < x.a 0 8) :
    (s.mapped x).dev.rd (devKey x.fn (s.newBase x.fn (x.a 0 8)) + i) = 0 := by
  rw [State.mapped_dev]
  exact Mem.rd_clear_in _ (Nat.le_add_right ..) (by omega)

/-- What `vr.alloc` asks of its block (R320). -/
theorem Cmd.pos_and_aligned_of_allocOk {x : Cmd} (ok : x.allocOk = true) : 0 < x.a 0 8 ∧ x.a 0x10 8 % 8 = 0 := by
  simp only [Cmd.allocOk, Bool.and_eq_true, decide_eq_true_eq, addrOk, beq_iff_eq] at ok
  omega

/-- The bytes of OUT outlast the clearing of the new allocation, which lies apart from every other. -/
theorem State.mapped_out {s : State} {x : Cmd} (ok : x.allocOk = true) (can : s.canWrite x.fn (bit (x.a 8 4) 2) (x.a 0x10 8) 8 = true)
    (fits : s.newBase x.fn (x.a 0 8) + x.a 0 8 ≤ 2 ^ 64) :
    (s.mapped x).spaceBytes x.fn (bit (x.a 8 4) 2) (x.a 0x10 8) 8 = toLe 8 (s.newBase x.fn (x.a 0 8)) := by
  obtain ⟨bytes, aligned⟩ := x.pos_and_aligned_of_allocOk ok
  have wrote := (s.roomy x).spaceBytes_wrote x.fn (bit (x.a 8 4) 2) (x.a 0x10 8) (toLe 8 (s.newBase x.fn (x.a 0 8)))
  rw [toLe_length] at wrote
  refine Eq.trans (b := (s.baseWritten x).spaceBytes x.fn (bit (x.a 8 4) 2) (x.a 0x10 8) 8) ?_ wrote
  unfold State.spaceBytes
  split
  · rename_i dev
    have low : x.a 0x10 8 < 2 ^ 64 := x.a_lt 0x10 8
    rw [dev] at can
    refine Mem.rdN_congr _ _ _ _ fun i start stop => ?_
    rw [devKey, Nat.mod_eq_of_lt low] at start stop
    obtain ⟨m, listed, own, base, inside⟩ := rangeOk_covered can (b := i - x.fn * 2 ^ 64) (by omega) (by omega)
    have apart := s.newBase_apart (x.a 0 8) listed
    rw [own] at apart
    rw [State.mapped_dev, devKey, Nat.mod_eq_of_lt (by omega), Mem.rd_clear_out _ (by omega)]
  · rfl

/-- `vr.alloc` maps zeroed bytes and delivers their base. -/
theorem vrAlloc_effect {s : State} {c : Nat} {x : Cmd} {d : Bool} (run : Runs s c x) (vr : x.vr = 0x140) (none : x.argBase = 0)
    (ok : x.allocOk = true) (hd : d = bit (x.a 8 4) 2) (room : s.room x.fn (x.a 0 8) = some true)
    (can : s.canWrite x.fn d (x.a 0x10 8) 8 = true) (fits : s.newBase x.fn (x.a 0 8) + x.a 0 8 ≤ 2 ^ 64) :
    ∃ s' a, exec (.vrAlloc c) s = .next s' ∧ s'.allocs = s.allocs ++ [a] ∧ a.tenant = x.fn ∧ a.size = x.a 0 8 ∧ a.mapped = true ∧
      a.readOnly = false ∧ a.freeing = .none ∧ a.shared = (x.af 8 1 1 == 1) ∧ a.wellSeg = (x.af 8 0 0 == 1) ∧
      s'.spaceBytes x.fn d (x.a 0x10 8) 8 = toLe 8 a.base ∧ (∀ i, i < x.a 0 8 → s'.dev.rd (devKey x.fn a.base + i) = 0) ∧
      Answered s' c stOk 0 0 10000 := by
  subst hd
  have ends := (run.working.roomy.of_cmds (s.mapped_cmds x)).finish stOk 0 0
  obtain ⟨dev, allocs⟩ := ends.noArgs none
  exact ⟨_, _, run.exec_vrAlloc_eq vr ok room can, allocs.trans (s.mapped_allocs x), rfl, rfl, rfl, rfl, rfl, rfl, rfl,
    (ends.spaceBytes none ..).trans (State.mapped_out ok can fits), fun i inside => dev ▸ s.mapped_zero x inside, ends.entry⟩

/-! ## `vr.free` (R322) -/

theorem State.mem_unmapAlloc {s : State} {t base : Nat} {readers : List Nat} {m : Alloc} :
    m ∈ (s.unmapAlloc t base readers).allocs ↔
      ∃ k ∈ s.allocs, (if k.tenant = t ∧ k.base = base then { k with mapped := false, freeing := some readers } else k) = m := List.mem_map

/-- An unmapped allocation waits for its readers. -/
theorem State.unmapAlloc_freed {s : State} {t base : Nat} {readers : List Nat} {m : Alloc}
    (listed : m ∈ (s.unmapAlloc t base readers).allocs) (own : m.tenant = t) (at0 : m.base = base) :
    m.mapped = false ∧ m.freeing.isSome = true := by
  obtain ⟨k, -, rfl⟩ := State.mem_unmapAlloc.1 listed
  split at own
  · rename_i named
    rw [if_pos named]
    exact ⟨rfl, rfl⟩
  · rename_i other
    rw [if_neg other] at at0
    exact absurd ⟨own, at0⟩ other

/-- Every other allocation stays. -/
theorem State.unmapAlloc_other (s : State) {t base : Nat} (readers : List Nat) {m : Alloc} (other : m.tenant ≠ t ∨ m.base ≠ base) :
    m ∈ (s.unmapAlloc t base readers).allocs ↔ m ∈ s.allocs := by
  rw [State.mem_unmapAlloc]
  refine ⟨?_, fun listed => ⟨m, listed, if_neg (by tauto)⟩⟩
  rintro ⟨k, listed, rfl⟩
  split at other
  · rename_i named
    exact absurd named (not_and_or.2 other)
  · rename_i kept
    rwa [if_neg kept]

theorem vrFree_effect {s : State} {c : Nat} {x : Cmd} (run : Runs s c x) (vr : x.vr = 0x141) (none : x.argBase = 0)
    (ok : cleanBut x.args [(0, 8)] = true) (live : s.liveAlloc x.fn (x.a 0 8) = true) :
    ∃ s', exec (.vrFree c) s = .next s' ∧ (∀ m ∈ s'.allocs, m.tenant = x.fn → m.base = x.a 0 8 → m.mapped = false ∧ m.freeing.isSome = true) ∧
      (∀ m, (m.tenant ≠ x.fn ∨ m.base ≠ x.a 0 8) → (m ∈ s'.allocs ↔ m ∈ s.allocs)) ∧ SameBytes s s' ∧ Answered s' c stOk 0 0 10000 := by
  have effect : exec (.vrFree c) s = .next ((s.unmapAlloc x.fn (x.a 0 8) (s.earlier x)).finish c stOk 0 0) := by
    rw [exec_vrFree, execVrFree, run.runCmd_eq (by simp [vr])]
    simp [ok, live]
  have ends := (run.working.of_cmds (t := s.unmapAlloc x.fn (x.a 0 8) (s.earlier x)) rfl).finish stOk 0 0
  obtain ⟨dev, allocs⟩ := ends.noArgs none
  refine ⟨_, effect, fun m listed => State.unmapAlloc_freed (allocs ▸ listed), fun m other => ?_,
    .of_eq dev (congrArg State.cis ends.rest :) (congrArg (fun t : State => t.out.hostMem) ends.rest :), ends.entry⟩
  rw [allocs]
  exact s.unmapAlloc_other _ other

theorem vrFree_bad {s : State} {c : Nat} {x : Cmd} (run : Runs s c x) (vr : x.vr = 0x141) (ok : cleanBut x.args [(0, 8)] = true)
    (dead : s.liveAlloc x.fn (x.a 0 8) = false) : ∃ s', exec (.vrFree c) s = .next s' ∧ EndsWith s s' c x stBadHandle 0 x.pos 10000 := by
  refine ⟨_, ?_, run.working.fail stBadHandle⟩
  rw [exec_vrFree, execVrFree, run.runCmd_eq (by simp [vr])]
  simp [ok, dead]

/-! ## The return of the memory (R321, R322) -/

theorem allocationReturn_effect {s : State} {t b : Nat} {m : Alloc} {readers : List Nat} (live : s.live = true)
    (found : s.allocs.find? (fun m => m.tenant == t && m.base == b) = some m) (freeing : m.freeing = some readers)
    (ended : ∀ y ∈ s.cmds, y.id ∈ readers → y.phase = .ended) :
    ∃ s', exec (.allocationReturn t b) s = .next s' ∧ (∀ a ∈ s'.allocs, a.tenant ≠ t ∨ a.base ≠ b) ∧ (∀ u ∈ s'.units, u.uid ≠ .alloc t b) ∧
      (∀ i, i < m.size → s'.dev.rd (devKey t b + i) = 0) ∧ s'.cmds = s.cmds ∧ s'.out = s.out ∧ s'.regs = s.regs := by
  obtain ⟨rfl, rfl⟩ : m.tenant = t ∧ m.base = b := by simpa using List.find?_some found
  have idle : (s.cmds.any fun y => y.inFlight && readers.contains y.id) = false := by
    refine List.any_eq_false.2 fun y listed => ?_
    by_cases reads : y.id ∈ readers
    · simp [Cmd.inFlight, ended y listed reads]
    · simp [reads]
  have effect : exec (.allocationReturn m.tenant m.base) s = .next (s.returnAlloc m) := by
    rw [exec_allocationReturn, execAllocationReturn, found]
    simp only [freeing]
    rw [idle]
    simp [onlyIf, live]
  refine ⟨_, effect, fun a listed => ?_, fun u listed => ?_, fun i inside => Mem.rd_clear_in _ (Nat.le_add_right ..) (by omega), rfl, rfl, rfl⟩
  · have other := (List.mem_filter.1 listed).2
    simpa [imp_iff_not_or] using other
  · simpa using (List.mem_filter.1 listed).2

/-- Settles O39: an allocation is mapped, is unmapped, and returns. -/
theorem allocations : Obligations.Allocations := by
  unfold Obligations.Allocations
  refine ⟨?_, ?_, ?_⟩
  · intro s c x d run vr none ok hd
    exact ⟨fun room can fits => vrAlloc_effect run vr none ok hd room can fits, fun full => vrAlloc_quota run vr ok full⟩
  · intro s c x run vr none ok
    exact ⟨fun live => vrFree_effect run vr none ok live, fun dead => vrFree_bad run vr ok dead⟩
  · intro s t b m readers live found freeing ended
    exact allocationReturn_effect live found freeing ended

end Sys2Proof.Machine

/-! O40: completion of a command, its entry in a completion queue, and the queue's message (R306, R453, R454, R459, R486). -/
namespace Sys2Proof.Machine

/-! ## A field of a queue register -/

theorem State.hqFld_setHqFld_self (s : State) (fn o lo v : Nat) {hi : Nat} (h : hi < 64) :
    (s.setHqFld fn o hi lo v).hqFld fn o hi lo = v % 2 ^ (hi + 1 - lo) := by
  simp only [State.hqFld, State.setHqFld, State.setHqWord, State.hqWord, Map.getD_put_self, BitVec.toNat_ofNat]
  rw [field_mod_word _ _ h, field_setField_self]

theorem State.hqFld_congr {s t : State} (h : s.hq = t.hq) (fn o hi lo : Nat) : s.hqFld fn o hi lo = t.hqFld fn o hi lo := by
  rw [State.hqFld, State.hqFld, State.hqWord, State.hqWord, h]

theorem State.cqSt_congr {s t : State} (h : s.cq = t.cq) (fn q : Nat) : s.cqSt fn q = t.cqSt fn q := by
  rw [State.cqSt, State.cqSt, h]

@[simp] theorem State.cqSt_setCqSt_self (s : State) (fn q : Nat) (x : CqSt) : (s.setCqSt fn q x).cqSt fn q = x := Map.getD_put_self ..

theorem cqEntry_length (ty sq cmdid status count value bp : Nat) (p : Bool) (head : Nat) :
    (cqEntry ty sq cmdid status count value bp p head).length = 32 := by
  simp [cqEntry, toLe_length]

/-! ## The queue's message (R454) -/

theorem State.sendMsix_open {s : State} {fn v : Nat} (h : s.vecMasked fn v = false) :
    s.sendMsix fn v = { s with out := { s.out with msix := s.out.msix ++ [(fn, v)] } } := by
  unfold State.sendMsix
  dsimp only
  rw [h]
  rfl

/-- The message of a queue leaves its registers, its phase and the host's memory. -/
theorem State.cqSignal_kept (s : State) (fn q : Nat) :
    (s.cqSignal fn q).hq = s.hq ∧ ((s.cqSignal fn q).cqSt fn q).phase = (s.cqSt fn q).phase ∧
      (s.cqSignal fn q).out.hostMem = s.out.hostMem := by
  have sent := (s.setCqSt fn q { s.cqSt fn q with unsig := 0, firstUnsig := none }).sendMsix_frame fn (s.hqFld fn (oCqCfg q) 29 22)
  refine ⟨(congrArg State.hq sent :), ?_, (congrArg Outside.hostMem (State.sendMsix_out ..) :)⟩
  exact (congrArg CqSt.phase (State.cqSt_congr (congrArg State.cq sent :) fn q)).trans (congrArg CqSt.phase (State.cqSt_setCqSt_self ..) :)

theorem interruptTimer_effect {s : State} {fn q t : Nat} (live : s.live = true) (first : (s.cqSt fn q).firstUnsig = some t)
    (itime : s.hqFld fn (oCqCfg q) 47 32 ≠ 0) (enabled : s.hqFld fn (oCqCfg q) 30 30 = 1)
    (unmasked : s.vecMasked fn (s.hqFld fn (oCqCfg q) 29 22) = false) :
    ∃ s', exec (.interruptTimer fn q) s = .next s' ∧ s'.out.msix = s.out.msix ++ [(fn, s.hqFld fn (oCqCfg q) 29 22)] ∧
      (s'.cqSt fn q).unsig = 0 ∧ (s'.cqSt fn q).firstUnsig = none ∧
      s'.clock = Nat.max s.clock (t + s.hqFld fn (oCqCfg q) 47 32 * 1000000) ∧ s'.cmds = s.cmds ∧ SameBytes s s' := by
  have effect : exec (.interruptTimer fn q) s =
      .next ({ s with clock := Nat.max s.clock (t + s.hqFld fn (oCqCfg q) 47 32 * 1000000) }.cqSignal fn q) := by
    rw [exec_interruptTimer, execInterruptTimer, first]
    simp [onlyIf, live, itime, enabled, unmasked]
  refine ⟨_, effect.trans (congrArg _ (State.sendMsix_open unmasked)), rfl, ?_, ?_, rfl, rfl, SameBytes.refl s⟩
  · exact congrArg CqSt.unsig (State.cqSt_setCqSt_self ..)
  · exact congrArg CqSt.firstUnsig (State.cqSt_setCqSt_self ..)

/-! ## A command that is forgotten (R451, R459) -/

/-- `t` with what forgetting a command touches taken from `s`. -/
def State.butForgotten (s t : State) : State :=
  { t with cmds := s.cmds, frags := s.frags, sched := s.sched, wells := s.wells, allocs := s.allocs, colls := s.colls, regs := s.regs }

/-- The device without a command's fragments, its argument copy and the command itself. -/
def State.without (s : State) (c : Nat) (x : Cmd) : State :=
  { ((s.dropCommitting x).dropFrags fun f => f.cmd == c).stopWells c with
    cmds := s.cmds.filter fun y => y.id != c && !(y.parent.any fun f => ((s.frags.filter fun f => f.cmd == c).map (·.id)).contains f)
    allocs := s.allocs.filter fun m => !(x.argBase != 0 && m.tenant == x.fn && m.base == x.argBase) }

theorem State.without_frame (s : State) (c : Nat) (x : Cmd) : s.butForgotten (s.without c x) = s :=
  (congrArg s.butForgotten ((s.dropCommitting x).dropFrags_frame fun f => f.cmd == c) :).trans
    (congrArg s.butForgotten (s.dropCommitting_frame x) :)

theorem State.cmd?_without (s : State) (c : Nat) (x : Cmd) : (s.without c x).cmd? c = none :=
  List.find?_eq_none.2 fun y listed => by
    have other := (List.mem_filter.1 listed).2
    simp only [Bool.and_eq_true, bne_iff_ne] at other
    simpa using other.1

theorem State.cmd?_updCmd_none {s : State} {c : Nat} (gone : s.cmd? c = none) (d : Nat) (f : Cmd → Cmd) (keeps : ∀ y, (f y).id = y.id) :
    (s.updCmd d f).cmd? c = none := by
  by_cases h : c = d
  · subst h
    rw [s.cmd?_updCmd_self c f keeps, gone]
    rfl
  · rw [s.cmd?_updCmd_ne f keeps h, gone]

/-- Giving another command the slot brings none back. -/
theorem State.cmd?_reseat {s : State} {c : Nat} (gone : s.cmd? c = none) : s.reseat.cmd? c = none := by
  unfold State.reseat
  split
  · exact State.cmd?_updCmd_none gone _ (fun y => { y with slot := _ }) fun _ => rfl
  · exact gone

theorem State.reseat_frame (s : State) : { s.reseat with cmds := s.cmds, regs := s.regs } = s := by
  unfold State.reseat; split <;> rfl

/-- A forgotten command frees its slot, which the record of another may take. -/
theorem State.forgetCmd_eq {s : State} {c : Nat} {x : Cmd} (found : s.cmd? c = some x) :
    s.forgetCmd c = match x.slot with
      | none => s.without c x
      | some (n, _) => ((s.without c x).syncPool n).reseat := by
  unfold State.forgetCmd
  rw [found]
  rfl

theorem State.cmd?_forgetCmd {s : State} {c : Nat} {x : Cmd} (found : s.cmd? c = some x) : (s.forgetCmd c).cmd? c = none := by
  rw [State.forgetCmd_eq found]
  split
  · exact s.cmd?_without c x
  · exact State.cmd?_reseat (s.cmd?_without c x)

theorem State.forgetCmd_frame {s : State} {c : Nat} {x : Cmd} (found : s.cmd? c = some x) : s.butForgotten (s.forgetCmd c) = s := by
  rw [State.forgetCmd_eq found]
  split
  · exact s.without_frame c x
  · rename_i n _ _
    exact (congrArg s.butForgotten ((s.without c x).syncPool n).reseat_frame :).trans (s.without_frame c x)

/-! ## An entry of a completion queue (R453, R459) -/

/-- The entry at TAIL, TAIL one further, the phase turned round where it wraps, and one more entry not yet signalled. -/
def State.entryAt (s : State) (fn q : Nat) (entry : List Byte) : State :=
  let tail := (s.cqTail fn q + 1) % s.cqSize fn q
  let st := s.cqSt fn q
  ((s.wrote fn false ((s.hqWord fn (oCqBase q)).toNat + 32 * s.cqTail fn q) entry).setHqFld fn (oCqCfg q) 63 48 tail).setCqSt fn q
      { st with phase := if tail = 0 then !st.phase else st.phase, unsig := st.unsig + 1,
                firstUnsig := st.firstUnsig.orElse fun _ => some s.clock }

/-- The host takes the entry; it is signalled at once or not (R454). -/
theorem State.cqWrite_eq {s : State} {fn q : Nat} (taken : s.hostRefused fn ((s.hqWord fn (oCqBase q)).toNat + 32 * s.cqTail fn q) 32 = false)
    (ty sq cmdid status count value bp : Nat) :
    ∃ t, (t = s.entryAt fn q (cqEntry ty sq cmdid status count value bp (s.cqSt fn q).phase (s.sqHead fn sq)) ∨
        t = (s.entryAt fn q (cqEntry ty sq cmdid status count value bp (s.cqSt fn q).phase (s.sqHead fn sq))).cqSignal fn q) ∧
      s.cqWrite fn q ty sq cmdid status count value bp = t := by
  have written : s.hostWr fn ((s.hqWord fn (oCqBase q)).toNat + 32 * s.cqTail fn q)
      (cqEntry ty sq cmdid status count value bp (s.cqSt fn q).phase (s.sqHead fn sq)) =
        some (s.wrote fn false ((s.hqWord fn (oCqBase q)).toNat + 32 * s.cqTail fn q)
          (cqEntry ty sq cmdid status count value bp (s.cqSt fn q).phase (s.sqHead fn sq))) := by
    refine State.spaceWr_eq (dev := false) ?_
    rw [cqEntry_length, State.canWrite, taken]
    rfl
  refine ⟨_, ?_, rfl⟩
  unfold State.cqWrite
  dsimp only
  rw [written]
  dsimp only
  split
  · exact .inr rfl
  · exact .inl rfl

theorem State.entryAt_tail (s : State) (fn q : Nat) (entry : List Byte) :
    (s.entryAt fn q entry).cqTail fn q = (s.cqTail fn q + 1) % s.cqSize fn q := by
  have size : s.cqSize fn q ≤ 2 ^ 16 := field_lt _ 15 0
  have next : (s.cqTail fn q + 1) % s.cqSize fn q < 2 ^ (63 + 1 - 48) := (Nat.mod_lt _ (Nat.succ_pos _)).trans_le size
  exact (State.hqFld_setHqFld_self _ fn (oCqCfg q) 48 _ (by decide)).trans (Nat.mod_eq_of_lt next)

/-- What an entry written to an enabled queue leaves to be seen. -/
structure EntrySeen (s t : State) (fn q : Nat) (entry : List Byte) : Prop where
  tail : t.cqTail fn q = (s.cqTail fn q + 1) % s.cqSize fn q
  phase : (t.cqSt fn q).phase = if (s.cqTail fn q + 1) % s.cqSize fn q = 0 then !(s.cqSt fn q).phase else (s.cqSt fn q).phase
  bytes : t.hostBytes fn ((s.hqWord fn (oCqBase q)).toNat + 32 * s.cqTail fn q) 32 = entry

theorem State.entryAt_seen (s : State) (fn q : Nat) {entry : List Byte} (whole : entry.length = 32) :
    EntrySeen s (s.entryAt fn q entry) fn q entry where
  tail := s.entryAt_tail fn q entry
  phase := congrArg CqSt.phase (State.cqSt_setCqSt_self ..)
  bytes := by
    have read := Mem.rdN_wrN s.out.hostMem (hostKey fn ((s.hqWord fn (oCqBase q)).toNat + 32 * s.cqTail fn q)) entry
    rw [whole] at read
    exact read

/-- Queue registers, phases and host memory alone show an entry. -/
theorem EntrySeen.congr {s t u : State} {fn q : Nat} {entry : List Byte} (h : EntrySeen s t fn q entry) (hq : u.hq = t.hq)
    (phase : (u.cqSt fn q).phase = (t.cqSt fn q).phase) (host : u.out.hostMem = t.out.hostMem) : EntrySeen s u fn q entry where
  tail := (State.hqFld_congr hq ..).trans h.tail
  phase := phase.trans h.phase
  bytes := (congrArg (fun m : Mem => m.rdN _ 32) host).trans h.bytes

theorem State.cqWrite_seen {s : State} {fn q : Nat} (taken : s.hostRefused fn ((s.hqWord fn (oCqBase q)).toNat + 32 * s.cqTail fn q) 32 = false)
    (ty sq cmdid status count value bp : Nat) :
    EntrySeen s (s.cqWrite fn q ty sq cmdid status count value bp) fn q
      (cqEntry ty sq cmdid status count value bp (s.cqSt fn q).phase (s.sqHead fn sq)) := by
  have seen := s.entryAt_seen fn q (cqEntry_length ty sq cmdid status count value bp (s.cqSt fn q).phase (s.sqHead fn sq))
  obtain ⟨t, rfl | rfl, same⟩ := State.cqWrite_eq taken ty sq cmdid status count value bp
  · exact same ▸ seen
  · obtain ⟨hq, phase, host⟩ := (s.entryAt fn q (cqEntry ty sq cmdid status count value bp (s.cqSt fn q).phase (s.sqHead fn sq))).cqSignal_kept fn q
    exact same ▸ seen.congr hq phase host

/-! ## The end of a command as the host sees it -/

theorem commandComplete_effect {s : State} {c : Nat} {x : Cmd} (live : s.live = true) (found : s.cmd? c = some x) (queued : x.parent = none)
    (admitted : x.phase = .admitted) (launch : x.opc = 1) (tenant : x.varelm = false) (started : x.started = true)
    (committed : ∀ f ∈ s.frags, f.cmd ≠ c) :
    ∃ s', exec (.commandComplete c) s = .next s' ∧ EndsWith s s' c x x.status 0 x.pos 10000 := by
  have none : (s.frags.any fun f => f.cmd == c) = false := List.any_eq_false.2 fun f listed => by simp [committed f listed]
  refine ⟨_, ?_, (Working.mk found admitted queued).finish x.status 0 x.pos⟩
  rw [exec_commandComplete, execCommandComplete, found]
  dsimp only
  rw [none]
  simp [onlyIf, live, admitted, launch, tenant, started]

theorem completionEntry_written {s : State} {c q : Nat} {x : Cmd} (awake : s.awake = true) (running : s.fld oSafStatus 0 0 = 0)
    (found : s.cmd? c = some x) (ended : x.phase = .ended) (queued : x.parent = none) (queue : x.cq = some q) (enabled : s.cqEn x.fn q = true)
    (room : 0 < s.cqFree x.fn q) (taken : s.hostRefused x.fn ((s.hqWord x.fn (oCqBase q)).toNat + 32 * s.cqTail x.fn q) 32 = false) :
    ∃ s', exec (.completionEntry c) s = .next s' ∧ s'.cmd? c = none ∧
      EntrySeen s s' x.fn q (cqEntry 0 x.sq x.cmdid x.status x.count x.value x.finalBp (s.cqSt x.fn q).phase (s.sqHead x.fn x.sq)) := by
  obtain ⟨y, still, -⟩ := (Progressed.cqWrite s x.fn q 0 x.sq x.cmdid x.status x.count x.value x.finalBp).cmds c x found
  have frame := State.forgetCmd_frame still
  refine ⟨_, ?_, State.cmd?_forgetCmd still, (State.cqWrite_seen taken 0 x.sq x.cmdid x.status x.count x.value x.finalBp).congr
    (congrArg State.hq frame :) (congrArg (fun t : State => (t.cqSt x.fn q).phase) frame :) (congrArg (fun t : State => t.out.hostMem) frame :)⟩
  have onQueue : (x.cq.filter fun q => s.cqEn x.fn q) = some q := by simp [queue, enabled]
  rw [exec_completionEntry, execCompletionEntry, found]
  simp [onlyIf, awake, running, ended, queued, onQueue, room]

theorem completionEntry_dropped {s : State} {c : Nat} {x : Cmd} (awake : s.awake = true) (running : s.fld oSafStatus 0 0 = 0)
    (found : s.cmd? c = some x) (ended : x.phase = .ended) (queued : x.parent = none) (disabled : ∀ q, x.cq = some q → s.cqEn x.fn q = false) :
    ∃ s', exec (.completionEntry c) s = .next s' ∧ s'.cmd? c = none ∧ s'.out = s.out ∧ s'.hq = s.hq := by
  have frame := State.forgetCmd_frame found
  have none : (x.cq.filter fun q => s.cqEn x.fn q) = none := by simpa [Option.filter_eq_none_iff] using disabled
  refine ⟨_, ?_, State.cmd?_forgetCmd found, (congrArg State.out frame :), (congrArg State.hq frame :)⟩
  rw [exec_completionEntry, execCompletionEntry, found]
  simp [onlyIf, awake, running, ended, queued, none]

end Sys2Proof.Machine

/-! O40: a failed host access ends a command (R486), whatever the stopped command still writes (R478). -/
namespace Sys2Proof.Machine

/-! ## What a stopped command writes -/

/-- Between `s` and `t` bytes are written: the commands and the AER log are the same. -/
structure OnlyWrites (s t : State) : Prop where
  cmds : t.cmds = s.cmds
  aer : t.out.aer = s.out.aer

theorem OnlyWrites.refl (s : State) : OnlyWrites s s := ⟨rfl, rfl⟩

theorem OnlyWrites.trans {s t u : State} (h : OnlyWrites s t) (h' : OnlyWrites t u) : OnlyWrites s u :=
  ⟨h'.cmds.trans h.cmds, h'.aer.trans h.aer⟩

theorem OnlyWrites.spaceWr {s t : State} {fn : Nat} {dev : Bool} {a : Nat} {bs : List Byte} (h : s.spaceWr fn dev a bs = some t) :
    OnlyWrites s t := by
  unfold State.spaceWr State.hostWr at h
  split at h
  · split at h
    · obtain rfl := Option.some.inj h
      exact ⟨rfl, rfl⟩
    · cases h
  · split at h
    · cases h
    · obtain rfl := Option.some.inj h
      exact ⟨rfl, rfl⟩

/-- A write that may fail, and then writes nothing. -/
theorem OnlyWrites.getD {s : State} {o : Option State} (h : ∀ t, o = some t → OnlyWrites s t) : OnlyWrites s (o.getD s) := by
  cases o with
  | none => exact .refl s
  | some t => exact h t rfl

theorem OnlyWrites.ite {s t u : State} {p : Prop} [Decidable p] (h : OnlyWrites s t) (h' : OnlyWrites s u) : OnlyWrites s (if p then t else u) := by
  split
  · exact h
  · exact h'

theorem OnlyWrites.blur (s : State) (fn : Nat) (dev : Bool) (a n : Nat) : OnlyWrites s (s.blur fn dev a n) :=
  .ite (.refl s) (.trans (List.foldlRecOn (motive := OnlyWrites s) _ _ (.refl s) fun _ done _ _ =>
    done.trans (.getD fun _ => .spaceWr)) ⟨rfl, rfl⟩)

theorem OnlyWrites.smear (s : State) (x : Cmd) (status : Nat) : OnlyWrites s (s.smear x status) :=
  .ite (.refl s) (.ite (.ite (.refl s) (.blur ..)) (.ite (.ite (.refl s) (.blur ..)) (.ite (.blur ..)
    (.ite (.trans (.blur ..) (.blur ..)) (.refl s)))))

theorem OnlyWrites.lastWrites (s : State) (x : Cmd) : OnlyWrites s (s.lastWrites x) := by
  refine .ite (.refl s) (.ite (.getD fun _ => .spaceWr) (.ite (.getD fun _ => .spaceWr) (.ite (.getD fun _ => .spaceWr) (.ite ?_ (.refl s)))))
  dsimp only
  split
  · exact .spaceWr ‹_›
  · exact .ite (.refl s) (.blur ..)

theorem OnlyWrites.blurRest (s : State) (x : Cmd) (status : Nat) (dev : Bool) (dst : Nat) : OnlyWrites s (s.blurRest x status dev dst) :=
  .ite (.blur ..) (.refl s)

theorem OnlyWrites.releaseTemp (s : State) (x : Cmd) : OnlyWrites s (s.releaseTemp x) :=
  have frame := s.releaseTemp_frame x
  ⟨(congrArg State.cmds frame :), (congrArg (fun t : State => t.out.aer) frame :)⟩

theorem OnlyWrites.putRecord {s t : State} {x : Cmd} {g g' : GenSt} {ty bytepos : Nat} {data : List Byte}
    (h : s.putRecord x g ty bytepos data = some (t, g')) : OnlyWrites s t := by
  simp only [State.putRecord, Option.bind_eq_some_iff, Option.map_eq_some_iff, Prod.mk.injEq] at h
  obtain ⟨body, wroteBody, next, wroteNext, head, wroteHead, last, wroteSeq, rfl, -⟩ := h
  refine (OnlyWrites.spaceWr wroteBody).trans (.trans ?_ ((OnlyWrites.spaceWr wroteHead).trans (.spaceWr wroteSeq)))
  split at wroteNext
  · exact .spaceWr wroteNext
  · exact Option.some.inj wroteNext ▸ .refl body

/-! ## A generation that fails (R287) -/

/-- Between `s` and `t` bytes are written and failed accesses logged. -/
structure OnlyLogs (s t : State) : Prop where
  cmds : t.cmds = s.cmds
  aer : s.out.aer <+: t.out.aer

theorem OnlyWrites.logs {s t : State} (h : OnlyWrites s t) : OnlyLogs s t := ⟨h.cmds, h.aer ▸ List.prefix_rfl⟩

theorem OnlyLogs.trans {s t u : State} (h : OnlyLogs s t) (h' : OnlyLogs t u) : OnlyLogs s u :=
  ⟨h'.cmds.trans h.cmds, h.aer.trans h'.aer⟩

/-- The log of a failed access to the host; one to device space is not logged. -/
theorem OnlyLogs.failedAccess (s : State) (dev : Bool) (fn : Nat) :
    OnlyLogs s (if dev then s else { s with out := { s.out with aer := s.out.aer ++ [fn] } }) := by
  split
  · exact (OnlyWrites.refl s).logs
  · exact ⟨rfl, List.prefix_append ..⟩

/-- The command `x` ends with `ST_BAD_ADDRESS` after writes and logged accesses alone. -/
def EndsBad (s s' : State) (x : Cmd) : Prop := ∃ t n, OnlyLogs s t ∧ s' = t.finish x.id stBadAddress 0 n

theorem EndsBad.after {s t u : State} {x : Cmd} (h : OnlyLogs s t) (ends : EndsBad t u x) : EndsBad s u x := by
  obtain ⟨v, n, logs, same⟩ := ends
  exact ⟨v, n, h.trans logs, same⟩

theorem OnlyWrites.recordOr (s : State) (x : Cmd) (g : GenSt) (ty bytepos : Nat) (data : List Byte) :
    OnlyWrites s (((s.putRecord x g ty bytepos data).map (·.1)).getD s) :=
  .getD fun _ some => by
    obtain ⟨⟨t, g'⟩, wrote, rfl⟩ := Option.map_eq_some_iff.1 some
    exact .putRecord wrote

theorem State.failGen_bad (s : State) (x : Cmd) (g : GenSt) : EndsBad s (s.failGen x g stBadAddress) x := by
  unfold State.failGen State.endGen
  rw [if_pos (.inr rfl), State.release, if_pos (Nat.le_refl _)]
  dsimp only
  split
  next => exact ⟨_, _, (OnlyLogs.failedAccess s (x.genFlag 3) x.fn).trans ((OnlyWrites.recordOr ..).trans (.releaseTemp _ x)).logs, rfl⟩
  next t g' wrote => exact ⟨_, _, (OnlyWrites.trans (.putRecord wrote) (.releaseTemp t x)).logs, rfl⟩

theorem State.genBad_bad (s : State) (x : Cmd) (g : GenSt) (dev : Bool) : EndsBad s (s.genBad x g dev) x := by
  unfold State.genBad
  refine EndsBad.after ?_ (State.failGen_bad ..)
  cases dev
  · exact ⟨rfl, List.prefix_append ..⟩
  · exact ⟨rfl, List.prefix_rfl⟩

theorem State.failUnbegun_bad (s : State) (x : Cmd) : EndsBad s (s.failUnbegun x stBadAddress) x := by
  unfold State.failUnbegun
  dsimp only
  split
  next => exact s.genBad_bad ..
  next t wrote => exact .after (OnlyWrites.spaceWr wrote).logs (t.failGen_bad ..)

/-! ## A command that is stopped (R478) -/

/-- The device without the moves that a stopped command demanded and that have not switched. -/
def State.undemanded (s : State) (c : Nat) : State :=
  { s with moves := s.moves.filter fun m => m.switched || (m.demand.map (·.1)) != some c }

/-- A command without work in flight that is no `vr.generate` ends after writes alone. -/
theorem Working.stopCmd {s : State} {c : Nat} {x : Cmd} (h : Working s c x) (idle : x.work = .idle) (other : ¬ (x.vr = 0x131 ∧ !x.args.isEmpty))
    (status : Nat) : ∃ t n v, OnlyWrites s t ∧ s.stopCmd c status = t.endCmd c status n v v 10000 := by
  have smeared := OnlyWrites.trans (s := s) (t := s.undemanded c) ⟨rfl, rfl⟩ (.smear (s.undemanded c) x status)
  have wrote : OnlyWrites s (if status = stBadAddress ∧ x.vr = 0x120 then (s.undemanded c).smear x status
      else ((s.undemanded c).smear x status).lastWrites x) := .ite smeared (smeared.trans (.lastWrites ..))
  unfold State.stopCmd
  rw [h.found]
  dsimp only
  rw [h.admitted, if_neg (by decide), idle]
  dsimp only
  rw [if_neg other]
  split
  · exact ⟨_, _, _, wrote, rfl⟩
  · exact ⟨_, _, _, wrote.trans (.blurRest ..), rfl⟩
  · exact ⟨_, _, _, wrote.trans (.blurRest ..), rfl⟩
  · refine ⟨_, _, _, ?_, rfl⟩
    exact wrote.trans ⟨rfl, rfl⟩

/-- A `vr.generate` that has not begun ends with its stream's END record alone. -/
theorem Working.stopCmd_unbegun {s : State} {c : Nat} {x : Cmd} (h : Working s c x) (idle : x.work = .idle) (generate : x.vr = 0x131 ∧ !x.args.isEmpty) :
    EndsBad s (s.stopCmd c stBadAddress) x := by
  unfold State.stopCmd
  rw [h.found]
  dsimp only
  rw [h.admitted, if_neg (by decide), idle]
  dsimp only
  rw [if_pos generate]
  exact .after (t := s.undemanded c) ⟨rfl, List.prefix_rfl⟩ (State.failUnbegun_bad ..)

/-! ## The failed access (R486) -/

theorem EndsWith.no_frags {s s' : State} {c st ct v bp : Nat} {x : Cmd} (h : EndsWith s s' c x st ct v bp) : ∀ f ∈ s'.frags, f.cmd ≠ c := by
  intro f listed
  rw [h.frags] at listed
  simpa using (List.mem_filter.1 listed).2

theorem hostAccessFault_effect {s : State} {c : Nat} {x : Cmd} (live : s.live = true) (found : s.cmd? c = some x) (queued : x.parent = none)
    (admitted : x.phase = .admitted) (host : x.usesHost = true) (idle : x.work = .idle) :
    ∃ s' y, exec (.hostAccessFault c) s = .next s' ∧ s'.cmd? c = some y ∧ y.phase = .ended ∧ y.status = stBadAddress ∧
      (s.out.aer ++ [x.fn]) <+: s'.out.aer ∧ (x.vr ≠ 0x131 → s'.out.aer = s.out.aer ++ [x.fn]) ∧ ∀ f ∈ s'.frags, f.cmd ≠ c := by
  have runs : exec (.hostAccessFault c) s = .next ({ s with out := { s.out with aer := s.out.aer ++ [x.fn] } }.stopCmd c stBadAddress) := by
    rw [exec_hostAccessFault, execHostAccessFault, found]
    simp [onlyIf, live, admitted, host]
  have work : Working { s with out := { s.out with aer := s.out.aer ++ [x.fn] } } c x := ⟨found, admitted, queued⟩
  by_cases generate : x.vr = 0x131 ∧ !x.args.isEmpty
  · obtain ⟨t, n, logs, ends⟩ := work.stopCmd_unbegun idle generate
    have done := (work.of_cmds logs.cmds).finish stBadAddress 0 n
    obtain ⟨y, entry, ended, status, -⟩ := done.entry
    have same := congrArg (fun u : State => u.out.aer) done.rest
    rw [ends, work.id_eq] at runs
    exact ⟨_, y, runs, entry, ended, status, same ▸ logs.aer, fun other => absurd generate.1 other, done.no_frags⟩
  · obtain ⟨t, n, v, wrote, ends⟩ := work.stopCmd idle generate stBadAddress
    have done := (work.of_cmds wrote.cmds).endCmd stBadAddress n v v 10000
    obtain ⟨y, entry, ended, status, -⟩ := done.entry
    have same : (t.endCmd c stBadAddress n v v 10000).out.aer = s.out.aer ++ [x.fn] :=
      (congrArg (fun u : State => u.out.aer) done.rest :).trans wrote.aer
    rw [ends] at runs
    exact ⟨_, y, runs, entry, ended, status, same ▸ List.prefix_rfl, fun _ => same, done.no_frags⟩

/-- Settles O40: a completion ends as `endCmd` says; the entry is the model's `cqEntry` in host memory, which the message that may follow and the
forgetting of the command leave; a failed access is logged before the stopped command's own writes, of which only a stream's can log more. -/
theorem completionEntries : Obligations.CompletionEntries := by
  unfold Obligations.CompletionEntries
  refine ⟨?complete, ?entry, ?dropped, ?message, ?fault⟩
  case complete =>
    intro s c x live found queued admitted launch tenant started committed
    exact commandComplete_effect live found queued admitted launch tenant started committed
  case entry =>
    intro s c x q awake running _ found ended queued queue enabled room taken
    obtain ⟨s', runs, gone, tail, phase, bytes⟩ := completionEntry_written awake running found ended queued queue enabled room taken
    exact ⟨s', runs, gone, tail, phase, bytes⟩
  case dropped =>
    intro s c x awake running found ended queued disabled
    exact completionEntry_dropped awake running found ended queued disabled
  case message =>
    intro s fn q t live first itime enabled unmasked
    exact interruptTimer_effect live first itime enabled unmasked
  case fault =>
    intro s c x live found queued admitted host idle
    exact hostAccessFault_effect live found queued admitted host idle

end Sys2Proof.Machine

/-! O43: what the scheduler's bookkeeping leaves of the device (R309, R538, R539, R554). -/
namespace Sys2Proof.Machine

theorem State.noteWaiting_frame (s : State) (t c : Nat) : { s.noteWaiting t c with regs := s.regs, sched := s.sched } = s := by
  have marks (u : State) (o depth sojourn : Nat) (same : ({ u with regs := s.regs, sched := s.sched } : State) = s) :
      ({ u.markQueue o depth sojourn with regs := s.regs, sched := s.sched } : State) = s :=
    (congrArg (fun v : State => { v with regs := s.regs, sched := s.sched }) (u.markQueue_frame o depth sojourn) :).trans same
  unfold State.noteWaiting
  apply marks
  split
  · rfl
  · split <;> split <;> rfl

theorem State.noteDispatch_frame (s : State) (x : Frag) : { s.noteDispatch x with regs := s.regs } = s := by
  have marks := s.markQueue_frame (oSchQs x.tenant x.cls) (s.schDepth x.tenant x.cls) ((s.clock - x.readyAt) / 1000)
  unfold State.noteDispatch
  dsimp only
  split
  · exact marks
  · exact marks

theorem State.chargeTags_frame (s : State) (x : Frag) : { s.chargeTags x with sched := s.sched } = s := by
  unfold State.chargeTags; split <;> rfl

end Sys2Proof.Machine

/-! O43: the dispatch of a fragment (R300, R538, R539). -/
namespace Sys2Proof.Machine

/-- The members of a fragment's run on these clusters. -/
def State.startMembers (s : State) (x : Frag) (ls : List Nat) : List Member := ls.zipIdx.map fun p => s.startMember x p.2 p.1

/-- A fragment as its dispatch leaves it. -/
def State.startRun (s : State) (x : Frag) (ls : List Nat) (y : Frag) : Frag :=
  { y with phase := .running, members := s.startMembers x ls, dispAt := s.clock, charged := if x.cls = 0 then 0 else s.estimate x.tenant x.cls }

/-- The wakes that a dispatch to gated clusters waits for. -/
def State.awaitWakes (s t : State) (x : Frag) (ls : List Nat) : State :=
  ls.foldl (fun t l => if s.asleep l then t.updCluster l fun k => { k with waking := k.waking ++ [x.id] } else t) t

/-- The device made ready for a run: marks and tags charged, areas cleared, wakes asked for. -/
def State.prepare (s : State) (x : Frag) (ls : List Nat) : State :=
  s.awaitWakes { (s.noteDispatch x).chargeTags x with
    cis := (s.startMembers x ls).foldl (fun m y => Mem.clear m (cisKey y.cluster y.base) (x.cis * 65536)) s.cis } x ls

theorem State.dispatch_eq {x : Frag} (program : x.isVarelm = false) (s : State) (ls : List Nat) :
    s.dispatch x ls = (s.prepare x ls).updFrag x.id (s.startRun x ls) := by
  unfold State.dispatch
  simp only [program, Bool.false_eq_true, if_false]
  rfl

theorem State.awaitWakes_frame (s t : State) (x : Frag) (ls : List Nat) : { s.awaitWakes t x ls with clusters := t.clusters } = t :=
  List.foldlRecOn (motive := fun u : State => ({ u with clusters := t.clusters } : State) = t) ls _ rfl fun u same l _ => by
    split
    · exact same
    · exact same

/-- `t` with what the preparation of a run touches taken from `s`. -/
def State.butPrepared (s t : State) : State := { t with regs := s.regs, sched := s.sched, cis := s.cis, clusters := s.clusters }

theorem State.prepare_frame (s : State) (x : Frag) (ls : List Nat) : s.butPrepared (s.prepare x ls) = s :=
  (congrArg s.butPrepared (s.awaitWakes_frame _ x ls) :).trans
    ((congrArg s.butPrepared ((s.noteDispatch x).chargeTags_frame x) :).trans (congrArg s.butPrepared (s.noteDispatch_frame x) :))

theorem State.prepare_cis (s : State) (x : Frag) (ls : List Nat) :
    (s.prepare x ls).cis = (s.startMembers x ls).foldl (fun m y => Mem.clear m (cisKey y.cluster y.base) (x.cis * 65536)) s.cis :=
  (congrArg State.cis (s.awaitWakes_frame _ x ls) :)

/-- Areas cleared one after the other: a byte of any of them reads zero. -/
theorem Mem.rd_foldl_clear {n o : Nat} (low : o < n) {y : Member} {ys : List Member} (listed : y ∈ ys) (m : Mem) :
    (ys.foldl (fun m y => Mem.clear m (cisKey y.cluster y.base) n) m).rd (cisKey y.cluster y.base + o) = 0 := by
  have stays (zs : List Member) (m : Mem) (a : Nat) (zero : m.rd a = 0) :
      (zs.foldl (fun m y => Mem.clear m (cisKey y.cluster y.base) n) m).rd a = 0 :=
    List.foldlRecOn (motive := fun m : Mem => m.rd a = 0) zs _ zero fun m zero y _ => by
      rw [Mem.rd_clear, zero, ite_self]
  obtain ⟨before, after, rfl⟩ := List.append_of_mem listed
  rw [List.foldl_append, List.foldl_cons]
  exact stays after _ _ (Mem.rd_clear_in _ (Nat.le_add_right _ _) (Nat.add_lt_add_left low _))

theorem State.startMembers_get? (s : State) (x : Frag) {ls : List Nat} {m l : Nat} (at_ : ls[m]? = some l) :
    (s.startMembers x ls)[m]? = some (s.startMember x m l) := by
  simp [State.startMembers, at_]

theorem State.startMembers_clusters (s : State) (x : Frag) (ls : List Nat) : (s.startMembers x ls).map (·.cluster) = ls := by
  simp [State.startMembers, State.startMember, Function.comp_def]

theorem State.startMember_thread (s : State) (x : Frag) (m l : Nat) {i : Nat} (low : i < x.nthreads) :
    (s.startMember x m l).threads[i]? = some (x.startThread (s.asleep l) m i) := by
  simp [State.startMember, low]

theorem frag?_dispatch {s : State} {x : Frag} (found : s.frag? x.id = some x) (program : x.isVarelm = false) (ls : List Nat) :
    (s.dispatch x ls).frag? x.id = some (s.startRun x ls x) := by
  rw [State.dispatch_eq program, frag?_updFrag_self _ _ (s.startRun x ls) fun _ => rfl]
  exact congrArg (Option.map _) ((congrArg (fun t : State => t.frag? x.id) (s.prepare_frame x ls) :).trans found)

theorem member?_dispatch {s : State} {x : Frag} (found : s.frag? x.id = some x) (program : x.isVarelm = false) {ls : List Nat} {m l : Nat}
    (at_ : ls[m]? = some l) : (s.dispatch x ls).member? x.id m = some (s.startMember x m l) := by
  rw [State.member?, frag?_dispatch found program]
  exact s.startMembers_get? x at_

theorem fragmentDispatch_effect {s : State} {x : Frag} {ls : List Nat} (active : s.active = true) (cool : s.tripped = false)
    (next : s.nextDispatch = some x) (found : s.frag? x.id = some x) (program : x.isVarelm = false) (good : s.goodClusters x ls = true) :
    ∃ s' y, exec (.fragmentDispatch x.id ls) s = .next s' ∧ s'.frag? x.id = some y ∧ y.phase = .running ∧ y.members.map (·.cluster) = ls ∧
      y.dispAt = s.clock ∧ y.desc = x.desc ∧ s'.dev = s.dev ∧ s'.out = s.out ∧
      ∀ (m l i : Nat), ls[m]? = some l → i < x.nthreads →
        ∃ th b, s'.thread? ⟨x.id, m, i⟩ = some th ∧ th.pc = x.df 0 31 0 ∧ th.rg 1 = BitVec.ofNat 64 (leAt x.desc 0x10 8) ∧ th.rg 2 = BitVec.ofNat 64 i ∧
          th.rg 3 = BitVec.ofNat 64 m ∧ th.rg 4 = BitVec.ofNat 64 x.gang ∧ th.rg 5 = BitVec.ofNat 64 (x.cis * 65536) ∧
          th.st = (if s.asleep l then .free else .ready) ∧ (s'.member? x.id m).map (·.base) = some b ∧
          ∀ o, o < x.cis * 65536 → s'.cis.rd (cisKey l (b + o)) = 0 := by
  have runs : exec (.fragmentDispatch x.id ls) s = .next (s.dispatch x ls) := by
    rw [exec_fragmentDispatch, execFragmentDispatch, next]
    simp [onlyIf, active, cool, good]
  have prepared := s.prepare_frame x ls
  have same := State.dispatch_eq program s ls
  refine ⟨_, _, runs, frag?_dispatch found program ls, rfl, s.startMembers_clusters x ls, rfl, rfl, same ▸ (congrArg State.dev prepared :),
    same ▸ (congrArg State.out prepared :), fun m l i at_ low => ?_⟩
  have member := member?_dispatch found program at_
  have thread : (s.dispatch x ls).thread? ⟨x.id, m, i⟩ = some (x.startThread (s.asleep l) m i) := by
    rw [State.thread?, member]
    exact s.startMember_thread x m l low
  refine ⟨_, _, thread, rfl, rfl, rfl, rfl, rfl, rfl, rfl, congrArg _ member, fun o inside => ?_⟩
  have cleared := Mem.rd_foldl_clear inside (List.mem_of_getElem? (s.startMembers_get? x at_)) s.cis
  rw [← s.prepare_cis x ls] at cleared
  rw [same, cisKey, ← Nat.add_assoc]
  exact cleared

end Sys2Proof.Machine

/-! O43: the wake of a gated cluster (R638). -/
namespace Sys2Proof.Machine

def Thread.woken (th : Thread) : Thread := if th.st = .free then { th with st := .ready } else th

/-- A member on the cluster that wakes. -/
def Member.woken (l : Nat) (m : Member) : Member := if m.cluster = l then { m with threads := m.threads.map Thread.woken } else m

/-- A fragment whose threads the wake of the cluster starts. -/
def State.wokenBy (s : State) (l : Nat) (x : Frag) : Frag :=
  if (s.cluster l).waking.contains x.id && x.phase == .running then { x with members := x.members.map (Member.woken l) } else x

theorem State.wokenBy_id (s : State) (l : Nat) : KeepsId (s.wokenBy l) := fun x => by
  unfold State.wokenBy; split <;> rfl

theorem State.frag?_map {s t : State} {g : Frag → Frag} (keeps : KeepsId g) (frags : t.frags = s.frags.map g) (f : Nat) :
    t.frag? f = (s.frag? f).map g := by
  rw [State.frag?, frags, List.find?_map]
  exact congrArg (fun p => (s.frags.find? p).map g) (funext fun x => by simp [keeps x])

theorem clusterWake_effect {s : State} {l x i : Nat} {m : Frag} {mb : Member} {th : Thread} (active : s.active = true) (found : s.frag? x = some m)
    (running : m.phase = .running) (awaited : x ∈ (s.cluster l).waking) (member : m.members[i]? = some mb) (here : mb.cluster = l)
    (single : mb.threads = [th]) (free : th.st = .free) :
    ∃ s', exec (.clusterWake l) s = .next s' ∧ (s'.cluster l).gating = .running ∧ (s'.cluster l).waking = [] ∧
      s'.thread? ⟨x, i, 0⟩ = some { th with st := .ready } ∧ { s' with frags := s.frags, clusters := s.clusters } = s := by
  have runs : exec (.clusterWake l) s =
      .next ({ s with frags := s.frags.map (s.wokenBy l) }.setCluster l { s.cluster l with gating := .running, waking := [] }) := by
    have waits : (s.cluster l).waking.isEmpty = false := by simpa using List.ne_nil_of_mem awaited
    rw [exec_clusterWake, execClusterWake]
    simp only [onlyIf, active, waits, Bool.not_false, Bool.true_or, Bool.and_self, if_true]
    rfl
  have id : m.id = x := by simpa using List.find?_some found
  have woken : s.wokenBy l m = { m with members := m.members.map (Member.woken l) } := by
    simp [State.wokenBy, id, awaited, running]
  refine ⟨_, runs, ?_, ?_, ?_, rfl⟩
  · rw [State.cluster, State.setCluster, Map.getD_put_self]
  · rw [State.cluster, State.setCluster, Map.getD_put_self]
  · rw [State.thread?, State.member?, State.frag?_map (s.wokenBy_id l) rfl, found]
    simp [woken, member, Member.woken, here, single, Thread.woken, free]

end Sys2Proof.Machine

/-! O43: a run lost to a hardware fault (R309). -/
namespace Sys2Proof.Machine

/-- A fragment whose run is discarded, ready for another dispatch. -/
def Frag.again (clock : Nat) (x : Frag) : Frag :=
  { x with phase := .dispatchable, members := [], posts := [], logs := [], status := none, prog2 := none, held := [],
           inner := false, readyAt := clock, dispAt := 0, waitFrom := clock, missed := false, charged := 0 }

/-- The device when a run has been charged, and cut off from what it left at work. -/
def State.discarded (s : State) (x : Frag) (f : Nat) : State := ((s.chargeRun x).noteWaiting x.tenant x.cls).cutRun f

/-- `t` with what the discard of a run touches taken from `s`, the fragments apart. -/
def State.butDiscarded (s t : State) : State := { t with regs := s.regs, sched := s.sched, clusters := s.clusters, wells := s.wells }

theorem State.discarded_frame (s : State) (x : Frag) (f : Nat) : s.butDiscarded (s.discarded x f) = s :=
  (congrArg s.butDiscarded ((s.chargeRun x).noteWaiting_frame x.tenant x.cls) :).trans (congrArg s.butDiscarded (s.chargeRun_frame x) :)

theorem State.redispatch_eq {s : State} {f : Nat} {x : Frag} (found : s.frag? f = some x) :
    s.redispatch f = (s.discarded x f).updFrag f (Frag.again s.clock) := by
  unfold State.redispatch
  rw [found]
  rfl

theorem frag?_redispatch {s : State} {f : Nat} {x : Frag} (found : s.frag? f = some x) : (s.redispatch f).frag? f = some (x.again s.clock) := by
  rw [State.redispatch_eq found, frag?_updFrag_self _ _ (Frag.again s.clock) fun _ => rfl]
  exact congrArg (Option.map _) ((congrArg (fun t : State => t.frag? f) (s.discarded_frame x f) :).trans found)

/-- What runs when a fragment of a tenant program loses its run. -/
theorem fragmentReissue_runs {s : State} {f : Nat} {x : Frag} (live : s.live = true) (found : s.frag? f = some x) (running : x.phase = .running)
    (program : x.isVarelm = false) : exec (.fragmentReissue f .other) s = .next (s.loseRun f) := by
  have rule : execFragmentReissue f .other s = (match s.frag? f with
      | none => .next s
      | some x => onlyIf (s.live && x.phase == .running && !x.isVarelm && unitOk .other) s fun s => s.loseRun f) := rfl
  rw [exec_fragmentReissue, rule, found]
  simp [onlyIf, live, running, program, unitOk]

theorem fragmentReissue_again {s : State} {f : Nat} {x : Frag} (live : s.live = true) (found : s.frag? f = some x) (running : x.phase = .running)
    (program : x.isVarelm = false) (few : x.reissues < 3) :
    ∃ s' y, exec (.fragmentReissue f .other) s = .next s' ∧ s'.frag? f = some y ∧ y.phase = .dispatchable ∧ y.reissues = x.reissues + 1 ∧
      y.avoid = x.members.map (·.cluster) ∧ y.posts = [] ∧ y.logs = [] ∧ y.desc = x.desc ∧ s'.dev = s.dev ∧ s'.out = s.out := by
  have lost : s.loseRun f = ((s.satAdd (oTenFrag x.tenant) 63 32 1).redispatch f).updFrag f fun y =>
      { y with reissues := y.reissues + 1, avoid := x.members.map (·.cluster) } := by
    unfold State.loseRun
    rw [found]
    exact if_neg (by omega)
  have counted : (s.satAdd (oTenFrag x.tenant) 63 32 1).frag? f = some x := found
  have left := (s.satAdd (oTenFrag x.tenant) 63 32 1).discarded_frame x f
  refine ⟨_, { x.again s.clock with reissues := x.reissues + 1, avoid := x.members.map (·.cluster) },
    (fragmentReissue_runs live found running program).trans (congrArg _ lost), ?_, rfl, rfl, rfl, rfl, rfl, rfl, ?_, ?_⟩
  · rw [frag?_updFrag_self _ _ (fun y : Frag => { y with reissues := y.reissues + 1, avoid := x.members.map (·.cluster) }) fun _ => rfl,
      frag?_redispatch counted]
    rfl
  · rw [State.redispatch_eq counted]
    exact (congrArg State.dev left :)
  · rw [State.redispatch_eq counted]
    exact (congrArg State.out left :)

theorem fragmentReissue_fourth {s : State} {f : Nat} {x : Frag} {c : Cmd} (live : s.live = true) (found : s.frag? f = some x)
    (running : x.phase = .running) (program : x.isVarelm = false) (many : 3 ≤ x.reissues) (command : s.cmd? x.cmd = some c)
    (admitted : c.phase = .admitted) (queued : c.parent = none) :
    ∃ s', exec (.fragmentReissue f .other) s = .next s' ∧ EndsWith s s' x.cmd c stHwFault 0 c.pos 10000 := by
  have lost : s.loseRun f = s.fail x.cmd stHwFault := by
    unfold State.loseRun
    rw [found]
    exact if_pos many
  exact ⟨_, (fragmentReissue_runs live found running program).trans (congrArg _ lost), (Working.mk command admitted queued).fail stHwFault⟩

/-! ## A fragment of a search -/

theorem programOther_runs {s : State} {f c : Nat} {x : Cmd} (h : Runs s c x) (varelm : x.vr ≠ 0) :
    exec (.fragmentReissue f (.programOther c)) s = .next (s.programLost f x) := by
  rw [exec_fragmentReissue, execFragmentReissue]
  exact h.runCmd_eq (by simpa using varelm) _

/-- A command that has lost a run of fragment `f`. -/
def Cmd.lost (f : Nat) (y : Cmd) : Cmd := { y.again with losses := y.losses ++ [f] }

theorem Cmd.lost_id (f : Nat) (y : Cmd) : (y.lost f).id = y.id := by
  unfold Cmd.lost Cmd.again; dsimp only; split <;> rfl

theorem Cmd.again_idle {y : Cmd} (idle : y.work = .idle) : y.again = y := by
  unfold Cmd.again
  rw [idle]

theorem Cmd.lost_idle {y : Cmd} (idle : y.work = .idle) (f : Nat) : y.lost f = { y with losses := y.losses ++ [f] } := by
  rw [Cmd.lost, Cmd.again_idle idle]

theorem programOther_again {s : State} {f c : Nat} {x : Cmd} (h : Runs s c x) (search : x.vr = 0x110) (idle : x.work = .idle)
    (few : (x.losses.filter (· == f)).length < 3) :
    ∃ s', exec (.fragmentReissue f (.programOther c)) s = .next s' ∧ s'.cmd? c = some { x with losses := x.losses ++ [f] } ∧
      s'.fld (oTenFrag x.fn) 63 32 = Nat.min (s.fld (oTenFrag x.fn) 63 32 + 1) (2 ^ 32 - 1) ∧ SameBytes s s' ∧ s'.out = s.out := by
  have lost : s.programLost f x = (s.satAdd (oTenFrag x.fn) 63 32 1).updCmd x.id (Cmd.lost f) := if_neg (by omega)
  refine ⟨_, (programOther_runs h (by rw [search]; decide)).trans (congrArg _ lost), ?_, counted_satAdd s (oTenFrag x.fn) 32 (by decide),
    SameBytes.refl s, rfl⟩
  have id := h.id_eq
  subst id
  rw [State.cmd?_updCmd_self _ x.id _ (Cmd.lost_id f)]
  exact (congrArg (Option.map _) h.found).trans (congrArg some (Cmd.lost_idle idle f))

/-- A search that stops for another reason than a bad address writes nothing more. -/
theorem Working.stopCmd_search {s : State} {c : Nat} {x : Cmd} (h : Working s c x) (search : x.vr = 0x110) (idle : x.work = .idle)
    (undemanded : ∀ m ∈ s.moves, m.demand.map (·.1) ≠ some c) : s.stopCmd c stHwFault = s.endCmd c stHwFault 0 x.pos x.pos 10000 := by
  have launch : x.opc = 1 := by
    by_contra other
    simp [Cmd.vr, other] at search
  have moves : s.undemanded c = s := by
    have all : (s.moves.filter fun m => m.switched || (m.demand.map (·.1)) != some c) = s.moves :=
      List.filter_eq_self.2 fun m listed => by
        rw [Bool.or_eq_true, bne_iff_ne]
        exact .inr (undemanded m listed)
    exact congrArg (fun ms => { s with moves := ms }) all
  have smear : s.smear x stHwFault = s := by
    simp [State.smear, search, stHwFault, stBadAddress]
  have writes : s.lastWrites x = s := by
    simp [State.lastWrites, search]
  have unfolded : s.stopCmd c stHwFault = (((s.undemanded c).smear x stHwFault).lastWrites x).endCmd c stHwFault 0 x.pos x.pos 10000 := by
    unfold State.stopCmd
    rw [h.found]
    dsimp only
    rw [h.admitted, if_neg (by decide), idle]
    dsimp only
    rw [if_neg (by simp [search]), if_neg (by simp [stHwFault, stBadAddress]), launch]
    rfl
  rw [unfolded, moves, smear, writes]

theorem programOther_fourth {s : State} {f c : Nat} {x : Cmd} (h : Runs s c x) (search : x.vr = 0x110) (idle : x.work = .idle)
    (undemanded : ∀ m ∈ s.moves, m.demand.map (·.1) ≠ some c) (many : 3 ≤ (x.losses.filter (· == f)).length) :
    ∃ s', exec (.fragmentReissue f (.programOther c)) s = .next s' ∧ EndsWith s s' c x stHwFault 0 x.pos 10000 := by
  have lost : s.programLost f x = s.endCmd c stHwFault 0 x.pos x.pos 10000 := by
    rw [← h.working.stopCmd_search search idle undemanded, State.programLost, if_pos many, h.id_eq]
  exact ⟨_, (programOther_runs h (by rw [search]; decide)).trans (congrArg _ lost), h.working.endCmd ..⟩

end Sys2Proof.Machine

/-! O43: the steps of a commit (R303, R304, R307, R313, R314). -/
namespace Sys2Proof.Machine

/-! ## Lines, log and status -/

/-- Without lines in its clusters a commit writes none back: only what the lines hold can change. -/
theorem State.commitLines_frame {s : State} {x : Frag} (empty : ∀ m ∈ x.members, (s.cluster m.cluster).lines = []) :
    { s.commitLines x with clusters := s.clusters } = s := by
  have none : x.members.foldl (fun s m =>
      ((s.cluster m.cluster).lines.filter fun y => y.tenant == x.tenant && x.outLine y.line).foldl
        (fun s y => if s.devMapped y.tenant (y.line * 64) 64 then s.writeBack (y.onlyOut x) else s) s) s = s :=
    List.foldlRecOn (motive := fun t : State => t = s) x.members _ rfl fun t same m listed => by
      rw [same, empty m listed]
      rfl
  unfold State.commitLines
  dsimp only
  rw [none]

theorem State.applyLog_frame (s : State) (t : Nat) (e : LogEntry) : { s.applyLog t e with dev := s.dev, poison := s.poison } = s := by
  unfold State.applyLog; split <;> rfl

/-- The log of a fragment applied, entry after entry. -/
def State.applyLogs (s : State) (x : Frag) : State := x.logs.foldl (fun s e => s.applyLog x.tenant e) s

theorem State.applyLogs_frame (s : State) (x : Frag) : { s.applyLogs x with dev := s.dev, poison := s.poison } = s :=
  List.foldlRecOn (motive := fun t : State => ({ t with dev := s.dev, poison := s.poison } : State) = s) x.logs _ rfl fun t same e _ =>
    (congrArg (fun u : State => { u with dev := s.dev, poison := s.poison }) (t.applyLog_frame x.tenant e) :).trans same

/-- A store that the tenant may make puts the eight bytes of its value at its address. -/
theorem State.applyLog_store {s : State} {t a : Nat} (v : Word) (can : s.devWritable t a 8 = true) :
    (s.applyLog t ⟨false, a, v⟩).devRd t a 8 = toLe 8 v.toNat := by
  have written : s.applyLog t ⟨false, a, v⟩ = s.devWr t a (toLe 8 v.toNat) := if_pos can
  have read := Mem.rdN_wrN s.dev (devKey t a) (toLe 8 v.toNat)
  rw [toLe_length] at read
  rw [written]
  exact read

/-- A command that has no status takes the one that a fragment sets (R307). -/
def Frag.gives (x : Frag) (c : Cmd) : Cmd :=
  match x.status with
  | none => c
  | some e => if c.status = 0 then { c with status := e } else c

theorem Frag.gives_id (x : Frag) (c : Cmd) : (x.gives c).id = c.id := by
  unfold Frag.gives
  split
  · rfl
  · split <;> rfl

theorem Frag.gives_phase (x : Frag) (c : Cmd) : (x.gives c).phase = c.phase := by
  unfold Frag.gives
  split
  · rfl
  · split <;> rfl

theorem Frag.gives_fn (x : Frag) (c : Cmd) : (x.gives c).fn = c.fn := by
  unfold Frag.gives
  split
  · rfl
  · split <;> rfl

theorem Frag.gives_status (x : Frag) (c : Cmd) :
    (x.gives c).status = match x.status with
      | none => c.status
      | some e => if c.status = 0 then e else c.status := by
  unfold Frag.gives
  split
  · rfl
  · split <;> rfl

/-- Without progress of its own a commit's step 4 is the log and the status. -/
theorem State.commitState_eq {x : Frag} (silent : x.prog2 = none) (s : State) :
    s.commitState x = match x.status with
      | none => s.applyLogs x
      | some e => (s.applyLogs x).updCmd x.cmd fun y => if y.status = 0 then { y with status := e } else y := by
  unfold State.commitState
  dsimp only
  rw [silent]
  rfl

theorem State.commitState_frame {x : Frag} (silent : x.prog2 = none) (s : State) : { s.commitState x with cmds := s.cmds } = s.applyLogs x := by
  have cmds : (s.applyLogs x).cmds = s.cmds := (congrArg State.cmds (s.applyLogs_frame x) :)
  rw [State.commitState_eq silent, ← cmds]
  cases x.status <;> rfl

theorem State.cmd?_commitState {s : State} {x : Frag} {c : Cmd} (silent : x.prog2 = none) (found : s.cmd? x.cmd = some c) :
    (s.commitState x).cmd? x.cmd = some (x.gives c) := by
  have still : (s.applyLogs x).cmd? x.cmd = some c := (congrArg (fun t : State => t.cmd? x.cmd) (s.applyLogs_frame x) :).trans found
  rw [State.commitState_eq silent, Frag.gives]
  cases x.status with
  | none => exact still
  | some e =>
    have keeps (y : Cmd) : (if y.status = 0 then { y with status := e } else y).id = y.id := by split <;> rfl
    exact ((s.applyLogs x).cmd?_updCmd_self x.cmd _ keeps).trans (by rw [still]; rfl)

/-! ## The fragment leaves -/

theorem State.dropOne_frags (s : State) (x : Frag) : (s.dropOne x).frags = s.frags.filter fun y => y.id != x.id :=
  congrArg (List.filter fun y : Frag => y.id != x.id) (congrArg State.frags (s.chargeRun_frame x) :)

theorem State.dropOne_frame (s : State) (x : Frag) : { s.dropOne x with frags := s.frags, sched := s.sched } = s :=
  (congrArg (fun t : State => { t with frags := s.frags }) (s.chargeRun_frame x) :)

/-! ## Continuations that a commit releases (R303) -/

/-- A continuation that waits no longer. -/
def Frag.joined (clock : Nat) (x : Frag) : Frag := { x with phase := .dispatchable, joinOn := none, readyAt := clock, waitFrom := clock }

/-- What holds before the releases and is kept by each of them holds after. -/
theorem State.releaseJoins_induct {M : State → Prop} {s : State} (start : M s)
    (step : ∀ t (f : Frag), M t → M ((t.noteWaiting f.tenant f.cls).updFrag f.id (Frag.joined t.clock))) : M s.releaseJoins :=
  List.foldlRecOn (motive := M) s.frags _ start fun t kept f _ => by
    split
    · exact kept
    · split
      · exact kept
      · exact step t f kept

theorem State.releaseJoins_frame (s : State) : { s.releaseJoins with regs := s.regs, sched := s.sched, frags := s.frags } = s :=
  State.releaseJoins_induct (M := fun t => ({ t with regs := s.regs, sched := s.sched, frags := s.frags } : State) = s) rfl fun t f same =>
    (congrArg (fun u : State => { u with regs := s.regs, sched := s.sched, frags := s.frags }) (t.noteWaiting_frame f.tenant f.cls) :).trans same

/-- The fragments after one release. -/
theorem State.released_frags (t : State) (f : Frag) :
    ((t.noteWaiting f.tenant f.cls).updFrag f.id (Frag.joined t.clock)).frags = updFirst (fun y => y.id == f.id) (Frag.joined t.clock) t.frags :=
  congrArg (updFirst (fun y : Frag => y.id == f.id) (Frag.joined t.clock)) (congrArg State.frags (t.noteWaiting_frame f.tenant f.cls) :)

theorem mem_updFirst {α : Type} {p : α → Bool} {f : α → α} {l : List α} {b : α} (listed : b ∈ updFirst p f l) : b ∈ l ∨ ∃ a ∈ l, b = f a := by
  obtain ⟨-, same⟩ | ⟨xs, a, ys, rfl, -, -, same⟩ := updFirst_cases p f l
  · exact .inl (same ▸ listed)
  · rw [same, List.mem_append, List.mem_cons] at listed
    obtain before | rfl | after := listed
    · exact .inl (List.mem_append_left _ before)
    · exact .inr ⟨a, by simp, rfl⟩
    · exact .inl (by simp [after])

theorem mem_updFirst_of_mem {α : Type} (p : α → Bool) (f : α → α) {l : List α} {a : α} (listed : a ∈ l) : a ∈ updFirst p f l ∨ f a ∈ updFirst p f l := by
  obtain ⟨-, same⟩ | ⟨xs, b, ys, rfl, -, -, same⟩ := updFirst_cases p f l
  · exact .inl (same.symm ▸ listed)
  · rw [same]
    rw [List.mem_append, List.mem_cons] at listed
    obtain before | rfl | after := listed
    · exact .inl (List.mem_append_left _ before)
    · exact .inr (by simp)
    · exact .inl (by simp [after])

/-- A release keeps the numbers of the fragments: one that is gone stays gone. -/
theorem State.releaseJoins_gone {s : State} {f : Nat} (gone : ∀ y ∈ s.frags, y.id ≠ f) : ∀ y ∈ s.releaseJoins.frags, y.id ≠ f :=
  State.releaseJoins_induct (M := fun t => ∀ y ∈ t.frags, y.id ≠ f) gone fun t g kept y listed => by
    rw [State.released_frags] at listed
    obtain old | ⟨z, old, rfl⟩ := mem_updFirst listed
    · exact kept y old
    · exact kept z old

/-- A property of a fragment that the end of its wait keeps outlasts the releases. -/
theorem State.releaseJoins_some {P : Frag → Prop} {s : State} (stays : ∀ clock y, P y → P (y.joined clock)) (some : ∃ y ∈ s.frags, P y) :
    ∃ y ∈ s.releaseJoins.frags, P y :=
  State.releaseJoins_induct (M := fun t => ∃ y ∈ t.frags, P y) some fun t g kept => by
    obtain ⟨y, old, has⟩ := kept
    rw [State.released_frags]
    obtain still | now := mem_updFirst_of_mem (fun z : Frag => z.id == g.id) (Frag.joined t.clock) old
    · exact ⟨y, still, has⟩
    · exact ⟨_, now, stays _ y has⟩

/-! ## The posts -/

theorem State.commitPosts_none {s : State} {x : Frag} {c : Cmd} (found : s.cmd? x.cmd = some c) (admitted : c.phase = .admitted) (none : x.posts = []) :
    s.commitPosts x = { s with nextGroup := s.nextGroup + 1 } := by
  unfold State.commitPosts
  rw [found]
  simp [admitted, none]

/-- One post that is neither malformed, nor a continuation, nor Varelm's, nor beyond the quota, is one fragment. -/
theorem State.commitPosts_one {s : State} {x : Frag} {c : Cmd} {b : List Byte} (found : s.cmd? x.cmd = some c) (admitted : c.phase = .admitted)
    (one : x.posts = [b]) (good : descBad b = false) (fork : bit (leAt b 4 4) 24 = false) (program : bit (leAt b 4 4) 25 = false)
    (room : fieldAt b 8 6 0 ≤ s.cisQuota x.tenant) :
    s.commitPosts x = { s with nextGroup := s.nextGroup + 1 }.addFrag c b x.prog (x.groups ++ [s.nextGroup]) none := by
  unfold State.commitPosts
  rw [found]
  simp [admitted, one, good, fork, program, Nat.not_lt.2 room]

end Sys2Proof.Machine

/-! O43: the commit of a tenant program's fragment (R303, R304, R307), and the obligation. -/
namespace Sys2Proof.Machine

/-- Fragment `x`, numbered `f`, of command `c` commits: its threads have ended and neither lines nor held bytes wait to be written. -/
structure Commits (s : State) (f : Nat) (x : Frag) (c : Cmd) : Prop where
  active : s.active = true
  found : s.frag? f = some x
  program : x.isVarelm = false
  running : x.phase = .running
  ended : s.allEnded x = true
  inner : x.inner = false
  held : x.held = []
  empty : ∀ m ∈ x.members, (s.cluster m.cluster).lines = []
  silent : x.prog2 = none
  command : s.cmd? x.cmd = some c
  admitted : c.phase = .admitted

/-- The device before the posts of a commit. -/
def State.unposted (s : State) (x : Frag) : State := ((s.commitLines x).commitState x).dropOne x

/-- `t` with what the first steps of a commit touch taken from `s`. -/
def State.butCommitted (s t : State) : State :=
  { t with clusters := s.clusters, dev := s.dev, poison := s.poison, cmds := s.cmds, frags := s.frags, sched := s.sched }

section

variable {s : State} {f : Nat} {x : Frag} {c : Cmd}

theorem Commits.id_eq (h : Commits s f x c) : x.id = f := by simpa using List.find?_some h.found

theorem Commits.runs (h : Commits s f x c) : exec (.fragmentCommit f) s = .next ((s.unposted x).commitPosts x).releaseJoins := by
  have none : (s.commitLines x).commitHeld x = some (s.commitLines x) := by
    rw [State.commitHeld, h.held]
    rfl
  have commit : s.commit x = ((s.unposted x).commitPosts x).releaseJoins := by
    rw [State.commit, h.inner, none]
    rfl
  rw [exec_fragmentCommit, execFragmentCommit, h.found]
  simp [onlyIf, h.program, h.active, h.running, h.ended, commit]

theorem Commits.unposted_frame (h : Commits s f x c) : s.butCommitted (s.unposted x) = s :=
  (congrArg s.butCommitted (((s.commitLines x).commitState x).dropOne_frame x) :).trans
    ((congrArg s.butCommitted ((s.commitLines x).commitState_frame h.silent) :).trans
      ((congrArg s.butCommitted ((s.commitLines x).applyLogs_frame x) :).trans (congrArg s.butCommitted (State.commitLines_frame h.empty) :)))

theorem Commits.unposted_dev (h : Commits s f x c) : (s.unposted x).dev = ((s.commitLines x).applyLogs x).dev :=
  (congrArg State.dev (((s.commitLines x).commitState x).dropOne_frame x) :).trans
    (congrArg State.dev ((s.commitLines x).commitState_frame h.silent) :)

theorem Commits.cmd?_unposted (h : Commits s f x c) : (s.unposted x).cmd? x.cmd = some (x.gives c) :=
  (congrArg (fun t : State => t.cmd? x.cmd) (((s.commitLines x).commitState x).dropOne_frame x) :).trans
    (State.cmd?_commitState h.silent ((congrArg (fun t : State => t.cmd? x.cmd) (State.commitLines_frame h.empty) :).trans h.command))

theorem Commits.gone_unposted (h : Commits s f x c) : ∀ y ∈ (s.unposted x).frags, y.id ≠ f := by
  intro y listed
  rw [State.unposted, State.dropOne_frags, List.mem_filter, bne_iff_ne] at listed
  exact h.id_eq ▸ listed.2

theorem Commits.gives_admitted (h : Commits s f x c) : (x.gives c).phase = .admitted := (x.gives_phase c).trans h.admitted

/-- One store in the log, and no post. -/
theorem Commits.store (h : Commits s f x c) (posts : x.posts = []) {a : Nat} {v : Word} (logs : x.logs = [⟨false, a, v⟩])
    (can : s.devWritable x.tenant a 8 = true) :
    ∃ s' y, exec (.fragmentCommit f) s = .next s' ∧ s'.devRd x.tenant a 8 = toLe 8 v.toNat ∧ (∀ g ∈ s'.frags, g.id ≠ f) ∧ s'.cis = s.cis ∧
      s'.cmd? x.cmd = some y ∧ y.phase = .admitted ∧ y.status = (x.gives c).status := by
  have posted := State.commitPosts_none h.cmd?_unposted h.gives_admitted posts
  have released := State.releaseJoins_frame { s.unposted x with nextGroup := (s.unposted x).nextGroup + 1 }
  have runs := h.runs
  rw [posted] at runs
  refine ⟨_, x.gives c, runs, ?_, State.releaseJoins_gone h.gone_unposted, ?_, ?_, h.gives_admitted, rfl⟩
  · have allocs : (s.commitLines x).allocs = s.allocs := (congrArg State.allocs (State.commitLines_frame h.empty) :)
    have writable : (s.commitLines x).devWritable x.tenant a 8 = true := by
      rw [State.devWritable, rangeOk_congr allocs, allocs]
      exact can
    have one : (s.commitLines x).applyLogs x = (s.commitLines x).applyLog x.tenant ⟨false, a, v⟩ := by
      rw [State.applyLogs, logs]
      rfl
    have stored := State.applyLog_store v writable
    rw [← one] at stored
    exact (congrArg (fun t : State => t.devRd x.tenant a 8) released :).trans
      ((congrArg (fun m : Mem => m.rdN (devKey x.tenant a) 8) h.unposted_dev :).trans stored)
  · exact (congrArg State.cis released :).trans (congrArg State.cis h.unposted_frame :)
  · exact (congrArg (fun t : State => t.cmd? x.cmd) released :).trans h.cmd?_unposted

theorem State.addFrag_frame (s : State) (c : Cmd) (b : List Byte) (prog : Nat) (groups : List Nat) :
    { s.addFrag c b prog groups none with regs := s.regs, sched := s.sched, frags := s.frags, nextFrag := s.nextFrag } = s :=
  (congrArg (fun t : State => { t with regs := s.regs, sched := s.sched, frags := s.frags, nextFrag := s.nextFrag })
    (s.noteWaiting_frame c.fn (if bit (leAt b 4 4) 25 && leAt b 0 4 == 0x113 then 3 else c.cls)) :)

/-- What a post becomes: a fragment of its poster's command and program, ready for dispatch. -/
structure Posted (s : State) (c : Cmd) (b : List Byte) (prog : Nat) (g : Frag) : Prop where
  id : g.id = s.nextFrag
  desc : g.desc = b
  cmd : g.cmd = c.id
  phase : g.phase = .dispatchable
  prog : g.prog = prog

theorem Posted.joined {s : State} {c : Cmd} {b : List Byte} {prog : Nat} {g : Frag} (h : Posted s c b prog g) (clock : Nat) :
    Posted s c b prog (g.joined clock) := ⟨h.id, h.desc, h.cmd, rfl, h.prog⟩

theorem State.addFrag_posted (s : State) (c : Cmd) (b : List Byte) (prog : Nat) (groups : List Nat) :
    ∃ g ∈ (s.addFrag c b prog groups none).frags, Posted s c b prog g :=
  ⟨_, List.mem_append_right _ (List.mem_singleton_self _), rfl, rfl, rfl, rfl, rfl⟩

/-- One post, and no log. -/
theorem Commits.post (h : Commits s f x c) {b : List Byte} (posts : x.posts = [b]) (logs : x.logs = []) (good : descBad b = false)
    (fork : bit (leAt b 4 4) 24 = false) (program : bit (leAt b 4 4) 25 = false)
    (room : (fieldAt b 4 23 20 + 1) * fieldAt b 8 6 0 ≤ s.cisQuota x.tenant) :
    ∃ s' g, exec (.fragmentCommit f) s = .next s' ∧ g ∈ s'.frags ∧ g.id = s.nextFrag ∧ g.desc = b ∧ g.cmd = x.cmd ∧ g.phase = .dispatchable ∧
      g.prog = x.prog ∧ SameBytes s s' := by
  have quota : (s.unposted x).cisQuota x.tenant = s.cisQuota x.tenant := (congrArg (fun t : State => t.cisQuota x.tenant) h.unposted_frame :)
  have member : fieldAt b 8 6 0 ≤ (s.unposted x).cisQuota x.tenant := quota ▸ (Nat.le_mul_of_pos_left _ (Nat.succ_pos _)).trans room
  have posted := State.commitPosts_one h.cmd?_unposted h.gives_admitted posts good fork program member
  have runs := h.runs
  rw [posted] at runs
  have number : (s.unposted x).nextFrag = s.nextFrag := (congrArg State.nextFrag h.unposted_frame :)
  have command : (x.gives c).id = x.cmd := (x.gives_id c).trans (by simpa using List.find?_some h.command)
  obtain ⟨g, listed, new⟩ := State.releaseJoins_some (fun clock _ still => still.joined clock) (State.addFrag_posted
    { s.unposted x with nextGroup := (s.unposted x).nextGroup + 1 } (x.gives c) b x.prog (x.groups ++ [(s.unposted x).nextGroup]))
  have added := State.addFrag_frame { s.unposted x with nextGroup := (s.unposted x).nextGroup + 1 } (x.gives c) b x.prog
    (x.groups ++ [(s.unposted x).nextGroup])
  have released := State.releaseJoins_frame ({ s.unposted x with nextGroup := (s.unposted x).nextGroup + 1 }.addFrag (x.gives c) b x.prog
    (x.groups ++ [(s.unposted x).nextGroup]) none)
  have lines : (s.commitLines x).applyLogs x = s.commitLines x := by
    rw [State.applyLogs, logs]
    rfl
  have dev : (s.unposted x).dev = s.dev :=
    h.unposted_dev.trans ((congrArg State.dev lines).trans (congrArg State.dev (State.commitLines_frame h.empty) :))
  refine ⟨_, g, runs, listed, new.id.trans number, new.desc, new.cmd.trans command, new.phase, new.prog, .of_eq ?_ ?_ ?_⟩
  · exact (congrArg State.dev released :).trans ((congrArg State.dev added :).trans dev)
  · exact (congrArg State.cis released :).trans ((congrArg State.cis added :).trans (congrArg State.cis h.unposted_frame :))
  · exact (congrArg (fun t : State => t.out.hostMem) released :).trans
      ((congrArg (fun t : State => t.out.hostMem) added :).trans (congrArg (fun t : State => t.out.hostMem) h.unposted_frame :))

end

/-- Settles O43: a dispatch starts the members on areas that it clears one after the other, and every other clause is what its helper's parts leave. -/
theorem fragments : Obligations.Fragments := by
  unfold Obligations.Fragments
  refine ⟨?dispatch, ?wake, ?again, ?fourth, ?search, ?commit⟩
  case dispatch =>
    intro s x ls active cool next found program good
    exact fragmentDispatch_effect active cool next found program good
  case wake =>
    intro s l x m mb i th active found running awaited member here single free
    exact clusterWake_effect active found running awaited member here single free
  case again =>
    intro s f x live found running program few
    exact fragmentReissue_again live found running program few
  case fourth =>
    intro s f x c live found running program many command admitted queued
    exact fragmentReissue_fourth live found running program many command admitted queued
  case search =>
    intro s f c x runs search idle undemanded
    exact ⟨programOther_again runs search idle, programOther_fourth runs search idle undemanded⟩
  case commit =>
    intro s f x c active found program running ended inner held empty silent command admitted
    have commits : Commits s f x c := ⟨active, found, program, running, ended, inner, held, empty, silent, command, admitted⟩
    refine ⟨fun posts _ a v logs can => ?_, fun b posts logs good fork varelm room => commits.post posts logs good fork varelm room⟩
    obtain ⟨s', y, runs, stored, gone, cis, entry, phase, status⟩ := commits.store posts logs can
    exact ⟨s', y, runs, stored, gone, cis, entry, phase, status.trans (x.gives_status c)⟩

end Sys2Proof.Machine

/-! Words of an instruction (R338 to R340): which words use no field but their own, and the immediates that they hold (R347). -/
namespace Sys2Proof.Machine

/-- A word uses no other field when the fields of `rs`, which cover what lies outside `u`, are zero. -/
theorem onlyUses_of_fields {w u : Nat} (rs : List (Nat × Nat)) (zero : rs.Forall fun r => field w r.1 r.2 = 0)
    (cover : ∀ i, i < 56 → u.testBit i = true ∨ ∃ r ∈ rs, r.2 ≤ i ∧ i ≤ r.1) : onlyUses w u = true := by
  refine (onlyUses_iff w u).2 fun i low set => ?_
  obtain used | ⟨r, listed, above, below⟩ := cover i low
  · exact used
  · rw [(field_eq_zero_iff ..).1 (List.forall_iff_forall_mem.1 zero r listed) i above below] at set
    cases set

/-- A field outside those that a word uses is zero. -/
theorem field_eq_zero_of_onlyUses {w u : Nat} (h : onlyUses w u = true) {hi lo : Nat}
    (apart : ∀ i, i ≤ hi → i < 56 ∧ (lo ≤ i → u.testBit i = false)) : field w hi lo = 0 := by
  refine (field_eq_zero_iff ..).2 fun i above below => Bool.eq_false_iff.2 fun set => ?_
  have unused := (apart i below).2 above
  rw [(onlyUses_iff w u).1 h i (apart i below).1 set] at unused
  cases unused

/-- A word that uses few fields uses no more than a longer list of them. -/
theorem onlyUses_mono {w u v : Nat} (h : onlyUses w u = true) (more : ∀ i, i < 56 → u.testBit i = true → v.testBit i = true) :
    onlyUses w v = true :=
  (onlyUses_iff w v).2 fun i low set => more i low ((onlyUses_iff w u).1 h i low set)

/-! ## Immediates -/

theorem field_low (w n : Nat) : field w n 0 = w % 2 ^ (n + 1) := by simp [field]

/-- The value of the low bits of a number in two's complement. -/
theorem toSigned_eq_toInt {n : Nat} (pos : 0 < n) (x : Nat) : toSigned n x = (BitVec.ofNat n x).toInt := by
  have double : 2 * 2 ^ (n - 1) = 2 ^ n := by rw [← Nat.pow_succ', Nat.succ_eq_add_one, Nat.sub_add_cancel pos]
  rw [BitVec.toInt_eq_toNat_cond, BitVec.toNat_ofNat, toSigned]
  split
  · rw [if_pos (by omega)]
  · rw [if_neg (by omega)]

theorem ofNat_ofSigned (n : Nat) (i : Int) : BitVec.ofNat n (ofSigned n i) = BitVec.ofInt n i := by
  apply BitVec.eq_of_toNat_eq
  rw [BitVec.toNat_ofNat, BitVec.toNat_ofInt, ofSigned, Nat.mod_eq_of_lt]
  exact ofSigned_lt n i

theorem toSigned_field (w n : Nat) : toSigned (n + 1) (field w n 0) = (BitVec.ofNat (n + 1) w).toInt := by
  rw [toSigned_eq_toInt n.succ_pos, field_low]
  congr 1
  exact BitVec.eq_of_toNat_eq (by simp)

theorem wImm36_eq (w : Nat) : wImm36 w = (BitVec.ofNat 36 w).signExtend 64 := by
  rw [wImm36, ofNat_ofSigned, toSigned_field, BitVec.signExtend]

theorem wOff30_eq (w : Nat) : wOff30 w = (BitVec.ofNat 30 w).toInt := toSigned_field w 29

theorem wImm42_eq (w : Nat) : wImm42 w = (BitVec.ofNat 42 w).toInt := toSigned_field w 41

/-- The second operand of a scalar instruction. -/
theorem Ictx.b_eq (c : Ictx) : c.b = operandB c := by rw [Ictx.b, operandB, wImm36_eq, Ictx.gb]

/-- A loaded number as its register holds it (R354): signed types are extended with their sign. -/
theorem extend_eq {ty : Nat} (type : 2 ≤ ty ∧ ty ≤ 9 ∨ 12 ≤ ty ∧ ty ≤ 14) (x : Nat) :
    extend ty x = if ty ≤ 5 then (BitVec.ofNat (tyWidth ty) x).signExtend 64 else BitVec.ofNat 64 x := by
  have signed : tySigned ty = true ↔ ty ≤ 5 := by rw [tySigned, decide_eq_true_iff]; omega
  unfold extend
  by_cases h : ty ≤ 5
  · have pos : 0 < tyWidth ty := by
      have bounds : 2 ≤ ty ∧ ty ≤ 5 := by omega
      obtain ⟨low, high⟩ := bounds
      interval_cases ty <;> decide
    rw [if_pos (signed.2 h), if_pos h, ofNat_ofSigned, toSigned_eq_toInt pos, BitVec.signExtend]
  · rw [if_neg (mt signed.1 h), if_neg h]

/-! ## Words of the two-operand instructions (R340, R347) -/

theorem wX_le_one (w : Nat) : wX w = 0 ∨ wX w = 1 := by
  have := field_lt w 48 48
  unfold wX
  omega

theorem aluLegal_iff (w : Nat) : aluLegal w = true ↔ aluWord w := by
  unfold aluLegal
  obtain register | immediate := wX_le_one w
  · rw [if_neg (by omega)]
    refine ⟨fun legal => ?_, fun ⟨ty, mk, rest⟩ => ?_⟩
    · exact ⟨field_eq_zero_of_onlyUses legal (by decide), field_eq_zero_of_onlyUses legal (by decide), fun _ =>
        ⟨field_eq_zero_of_onlyUses legal (by decide), field_eq_zero_of_onlyUses legal (by decide)⟩⟩
    · exact onlyUses_of_fields [(55, 52), (51, 49), (48, 48), (29, 24), (23, 0)]
        ⟨ty, mk, register, (rest register).1, (rest register).2⟩ (by decide)
  · rw [if_pos immediate]
    refine ⟨fun legal => ?_, fun ⟨ty, mk, _⟩ => ?_⟩
    · exact ⟨field_eq_zero_of_onlyUses legal (by decide), field_eq_zero_of_onlyUses legal (by decide), fun zero => by omega⟩
    · exact onlyUses_of_fields [(55, 52), (51, 49)] ⟨ty, mk⟩ (by decide)

end Sys2Proof.Machine

/-! Exceptions (R308, R378, R379, R382), and O3: `trap` (R350). -/
namespace Sys2Proof.Machine

/-! ## The record of an exception (R382) -/

theorem excRecord_length (c : Ictx) (cmdid code addr unit detail : Nat) : (excRecord c cmdid code addr unit detail).length = 4 := rfl

/-- What the third word of the record holds. -/
theorem excRecord_place (c : Ictx) (cmdid addr unit detail : Nat) {code : Nat} (small : code < 256) :
    let w := (excRecord c cmdid code addr unit detail).getD 2 0
    field w 63 32 = c.th.pc % 2 ^ 32 ∧ field w 31 24 = code ∧ field w 23 15 = c.mem.cluster % 512 ∧ field w 14 9 = c.t.idx % 64 ∧
      field w 0 0 = 1 := by
  simp only [excRecord, List.getD_cons_succ, List.getD_cons_zero, field, Nat.shiftRight_eq_div_pow, Ictx.cluster]
  omega

/-- The machine with the exception recorded, counted, and logged, and its command not yet ended. -/
def State.excLogged (s : State) (c : Ictx) (code addr unit detail : Nat) : State :=
  let r := excRecord c (((s.cmd? c.frag.cmd).map (·.cmdid)).getD 0) code addr unit detail
  (((if s.fld (oTenExc c.tenant 2) 0 0 = 1 then s else s.setWords (oTenExc c.tenant 0) r).satAdd (oTenFrag c.tenant) 31 0 1).logEvent
    evProgramFault c.tenant r)

theorem State.raise_eq (s : State) (c : Ictx) (code addr unit detail : Nat) :
    s.raise c code addr unit detail =
      (s.excLogged c code addr unit detail).fail c.frag.cmd (if code = xUnsealed then stUnsealed else stProgramFault) := rfl

theorem Progressed.setWords (s : State) (o : Nat) (ws : List Nat) : Progressed s (s.setWords o ws) :=
  have frame := s.setWords_frame o ws
  .of_cmds (congrArg s.butProgress frame :) (congrArg State.cmds frame :) (congrArg (fun t : State => t.out.refused) frame :)

theorem Progressed.satAdd (s : State) (o hi lo n : Nat) : Progressed s (s.satAdd o hi lo n) := .of_cmds rfl rfl rfl

theorem State.setWords_hostMem (s : State) (o : Nat) (ws : List Nat) : (s.setWords o ws).out.hostMem = s.out.hostMem :=
  (congrArg (fun t : State => t.out.hostMem) (s.setWords_frame o ws) :)

/-- Recording an exception leaves the commands at work. -/
theorem State.excLogged_progressed (s : State) (c : Ictx) (code addr unit detail : Nat) :
    Progressed s (s.excLogged c code addr unit detail) := by
  unfold State.excLogged
  dsimp only
  refine Progressed.trans (Progressed.trans ?_ (.satAdd ..)) (.logEvent ..)
  split
  · exact .refl s
  · exact .setWords ..

theorem State.excLogged_hostMem (s : State) (c : Ictx) (code addr unit detail : Nat) :
    (s.excLogged c code addr unit detail).out.hostMem = s.out.hostMem := by
  unfold State.excLogged
  dsimp only
  rw [State.logEvent_hostMem, State.satAdd_out]
  split
  · rfl
  · exact s.setWords_hostMem ..

/-- The record's registers hold it, or the older one that stands there (R382). -/
theorem State.excLogged_word (s : State) (c : Ictx) (code addr unit detail : Nat) {i : Nat} (four : i < 4) :
    (s.excLogged c code addr unit detail).word (oTenExc c.tenant i) =
      if s.fld (oTenExc c.tenant 2) 0 0 = 1 then s.word (oTenExc c.tenant i)
      else BitVec.ofNat 64 ((excRecord c (((s.cmd? c.frag.cmd).map (·.cmdid)).getD 0) code addr unit detail).getD i 0) := by
  unfold State.excLogged
  dsimp only
  rw [State.logEvent_word _ _ _ (by simp [excRecord_length]) (by simp only [oTenExc, oTen]; omega),
    State.word_satAdd_ne _ _ _ _ (by simp only [oTenExc, oTenFrag]; omega)]
  split
  · rfl
  · exact State.word_setWords_at _ _ _ four

/-- An exception other than "unsealed output" ends its command and leaves its record (R308, R378, R382). -/
theorem raised_raise {s : State} {t : Tid} {c : Ictx} (thread : c.t = t) (ok : Raisable s c) {code detail : Nat} (addr unit : Nat)
    (sealed : code ≠ xUnsealed) (small : code < 256) (narrow : detail < 2 ^ 32) :
    Raised s (s.raise c code addr unit detail) c t code addr detail := by
  obtain ⟨x, found, admitted, queued, none⟩ := ok.command
  have logged := s.excLogged_progressed c code addr unit detail
  obtain ⟨y, working, same⟩ := logged.working ⟨found, admitted, queued⟩
  have ends := working.fail stProgramFault
  have result : s.raise c code addr unit detail = (s.excLogged c code addr unit detail).fail c.frag.cmd stProgramFault := by
    rw [State.raise_eq, if_neg sealed]
  rw [← result] at ends
  have noArgs : y.argBase = 0 := (congrArg Cmd.argBase same :).trans none
  have word : ∀ i, i < 4 → (s.raise c code addr unit detail).word (oTenExc c.frag.tenant i) = _ := fun i four =>
    (State.word_congr (congrArg State.regs ends.rest :) _).trans (s.excLogged_word c code addr unit detail four)
  constructor
  case command =>
    obtain ⟨z, found, phase, status, _⟩ := ends.entry
    exact ⟨z, found, phase, status⟩
  case fragments =>
    intro f mem
    rw [ends.frags] at mem
    simpa using List.of_mem_filter mem
  case bytes =>
    exact .of_eq ((ends.noArgs noArgs).1.trans (congrArg State.dev logged.rest :))
      ((congrArg State.cis ends.rest :).trans (congrArg State.cis logged.rest :))
      ((congrArg (fun t : State => t.out.hostMem) ends.rest :).trans (s.excLogged_hostMem ..))
  case record =>
    intro empty
    have fresh : ¬s.fld (oTenExc c.tenant 2) 0 0 = 1 := fun one => absurd (empty.symm.trans one) (by decide)
    simp only [if_neg fresh] at word
    have fld : ∀ i, i < 4 → ∀ hi lo, hi < 64 → (s.raise c code addr unit detail).fld (oTenExc c.frag.tenant i) hi lo = _ :=
      fun i four hi lo inside => by rw [State.fld, word i four, BitVec.toNat_ofNat, field_mod_word _ _ inside]
    obtain ⟨pc, kind, cluster, idx, valid⟩ :=
      excRecord_place c (((s.cmd? c.frag.cmd).map (·.cmdid)).getD 0) addr unit detail small
    refine ⟨(word 0 (by decide)).trans ?_, word 1 (by decide), (fld 2 (by decide) 63 32 (by decide)).trans pc,
      (fld 2 (by decide) 31 24 (by decide)).trans kind, (fld 2 (by decide) 23 15 (by decide)).trans cluster,
      (fld 2 (by decide) 14 9 (by decide)).trans (idx.trans (by rw [thread])), (fld 2 (by decide) 0 0 (by decide)).trans valid,
      (fld 3 (by decide) 31 0 (by decide)).trans ?_⟩
    · exact BitVec.eq_of_toNat_eq (by simp [excRecord])
    · simp only [excRecord, List.getD_cons_succ, List.getD_cons_zero, field_low]
      omega
  case kept =>
    intro one i four
    exact (word i four).trans (if_pos one)

/-- A word that R340 refuses raises the illegal-instruction exception. -/
theorem runInsn_raises_illegal {opc : Nat} {legal : Nat → Bool} {eff : Ictx → State → Eff} {t : Tid} {s : State} {c : Ictx}
    (h : At s t opc c) (refused : legal c.w = false) (ok : Raisable s c) :
    ∃ s', runInsn opc legal eff t s = .next s' ∧ Raised s s' c t 0x01 0 0 :=
  ⟨_, runInsn_illegal h refused, raised_raise h.tid ok 0 0 (by decide) (by decide) (by decide)⟩

/-- An instruction whose effect is an exception raises it. -/
theorem runInsn_raises {opc : Nat} {legal : Nat → Bool} {eff : Ictx → State → Eff} {t : Tid} {s : State} {c : Ictx} {code addr detail : Nat}
    (h : At s t opc c) (word : legal c.w = true) (ok : Raisable s c) (effect : eff c s = .exc code addr 0 detail) (sealed : code ≠ xUnsealed)
    (small : code < 256) (narrow : detail < 2 ^ 32) :
    ∃ s', runInsn opc legal eff t s = .next s' ∧ Raised s s' c t code addr detail := by
  refine ⟨s.raise c code addr 0 detail, (runInsn_legal h word).trans ?_, raised_raise h.tid ok addr 0 sealed small narrow⟩
  rw [effect]
  rfl

/-! ## `trap` -/

/-- A word with the opcode of `trap` is taken as the row says. -/
theorem exec_trap_eq {s : State} {t : Tid} {c : Ictx} (h : At s t 0x2F c) :
    exec (.trap t) s = runInsn 0x2F (fun w => onlyUses w (usesSub 15 0)) (fun c _ => .exc xTrap 0 0 (field c.w 15 0)) t s := by
  rw [exec_trap, execTrap, h.1]
  exact if_pos (by rw [h.2]; decide)

/-- Settles O3: the word is legal exactly where IMM 35:16 is zero. -/
theorem trapException : Obligations.TrapException := by
  unfold Obligations.TrapException
  intro s t c h ty mk x d a ok
  rw [exec_trap_eq h]
  by_cases zero : field c.w 35 16 = 0
  · have legal : onlyUses c.w (usesSub 15 0) = true :=
      onlyUses_of_fields [(55, 52), (51, 49), (48, 48), (47, 42), (41, 36), (35, 16)] ⟨ty, mk, x, d, a, zero⟩ (by decide)
    obtain ⟨s', next, raised⟩ := runInsn_raises (legal := fun w => onlyUses w (usesSub 15 0))
      (eff := fun c _ => .exc xTrap 0 0 (field c.w 15 0)) h legal ok rfl (by decide) (by decide) ((field_lt c.w 15 0).trans (by decide))
    exact ⟨s', next, fun _ => raised, fun nonzero => absurd zero nonzero⟩
  · have refused : onlyUses c.w (usesSub 15 0) = false :=
      Bool.eq_false_iff.2 fun legal => zero (field_eq_zero_of_onlyUses legal (by decide))
    obtain ⟨s', next, raised⟩ := runInsn_raises_illegal (legal := fun w => onlyUses w (usesSub 15 0))
      (eff := fun c _ => .exc xTrap 0 0 (field c.w 15 0)) h refused ok
    exact ⟨s', next, fun h => absurd h zero, fun _ => raised⟩

end Sys2Proof.Machine

/-! What an instruction that retires leaves of the machine, and O1: scalar instructions (R345, R347, R348). -/
namespace Sys2Proof.Machine

/-! ## Instructions that write a register of their thread -/

/-- An update of threads alone concerns no byte of memory. -/
theorem SameBytes.of_frags {s s1 s' : State} (rest : { s' with frags := s.frags } = s1) (dev : s1.dev = s.dev) (cis : s1.cis = s.cis)
    (out : s1.out = s.out) : SameBytes s s' :=
  .of_eq ((congrArg State.dev rest :).trans dev) ((congrArg State.cis rest :).trans cis)
    (congrArg Outside.hostMem ((congrArg State.out rest :).trans out))

theorem OnlyThreadOf.onlyThread {s s' : State} {t : Tid} {th : Thread} (only : OnlyThreadOf s s' t th)
    (rest : { s' with frags := s.frags } = s) : OnlyThread s s' t th :=
  ⟨only, .of_frags rest rfl rfl rfl, rest⟩

section
variable {s s1 : State} {t : Tid} {opc : Nat} {c : Ictx} {legal : Nat → Bool} {eff : Ictx → State → Eff}

/-- An instruction that retires with the fragments as they were, but for its own thread. -/
theorem runInsn_updates (h : At s t opc c) (word : legal c.w = true) (g : Thread → Thread) (same : s1.frags = s.frags)
    (effect : eff c s = .done (s1.updThread c.t g)) :
    ∃ s', runInsn opc legal eff t s = .next s' ∧ OnlyThreadOf s s' t (g c.th).retired ∧ { s' with frags := s.frags } = s1 := by
  refine ⟨_, runInsn_done h word effect, ?_, ?_⟩
  · rw [h.tid, updThread_updThread]
    exact onlyThreadOf_of_frags same (insn_thread h.1) fun th => (g th).retired
  · exact congrArg (fun frags => { s1 with frags := frags }) same.symm

/-- The same where nothing but the thread's place changes in the fragments. -/
theorem runInsn_retires (h : At s t opc c) (word : legal c.w = true) (same : s1.frags = s.frags) (effect : eff c s = .done s1) :
    ∃ s', runInsn opc legal eff t s = .next s' ∧ OnlyThreadOf s s' t c.th.retired ∧ { s' with frags := s.frags } = s1 := by
  refine ⟨_, runInsn_done h word effect, ?_, ?_⟩
  · exact onlyThreadOf_of_frags same (insn_thread h.1) Thread.retired
  · exact congrArg (fun frags => { s1 with frags := frags }) same.symm

/-- An instruction that writes a general register, and nothing else. -/
theorem runInsn_putG (h : At s t opc c) (word : legal c.w = true) {v : Word} (effect : eff c s = .done (c.putG s v)) :
    ∃ s' th', runInsn opc legal eff t s = .next s' ∧ OnlyThread s s' t th' ∧ th'.flags = c.th.flags ∧ WroteG c.th th' (wD c.w) v := by
  obtain ⟨s', next, only, rest⟩ := runInsn_updates h word (fun th => th.setG (wD c.w) v) rfl effect
  exact ⟨s', _, next, only.onlyThread rest, setG_flags .., wroteG_setG ..⟩

/-- An instruction that writes a vector register, and nothing else. -/
theorem runInsn_putV (h : At s t opc c) (word : legal c.w = true) {x : BitVec 1024} (effect : eff c s = .done (c.putV s x)) :
    ∃ s' th', runInsn opc legal eff t s = .next s' ∧ OnlyThread s s' t th' ∧ th'.flags = c.th.flags ∧ WroteV c.th th' (wD c.w) x := by
  obtain ⟨s', next, only, rest⟩ := runInsn_updates h word (fun th => th.setV (wD c.w) x) rfl effect
  exact ⟨s', _, next, only.onlyThread rest, rfl, wroteV_setV ..⟩

/-- An instruction that writes a mask register, and nothing else. -/
theorem runInsn_putM (h : At s t opc c) (word : legal c.w = true) {x : BitVec 128} (effect : eff c s = .done (c.putM s x)) :
    ∃ s' th', runInsn opc legal eff t s = .next s' ∧ OnlyThread s s' t th' ∧ th'.flags = c.th.flags ∧ WroteM c.th th' (wD c.w) x := by
  obtain ⟨s', next, only, rest⟩ := runInsn_updates h word (fun th => th.setM (wD c.w) x) rfl effect
  exact ⟨s', _, next, only.onlyThread rest, rfl, wroteM_setM ..⟩

end

/-- A sticky flag set after another change of the thread. -/
theorem Ictx.flagIf_updThread (c : Ictx) (p : Bool) (i : Nat) (s : State) (g : Thread → Thread) :
    c.flagIf p i (s.updThread c.t g) = s.updThread c.t fun th => (g th).flagIf p i := by
  cases p with
  | false => rfl
  | true => exact updThread_updThread ..

/-! ## Results of the two-operand instructions -/

/-- The upper half of a signed product. -/
theorem mulhS_eq : mulhS = fun a b => BitVec.ofInt 64 (a.toInt * b.toInt / 2 ^ 64) := by
  funext a b
  apply BitVec.eq_of_toNat_eq
  rw [mulhS, BitVec.toNat_ofNat, BitVec.toNat_ofInt, ofSigned]
  generalize a.toInt * b.toInt = p
  omega

theorem shAmt_eq (b : Word) : shAmt b = (b &&& 63#64).toNat := by
  rw [shAmt, BitVec.toNat_and]
  exact (Nat.and_two_pow_sub_one_eq_mod b.toNat 6).symm

theorem ofBool_eq (p : Prop) [Decidable p] : ofBool (decide p) = if p then 1 else 0 := by simp [ofBool]

/-- A choice by a strict order is that by the weak one where equal keys leave no choice. -/
theorem ite_lt_eq_ite_le {α β : Type} [LinearOrder β] {p q : β} {x y : α} (same : p = q → x = y) :
    (if p < q then x else y) = if p ≤ q then x else y := by
  obtain less | equal | greater := lt_trichotomy p q
  · rw [if_pos less, if_pos less.le]
  · rw [same equal, ite_self, ite_self]
  · rw [if_neg greater.not_gt, if_neg greater.not_ge]

theorem ite_lt_eq_ite_ge {α β : Type} [LinearOrder β] (f : α → β) (a b : α) :
    (if f b < f a then b else a) = if f a ≤ f b then a else b := by
  rw [← ite_not]
  simp only [not_lt]

/-- The one quotient that overflows wraps by itself (R348). -/
theorem divS_eq :
    divS = fun a b => if b = 0 then -1#64 else if a = BitVec.intMin 64 ∧ b = -1#64 then a else BitVec.ofInt 64 (a.toInt.tdiv b.toInt) := by
  funext a b
  unfold divS
  split
  · rfl
  · split
    · rename_i overflow
      obtain ⟨rfl, rfl⟩ := overflow
      decide
    · rfl

theorem remS_eq :
    remS = fun a b => if b = 0 then a else if a = BitVec.intMin 64 ∧ b = -1#64 then 0
      else BitVec.ofInt 64 (a.toInt - a.toInt.tdiv b.toInt * b.toInt) := by
  funext a b
  unfold remS
  split
  · rfl
  · split
    · rename_i overflow
      obtain ⟨rfl, rfl⟩ := overflow
      decide
    · rw [Int.tmod_def, Int.mul_comm]

/-- The model's row of each two-operand instruction computes the row's result. -/
theorem exec_aluRows : aluRows.Forall fun row => ∀ t s, exec (row.2.1 t) s = aluOp row.1 row.2.2 t s := by
  have alu : ∀ {opc : Nat} {f g : Word → Word → Word} {t : Tid} {s : State}, (∀ a b, f a b = g a b) → aluOp opc f t s = aluOp opc g t s :=
    fun same => by rw [funext fun a => funext (same a)]
  exact ⟨exec_add, exec_sub, exec_mul, fun t s => (exec_mulh t s).trans (alu fun a b => by rw [mulhS_eq]), exec_mulhu, exec_and, exec_or,
    exec_xor, fun t s => (exec_shl t s).trans (alu fun a b => by rw [shAmt_eq]),
    fun t s => (exec_shr t s).trans (alu fun a b => by rw [shAmt_eq]), fun t s => (exec_sra t s).trans (alu fun a b => by rw [shAmt_eq]),
    fun t s => (exec_slt t s).trans (alu fun a b => ofBool_eq _), fun t s => (exec_sltu t s).trans (alu fun a b => ofBool_eq _),
    fun t s => (exec_min t s).trans (alu fun a b => by
      simpa only [BitVec.slt, decide_eq_true_eq] using ite_lt_eq_ite_ge BitVec.toInt a b),
    fun t s => (exec_max t s).trans (alu fun a b => by
      simpa only [BitVec.slt, decide_eq_true_eq] using ite_lt_eq_ite_le fun same => (BitVec.eq_of_toInt_eq same).symm),
    fun t s => (exec_minu t s).trans (alu fun a b => by
      simpa only [BitVec.ult, decide_eq_true_eq] using ite_lt_eq_ite_ge BitVec.toNat a b),
    fun t s => (exec_maxu t s).trans (alu fun a b => by
      simpa only [BitVec.ult, decide_eq_true_eq] using ite_lt_eq_ite_le fun same => (BitVec.eq_of_toNat_eq same).symm)⟩

/-- The same of the divisions. -/
theorem exec_divRows : divRows.Forall fun row => ∀ t s, exec (row.2.1 t) s = divOp row.1 row.2.2 t s :=
  ⟨fun t s => (exec_div t s).trans (by rw [execDiv, divS_eq]), exec_divu, fun t s => (exec_rem t s).trans (by rw [execRem, remS_eq]),
    exec_remu⟩

section
variable {s : State} {t : Tid} {opc : Nat} {c : Ictx} {f : Word → Word → Word}

theorem aluOp_next (h : At s t opc c) (word : aluWord c.w) :
    ∃ s' th', aluOp opc f t s = .next s' ∧ OnlyThread s s' t th' ∧ th'.flags = c.th.flags ∧
      WroteG c.th th' (wD c.w) (f (c.th.rg (wA c.w)) (operandB c)) :=
  runInsn_putG h ((aluLegal_iff _).2 word) (by rw [Ictx.b_eq]; rfl)

/-- A division by zero sets DIVZ before it writes gD. -/
theorem divOp_next (h : At s t opc c) (word : aluWord c.w) :
    ∃ s' th', divOp opc f t s = .next s' ∧ OnlyThread s s' t th' ∧ WroteG c.th th' (wD c.w) (f (c.th.rg (wA c.w)) (operandB c)) ∧
      th'.flags = if operandB c = 0 then c.th.flags ||| 1#64 else c.th.flags := by
  have legal := (aluLegal_iff _).2 word
  by_cases zero : operandB c = 0
  · obtain ⟨s', next, only, rest⟩ := runInsn_updates (s1 := s)
      (eff := fun c s => .done (c.putG (if c.b = 0 then c.setFlag s flagDivz else s) (f c.ga c.b))) h legal
      (fun th => ({ th with flags := setFlagBit th.flags flagDivz } : Thread).setG (wD c.w) (f c.ga (operandB c))) rfl
      (by rw [Ictx.b_eq, if_pos zero]; exact congrArg Eff.done (updThread_updThread ..))
    have wrote := wroteG_setG { c.th with flags := setFlagBit c.th.flags flagDivz } (wD c.w) (f c.ga (operandB c))
    exact ⟨s', _, next, only.onlyThread rest, ⟨wrote.g, wrote.v, wrote.m, wrote.pc, wrote.st⟩,
      (setG_flags ..).trans (if_pos zero).symm⟩
  · obtain ⟨s', th', next, only, flags, wrote⟩ := runInsn_putG (v := f c.ga (operandB c))
      (eff := fun c s => .done (c.putG (if c.b = 0 then c.setFlag s flagDivz else s) (f c.ga c.b))) h legal
      (by rw [Ictx.b_eq, if_neg zero])
    exact ⟨s', th', next, only, wrote, flags.trans (if_neg zero).symm⟩

/-- A word with a field set that it does not use (R340). -/
theorem scalar_illegal (h : At s t opc c) (word : ¬aluWord c.w) (ok : Raisable s c) (eff : Ictx → State → Eff) :
    ∃ s', runInsn opc aluLegal eff t s = .next s' ∧ Raised s s' c t 0x01 0 0 :=
  runInsn_raises_illegal h (Bool.eq_false_iff.2 (mt (aluLegal_iff _).1 word)) ok

end

/-! ## `clz`, `popc`, `lhi` and `swr` -/

/-- The count of leading zeros ends at the highest one. -/
theorem clzW_spec (a : Word) :
    (clzW a).toNat ≤ 64 ∧ (∀ i, i < (clzW a).toNat → a.getMsbD i = false) ∧ ((clzW a).toNat < 64 → a.getMsbD (clzW a).toNat = true) := by
  by_cases zero : a = 0
  · subst zero
    exact ⟨by decide, fun i _ => by simp, fun less => absurd less (by decide)⟩
  · have nonzero : a.toNat ≠ 0 := fun h => zero (BitVec.eq_of_toNat_eq h)
    have high : a.toNat.log2 < 64 := (Nat.log2_lt nonzero).2 a.isLt
    have count : (clzW a).toNat = 63 - a.toNat.log2 := by
      rw [clzW, if_neg zero, BitVec.toNat_ofNat]
      omega
    rw [count]
    refine ⟨by omega, fun i above => ?_, fun _ => ?_⟩
    · have beyond : a.toNat < 2 ^ (63 - i) := Nat.lt_log2_self.trans_le (Nat.pow_le_pow_right (by decide) (by omega))
      rw [BitVec.getMsbD, ← BitVec.testBit_toNat, show 64 - 1 - i = 63 - i by omega, Nat.testBit_lt_two_pow beyond, Bool.and_false]
    · rw [BitVec.getMsbD, ← BitVec.testBit_toNat, show 64 - 1 - (63 - a.toNat.log2) = a.toNat.log2 by omega, Nat.testBit_log2 nonzero,
        Bool.and_true, decide_eq_true_iff]
      omega

theorem popN_eq (n x : Nat) : popN n x = ((List.range n).filter x.testBit).length := by
  induction n generalizing x with
  | zero => rfl
  | succ n ih =>
    have first : (([0].filter x.testBit).length : Nat) = x % 2 := by
      obtain even | odd := Nat.mod_two_eq_zero_or_one x <;> simp [Nat.testBit_zero, *]
    have shifted : (x / 2).testBit = x.testBit ∘ Nat.succ := funext fun i => (Nat.testBit_succ x i).symm
    rw [popN, ih, List.range_succ_eq_map, ← List.singleton_append, List.filter_append, List.length_append, first, List.filter_map,
      List.length_map, shifted]

theorem popN_toNat {n : Nat} (x : BitVec n) : popN n x.toNat = ((List.range n).filter x.getLsbD).length := by
  rw [popN_eq]
  rfl

/-- The immediate above the kept lower bits (R348). -/
theorem lhi_value (w : Nat) (d : Word) :
    BitVec.ofNat 64 (field w 21 0 * 2 ^ 42 + d.toNat % 2 ^ 42) = BitVec.ofNat 22 w ++ BitVec.setWidth 42 d := by
  apply BitVec.eq_of_toNat_eq
  rw [BitVec.toNat_append, ← Nat.shiftLeft_add_eq_or_of_lt (BitVec.isLt _), Nat.shiftLeft_eq, field_low]
  simp only [BitVec.toNat_ofNat, BitVec.toNat_setWidth]
  omega

/-- Clearing the low five bits that are ones in a mask. -/
theorem getLsbD_clear (f a : Word) {i : Nat} (inside : i < 64) :
    (f &&& ~~~(a &&& 0x1F#64)).getLsbD i = (f.getLsbD i && !(decide (i < 5) && a.getLsbD i)) := by
  have five : (0x1F#64).getLsbD i = decide (i < 5) := by
    rw [BitVec.getLsbD_ofNat, decide_eq_true inside, Bool.true_and]
    exact Nat.testBit_two_pow_sub_one 5 i
  rw [BitVec.getLsbD_and, BitVec.getLsbD_not, BitVec.getLsbD_and, five, decide_eq_true inside, Bool.true_and, Bool.and_comm (a.getLsbD i)]

section
variable {s : State} {t : Tid} {c : Ictx}

/-- The words of the instructions that name gD and gA alone. -/
theorem onlyUses_DA (ty : wTy c.w = 0) (mk : wMk c.w = 0) (x : wX c.w = 0) (low : field c.w 35 0 = 0) :
    onlyUses c.w (usesD ||| usesA) = true :=
  onlyUses_of_fields [(55, 52), (51, 49), (48, 48), (35, 0)] ⟨ty, mk, x, low⟩ (by decide)

theorem oneOp_next {opc : Nat} (f : Word → Word) (h : At s t opc c) (ty : wTy c.w = 0) (mk : wMk c.w = 0) (x : wX c.w = 0)
    (b : wB c.w = 0) (gc : wC c.w = 0) (sub : wSub c.w = 0) :
    ∃ s' th', oneOp opc f t s = .next s' ∧ OnlyThread s s' t th' ∧ th'.flags = c.th.flags ∧
      WroteG c.th th' (wD c.w) (f (c.th.rg (wA c.w))) := by
  refine runInsn_putG h ?_ rfl
  exact onlyUses_of_fields [(55, 52), (51, 49), (48, 48), (35, 30), (29, 24), (23, 0)] ⟨ty, mk, x, b, gc, sub⟩ (by decide)

/-- Reading a special register draws at most a free value (R345). -/
theorem exec_srd_next (h : At s t 0x1B c) (uses : onlyUses c.w (usesD ||| usesA) = true) (known : wA c.w ≤ 3) :
    ∃ s' th', exec (.srd t) s = .next s' ∧ OnlyThreadOf s s' t th' ∧ { s' with frags := s.frags, free := s.free } = s ∧
      th'.flags = c.th.flags ∧ WroteG c.th th' (wD c.w) (c.special s (wA c.w)) := by
  have effect : ∀ e : Eff, (if 3 < wA c.w then badOperand else e) = e := fun e => if_neg (Nat.not_lt.2 known)
  obtain ⟨s', next, only, rest⟩ := runInsn_updates (s1 := if wA c.w = 1 then s.drew 1 else s)
    (legal := fun w => onlyUses w (usesD ||| usesA)) (eff := fun c s => if 3 < wA c.w then badOperand
      else .done (c.putG (if wA c.w = 1 then s.drew 1 else s) (c.special s (wA c.w))))
    h uses (fun th => th.setG (wD c.w) (c.special s (wA c.w))) (by split <;> rfl) (effect _)
  refine ⟨s', _, next, only, (congrArg (fun u : State => { u with free := s.free }) rest :).trans ?_, setG_flags .., wroteG_setG ..⟩
  split <;> rfl

/-- Of the special registers FLAGS alone takes a write, and clears what is 1 in gA (R345, log 9). -/
theorem exec_swr_next (h : At s t 0x1C c) (uses : onlyUses c.w (usesD ||| usesA) = true) (known : wD c.w ≤ 3) :
    ∃ s' th', exec (.swr t) s = .next s' ∧ OnlyThread s s' t th' ∧ WroteG c.th th' 0 0 ∧
      ∀ i, i < 64 → th'.flags.getLsbD i =
        (c.th.flags.getLsbD i && !(decide (wD c.w = 0 ∧ i < 5) && (c.th.rg (wA c.w)).getLsbD i)) := by
  have wrote := wroteG_setG c.th 0 0
  have effect : ∀ e : Eff, (if 3 < wD c.w then badOperand else e) = e := fun e => if_neg (Nat.not_lt.2 known)
  let eff : Ictx → State → Eff := fun c s => if 3 < wD c.w then badOperand
      else .done (if wD c.w = 0 then s.updThread c.t fun th => { th with flags := th.flags &&& ~~~(c.ga &&& 0x1F#64) } else s)
  by_cases zero : wD c.w = 0
  · obtain ⟨s', next, only, rest⟩ := runInsn_updates (legal := fun w => onlyUses w (usesD ||| usesA)) (eff := eff) h uses
      (fun th => { th with flags := th.flags &&& ~~~(c.ga &&& 0x1F#64) }) rfl
      ((effect _).trans (congrArg Eff.done (if_pos zero)))
    refine ⟨s', _, next, only.onlyThread rest, ⟨wrote.g, wrote.v, wrote.m, wrote.pc, wrote.st⟩, fun i inside => ?_⟩
    simp only [zero, true_and]
    exact getLsbD_clear _ _ inside
  · obtain ⟨s', next, only, rest⟩ := runInsn_retires (legal := fun w => onlyUses w (usesD ||| usesA)) (eff := eff) h uses rfl
      ((effect _).trans (congrArg Eff.done (if_neg zero)))
    refine ⟨s', _, next, only.onlyThread rest, wrote, fun i _ => ?_⟩
    simp [zero, Thread.retired]

end

/-- Settles O1: one effect for each of the formats of the scalar instructions, and the results row by row. -/
theorem scalarInstructions : Obligations.ScalarInstructions := by
  unfold Obligations.ScalarInstructions
  have alu := List.forall_iff_forall_mem.1 exec_aluRows
  have div := List.forall_iff_forall_mem.1 exec_divRows
  refine ⟨fun row listed s t c h word => ?_, fun row listed s t c h word => ?_, fun row listed s t c h word ok => ?_,
    fun s t c ty mk x => ⟨fun h b gc sub => ?_, fun h b gc sub => ?_, fun h sub => ?_, fun h => ?_, fun h high => ?_⟩,
    fun s t c ty mk x low => ⟨fun h known => ?_, fun h known => ?_⟩⟩
  · rw [alu row listed]
    exact aluOp_next h word
  · rw [div row listed]
    exact divOp_next h word
  · obtain mem | mem := List.mem_append.1 listed
    · rw [alu row mem]
      exact scalar_illegal h word ok _
    · rw [div row mem]
      exact scalar_illegal h word ok _
  · obtain ⟨s', th', next, only, flags, wrote⟩ := oneOp_next clzW h ty mk x b gc sub
    exact ⟨s', th', _, next, only, flags, wrote, clzW_spec _⟩
  · rw [← popN_toNat]
    exact oneOp_next popcW h ty mk x b gc sub
  · rw [exec_sel]
    refine runInsn_putG h ?_ rfl
    exact onlyUses_of_fields [(55, 52), (51, 49), (48, 48), (23, 0)] ⟨ty, mk, x, sub⟩ (by decide)
  · rw [BitVec.signExtend, ← wImm42_eq, exec_li]
    refine runInsn_putG h ?_ rfl
    exact onlyUses_of_fields [(55, 52), (51, 49), (48, 48)] ⟨ty, mk, x⟩ (by decide)
  · rw [← lhi_value, exec_lhi]
    refine runInsn_putG h ?_ rfl
    exact onlyUses_of_fields [(55, 52), (51, 49), (48, 48), (41, 22)] ⟨ty, mk, x, high⟩ (by decide)
  · obtain ⟨s', th', next, only, rest, flags, wrote⟩ := exec_srd_next h (onlyUses_DA ty mk x low) known
    refine ⟨s', th', _, next, only, rest, flags, wrote, fun n => ?_, fun n => ?_, fun n => ?_⟩
    all_goals rw [n]; rfl
  · exact exec_swr_next h (onlyUses_DA ty mk x low) known

end Sys2Proof.Machine

/-! O2: branches and jumps (R349). -/
namespace Sys2Proof.Machine

/-- The target that is congruent to the moved program counter modulo 2^64. -/
theorem Ictx.rel_eq {c : Ictx} {n : Int} {target : Nat} (small : target < 2 ^ 64) (same : ((c.th.pc : Int) + 8 * n - target) % 2 ^ 64 = 0) :
    c.rel n = target := by
  unfold Ictx.rel ofSigned
  omega

section
variable {s s1 : State} {t : Tid} {opc target : Nat} {c : Ictx} {legal : Nat → Bool} {eff : Ictx → State → Eff}

/-- A jump to a word of the program. -/
theorem runInsn_jump (h : At s t opc c) (word : legal c.w = true) (effect : eff c s = c.jump s s1 target) (aligned : target % 8 = 0)
    (inside : target < imageSize s c) :
    runInsn opc legal eff t s = .next (s1.updThread t fun th => { th with st := .ready, pc := target }) := by
  have goes : c.jump s s1 target = .goto s1 target := (if_neg (not_not.2 aligned)).trans (if_neg (Nat.not_le.2 inside))
  rw [runInsn_legal h word, effect, goes, ← h.tid]
  rfl

theorem runInsn_jump_misaligned (h : At s t opc c) (word : legal c.w = true) (effect : eff c s = c.jump s s1 target)
    (misaligned : target % 8 ≠ 0) (ok : Raisable s c) : ∃ s', runInsn opc legal eff t s = .next s' ∧ Raised s s' c t 0x03 target 0 :=
  runInsn_raises h word ok (effect.trans (if_pos misaligned)) (by decide) (by decide) (by decide)

theorem runInsn_jump_outside (h : At s t opc c) (word : legal c.w = true) (effect : eff c s = c.jump s s1 target) (aligned : target % 8 = 0)
    (outside : imageSize s c ≤ target) (ok : Raisable s c) :
    ∃ s', runInsn opc legal eff t s = .next s' ∧ Raised s s' c t 0x04 target 0 :=
  runInsn_raises h word ok (effect.trans ((if_neg (not_not.2 aligned)).trans (if_pos outside))) (by decide) (by decide) (by decide)

/-- A jump that has written its link register changes its thread alone. -/
theorem linked (h : At s t opc c) (v : Word) :
    ∃ th', OnlyThread s ((c.putG s v).updThread t fun th => { th with st := .ready, pc := target }) t th' ∧ th'.flags = c.th.flags ∧
      th'.pc = target ∧ WroteG c.th { th' with pc := c.th.pc + 8 } (wD c.w) v := by
  have wrote := wroteG_setG c.th (wD c.w) v
  refine ⟨{ c.th.setG (wD c.w) v with st := .ready, pc := target }, ?_, setG_flags .., rfl, ⟨wrote.g, wrote.v, wrote.m, rfl, rfl⟩⟩
  rw [Ictx.putG, h.tid, updThread_updThread]
  exact onlyThread_updThread s t _ c.th (insn_thread h.1)

end

/-- What a jump and link does with its target. -/
theorem runInsn_link {s : State} {t : Tid} {opc target : Nat} {c : Ictx} {legal : Nat → Bool} {eff : Ictx → State → Eff} (h : At s t opc c)
    (word : legal c.w = true) (effect : eff c s = c.jump s (c.putG s c.link) target) :
    (target % 8 = 0 → target < imageSize s c →
      ∃ s' th', runInsn opc legal eff t s = .next s' ∧ OnlyThread s s' t th' ∧ th'.flags = c.th.flags ∧ th'.pc = target ∧
        WroteG c.th { th' with pc := c.th.pc + 8 } (wD c.w) (BitVec.ofNat 64 (c.th.pc + 8))) ∧
    (target % 8 ≠ 0 → Raisable s c → ∃ s', runInsn opc legal eff t s = .next s' ∧ Raised s s' c t 0x03 target 0) ∧
    (target % 8 = 0 → imageSize s c ≤ target → Raisable s c →
      ∃ s', runInsn opc legal eff t s = .next s' ∧ Raised s s' c t 0x04 target 0) := by
  refine ⟨fun aligned inside => ?_, runInsn_jump_misaligned h word effect, runInsn_jump_outside h word effect⟩
  obtain ⟨th', only, flags, pc, wrote⟩ := linked (target := target) h c.link
  exact ⟨_, th', runInsn_jump h word effect aligned inside, only, flags, pc, wrote⟩

/-- The model's row of each branch tests the row's condition. -/
theorem exec_branchRows :
    branchRows.Forall fun row => ∃ p : Word → Word → Bool, (∀ a b, p a b = true ↔ row.2.2 a b) ∧
      ∀ t s, exec (row.2.1 t) s = branchOp row.1 p t s :=
  ⟨⟨_, fun _ _ => beq_iff_eq, exec_beq⟩, ⟨_, fun _ _ => bne_iff_ne, exec_bne⟩, ⟨_, fun _ _ => decide_eq_true_iff, exec_blt⟩,
    ⟨_, fun a b => by simp [BitVec.slt], exec_bge⟩, ⟨_, fun _ _ => decide_eq_true_iff, exec_bltu⟩,
    ⟨_, fun a b => by simp [BitVec.ult], exec_bgeu⟩⟩

/-- Settles O2: a jump in its three outcomes, and the two ways that a branch can go. -/
theorem branchesAndJumps : Obligations.BranchesAndJumps := by
  unfold Obligations.BranchesAndJumps
  refine ⟨fun row listed s t c h ty mk x d => ?_, fun s t c i target ty mk x small which => ?_⟩
  · obtain ⟨p, cond, exec⟩ := List.forall_iff_forall_mem.1 exec_branchRows row listed
    have word : onlyUses c.w (usesA ||| usesB ||| usesOff30) = true :=
      onlyUses_of_fields [(55, 52), (51, 49), (48, 48), (47, 42)] ⟨ty, mk, x, d⟩ (by decide)
    rw [exec, branchOp]
    refine ⟨fun stays => ?_, fun target taken small same => ?_⟩
    · refine ⟨_, runInsn_done h word (if_neg (mt (cond _ _).1 stays)), ?_⟩
      exact onlyThread_updThread s t Thread.retired c.th (insn_thread h.1)
    · have effect : (if p c.ga c.gb then c.jump s s (c.rel (wOff30 c.w)) else .done s) = c.jump s s target := by
        rw [if_pos ((cond c.ga c.gb).2 taken), Ictx.rel_eq small (by rwa [wOff30_eq])]
      refine ⟨fun aligned inside => ⟨_, runInsn_jump h word effect aligned inside, ?_⟩, runInsn_jump_misaligned h word effect,
        runInsn_jump_outside h word effect⟩
      exact onlyThread_updThread s t _ c.th (insn_thread h.1)
  · obtain ⟨h, rfl, same⟩ | ⟨h, rfl, rfl⟩ := which
    · rw [exec_jal]
      refine runInsn_link h ?_ (by rw [Ictx.rel_eq small (by rwa [wImm42_eq])])
      exact onlyUses_of_fields [(55, 52), (51, 49), (48, 48)] ⟨ty, mk, x⟩ (by decide)
    · rw [exec_jalr]
      refine runInsn_link h ?_ (by rw [wImm36_eq]; rfl)
      exact onlyUses_of_fields [(55, 52), (51, 49), (48, 48)] ⟨ty, mk, x⟩ (by decide)

end Sys2Proof.Machine

/-! Loads, stores and atomics of the cistern: O4 and O6 (R301, R327, R352 to R356). -/
namespace Sys2Proof

/-! ## Bytes of a sparse memory -/

theorem Mem.rdN_eq_map (m : Mem) (a n : Nat) : m.rdN a n = (List.range n).map fun i => m.rd (a + i) := by
  induction n generalizing a with
  | zero => rfl
  | succ n ih =>
    rw [Mem.rdN, ih, List.range_succ_eq_map, List.map_cons, List.map_map]
    simp [Function.comp_def, Nat.add_assoc, Nat.add_comm 1]

/-- A masked write leaves the bytes outside its range. -/
theorem Mem.rd_wrMask_out (m : Mem) (a : Nat) (bs : List (Bool × Byte)) {b : Nat} (outside : b < a ∨ a + bs.length ≤ b) :
    (m.wrMask a bs).rd b = m.rd b := by
  induction bs generalizing m a with
  | nil => rfl
  | cons x r ih =>
    obtain ⟨on, x⟩ := x
    rw [List.length_cons] at outside
    rw [Mem.wrMask, ih _ _ (by omega)]
    split
    · exact Mem.rd_wr_ne m x (by omega)
    · rfl

/-- Within it, the bytes of which the mask is true are new. -/
theorem Mem.rd_wrMask_at (m : Mem) (a : Nat) (bs : List (Bool × Byte)) {i : Nat} (inside : i < bs.length) :
    (m.wrMask a bs).rd (a + i) = if bs[i].1 = true then bs[i].2 else m.rd (a + i) := by
  induction bs generalizing m a i with
  | nil => cases inside
  | cons x r ih =>
    obtain ⟨on, x⟩ := x
    cases i with
    | zero =>
      rw [Mem.wrMask, Mem.rd_wrMask_out _ _ _ (by omega)]
      cases on <;> simp
    | succ i =>
      have next := ih (if on = true then m.wr a x else m) (a + 1) (Nat.lt_of_succ_lt_succ inside)
      rw [Mem.wrMask, show a + (i + 1) = a + 1 + i by omega, next, List.getElem_cons_succ]
      cases on
      · rfl
      · rw [if_pos rfl, Mem.rd_wr_ne m x (by omega)]

theorem Mem.rd_wrN_at (m : Mem) (a : Nat) (bs : List Byte) {i : Nat} (inside : i < bs.length) : (m.wrN a bs).rd (a + i) = bs[i] := by
  rw [← Machine.Mem.wrMask_all, Mem.rd_wrMask_at _ _ _ (by simpa using inside)]
  simp

end Sys2Proof

namespace Sys2Proof.Machine

/-- The bytes of a number below a power of 256 rest on its residue there. -/
theorem byte_congr {x y n k : Nat} (same : x % 256 ^ n = y % 256 ^ n) (low : k < n) :
    BitVec.ofNat 8 (x / 256 ^ k) = BitVec.ofNat 8 (y / 256 ^ k) := by
  have part : ∀ z, z / 256 ^ k % 256 = z % 256 ^ n % 256 ^ (k + 1) / 256 ^ k := fun z => by
    rw [Nat.mod_mod_of_dvd _ (Nat.pow_dvd_pow 256 low), Nat.pow_succ, Nat.mod_mul_right_div_self]
  apply BitVec.eq_of_toNat_eq
  rw [BitVec.toNat_ofNat, BitVec.toNat_ofNat]
  exact (part x).trans ((congrArg (· % 256 ^ (k + 1) / 256 ^ k) same).trans (part y).symm)

theorem toLe_getElem (n x : Nat) {i : Nat} (inside : i < (toLe n x).length) : (toLe n x)[i] = BitVec.ofNat 8 (x / 256 ^ i) := by
  simp [toLe_eq_map_range]

/-! ## Accesses of the cistern (R301, R352, R353) -/

section
variable {s : State} {t : Tid} {opc size : Nat} {c : Ictx} {legal : Nat → Bool} {eff : Ictx → State → Eff}

theorem Ictx.load_cis (x : wX c.w = 1) (aligned : c.cisOff % size = 0) {n : Nat} (inside : c.cisOff + n ≤ c.frag.cis * 65536)
    (k : State → List Byte → Eff) : c.load s size n k = k s (c.cisRd s c.cisOff n) := by
  have area : c.inArea c.cisOff n = true := decide_eq_true inside
  simp [Ictx.load, x, aligned, area, firstExc]

theorem Ictx.store_cis (x : wX c.w = 1) (aligned : c.cisOff % size = 0) {bs : List (Bool × Byte)}
    (inside : c.cisOff + bs.length ≤ c.frag.cis * 65536) :
    c.store s size bs = .done { s with cis := s.cis.wrMask (cisKey c.mem.cluster (c.mem.base + c.cisOff)) bs } := by
  have area : c.inArea c.cisOff bs.length = true := decide_eq_true inside
  simp [Ictx.store, x, aligned, area, firstExc, Ictx.cluster]

/-- A store to the cistern changes the bytes of its range that it covers, and its thread's place. -/
theorem runInsn_store_cis (h : At s t opc c) (word : legal c.w = true) {bs : List (Bool × Byte)} (effect : eff c s = c.store s size bs)
    (x : wX c.w = 1) (aligned : c.cisOff % size = 0) {n : Nat} (length : bs.length = n) (inside : c.cisOff + n ≤ c.frag.cis * 65536) :
    ∃ s', runInsn opc legal eff t s = .next s' ∧ OnlyThreadOf s s' t c.th.retired ∧ { s' with frags := s.frags, cis := s.cis } = s ∧
      (∀ a, (a < cisKey c.mem.cluster (c.mem.base + c.cisOff) ∨ cisKey c.mem.cluster (c.mem.base + c.cisOff) + n ≤ a) →
        s'.cis.rd a = s.cis.rd a) ∧
      ∀ i (h : i < n), s'.cis.rd (cisKey c.mem.cluster (c.mem.base + c.cisOff) + i) =
        if (bs[i]'(length ▸ h)).1 = true then (bs[i]'(length ▸ h)).2
        else s.cis.rd (cisKey c.mem.cluster (c.mem.base + c.cisOff) + i) := by
  subst length
  obtain ⟨s', next, only, rest⟩ := runInsn_retires (s1 := { s with cis := s.cis.wrMask (cisKey c.mem.cluster (c.mem.base + c.cisOff)) bs })
    h word rfl (effect.trans (Ictx.store_cis x aligned inside))
  have cis : s'.cis = s.cis.wrMask (cisKey c.mem.cluster (c.mem.base + c.cisOff)) bs := (congrArg State.cis rest :)
  refine ⟨s', next, only, (congrArg (fun u : State => { u with cis := s.cis }) rest :), fun a outside => ?_, fun i inside => ?_⟩
  · rw [cis, Mem.rd_wrMask_out _ _ _ outside]
  · rw [cis, Mem.rd_wrMask_at _ _ _ inside]

end

theorem Ictx.vstBytes_length (c : Ictx) : c.vstBytes.length = 128 := by
  rw [Ictx.vstBytes, List.length_map, List.length_zipIdx, toLe_length]

/-- A byte of vD is stored where its lane is active, or without a mask (R344, R355). -/
theorem Ictx.vstBytes_getElem (c : Ictx) {i : Nat} (inside : i < c.vstBytes.length) :
    c.vstBytes[i] = (wMk c.w == 0 || (c.th.rm (wMk c.w)).getLsbD (i * 8 / tyWidth (wTy c.w)),
      BitVec.ofNat 8 ((c.th.rv (wD c.w)).toNat / 256 ^ i)) := by
  simp only [Ictx.vstBytes, List.getElem_map, List.getElem_zipIdx, toLe_getElem, Nat.zero_add]

/-- Settles O4: two loads, and two stores of flagged bytes. -/
theorem cisternLoadStore : Obligations.CisternLoadStore := by
  unfold Obligations.CisternLoadStore
  intro s t c x _
  refine ⟨fun h low high mk b aligned inside => ?_, fun h ty mk b reg aligned inside => ?_, fun h low high mk d aligned inside => ?_,
    fun h plain masked b reg aligned inside => ?_⟩
  · rw [exec_ld, ← extend_eq (.inl ⟨low, high⟩)]
    refine runInsn_putG h ?_ (Ictx.load_cis x aligned inside _)
    simpa [low, high] using onlyUses_of_fields [(51, 49), (35, 30)] ⟨mk, b⟩ (by decide)
  · rw [exec_vld]
    refine runInsn_putV h ?_ (Ictx.load_cis x aligned inside _)
    simpa [reg] using onlyUses_of_fields [(55, 52), (51, 49), (35, 30)] ⟨ty, mk, b⟩ (by decide)
  · have length : ((toLe (tySize (wTy c.w)) c.gb.toNat).map fun b => (true, b)).length = tyWidth (wTy c.w) / 8 := by
      rw [List.length_map, toLe_length]
      rfl
    have step := fun word => runInsn_store_cis
      (legal := fun w => decide (2 ≤ wTy w ∧ wTy w ≤ 5) && onlyUses w (usesTy ||| usesX ||| usesA ||| usesB ||| usesOff30))
      (eff := fun c s => c.store s (tySize (wTy c.w)) ((toLe (tySize (wTy c.w)) c.gb.toNat).map fun b => (true, b)))
      h word rfl x aligned length inside
    obtain ⟨s', next, only, rest, kept, wrote⟩ :=
      step (by simpa [low, high] using onlyUses_of_fields [(51, 49), (47, 42)] ⟨mk, d⟩ (by decide))
    refine ⟨s', (exec_st t s).trans next, only, rest, kept, fun i inside => (wrote i inside).trans ?_⟩
    rw [List.getElem_map, toLe_getElem, if_pos rfl]
    rfl
  · have type : (if wMk c.w = 0 then wTy c.w == 0 else decide (2 ≤ wTy c.w ∧ wTy c.w ≤ 9)) = true := by
      split
      · rename_i none
        exact beq_iff_eq.2 (plain none)
      · rename_i some
        exact decide_eq_true (masked some)
    have step := fun word => runInsn_store_cis
      (legal := fun w => decide (wD w ≤ 31) && (if wMk w = 0 then wTy w == 0 else decide (2 ≤ wTy w ∧ wTy w ≤ 9)) &&
        onlyUses w (usesTy ||| usesMk ||| usesX ||| usesD ||| usesA ||| usesOff30))
      (eff := fun c s => c.store s 64 c.vstBytes) h word rfl x aligned c.vstBytes_length inside
    obtain ⟨s', next, only, rest, kept, wrote⟩ :=
      step (by simpa only [reg, type, decide_true, Bool.true_and] using onlyUses_of_fields [(35, 30)] b (by decide))
    refine ⟨s', (exec_vst t s).trans next, only, rest, kept, fun i inside => (wrote i inside).trans ?_⟩
    rw [Ictx.vstBytes_getElem]
    simp

/-! ## Atomics (R327, R356) -/

/-- The thread of an atomic: the old value in gD, and FPINV where a floating-point sum made a NaN. -/
def Ictx.amoThread (c : Ictx) (old new : Nat) : Thread :=
  ((c.th.setG (wD c.w) (amoOld (wTy c.w) old)).flagIf (wTy c.w == 14 && madeNan fF32 [old, c.gb.toNat % 2 ^ 32] new) flagFpinv).retired

/-- An atomic on the cistern writes its result in place of the old value. -/
theorem amoOp_cis {opc : Nat} {tys : List Nat} {f : Nat → Nat → Nat → Nat} {s : State} {t : Tid} {c : Ictx} {n old new : Nat}
    (h : At s t opc c) (type : wTy c.w ∈ tys) (x : wX c.w = 1) (mk : wMk c.w = 0) (size : tySize (wTy c.w) = n)
    (aligned : c.cisOff % n = 0) (inside : c.cisOff + n ≤ c.frag.cis * 65536) (before : old = leNat (c.cisRd s c.cisOff n))
    (after : f (wTy c.w) old (c.gb.toNat % 2 ^ (8 * n)) = new) :
    ∃ s', amoOp opc tys f t s = .next s' ∧ OnlyThreadOf s s' t (c.amoThread old new) ∧
      { s' with frags := s.frags } = c.cisWr s c.cisOff (toLe n new) := by
  subst size before
  have area : c.inArea c.cisOff (tySize (wTy c.w)) = true := decide_eq_true inside
  refine runInsn_updates h ?_
    (fun th => (th.setG (wD c.w) (amoOld (wTy c.w) (leNat (c.cisRd s c.cisOff (tySize (wTy c.w)))))).flagIf
      (wTy c.w == 14 && madeNan fF32 [leNat (c.cisRd s c.cisOff (tySize (wTy c.w))), c.gb.toNat % 2 ^ 32] new) flagFpinv) rfl ?_
  · exact Bool.and_eq_true_iff.2 ⟨List.contains_iff_mem.2 type, onlyUses_of_fields [(51, 49)] mk (by decide)⟩
  · simp only [x, if_true, aligned, area, firstExc, bne_self_eq_false, Bool.not_true, after, Ictx.putG, Ictx.flagIf_updThread]

/-- What the statement says of an atomic, from its step. -/
theorem amoOp_cis_effect {s s' : State} {t : Tid} {c : Ictx} {n old new : Nat} (only : OnlyThreadOf s s' t (c.amoThread old new))
    (rest : { s' with frags := s.frags } = c.cisWr s c.cisOff (toLe n new)) :
    ∃ th', OnlyThreadOf s s' t th' ∧ { s' with frags := s.frags, cis := s.cis } = s ∧
      WroteG c.th th' (wD c.w) (amoOld (wTy c.w) old) ∧ (wTy c.w ≠ 14 → th'.flags = c.th.flags) ∧
      (∀ a, (a < cisKey c.mem.cluster (c.mem.base + c.cisOff) ∨ cisKey c.mem.cluster (c.mem.base + c.cisOff) + n ≤ a) →
        s'.cis.rd a = s.cis.rd a) ∧
      ∀ k, k < n → s'.cis.rd (cisKey c.mem.cluster (c.mem.base + c.cisOff) + k) = BitVec.ofNat 8 (new / 256 ^ k) := by
  have wrote := wroteG_setG c.th (wD c.w) (amoOld (wTy c.w) old)
  have cis : s'.cis = s.cis.wrN (cisKey c.mem.cluster (c.mem.base + c.cisOff)) (toLe n new) := (congrArg State.cis rest :)
  refine ⟨_, only, (congrArg (fun u : State => { u with cis := s.cis }) rest :), ⟨wrote.g, wrote.v, wrote.m, wrote.pc, wrote.st⟩,
    fun other => ?_, fun a outside => ?_, fun k low => ?_⟩
  · simp [Ictx.amoThread, Thread.retired, Thread.flagIf, other, setG_flags]
  · rw [cis, Mem.rd_wrN_out _ _ _ _ (by rwa [toLe_length])]
  · rw [cis, Mem.rd_wrN_at _ _ _ (by rwa [toLe_length]), toLe_getElem]

/-- The size of an atomic's operands, and its old value as gD holds it. -/
theorem amo_value {ty : Nat} (type : ty ∈ [4, 5, 14]) (old : Nat) :
    tySize ty = (if ty = 5 then 8 else 4) ∧
      amoOld ty old = if ty = 4 then (BitVec.ofNat 32 old).signExtend 64 else BitVec.ofNat 64 old := by
  have word : amoOld 4 old = (BitVec.ofNat 32 old).signExtend 64 := extend_eq (ty := 4) (.inl (by decide)) old
  obtain rfl | rfl | rfl : ty = 4 ∨ ty = 5 ∨ ty = 14 := by simpa using type
  · exact ⟨rfl, word⟩
  · exact ⟨rfl, rfl⟩
  · exact ⟨rfl, rfl⟩

/-- Settles O6: an atomic with each of the two functions. -/
theorem cisternAtomics : Obligations.CisternAtomics := by
  unfold Obligations.CisternAtomics
  intro s t c n x mk width _ aligned inside old b new before operand i which
  have residue : ∀ y, (y + b % 2 ^ (8 * n)) % 256 ^ n = (y + b) % 256 ^ n := fun y => by
    rw [show (2 : Nat) ^ (8 * n) = 256 ^ n by rw [Nat.pow_mul], Nat.add_mod_mod]
  have gb : c.gb.toNat = b := operand.symm
  obtain ⟨rfl, h, type, rfl⟩ | ⟨rfl, h, type, rfl⟩ := which
  · obtain ⟨size, result⟩ := amo_value type old
    obtain ⟨s', next, only, rest⟩ := amoOp_cis (f := fun ty old b => if ty = 14 then fF32.add old b else old + b) h type x mk
      (size.trans width.symm) aligned inside before rfl
    obtain ⟨th', only, rest, wrote, flags, kept, bytes⟩ := amoOp_cis_effect only rest
    refine ⟨s', th', (exec_amoAdd t s).trans next, only, rest, result ▸ wrote, flags, kept, fun k low => (bytes k low).trans ?_⟩
    rw [gb]
    split
    · rename_i single
      rw [width, single]
      rfl
    · exact byte_congr (residue old) low
  · obtain ⟨size, result⟩ := amo_value (List.mem_append_left [14] type) old
    obtain ⟨s', next, only, rest⟩ := amoOp_cis (f := fun _ _ b => b) h type x mk (size.trans width.symm) aligned inside before rfl
    obtain ⟨th', only, rest, wrote, flags, kept, bytes⟩ := amoOp_cis_effect only rest
    refine ⟨s', th', (exec_amoSwap t s).trans next, only, rest, result ▸ wrote, flags, kept, fun k low => (bytes k low).trans ?_⟩
    exact byte_congr (by simpa [gb] using residue 0) low

end Sys2Proof.Machine

/-! The line cache of a cluster: O7, cache maintenance and fences, and O5, loads of device space and stores to the host window (R311,
R313, R323, R326, R352, R354, R357). -/
namespace Sys2Proof.Machine

/-! ## Clusters -/

theorem State.cluster_congr {s s1 : State} (same : s1.clusters = s.clusters) (l : Nat) : s1.cluster l = s.cluster l := by
  rw [State.cluster, State.cluster, same]

theorem State.cluster_updCluster_self (s : State) (l : Nat) (f : Cluster → Cluster) : (s.updCluster l f).cluster l = f (s.cluster l) :=
  Map.getD_put_self ..

/-! ## O7: maintenance and fences -/

theorem State.writeBack_frame (s : State) (x : Line) : { s.writeBack x with dev := s.dev, poison := s.poison } = s := by
  unfold State.writeBack
  split
  · rfl
  · rfl

theorem State.writeBacks_frame (s : State) (xs : List Line) : { xs.foldl State.writeBack s with dev := s.dev, poison := s.poison } = s :=
  List.foldlRecOn (motive := fun t : State => ({ t with dev := s.dev, poison := s.poison } : State) = s) xs _ rfl fun t kept x _ =>
    (congrArg (fun u : State => { u with dev := s.dev, poison := s.poison }) (t.writeBack_frame x) :).trans kept

/-- The line as `cflush` leaves it. -/
def Ictx.cleaned (c : Ictx) (s : State) (x : Line) : Line := if c.inRange s x then { x with dirty := 0 } else x

/-- Cleaning a line does not move it. -/
theorem Ictx.inRange_cleaned (c : Ictx) (s : State) (x : Line) : c.inRange s (c.cleaned s x) = c.inRange s x := by
  unfold Ictx.cleaned
  split
  · rfl
  · rfl

theorem Ictx.cleaned_dirty {c : Ictx} {s : State} {x : Line} (inside : c.inRange s x = true) : (c.cleaned s x).dirty = 0 := by
  rw [Ictx.cleaned, if_pos inside]

/-- Of the lines outside the range the cleaned list is the old one. -/
theorem Ictx.cleaned_outside (c : Ictx) (s : State) (xs : List Line) :
    (xs.map (c.cleaned s)).filter (fun x => !c.inRange s x) = xs.filter fun x => !c.inRange s x := by
  induction xs with
  | nil => rfl
  | cons x r ih =>
    rw [List.map_cons, List.filter_cons, List.filter_cons, ih, c.inRange_cleaned]
    cases inside : c.inRange s x with
    | true => rfl
    | false => simp [Ictx.cleaned, inside]

/-- The machine once the range is clean, before the thread goes on. -/
def Ictx.cleansed (c : Ictx) (s : State) : State :=
  (((s.cluster c.mem.cluster).lines.filter (c.inRange s)).foldl State.writeBack s).updCluster c.mem.cluster
    fun k => { k with lines := k.lines.map (c.cleaned s) }

theorem Ictx.cleansed_frame (c : Ictx) (s : State) :
    { c.cleansed s with dev := s.dev, poison := s.poison, clusters := s.clusters } = s :=
  (congrArg (fun t : State => { t with clusters := s.clusters }) (s.writeBacks_frame ((s.cluster c.mem.cluster).lines.filter (c.inRange s))) :)

theorem Ictx.cleansed_lines (c : Ictx) (s : State) :
    ((c.cleansed s).cluster c.mem.cluster).lines = (s.cluster c.mem.cluster).lines.map (c.cleaned s) := by
  have written : (((s.cluster c.mem.cluster).lines.filter (c.inRange s)).foldl State.writeBack s).clusters = s.clusters :=
    (congrArg State.clusters (s.writeBacks_frame ((s.cluster c.mem.cluster).lines.filter (c.inRange s))) :)
  rw [Ictx.cleansed, State.cluster_updCluster_self, State.cluster_congr written]

theorem fenceOp_retires {s : State} {t : Tid} {opc : Nat} {c : Ictx} (h : At s t opc c) (none : onlyUses c.w 0 = true) :
    ∃ s', fenceOp opc t s = .next s' ∧ OnlyThread s s' t c.th.retired := by
  have step : ∃ s', fenceOp opc t s = .next s' ∧ OnlyThreadOf s s' t c.th.retired ∧ { s' with frags := s.frags } = s :=
    runInsn_retires h none rfl rfl
  obtain ⟨s', next, only, rest⟩ := step
  exact ⟨s', next, only.onlyThread rest⟩

/-- Settles O7: what `cflush` and `cinv` leave of the cache, and two fences that retire. -/
theorem maintenanceAndFences : Obligations.MaintenanceAndFences := by
  unfold Obligations.MaintenanceAndFences
  intro s t c uses
  refine ⟨fun h => ?_, fun h => ?_, fun h none => ?_, fun h none => ?_⟩
  · have frame := c.cleansed_frame s
    have step : ∃ s', execCflush t s = .next s' ∧ OnlyThreadOf s s' t c.th.retired ∧ { s' with frags := s.frags } = c.cleansed s :=
      runInsn_retires h uses (congrArg State.frags frame :) rfl
    obtain ⟨s', next, only, rest⟩ := step
    have clusters : s'.clusters = (c.cleansed s).clusters := (congrArg State.clusters rest :)
    refine ⟨s', (exec_cflush t s).trans next, only.self, (congrArg State.cis rest :).trans (congrArg State.cis frame :),
      (congrArg State.regs rest :).trans (congrArg State.regs frame :), fun x mem inside => ?_, ?_⟩
    · rw [State.cluster_congr clusters, c.cleansed_lines] at mem
      obtain ⟨y, -, rfl⟩ := List.mem_map.1 mem
      exact Ictx.cleaned_dirty (c.inRange_cleaned s y ▸ inside)
    · rw [State.cluster_congr clusters, c.cleansed_lines, c.cleaned_outside]
  · have step : ∃ s', execCinv t s = .next s' ∧ OnlyThreadOf s s' t c.th.retired ∧
        { s' with frags := s.frags } = s.dropLines c.mem.cluster (c.inRange s) := runInsn_retires h uses rfl rfl
    obtain ⟨s', next, only, rest⟩ := step
    have clusters : s'.clusters = (s.dropLines c.mem.cluster (c.inRange s)).clusters := (congrArg State.clusters rest :)
    refine ⟨s', (exec_cinv t s).trans next, only.self, .of_frags rest rfl rfl rfl, (congrArg State.regs rest :), ?_⟩
    rw [State.cluster_congr clusters, State.dropLines, State.cluster_updCluster_self]
  · rw [exec_fenceAcq]
    exact fenceOp_retires h none
  · rw [exec_fenceRel]
    exact fenceOp_retires h none

/-! ## Filling a line (R323) -/

/-- An aligned access of at most 8 bytes touches one line. -/
theorem linesOf_aligned {a n : Nat} (size : n ∈ [1, 2, 4, 8]) (aligned : a % n = 0) : linesOf a n = [a / 64] := by
  have one : ceilDiv (a % 64 + n) 64 = 1 := by
    unfold ceilDiv
    obtain rfl | rfl | rfl | rfl : n = 1 ∨ n = 2 ∨ n = 4 ∨ n = 8 := by simpa using size
    all_goals omega
  rw [linesOf, one]
  rfl

theorem tySize_int {ty : Nat} (low : 2 ≤ ty) (high : ty ≤ 9) : tySize ty ∈ [1, 2, 4, 8] := by
  interval_cases ty <;> decide

/-- `t` but for its units and clusters. -/
def State.butCache (s t : State) : State := { t with units := s.units, clusters := s.clusters, wells := s.wells }

theorem State.heatAlloc_frame (s : State) (t a : Nat) : { s.heatAlloc t a with units := s.units } = s := by
  unfold State.heatAlloc
  cases s.allocAt t a with
  | none => rfl
  | some m => exact s.heatUnits_frame [.alloc t m.base]

/-- The bytes of a line as the cluster's cache will hold it: those of the line that it holds, or of stack memory while there is room. -/
def State.Caches (s : State) (l t ln : Nat) (line : List Byte) : Prop :=
  ((s.cluster l).lines.find? fun x => x.isAt t ln).map (·.data) = some line ∨
    ((s.cluster l).lines.find? fun x => x.isAt t ln) = none ∧ (s.cluster l).lines.length < 1024 ∧ line = s.devRd t (ln * 64) 64

/-- A fill makes the cache hold the line, and touches no memory while there is room. -/
theorem State.fill_caches {s : State} {l t ln : Nat} {line : List Byte} (h : s.Caches l t ln line) :
    (∃ x, ((s.fill l t ln).cluster l).lines.find? (fun x => x.isAt t ln) = some x ∧ x.data = line) ∧ s.butCache (s.fill l t ln) = s := by
  obtain hit | ⟨miss, room, rfl⟩ := h
  · obtain ⟨x, found, data⟩ := Option.map_eq_some_iff.1 hit
    have held : ((s.cluster l).lines.any fun x => x.isAt t ln) = true := List.any_eq_true.2 ⟨x, List.mem_of_find?_eq_some found, by
      simpa using List.find?_some found⟩
    rw [State.fill, if_pos held]
    exact ⟨⟨x, found, data⟩, rfl⟩
  · have new : ((s.cluster l).lines.any fun x => x.isAt t ln) = false := by simpa using miss
    have heated := s.heatAlloc_frame t (ln * 64)
    have clusters : (s.heatAlloc t (ln * 64)).clusters = s.clusters := (congrArg State.clusters heated :)
    rw [State.fill, if_neg (by rw [new]; decide), State.evict, if_pos room]
    refine ⟨⟨{ tenant := t, line := ln, data := s.devRd t (ln * 64) 64, dirty := 0, inner := s.innerOnly t (ln * 64) }, ?_, rfl⟩,
      (congrArg s.butCache heated :)⟩
    rw [State.cluster_updCluster_self, State.cluster_congr clusters]
    refine List.find?_append.trans ?_
    rw [miss]
    simp [Line.isAt]

/-! ## A load of device space (R352) -/

section
variable {s : State} {t : Tid} {c : Ictx} {line : List Byte}

/-- The machine of an aligned load once its line is in the cache. -/
def Ictx.filled (c : Ictx) (s : State) (n : Nat) : State := (s.noteBreach c.tenant c.vaddr n).fill c.mem.cluster c.tenant (c.vaddr / 64)

theorem Ictx.filled_frame {n : Nat} (held : s.Caches c.mem.cluster c.frag.tenant (c.vaddr / 64) line) : s.butCache (c.filled s n) = s :=
  (congrArg s.butCache (State.fill_caches (s := s.noteBreach c.tenant c.vaddr n) held).2 :)

/-- The line that it reads, and the bytes from it. -/
theorem Ictx.filled_bytes {n : Nat} (size : n ∈ [1, 2, 4, 8]) (aligned : c.vaddr % n = 0)
    (held : s.Caches c.mem.cluster c.frag.tenant (c.vaddr / 64) line) :
    (c.filled s n).cachedBytes c.cluster c.tenant c.vaddr n = (line.drop (c.vaddr % 64)).take n := by
  obtain ⟨x, found, data⟩ := (State.fill_caches (s := s.noteBreach c.tenant c.vaddr n) held).1
  have one : (c.filled s n).cached c.cluster c.tenant c.vaddr n = [x] := by
    rw [State.cached, linesOf_aligned size aligned]
    exact List.filterMap_cons_some found
  rw [State.cachedBytes, one]
  simp [data]

theorem Ictx.load_device {n : Nat} (x : wX c.w = 0) (size : n ∈ [1, 2, 4, 8]) (aligned : c.vaddr % n = 0) (low : c.vaddr < 2 ^ 63)
    (mapped : s.devMapped c.frag.tenant c.vaddr n = true) (sound : s.badFill c.mem.cluster c.frag.tenant c.vaddr n = false)
    (k : State → List Byte → Eff) :
    c.load s n n k = k (c.noteInner (((c.filled s n).cached c.cluster c.tenant c.vaddr n).any (·.inner)) (c.filled s n))
      ((c.filled s n).cachedBytes c.cluster c.tenant c.vaddr n) := by
  have device : isHost c.vaddr = false := decide_eq_false (Nat.not_le.2 low)
  have there : c.mapped s c.vaddr n = true := by simpa [Ictx.mapped, Ictx.tenant, device] using mapped
  have fill : (s.noteBreach c.tenant c.vaddr n).fillRange c.cluster c.tenant c.vaddr n = c.filled s n := by
    rw [State.fillRange, linesOf_aligned size aligned]
    rfl
  have readable : s.badFill c.cluster c.tenant c.vaddr n = false := sound
  simp [Ictx.load, x, aligned, there, device, readable, fill, firstExc]

end

theorem deviceLoad_next {s : State} {t : Tid} {c : Ictx} {line : List Byte} (h : At s t 0x30 c) (x : wX c.w = 0) (mk : wMk c.w = 0)
    (low : 2 ≤ wTy c.w) (high : wTy c.w ≤ 9) (b : wB c.w = 0) (device : c.vaddr < 2 ^ 63) (aligned : c.vaddr % tySize (wTy c.w) = 0)
    (mapped : s.devMapped c.frag.tenant c.vaddr (tySize (wTy c.w)) = true)
    (sound : s.badFill c.mem.cluster c.frag.tenant c.vaddr (tySize (wTy c.w)) = false)
    (held : s.Caches c.mem.cluster c.frag.tenant (c.vaddr / 64) line) :
    ∃ s' th', exec (.ld t) s = .next s' ∧ s'.thread? t = some th' ∧ SameBytes s s' ∧ s'.regs = s.regs ∧
      WroteG c.th th' (wD c.w) (extend (wTy c.w) (leNat ((line.drop (c.vaddr % 64)).take (tySize (wTy c.w))))) := by
  have size := tySize_int low high
  have filled := Ictx.filled_frame (n := tySize (wTy c.w)) held
  generalize hinner : ((c.filled s (tySize (wTy c.w))).cached c.cluster c.tenant c.vaddr (tySize (wTy c.w))).any (·.inner) = inner
  have noted := c.noteInner_frame inner (c.filled s (tySize (wTy c.w)))
  have frags : (c.filled s (tySize (wTy c.w))).frags = s.frags := (congrArg State.frags filled :)
  have thread : (c.noteInner inner (c.filled s (tySize (wTy c.w)))).thread? c.t = some (c.th.flagIf inner flagIo) :=
    State.thread?_noteInner _ (by
      rw [State.thread?, State.member?_congr frags, h.tid]
      exact insn_thread h.1) inner
  have effect : c.load s (tySize (wTy c.w)) (tySize (wTy c.w)) (fun s bs => .done (c.putG s (extend (wTy c.w) (leNat bs)))) = _ :=
    Ictx.load_device x size aligned device mapped sound _
  rw [hinner, Ictx.filled_bytes size aligned held] at effect
  have wrote := wroteG_setG (c.th.flagIf inner flagIo) (wD c.w) (extend (wTy c.w) (leNat ((line.drop (c.vaddr % 64)).take (tySize (wTy c.w)))))
  refine ⟨_, _, (exec_ld t s).trans (runInsn_done h ?_ effect), ?_, ?_, ?_, ⟨wrote.g, wrote.v, wrote.m, wrote.pc, wrote.st⟩⟩
  · simpa [low, high] using onlyUses_of_fields [(51, 49), (35, 30)] ⟨mk, b⟩ (by decide)
  · rw [← h.tid]
    simp [Ictx.putG, thread?_updThread, thread, Thread.retired]
  · exact .of_eq ((congrArg State.dev noted :).trans (congrArg State.dev filled :))
      ((congrArg State.cis noted :).trans (congrArg State.cis filled :))
      (congrArg Outside.hostMem ((congrArg State.out noted :).trans (congrArg State.out filled :)))
  · exact (congrArg State.regs noted :).trans (congrArg State.regs filled :)

/-! ## A store to the host window (R313) -/

/-- The bytes of a store that flags all of them, with the addresses at which they are held. -/
def heldBytes (a : Nat) (bs : List Byte) : List (Nat × Byte) := bs.zipIdx.map fun p => (a + p.2, p.1)

theorem heldBytes_eq (a : Nat) (bs : List Byte) :
    (((bs.map fun b => (true, b)).zipIdx.filter fun p => p.1.1).map fun p => (a + p.2, p.1.2)) = heldBytes a bs := by
  have all : ∀ p ∈ (bs.map fun b => (true, b)).zipIdx, p.1.1 = true := fun p mem => by
    rw [List.zipIdx_map] at mem
    obtain ⟨q, -, rfl⟩ := List.mem_map.1 mem
    rfl
  rw [List.filter_eq_self.2 all, List.zipIdx_map, List.map_map]
  rfl

theorem mem_heldBytes {a n x i : Nat} (low : i < n) : (a + i, BitVec.ofNat 8 (x / 256 ^ i)) ∈ heldBytes a (toLe n x) := by
  refine List.mem_map.2 ⟨(BitVec.ofNat 8 (x / 256 ^ i), i), List.mk_mem_zipIdx_iff_getElem?.2 ?_, rfl⟩
  simp [toLe_eq_map_range, low]

/-- Held bytes lie in the range of the store. -/
theorem heldBytes_within {a : Nat} {bs : List Byte} {h : Nat × Byte} (mem : h ∈ heldBytes a bs) : a ≤ h.1 ∧ h.1 < a + bs.length := by
  obtain ⟨⟨b, i⟩, listed, rfl⟩ := List.mem_map.1 mem
  exact ⟨Nat.le_add_right .., Nat.add_lt_add_left (by simpa using List.snd_lt_of_mem_zipIdx listed) a⟩

/-- A fragment that holds more bytes, in place of those held for the same addresses. -/
def Frag.hold (f : Frag) (new : List (Nat × Byte)) : Frag :=
  { f with held := (f.held.filter fun h => !new.any fun x => x.1 == h.1) ++ new }

section
variable {s : State} {t : Tid} {c : Ictx} {n : Nat}

theorem Ictx.hold_eq (a : Nat) (bs : List Byte) :
    c.hold s a (bs.map fun b => (true, b)) = s.updFrag c.t.frag fun f => f.hold (heldBytes (a - 2 ^ 63) bs) := by
  unfold Ictx.hold
  rw [heldBytes_eq]
  rfl

/-- A store to the host window inside an output range, with room for what is held. -/
theorem Ictx.store_host {bs : List Byte} (x : wX c.w = 0) (high : 2 ^ 63 ≤ c.vaddr) (aligned : c.vaddr % n = 0)
    (mapped : s.hostRefused c.frag.tenant (c.vaddr - 2 ^ 63) bs.length = false)
    (may : ∀ i, i < bs.length → c.mayStore s (c.vaddr + i) = true) (room : c.frag.held.length + bs.length ≤ 2 ^ 30) :
    c.store s n (bs.map fun b => (true, b)) = .done (s.updFrag c.t.frag fun f => f.hold (heldBytes (c.vaddr - 2 ^ 63) bs)) := by
  have host : isHost c.vaddr = true := decide_eq_true high
  have there : c.mapped s c.vaddr bs.length = true := by simpa [Ictx.mapped, Ictx.tenant, host] using mapped
  have allowed : ((bs.map fun b => (true, b)).zipIdx.any fun p => p.1.1 && !c.mayStore s (c.vaddr + p.2)) = false := by
    refine List.any_eq_false.2 fun p mem => ?_
    have low : p.2 < bs.length := by simpa using List.snd_lt_of_mem_zipIdx mem
    simp [may p.2 low]
  have fits : c.overHeld c.vaddr (bs.map fun b => (true, b)) = false := by
    refine decide_eq_false (Nat.not_lt.2 ((Nat.add_le_add_left ?_ _).trans room))
    exact (List.length_filter_le ..).trans (by simp)
  rw [← Ictx.hold_eq]
  simp only [Ictx.store, x, aligned, host, there, allowed, fits, List.length_map, firstExc, bne_self_eq_false, Bool.not_true, Bool.false_and,
    Bool.or_false, Bool.and_false, if_true, Nat.zero_ne_one, if_false]

/-- The thread goes on, and its fragment holds the bytes. -/
theorem hostStore_next (h : At s t 0x31 c) (x : wX c.w = 0) (mk : wMk c.w = 0) (low : 2 ≤ wTy c.w) (top : wTy c.w ≤ 5) (d : wD c.w = 0)
    (high : 2 ^ 63 ≤ c.vaddr) (aligned : c.vaddr % tySize (wTy c.w) = 0)
    (mapped : s.hostRefused c.frag.tenant (c.vaddr - 2 ^ 63) (tySize (wTy c.w)) = false)
    (may : ∀ i, i < tySize (wTy c.w) → c.mayStore s (c.vaddr + i) = true)
    (room : c.frag.held.length + tySize (wTy c.w) ≤ 2 ^ 30) :
    ∃ s', exec (.st t) s = .next s' ∧ { s' with frags := s.frags } = s ∧ s'.frag? t.frag =
      some ((c.frag.hold (heldBytes (c.vaddr - 2 ^ 63) (toLe (tySize (wTy c.w)) c.gb.toNat))).retired t) := by
  have length := toLe_length (tySize (wTy c.w)) c.gb.toNat
  rw [exec_st]
  refine runInsn_frag (g := fun f => f.hold (heldBytes (c.vaddr - 2 ^ 63) (toLe (tySize (wTy c.w)) c.gb.toNat))) h ?_ (fun _ => rfl)
    (Ictx.store_host x high aligned (by rwa [length]) (by rwa [length]) (by rwa [length]))
  simpa [low, top] using onlyUses_of_fields [(51, 49), (47, 42)] ⟨mk, d⟩ (by decide)

/-- The thread of a fragment that has gone on with the next word. -/
theorem thread?_retired {opc : Nat} {s' : State} {f : Frag} (h : At s t opc c) (frag : s'.frag? t.frag = some (f.retired t))
    (members : f.members = c.frag.members) : s'.thread? t = some c.th.retired := by
  obtain ⟨_, _, _, _, _, member, thread, _⟩ := insn_some h.1
  simp [State.thread?, State.member?, frag, Frag.retired, members, member, thread]

end

/-- Settles O5: a load through the cache, and a store that its fragment holds. -/
theorem deviceLoadAndHostStore : Obligations.DeviceLoadAndHostStore := by
  unfold Obligations.DeviceLoadAndHostStore
  intro s t c x mk
  refine ⟨fun h low high b device aligned mapped sound line held => deviceLoad_next h x mk low high b device aligned mapped sound held,
    fun h low top d high aligned mapped may room => ?_⟩
  obtain ⟨s', next, rest, frag⟩ := hostStore_next h x mk low top d high aligned mapped may room
  refine ⟨s', _, next, thread?_retired h frag rfl, rest, frag, fun i low => ?_, fun e mem outside => ?_⟩
  · exact List.mem_append_right _ (mem_heldBytes low)
  · refine List.mem_append_left _ (List.mem_filter.2 ⟨mem, ?_⟩)
    rw [Bool.not_eq_true', List.any_eq_false]
    intro y new
    have within := heldBytes_within new
    rw [toLe_length] at within
    have size : tySize (wTy c.w) = tyWidth (wTy c.w) / 8 := rfl
    simp only [beq_iff_eq]
    omega

end Sys2Proof.Machine

/-! O12: mask instructions (R358). -/
namespace Sys2Proof.Machine

/-- The lowest one of a mask, or 128. -/
theorem firstOne_spec (x : BitVec 128) :
    firstOne x ≤ 128 ∧ (∀ i, i < firstOne x → x.getLsbD i = false) ∧ (firstOne x < 128 → x.getLsbD (firstOne x) = true) := by
  unfold firstOne
  cases found : (List.range 128).find? fun i => x.getLsbD i with
  | none =>
    have clear : ∀ i, i < 128 → x.getLsbD i = false := by simpa using found
    exact ⟨le_rfl, clear, fun less => absurd less (lt_irrefl 128)⟩
  | some k =>
    obtain ⟨set, mem, below⟩ := List.find?_range_eq_some.1 found
    exact ⟨(List.mem_range.1 mem).le, fun i less => by simpa using below i less, fun _ => set⟩

/-- Two halves of a mask. -/
theorem mset_value (a b : Word) : BitVec.ofNat 128 (a.toNat + b.toNat * 2 ^ 64) = b ++ a := by
  apply BitVec.eq_of_toNat_eq
  rw [BitVec.toNat_append, ← Nat.shiftLeft_add_eq_or_of_lt a.isLt, Nat.shiftLeft_eq, BitVec.toNat_ofNat]
  omega

/-- One half of a mask. -/
theorem mget_value (x : BitVec 128) (p : Nat) : BitVec.ofNat 64 (field x.toNat (64 * p + 63) (64 * p)) = x.extractLsb' (64 * p) 64 := by
  apply BitVec.eq_of_toNat_eq
  rw [BitVec.toNat_ofNat, BitVec.extractLsb'_toNat, field, show 64 * p + 63 + 1 - 64 * p = 64 by omega, Nat.mod_mod]

/-- The model's row of each two-source mask instruction computes the row's result. -/
theorem exec_maskRows : maskRows.Forall fun row => ∀ t s, exec (row.2.1 t) s = mask2 row.1 row.2.2 t s := ⟨exec_mand, exec_mor, exec_mxor⟩

section
variable {w : Nat}

/-- The words of mask instructions, by what they name besides mD or gD and mA. -/
theorem maskWord_DAB (ty : wTy w = 0) (mk : wMk w = 0) (x : wX w = 0) (mc : wC w = 0) (sub : wSub w = 0) :
    onlyUses w (usesD ||| usesA ||| usesB) = true :=
  onlyUses_of_fields [(55, 52), (51, 49), (48, 48), (29, 24), (23, 0)] ⟨ty, mk, x, mc, sub⟩ (by decide)

theorem maskWord_DA (ty : wTy w = 0) (mk : wMk w = 0) (x : wX w = 0) (b : wB w = 0) (mc : wC w = 0) (sub : wSub w = 0) :
    onlyUses w (usesD ||| usesA) = true :=
  onlyUses_of_fields [(55, 52), (51, 49), (48, 48), (35, 30), (29, 24), (23, 0)] ⟨ty, mk, x, b, mc, sub⟩ (by decide)

end

/-- Settles O12: each instruction writes one register. -/
theorem maskInstructions : Obligations.MaskInstructions := by
  unfold Obligations.MaskInstructions
  intro s t c ty mk x mc
  refine ⟨fun row listed h sub d a b => ?_, fun h gb sub d a => ?_, fun h gb sub a => ?_, fun h gb sub a => ?_, fun h sub d => ?_,
    fun h gb high a => ?_⟩
  · rw [List.forall_iff_forall_mem.1 exec_maskRows row listed]
    refine runInsn_putM h ?_ rfl
    simp [d, a, b, maskWord_DAB ty mk x mc sub]
  · rw [exec_mnot]
    refine runInsn_putM h ?_ rfl
    simp [d, a, maskWord_DA ty mk x gb mc sub]
  · rw [exec_mpop, ← popN_toNat]
    refine runInsn_putG h ?_ rfl
    simp [a, maskWord_DA ty mk x gb mc sub]
  · have step : ∃ s' th', execMfirst t s = .next s' ∧ OnlyThread s s' t th' ∧ th'.flags = c.th.flags ∧
        WroteG c.th th' (wD c.w) (BitVec.ofNat 64 (firstOne (c.th.rm (wA c.w)))) := by
      refine runInsn_putG h ?_ rfl
      simp [a, maskWord_DA ty mk x gb mc sub]
    obtain ⟨s', th', next, only, flags, wrote⟩ := step
    have spec := firstOne_spec (c.th.rm (wA c.w))
    have value : (BitVec.ofNat 64 (firstOne (c.th.rm (wA c.w)))).toNat = firstOne (c.th.rm (wA c.w)) := by
      rw [BitVec.toNat_ofNat]
      exact Nat.mod_eq_of_lt (spec.1.trans_lt (by decide))
    exact ⟨s', th', _, (exec_mfirst t s).trans next, only, flags, wrote, value.symm ▸ spec⟩
  · rw [exec_mset, ← mset_value]
    refine runInsn_putM h ?_ rfl
    simp [d, maskWord_DAB ty mk x mc sub]
  · rw [exec_mget, ← mget_value]
    refine runInsn_putG h ?_ rfl
    simpa [a] using onlyUses_of_fields [(55, 52), (51, 49), (48, 48), (35, 30), (29, 24), (23, 1)] ⟨ty, mk, x, gb, mc, high⟩ (by decide)

end Sys2Proof.Machine

/-! O8: lane-by-lane instructions with two sources (R343, R344, R358 to R360). -/
namespace Sys2Proof.Machine

/-! ## Lanes -/

/-- The types of lane arithmetic (R359), and the widths of their lanes. -/
def LaneType (ty : Nat) : Prop := 2 ≤ ty ∧ ty ≤ 9 ∨ 12 ≤ ty ∧ ty ≤ 14

theorem LaneType.width {ty : Nat} (h : LaneType ty) : tyWidth ty ∈ [8, 16, 32, 64] := by
  obtain ⟨low, high⟩ | ⟨low, high⟩ := h
  · interval_cases ty <;> decide
  · interval_cases ty <;> decide

theorem LaneType.pos {ty : Nat} (h : LaneType ty) : 0 < tyWidth ty :=
  Nat.pos_of_ne_zero fun zero => absurd h.width (by rw [zero]; decide)

theorem LaneType.tyLane {ty : Nat} (h : LaneType ty) : tyLane ty = true := decide_eq_true h

theorem lane1_lt {w : Nat} (pos : 0 < w) (v : BitVec 1024) (i : Nat) : lane1 w v i < 2 ^ w := by
  have bound := field_lt v.toNat (w * i + w - 1) (w * i)
  rwa [show w * i + w - 1 + 1 - w * i = w by omega] at bound

theorem Ictx.active_iff (c : Ictx) (i : Nat) : c.active i = true ↔ wMk c.w = 0 ∨ (c.th.rm (wMk c.w)).getLsbD i = true := by
  simp [Ictx.active]

/-- A new value in an active lane. -/
theorem maskedLane_active {c : Ictx} {i : Nat} (active : c.active i = true) (w new : Nat) : maskedLane c w i new = new % 2 ^ w :=
  if_pos ((c.active_iff i).1 active)

theorem maskedLane_idle {c : Ictx} {i : Nat} (idle : ¬c.active i = true) (w new : Nat) :
    maskedLane c w i new = if wX c.w = 1 then 0 else lane1 w (c.th.rv (wD c.w)) i := if_neg (mt (c.active_iff i).2 idle)

/-- What `merge` leaves in a lane (R344). -/
theorem Ictx.lane1_merge (c : Ictx) {w i : Nat} (pos : 0 < w) (inside : i < 1024 / w) (f : Nat → Nat) :
    lane1 w (c.merge w ((List.range (1024 / w)).map f)) i = maskedLane c w i (f i) := by
  rw [Ictx.merge, zipIdx_map_range, List.map_map]
  rw [lane1_ofLanes_range pos inside, if_pos inside]
  dsimp only [Function.comp]
  by_cases active : c.active i = true
  · rw [if_pos active, maskedLane_active active]
  · rw [if_neg active, maskedLane_idle active]
    split
    · exact Nat.zero_mod _
    · exact Nat.mod_eq_of_lt (lane1_lt pos ..)

/-! ## Instructions that write a vector register (R344, R345) -/

/-- The thread of such an instruction: vD, and a sticky flag where a condition holds. -/
def Ictx.vecThread (c : Ictx) (x : BitVec 1024) (p : Bool) : Thread := ((c.th.setV (wD c.w) x).flagIf p flagFpinv).retired

theorem Ictx.wroteV_vecThread (c : Ictx) (x : BitVec 1024) (p : Bool) : WroteV c.th (c.vecThread x p) (wD c.w) x :=
  have wrote := wroteV_setV c.th (wD c.w) x
  ⟨wrote.g, wrote.v, wrote.m, wrote.pc, wrote.st⟩

section
variable {s s1 : State} {t : Tid} {opc w : Nat} {c : Ictx} {legal : Nat → Bool} {eff : Ictx → State → Eff} {x : BitVec 1024} {inv fp : Bool}
  {lane : Nat → Nat}

/-- The step of an instruction that writes vD, FPINV besides, and draws free values. -/
theorem runInsn_vec (h : At s t opc c) (word : legal c.w = true) (n : Nat)
    (effect : eff c s = .done (c.flagIf inv flagFpinv (c.putV (s.drew n) x))) :
    ∃ s', runInsn opc legal eff t s = .next s' ∧ OnlyThreadOf s s' t (c.vecThread x inv) ∧ { s' with frags := s.frags } = s.drew n :=
  runInsn_updates h word (fun th => (th.setV (wD c.w) x).flagIf inv flagFpinv) rfl
    (effect.trans (congrArg Eff.done (c.flagIf_updThread inv flagFpinv (s.drew n) fun th => th.setV (wD c.w) x)))

theorem runInsn_wroteLanes (h : At s t opc c) (word : legal c.w = true)
    (effect : eff c s = .done (c.flagIf inv flagFpinv (c.putV s x))) (lanes : ∀ i, i < 1024 / w → lane1 w x i = lane i)
    (kind : inv = true → fp = true) :
    ∃ s', runInsn opc legal eff t s = .next s' ∧ WroteLanes s s' t c.th (wD c.w) w lane fp := by
  obtain ⟨s', next, only, rest⟩ := runInsn_vec h word 0 effect
  refine ⟨s', next, ⟨_, x, only, .of_frags rest rfl rfl rfl, (congrArg (fun u : State => { u with free := s.free }) rest :),
    c.wroteV_vecThread x inv, lanes, ?_⟩⟩
  cases inv with
  | false => exact .inl rfl
  | true => exact .inr ⟨kind rfl, rfl⟩

end

/-- Two registers lane by lane. -/
theorem zip_lanesOf (w : Nat) (a b : BitVec 1024) :
    (lanesOf w a).zip (lanesOf w b) = (List.range (1024 / w)).map fun i => (lane1 w a i, lane1 w b i) := List.zip_map'

theorem vec2_next {opc : Nat} {ok : Nat → Bool} (f : Nat → Nat → Nat → Nat) {s : State} {t : Tid} {c : Ictx} (h : At s t opc c)
    (uses : onlyUses c.w (usesTy ||| usesMk ||| usesX ||| usesD ||| usesA ||| usesB) = true) (d : wD c.w ≤ 31) (a : wA c.w ≤ 31)
    (b : wB c.w ≤ 31) (type : LaneType (wTy c.w)) (takes : ok (wTy c.w) = true) :
    ∃ s', vec2 opc ok f t s = .next s' ∧
      WroteLanes s s' t c.th (wD c.w) (tyWidth (wTy c.w))
        (fun i => maskedLane c (tyWidth (wTy c.w)) i (f (wTy c.w) (lane1 (tyWidth (wTy c.w)) (c.th.rv (wA c.w)) i)
          (lane1 (tyWidth (wTy c.w)) (c.th.rv (wB c.w)) i)))
        (decide (12 ≤ wTy c.w)) := by
  refine runInsn_wroteLanes h ?_ rfl (fun i inside => ?_) fun invalid => ?_
  · simpa [takes, vDAB, d, a, b, usesV] using uses
  · rw [zip_lanesOf, List.map_map]
    exact c.lane1_merge type.pos inside _
  · have float := (Bool.and_eq_true_iff.1 invalid).1
    have range : 10 ≤ wTy c.w ∧ wTy c.w ≤ 14 := of_decide_eq_true float
    exact decide_eq_true (type.elim (fun int => absurd range.1 (by omega)) And.left)

/-! ## Results of the lanes (R358 to R360) -/

theorem ofSigned_natCast (w n : Nat) : ofSigned w n = n % 2 ^ w := by
  unfold ofSigned
  omega

theorem wrapLane_natCast (ty n : Nat) : wrapLane ty n % 2 ^ tyWidth ty = n % 2 ^ tyWidth ty := by
  rw [wrapLane, ofSigned_natCast, Nat.mod_mod]

theorem wrapLane_sub (ty a : Nat) {b : Nat} (small : b < 2 ^ tyWidth ty) :
    wrapLane ty ((a : Int) - b) % 2 ^ tyWidth ty = (a + (2 ^ tyWidth ty - b)) % 2 ^ tyWidth ty := by
  have shifted : ((a : Int) - b) % ((2 ^ tyWidth ty : Nat) : Int) = ((a + (2 ^ tyWidth ty - b) : Nat) : Int) % ((2 ^ tyWidth ty : Nat) : Int) := by
    rw [← Int.add_emod_right]
    congr 1
    omega
  rw [wrapLane, ofSigned, shifted, ← ofSigned, ofSigned_natCast, Nat.mod_mod]

theorem laneInt_inj {ty a b : Nat} (pos : 0 < tyWidth ty) (ha : a < 2 ^ tyWidth ty) (hb : b < 2 ^ tyWidth ty)
    (same : laneInt ty a = laneInt ty b) : a = b := by
  unfold laneInt at same
  split at same
  · rw [toSigned_eq_toInt pos, toSigned_eq_toInt pos] at same
    have equal := congrArg BitVec.toNat (BitVec.eq_of_toInt_eq same)
    rwa [BitVec.toNat_ofNat, BitVec.toNat_ofNat, Nat.mod_eq_of_lt ha, Nat.mod_eq_of_lt hb] at equal
  · exact Int.ofNat.inj same

theorem laneMinMax_eq {ty a b : Nat} (max : Bool) (pos : 0 < tyWidth ty) (ha : a < 2 ^ tyWidth ty) (hb : b < 2 ^ tyWidth ty) :
    laneMinMax max ty a b = if tyFloat ty then (tyFmt ty).minMax max a b
      else if laneInt ty a ≤ laneInt ty b then (if max then b else a) else (if max then a else b) := by
  have same : laneInt ty a = laneInt ty b → a = b := laneInt_inj pos ha hb
  unfold laneMinMax
  split
  · rfl
  · cases max with
    | false =>
      rw [← ite_lt_eq_ite_le (by simpa using same)]
      simp
    | true =>
      rw [← ite_lt_eq_ite_le (by simpa using fun equal => (same equal).symm)]
      by_cases less : laneInt ty a < laneInt ty b <;> simp [less]

/-- A row of the table computes its result, lane by lane, for the types that it takes. -/
theorem exec_vecRows :
    vecRows.Forall fun row => ∃ (ok : Nat → Bool) (f : Nat → Nat → Nat → Nat),
      (∀ ty, (2 ≤ ty ∧ ty ≤ 9 ∨ row.1 ≤ 0x45 ∧ 12 ≤ ty ∧ ty ≤ 14) → ok ty = true) ∧
      (∀ ty a b, 0 < tyWidth ty → a < 2 ^ tyWidth ty → b < 2 ^ tyWidth ty →
        f ty a b % 2 ^ tyWidth ty = row.2.2 ty a b % 2 ^ tyWidth ty) ∧
      ∀ t s, exec (row.2.1 t) s = vec2 row.1 ok f t s := by
  have lane : ∀ {opc : Nat} ty, (2 ≤ ty ∧ ty ≤ 9 ∨ opc ≤ 0x45 ∧ 12 ≤ ty ∧ ty ≤ 14) → tyLane ty = true :=
    fun ty type => decide_eq_true (type.imp id And.right)
  have int : ∀ {opc : Nat}, 0x45 < opc → ∀ ty, (2 ≤ ty ∧ ty ≤ 9 ∨ opc ≤ 0x45 ∧ 12 ≤ ty ∧ ty ≤ 14) → tyLaneInt ty = true :=
    fun high ty type => decide_eq_true (type.resolve_right fun float => absurd float.1 (Nat.not_le.2 high))
  refine ⟨⟨_, _, lane, fun ty a b _ _ _ => ?_, exec_vadd⟩, ⟨_, _, lane, fun ty a b _ _ hb => ?_, exec_vsub⟩,
    ⟨_, _, lane, fun ty a b _ _ _ => ?_, exec_vmul⟩, ⟨_, _, lane, fun ty a b pos ha hb => ?_, exec_vmin⟩,
    ⟨_, _, lane, fun ty a b pos ha hb => ?_, exec_vmax⟩, ⟨_, _, int (by decide), fun ty a b _ _ _ => rfl, exec_vand⟩,
    ⟨_, _, int (by decide), fun ty a b _ _ _ => rfl, exec_vor⟩, ⟨_, _, int (by decide), fun ty a b _ _ _ => rfl, exec_vxor⟩,
    ⟨_, _, int (by decide), fun ty a b _ _ _ => ?_, exec_vshl⟩, ⟨_, _, int (by decide), fun ty a b _ _ _ => ?_, exec_vshr⟩,
    ⟨_, _, int (by decide), fun ty a b pos _ _ => ?_, exec_vsra⟩⟩
  all_goals dsimp only
  · split
    · rfl
    · exact_mod_cast wrapLane_natCast ty (a + b)
  · split
    · rfl
    · exact wrapLane_sub ty a hb
  · split
    · rfl
    · exact_mod_cast wrapLane_natCast ty (a * b)
  · rw [laneMinMax_eq false pos ha hb]
    rfl
  · rw [laneMinMax_eq true pos ha hb]
    rfl
  · rw [Nat.shiftLeft_eq]
  · rw [Nat.shiftRight_eq_div_pow]
  · rw [BitVec.sshiftRight, BitVec.toNat_ofInt, ← toSigned_eq_toInt pos, Int.shiftRight_eq_div_pow]
    rfl

/-- Settles O8: each row is the same instruction with another function of two lanes. -/
theorem vectorLanewise : Obligations.VectorLanewise := by
  unfold Obligations.VectorLanewise
  intro row listed s t c h uses d a b type
  obtain ⟨ok, f, takes, result, exec⟩ := List.forall_iff_forall_mem.1 exec_vecRows row listed
  have lane : LaneType (wTy c.w) := type.imp id And.right
  obtain ⟨s', next, wrote⟩ := vec2_next f h uses d a b lane (takes _ type)
  have same : ∀ i, maskedLane c (tyWidth (wTy c.w)) i (f (wTy c.w) (lane1 (tyWidth (wTy c.w)) (c.th.rv (wA c.w)) i)
      (lane1 (tyWidth (wTy c.w)) (c.th.rv (wB c.w)) i)) = maskedLane c (tyWidth (wTy c.w)) i (row.2.2 (wTy c.w)
      (lane1 (tyWidth (wTy c.w)) (c.th.rv (wA c.w)) i) (lane1 (tyWidth (wTy c.w)) (c.th.rv (wB c.w)) i)) := fun i => by
    rw [maskedLane, maskedLane, result _ _ _ lane.pos (lane1_lt lane.pos ..) (lane1_lt lane.pos ..)]
  exact ⟨s', (exec t s).trans next, funext same ▸ wrote⟩

end Sys2Proof.Machine

/-! O9: `vfma` and the functions of one FP32 lane (R358, R360). -/
namespace Sys2Proof.Machine

theorem zip_map_range {α β : Type} (n : Nat) (f : Nat → α) (g : Nat → β) :
    ((List.range n).map f).zip ((List.range n).map g) = (List.range n).map fun i => (f i, g i) := List.zip_map'

/-- Some active lane satisfies a condition. -/
theorem Ictx.anyActive_range {c : Ictx} {n i : Nat} (f : Nat → Bool) (low : i < n) (active : c.active i = true) (holds : f i = true) :
    c.anyActive ((List.range n).map f) = true := by
  rw [Ictx.anyActive, zipIdx_map_range]
  exact List.any_eq_true.2 ⟨(f i, i), List.mem_map.2 ⟨i, List.mem_range.2 low, rfl⟩, by simp [holds, active]⟩

theorem vfma_next {s : State} {t : Tid} {c : Ictx} (h : At s t 0x43 c)
    (uses : onlyUses c.w (usesTy ||| usesMk ||| usesX ||| usesD ||| usesA ||| usesB ||| usesC) = true) (d : wD c.w ≤ 31) (a : wA c.w ≤ 31)
    (b : wB c.w ≤ 31) (vc : wC c.w ≤ 31) (low : 12 ≤ wTy c.w) (high : wTy c.w ≤ 14) :
    ∃ s', exec (.vfma t) s = .next s' ∧
      WroteLanes s s' t c.th (wD c.w) (tyWidth (wTy c.w)) (fun i => maskedLane c (tyWidth (wTy c.w)) i
        ((tyFmt (wTy c.w)).fma (lane1 (tyWidth (wTy c.w)) (c.th.rv (wA c.w)) i) (lane1 (tyWidth (wTy c.w)) (c.th.rv (wB c.w)) i)
          (lane1 (tyWidth (wTy c.w)) (c.th.rv (wC c.w)) i))) true := by
  have type : LaneType (wTy c.w) := .inr ⟨low, high⟩
  rw [exec_vfma]
  refine runInsn_wroteLanes h ?_ rfl (fun i inside => ?_) fun _ => rfl
  · simpa [low, high, vDAB, d, a, b, vc, usesV] using uses
  · rw [zip_lanesOf, lanesOf, zip_map_range, List.map_map]
    exact c.lane1_merge type.pos inside _

/-! ## Values of FP32 patterns (R106, R109) -/

theorem f32_isNan_iff (x : Nat) : fF32.isNan x = true ↔ fF32.val x = .nan := beq_iff_eq

/-- A negative value other than zero, −∞ included. -/
theorem f32_val_negative {x : Nat} (low : 0x80000000 < x) (high : x ≤ 0xFF800000) :
    fF32.val x = .inf true ∨ ∃ m e, 0 < m ∧ fF32.val x = .fin true m e := by
  obtain ⟨mag, rfl⟩ : ∃ mag, x = 0x80000000 + mag := ⟨x - 0x80000000, by omega⟩
  have sign : bit (0x80000000 + mag) 31 = true := by
    rw [bit, beq_iff_eq, field, Nat.shiftRight_eq_div_pow]
    omega
  have cut : (0x80000000 + mag) % 2 ^ 31 = mag := by omega
  have number : ¬mag > 0x7F800000 := by omega
  simp only [Fmt.val, fF32, Fmt.width, Nat.reduceAdd, Nat.reduceSub, Option.getD_some, sign, cut, if_neg number]
  split
  · exact .inl rfl
  · split
    · rename_i small
      rw [Nat.shiftRight_eq_div_pow] at small
      exact .inr ⟨_, _, by omega, rfl⟩
    · exact .inr ⟨_, _, by positivity, rfl⟩

/-! ## Special values of the functions (R360) -/

theorem fexp_nan (k : Nat) {x : Nat} (nan : fF32.isNan x = true) : fexp k x = 0x7FC00000 := by
  rw [fexp, (f32_isNan_iff x).1 nan]
  rfl

theorem frcp_nan (k : Nat) {x : Nat} (nan : fF32.isNan x = true) : frcp k x = 0x7FC00000 := by
  rw [frcp, (f32_isNan_iff x).1 nan]
  rfl

theorem frsqrt_nan (k : Nat) {x : Nat} (nan : fF32.isNan x = true) : frsqrt k x = 0x7FC00000 := by
  rw [frsqrt, (f32_isNan_iff x).1 nan]
  rfl

theorem fexp_negInf (k : Nat) : fexp k 0xFF800000 = 0 := by
  rw [fexp, show fF32.val 0xFF800000 = .inf true by decide]
  rfl

theorem frcp_zero (k : Nat) : frcp k 0 = 0x7F800000 := by
  rw [frcp, show fF32.val 0 = .fin false 0 (-149) by decide]
  rfl

theorem frcp_negZero (k : Nat) : frcp k 0x80000000 = 0xFF800000 := by
  rw [frcp, show fF32.val 0x80000000 = .fin true 0 (-149) by decide]
  rfl

theorem frsqrt_negative (k : Nat) {x : Nat} (low : 0x80000000 < x) (high : x ≤ 0xFF800000) : frsqrt k x = 0x7FC00000 := by
  obtain inf | ⟨m, e, pos, fin⟩ := f32_val_negative low high
  · rw [frsqrt, inf]
    rfl
  · rw [frsqrt, fin]
    exact (if_neg (Nat.ne_of_gt pos)).trans rfl

/-- The root of a negative value is a NaN that the operation makes (R345, R360). -/
theorem madeNan_frsqrt (k : Nat) {x : Nat} (low : 0x80000000 < x) (high : x ≤ 0xFF800000) : madeNan fF32 [x] (frsqrt k x) = true := by
  have number : fF32.isNan x = false := by
    obtain inf | ⟨m, e, pos, fin⟩ := f32_val_negative low high
    · simp [Fmt.isNan, inf]
    · simp [Fmt.isNan, fin]
  have made : fF32.isNan 0x7FC00000 = true := by decide
  simp [madeNan, frsqrt_negative k low high, number, made]

/-! ## The function instructions -/

section
variable {opc : Nat} (f : Nat → Nat → Nat) {s : State} {t : Tid} {c : Ictx}

/-- The register that a function gives, and whether a lane made a NaN. -/
def Ictx.fnReg (c : Ictx) (f : Nat → Nat → Nat) (free : Nat) : BitVec 1024 :=
  c.merge 32 ((List.range 32).map fun i => f (free + i) (lane1 32 c.va i))
def Ictx.fnInv (c : Ictx) (f : Nat → Nat → Nat) (free : Nat) : Bool :=
  c.anyActive ((List.range 32).map fun i => madeNan fF32 [lane1 32 c.va i] (f (free + i) (lane1 32 c.va i)))

theorem vecFn_next (h : At s t opc c) (uses : onlyUses c.w (usesTy ||| usesMk ||| usesX ||| usesD ||| usesA) = true)
    (single : wTy c.w = 14) (d : wD c.w ≤ 31) (a : wA c.w ≤ 31) :
    ∃ s', vecFn opc f t s = .next s' ∧ OnlyThreadOf s s' t (c.vecThread (c.fnReg f s.free) (c.fnInv f s.free)) ∧
      { s' with frags := s.frags } = s.drew 32 := by
  refine runInsn_vec h ?_ 32 ?_
  · simpa [single, vDA, d, a, usesV] using uses
  · dsimp only
    rw [lanesOf, zipIdx_map_range, List.map_map, zip_map_range, List.map_map]
    rfl

/-- A lane of the result (R344). -/
theorem Ictx.lane1_fnReg (c : Ictx) (free : Nat) {i : Nat} (low : i < 32) :
    lane1 32 (c.fnReg f free) i = maskedLane c 32 i (f (free + i) (lane1 32 c.va i)) := c.lane1_merge (by decide) low _

/-- What the statement says of a function, from its values in the lanes. -/
theorem vecFn_effect (h : At s t opc c) (uses : onlyUses c.w (usesTy ||| usesMk ||| usesX ||| usesD ||| usesA) = true)
    (single : wTy c.w = 14) (d : wD c.w ≤ 31) (a : wA c.w ≤ 31) {P : Thread → Nat → Prop}
    (lanes : ∀ th' i, i < 32 → c.active i = true → th' = c.vecThread (c.fnReg f s.free) (c.fnInv f s.free) →
      lane1 32 (th'.rv (wD c.w)) i = f (s.free + i) (lane1 32 (c.th.rv (wA c.w)) i) % 2 ^ 32 → P th' i) :
    ∃ s' th', vecFn opc f t s = .next s' ∧ OnlyThreadOf s s' t th' ∧ SameBytes s s' ∧ WroteV c.th th' (wD c.w) (th'.rv (wD c.w)) ∧
      ∀ i, i < 32 →
        (¬ c.active i = true → lane1 32 (th'.rv (wD c.w)) i = if wX c.w = 1 then 0 else lane1 32 (c.th.rv (wD c.w)) i) ∧
        (c.active i = true → P th' i) := by
  obtain ⟨s', next, only, rest⟩ := vecFn_next f h uses single d a
  have wrote := c.wroteV_vecThread (c.fnReg f s.free) (c.fnInv f s.free)
  have reg : (c.vecThread (c.fnReg f s.free) (c.fnInv f s.free)).rv (wD c.w) = c.fnReg f s.free := (wrote.v _).trans (if_pos rfl)
  refine ⟨s', _, next, only, .of_frags rest rfl rfl rfl, reg.symm ▸ wrote, fun i low => ⟨fun idle => ?_, fun active => ?_⟩⟩
  · rw [reg, c.lane1_fnReg f _ low, maskedLane_idle idle]
  · refine lanes _ i low active rfl ?_
    rw [reg, c.lane1_fnReg f _ low, maskedLane_active active]
    rfl

end

/-- Settles O9: the fused product, and the special values of each function. -/
theorem vectorFunctions : Obligations.VectorFunctions := by
  unfold Obligations.VectorFunctions
  intro s t c d a
  refine ⟨fun h uses b vc low high => vfma_next h uses d a b vc low high, fun uses single row listed h => ?_⟩
  obtain rfl | rfl | rfl : row = (0x54, .vexp t) ∨ row = (0x55, .vrcp t) ∨ row = (0x56, .vrsqrt t) := by simpa using listed
  · rw [exec_vexp]
    refine vecFn_effect fexp h uses single d a fun th' i low active _ value => ?_
    refine ⟨fun nan => ?_, fun _ inf => ?_, nofun, nofun, nofun⟩
    · exact value.trans (congrArg (· % 2 ^ 32) (fexp_nan _ nan))
    · exact value.trans (by rw [inf, fexp_negInf]; rfl)
  · rw [exec_vrcp]
    refine vecFn_effect frcp h uses single d a fun th' i low active _ value => ?_
    refine ⟨fun nan => ?_, nofun, fun _ zero => ?_, fun _ zero => ?_, nofun⟩
    · exact value.trans (congrArg (· % 2 ^ 32) (frcp_nan _ nan))
    · exact value.trans (by rw [zero, frcp_zero]; rfl)
    · exact value.trans (by rw [zero, frcp_negZero]; rfl)
  · rw [exec_vrsqrt]
    refine vecFn_effect frsqrt h uses single d a fun th' i low active thread value => ?_
    refine ⟨fun nan => ?_, nofun, nofun, nofun,
      fun _ above below => ⟨?_, ?_⟩⟩
    · exact value.trans (congrArg (· % 2 ^ 32) (frsqrt_nan _ nan))
    · exact value.trans (congrArg (· % 2 ^ 32) (frsqrt_negative _ above below))
    · have invalid : c.fnInv frsqrt s.free = true := Ictx.anyActive_range _ low active (madeNan_frsqrt _ above below)
      rw [thread, invalid]
      rfl

end Sys2Proof.Machine

/-! O10: comparison, and moves between lanes and registers (R344, R358, R359). -/
namespace Sys2Proof.Machine

/-! ## Masks made bit by bit -/

theorem testBit_packBits (l : List Bool) (i : Nat) : (packBits l).testBit i = l.getD i false := by
  induction l generalizing i with
  | nil => simp [packBits]
  | cons b r ih =>
    have low : b2n b < 2 := by cases b <;> decide
    cases i with
    | zero => cases b <;> simp [packBits, b2n, Nat.testBit_zero]
    | succ i =>
      rw [packBits, Nat.testBit_succ, Nat.add_mul_div_left _ _ (by decide), Nat.div_eq_of_lt low, Nat.zero_add, ih, List.getD_cons_succ]

/-- A bit of a mask of which the first `n` bits were given. -/
theorem getLsbD_packBits_range {i : Nat} (inside : i < 128) (n : Nat) (f : Nat → Bool) :
    (BitVec.ofNat 128 (packBits ((List.range n).map f))).getLsbD i = (decide (i < n) && f i) := by
  rw [BitVec.getLsbD_ofNat, decide_eq_true inside, Bool.true_and, testBit_packBits]
  by_cases low : i < n <;> simp [List.getD_eq_getElem?_getD, low]

/-- A register with one lane replaced. -/
theorem lane1_set {w i : Nat} (pos : 0 < w) (inside : i < 1024 / w) (v : BitVec 1024) (k x : Nat) :
    lane1 w (ofLanes w ((lanesOf w v).set k x)) i = if i = k then x % 2 ^ w else lane1 w v i := by
  rw [lane1_ofLanes pos inside, List.getD_eq_getElem?_getD, List.getElem?_set, lanesOf, List.length_map, List.length_range]
  by_cases there : k = i
  · rw [if_pos there, if_pos (there ▸ inside), if_pos there.symm]
    rfl
  · rw [if_neg there, if_neg (Ne.symm there)]
    simpa [inside] using Nat.mod_eq_of_lt (lane1_lt pos v i)

section
variable {s : State} {t : Tid} {c : Ictx}

theorem vcmp_next (type : LaneType (wTy c.w)) (h : At s t 0x4C c)
    (uses : onlyUses c.w (usesTy ||| usesMk ||| usesD ||| usesA ||| usesB ||| usesSub 1 0) = true) (d : wD c.w ≤ 7) (a : wA c.w ≤ 31)
    (b : wB c.w ≤ 31) :
    ∃ s' th' x, exec (.vcmp t) s = .next s' ∧ OnlyThread s s' t th' ∧ th'.flags = c.th.flags ∧ WroteM c.th th' (wD c.w) x ∧
      ∀ i, i < 128 → x.getLsbD i = (decide (i < 1024 / tyWidth (wTy c.w)) && c.active i &&
        laneCond (wTy c.w) (field c.w 1 0) (lane1 (tyWidth (wTy c.w)) (c.th.rv (wA c.w)) i)
          (lane1 (tyWidth (wTy c.w)) (c.th.rv (wB c.w)) i)) := by
  have step : ∃ s' th', execVcmp t s = .next s' ∧ OnlyThread s s' t th' ∧ th'.flags = c.th.flags ∧
      WroteM c.th th' (wD c.w) (BitVec.ofNat 128 (packBits ((List.range (1024 / c.width)).map fun i =>
        c.active i && laneCond (wTy c.w) (field c.w 1 0) (lane1 c.width c.va i) (lane1 c.width c.vb i)))) := by
    refine runInsn_putM h ?_ ?_
    · simpa [type.tyLane, d, a, b] using uses
    · rw [zip_lanesOf, zipIdx_map_range, List.map_map]
      rfl
  obtain ⟨s', th', next, only, flags, wrote⟩ := step
  refine ⟨s', th', _, (exec_vcmp t s).trans next, only, flags, wrote, fun i inside => ?_⟩
  rw [getLsbD_packBits_range inside, Bool.and_assoc]
  rfl

theorem vsel_next (type : LaneType (wTy c.w)) (h : At s t 0x4D c)
    (uses : onlyUses c.w (usesTy ||| usesMk ||| usesX ||| usesD ||| usesA ||| usesB ||| usesC) = true) (d : wD c.w ≤ 31) (a : wA c.w ≤ 31)
    (b : wB c.w ≤ 31) (mc : wC c.w ≤ 7) :
    ∃ s', exec (.vsel t) s = .next s' ∧ WroteLanes s s' t c.th (wD c.w) (tyWidth (wTy c.w))
      (fun i => maskedLane c (tyWidth (wTy c.w)) i (if (c.th.rm (wC c.w)).getLsbD i = true
        then lane1 (tyWidth (wTy c.w)) (c.th.rv (wA c.w)) i else lane1 (tyWidth (wTy c.w)) (c.th.rv (wB c.w)) i)) false := by
  rw [exec_vsel]
  refine runInsn_wroteLanes (inv := false) h ?_ rfl (fun i inside => ?_) nofun
  · simpa [type.tyLane, vDAB, d, a, b, mc, usesV] using uses
  · rw [zip_lanesOf, zipIdx_map_range, List.map_map]
    exact c.lane1_merge type.pos inside _

theorem vbcast_next (type : LaneType (wTy c.w)) (h : At s t 0x4F c)
    (uses : onlyUses c.w (usesTy ||| usesMk ||| usesX ||| usesD ||| usesA) = true) (d : wD c.w ≤ 31) :
    ∃ s', exec (.vbcast t) s = .next s' ∧ WroteLanes s s' t c.th (wD c.w) (tyWidth (wTy c.w))
      (fun i => maskedLane c (tyWidth (wTy c.w)) i (c.th.rg (wA c.w)).toNat) false := by
  rw [exec_vbcast]
  refine runInsn_wroteLanes (inv := false) h ?_ rfl (fun i inside => ?_) nofun
  · simpa [type.tyLane, d, usesV] using uses
  · have all : List.replicate (1024 / c.width) (c.ga.toNat % 2 ^ c.width) =
        (List.range (1024 / c.width)).map fun _ => c.ga.toNat % 2 ^ c.width := by simp
    rw [all]
    refine (c.lane1_merge type.pos inside _).trans ?_
    rw [maskedLane, maskedLane, Ictx.width, Nat.mod_mod]
    rfl

theorem vext_next (type : LaneType (wTy c.w)) (h : At s t 0x50 c) (uses : onlyUses c.w (usesTy ||| usesD ||| usesA ||| usesB) = true)
    (a : wA c.w ≤ 31) :
    ∃ s' th', exec (.vext t) s = .next s' ∧ OnlyThread s s' t th' ∧ th'.flags = c.th.flags ∧
      WroteG c.th th' (wD c.w) (extend (wTy c.w)
        (lane1 (tyWidth (wTy c.w)) (c.th.rv (wA c.w)) ((c.th.rg (wB c.w)).toNat % (1024 / tyWidth (wTy c.w))))) := by
  rw [exec_vext]
  refine runInsn_putG h ?_ rfl
  simpa [type.tyLane, a] using uses

theorem vins_next (type : LaneType (wTy c.w)) (h : At s t 0x51 c) (uses : onlyUses c.w (usesTy ||| usesD ||| usesA ||| usesB) = true)
    (d : wD c.w ≤ 31) :
    ∃ s', exec (.vins t) s = .next s' ∧ WroteLanes s s' t c.th (wD c.w) (tyWidth (wTy c.w))
      (fun i => if i = (c.th.rg (wB c.w)).toNat % (1024 / tyWidth (wTy c.w)) then (c.th.rg (wA c.w)).toNat % 2 ^ tyWidth (wTy c.w)
        else lane1 (tyWidth (wTy c.w)) (c.th.rv (wD c.w)) i) false := by
  rw [exec_vins]
  refine runInsn_wroteLanes (inv := false) h ?_ rfl (fun i inside => ?_) nofun
  · simpa [type.tyLane, d] using uses
  · refine (lane1_set type.pos inside ..).trans ?_
    rw [Ictx.width, Nat.mod_mod]
    rfl

theorem vperm_next (type : LaneType (wTy c.w)) (h : At s t 0x52 c)
    (uses : onlyUses c.w (usesTy ||| usesMk ||| usesX ||| usesD ||| usesA ||| usesB) = true) (d : wD c.w ≤ 31) (a : wA c.w ≤ 31)
    (b : wB c.w ≤ 31) :
    ∃ s', exec (.vperm t) s = .next s' ∧ WroteLanes s s' t c.th (wD c.w) (tyWidth (wTy c.w))
      (fun i => maskedLane c (tyWidth (wTy c.w)) i (lane1 (tyWidth (wTy c.w)) (c.th.rv (wA c.w))
        (lane1 (tyWidth (wTy c.w)) (c.th.rv (wB c.w)) i % (1024 / tyWidth (wTy c.w))))) false := by
  rw [exec_vperm]
  refine runInsn_wroteLanes (inv := false) h ?_ rfl (fun i inside => ?_) nofun
  · simpa [type.tyLane, vDAB, d, a, b, usesV] using uses
  · rw [lanesOf, List.map_map]
    exact c.lane1_merge type.pos inside _

end

/-- Settles O10: the effect of each instruction. -/
theorem vectorCompareAndMove : Obligations.VectorCompareAndMove := by
  unfold Obligations.VectorCompareAndMove
  intro s t c type
  refine ⟨vcmp_next type, vsel_next type, vbcast_next type, fun h uses a => ?_, vins_next type, vperm_next type⟩
  rw [← extend_eq type]
  exact vext_next type h uses a

end Sys2Proof.Machine

/-! O11: conversion between integer types, and reduction of integers (R359, R361). -/
namespace Sys2Proof.Machine

/-! ## `vcvt` (R361) -/

section
variable (s : State) (c : Ictx)

/-- Widths of the source and of the destination, lanes that one conversion reads, and the lane at which part P lies in each of them. -/
def Ictx.cvtSrc (c : Ictx) : Nat := tyWidth (wC c.w)
def Ictx.cvtLanes (c : Ictx) : Nat := 1024 / Nat.max c.cvtSrc c.width
def Ictx.cvtFrom (c : Ictx) : Nat := if c.cvtSrc < c.width then field c.w 2 0 * c.cvtLanes else 0
def Ictx.cvtTo (c : Ictx) : Nat := if c.width < c.cvtSrc then field c.w 2 0 * c.cvtLanes else 0

/-- Conversion `i`. -/
def Ictx.cvt (i : Nat) : CvtRes := cvtLane (wC c.w) (wTy c.w) (s.draw i) (lane1 c.cvtSrc c.va (c.cvtFrom + i))

/-- Lane `j` of vD after the conversions, without a mask. -/
def Ictx.cvtOut (j : Nat) : Nat :=
  if c.cvtTo ≤ j ∧ j < c.cvtTo + c.cvtLanes then (c.cvt s (j - c.cvtTo)).val else lane1 c.width (c.th.rv (wD c.w)) j
def Ictx.cvtReg : BitVec 1024 := ofLanes c.width ((List.range (1024 / c.width)).map (c.cvtOut s))

/-- Some conversion saturates, or some reads a NaN. -/
def Ictx.cvtSat : Bool := (List.range c.cvtLanes).any fun i => (c.cvt s i).sat
def Ictx.cvtInv : Bool := (List.range c.cvtLanes).any fun i => (c.cvt s i).inv

/-- The thread after `vcvt`. -/
def Ictx.cvtThread : Thread := (((c.th.setV (wD c.w) (c.cvtReg s)).flagIf (c.cvtSat s) flagSat).flagIf (c.cvtInv s) flagFpinv).retired

end

/-- Part P of the narrower lanes lies in the register. -/
theorem part_fits {v w p : Nat} (hv : v ∈ [8, 16, 32, 64]) (hw : w ∈ [8, 16, 32, 64]) (part : p < w / v) :
    p * (1024 / w) + 1024 / w ≤ 1024 / v := by
  have some : (p + 1) * (1024 / w) ≤ w / v * (1024 / w) := Nat.mul_le_mul_right _ part
  rw [Nat.add_mul, Nat.one_mul] at some
  refine some.trans ?_
  simp only [List.mem_cons, List.not_mem_nil, or_false] at hv hw
  rcases hv with rfl | rfl | rfl | rfl <;> rcases hw with rfl | rfl | rfl | rfl <;> decide

/-- The lanes that the conversions read. -/
theorem Ictx.cvtSrc_eq (c : Ictx) (read : c.cvtFrom + c.cvtLanes ≤ 1024 / c.cvtSrc) :
    (if c.cvtSrc < c.width then ((lanesOf c.cvtSrc c.va).drop (field c.w 2 0 * c.cvtLanes)).take c.cvtLanes else lanesOf c.cvtSrc c.va) =
      (List.range c.cvtLanes).map fun i => lane1 c.cvtSrc c.va (c.cvtFrom + i) := by
  unfold Ictx.cvtFrom at read ⊢
  split
  · rename_i wider
    rw [if_pos wider] at read
    exact List.ext_getElem (by simp [lanesOf]; omega) fun i _ _ => by simp [lanesOf]
  · rename_i narrower
    have all : c.cvtLanes = 1024 / c.cvtSrc := congrArg (1024 / ·) (Nat.max_eq_left (Nat.not_lt.1 narrower))
    rw [all, lanesOf]
    simp

/-- The new lanes over the old ones. -/
theorem Ictx.cvtOut_eq (s : State) {c : Ictx} (mk : wMk c.w = 0) :
    ((lanesOf c.width (c.th.rv (wD c.w))).zipIdx.map fun x =>
      match ((List.range c.cvtLanes).map fun i => (c.cvt s i, c.cvtTo + i))[x.2 - c.cvtTo]? with
      | none => x.1
      | some r => if x.2 < c.cvtTo then x.1 else if c.active x.2 then r.1.val else if wX c.w = 1 then 0 else x.1) =
      (List.range (1024 / c.width)).map (c.cvtOut s) := by
  have active : ∀ i, c.active i = true := fun i => (c.active_iff i).2 (.inl mk)
  rw [lanesOf, zipIdx_map_range, List.map_map]
  refine List.map_congr_left fun j _ => ?_
  simp only [Function.comp, Ictx.cvtOut, active, if_true, List.getElem?_map]
  by_cases inside : j - c.cvtTo < c.cvtLanes
  · rw [List.getElem?_range inside]
    by_cases low : j < c.cvtTo
    · simp [low, Nat.not_le.2 low]
    · have bounds : c.cvtTo ≤ j ∧ j < c.cvtTo + c.cvtLanes := by omega
      simp [low, bounds]
  · rw [List.getElem?_eq_none (by simpa using inside), if_neg (by omega)]
    rfl

theorem vcvt_next {s : State} {t : Tid} {c : Ictx} (h : At s t 0x4E c)
    (uses : onlyUses c.w (usesTy ||| usesMk ||| usesX ||| usesD ||| usesA ||| usesC ||| usesSub 2 0) = true) (d : wD c.w ≤ 31)
    (a : wA c.w ≤ 31) (ty : 2 ≤ wTy c.w ∧ wTy c.w ≤ 9) (src : 2 ≤ wC c.w ∧ wC c.w ≤ 9) (mk : wMk c.w = 0)
    (part : field c.w 2 0 < Nat.max c.cvtSrc c.width / Nat.min c.cvtSrc c.width)
    (read : c.cvtFrom + c.cvtLanes ≤ 1024 / c.cvtSrc) :
    ∃ s', exec (.vcvt t) s = .next s' ∧ OnlyThreadOf s s' t (c.cvtThread s) ∧ { s' with frags := s.frags } = s.drew c.cvtLanes := by
  have active : ∀ i, c.active i = true := fun i => (c.active_iff i).2 (.inl mk)
  rw [exec_vcvt]
  refine runInsn_updates h ?_ (fun th => ((th.setV (wD c.w) (c.cvtReg s)).flagIf (c.cvtSat s) flagSat).flagIf (c.cvtInv s) flagFpinv) rfl ?_
  · have types : 1 ≤ wC c.w ∧ wC c.w ≤ 14 ∧ 1 ≤ wTy c.w ∧ wTy c.w ≤ 14 := by omega
    rw [Ictx.cvtSrc, Ictx.width] at part
    simp only [types, part, vDA, d, a, mk, usesV, uses, and_self, decide_true, beq_self_eq_true, Bool.true_or, Bool.and_self]
  · have results : ∀ q : CvtRes → Bool, (((List.range c.cvtLanes).map fun i => (c.cvt s i, c.cvtTo + i)).any fun r => q r.1 && c.active r.2) =
        (List.range c.cvtLanes).any fun i => q (c.cvt s i) := fun q => by simp [List.any_map, Function.comp_def, active]
    dsimp only
    rw [show tyWidth (wC c.w) = c.cvtSrc from rfl, show tyWidth (wTy c.w) = c.width from rfl,
      show 1024 / Nat.max c.cvtSrc c.width = c.cvtLanes from rfl, c.cvtSrc_eq read, zipIdx_map_range, List.map_map]
    exact congrArg Eff.done ((congrArg₂ (c.flagIf · flagFpinv ·) (results (·.inv)) (congrArg₂ (c.flagIf · flagSat ·) (results (·.sat))
      (congrArg (c.putV (s.drew c.cvtLanes) ∘ ofLanes c.width) (Ictx.cvtOut_eq s mk)))).trans (by
        simp only [Function.comp, Ictx.putV, Ictx.flagIf_updThread]
        rfl))

theorem int_laneType {ty : Nat} (int : 2 ≤ ty ∧ ty ≤ 9) : LaneType ty := .inl int

theorem int_not_float {ty : Nat} (int : 2 ≤ ty ∧ ty ≤ 9) : tyFloat ty = false := decide_eq_false (by omega)

section
variable (s : State) {c : Ictx} (ty : 2 ≤ wTy c.w ∧ wTy c.w ≤ 9) (src : 2 ≤ wC c.w ∧ wC c.w ≤ 9)
include ty src

/-- Between integers, to wider lanes a value is extended, and to narrower ones it saturates. -/
theorem Ictx.cvt_wider (wider : c.cvtSrc < c.width) (i : Nat) :
    c.cvt s i = ⟨wrapLane (wTy c.w) (laneInt (wC c.w) (lane1 c.cvtSrc c.va (c.cvtFrom + i))), false, false⟩ := by
  rw [Ictx.cvtSrc, Ictx.width] at wider
  simp [Ictx.cvt, cvtLane, int_not_float ty, int_not_float src, wider]

theorem Ictx.cvt_narrower (narrower : c.width < c.cvtSrc) (i : Nat) :
    c.cvt s i = satInt (wTy c.w) (laneInt (wC c.w) (lane1 c.cvtSrc c.va (c.cvtFrom + i))) := by
  rw [Ictx.cvtSrc, Ictx.width] at narrower
  simp [Ictx.cvt, cvtLane, int_not_float ty, int_not_float src, narrower, Nat.not_lt_of_lt narrower]

/-- No conversion between integers of different widths reads a NaN. -/
theorem Ictx.cvtInv_eq_false (different : c.cvtSrc ≠ c.width) : c.cvtInv s = false := by
  refine List.any_eq_false.2 fun i _ => ?_
  obtain wider | narrower := Nat.lt_or_gt_of_ne different
  · simp [Ictx.cvt_wider s ty src wider]
  · simp [Ictx.cvt_narrower s ty src narrower, satInt]

end

theorem Ictx.lane1_cvtReg (s : State) {c : Ictx} {j : Nat} (pos : 0 < c.width) (inside : j < 1024 / c.width) :
    lane1 c.width (c.cvtReg s) j = c.cvtOut s j % 2 ^ c.width := by
  rw [Ictx.cvtReg, lane1_ofLanes_range pos inside, if_pos inside]

theorem wrapLane_mod (ty : Nat) (i : Int) : wrapLane ty i % 2 ^ tyWidth ty = wrapLane ty i := Nat.mod_eq_of_lt (ofSigned_lt ..)

theorem Ictx.wroteV_cvtThread (s : State) (c : Ictx) : WroteV c.th (c.cvtThread s) (wD c.w) (c.cvtReg s) :=
  have wrote := wroteV_setV c.th (wD c.w) (c.cvtReg s)
  ⟨wrote.g, wrote.v, wrote.m, wrote.pc, wrote.st⟩

section
variable {s : State} {t : Tid} {c : Ictx} (h : At s t 0x4E c)
  (uses : onlyUses c.w (usesTy ||| usesMk ||| usesX ||| usesD ||| usesA ||| usesC ||| usesSub 2 0) = true) (d : wD c.w ≤ 31)
  (a : wA c.w ≤ 31) (ty : 2 ≤ wTy c.w ∧ wTy c.w ≤ 9) (src : 2 ≤ wC c.w ∧ wC c.w ≤ 9) (mk : wMk c.w = 0)
include h uses d a ty src mk

theorem vcvt_wider (wider : c.cvtSrc < c.width) (part : field c.w 2 0 < c.width / c.cvtSrc) :
    ∃ s', exec (.vcvt t) s = .next s' ∧ WroteLanes s s' t c.th (wD c.w) c.width
      (fun i => ofSigned c.width (laneInt (wC c.w) (lane1 c.cvtSrc c.va (field c.w 2 0 * (1024 / c.width) + i)))) false := by
  have most : Nat.max c.cvtSrc c.width = c.width := Nat.max_eq_right wider.le
  have lanes : c.cvtLanes = 1024 / c.width := congrArg (1024 / ·) most
  have start : c.cvtFrom = field c.w 2 0 * (1024 / c.width) := (if_pos wider).trans (by rw [lanes])
  have dest : c.cvtTo = 0 := if_neg (Nat.not_lt_of_lt wider)
  have pos := (int_laneType ty).pos
  obtain ⟨s', next, only, rest⟩ := vcvt_next h uses d a ty src mk (by rwa [most, show Nat.min c.cvtSrc c.width = _ from Nat.min_eq_left wider.le])
    (by rw [start, lanes]; exact part_fits (int_laneType src).width (int_laneType ty).width part)
  have sat : c.cvtSat s = false := List.any_eq_false.2 fun i _ => by simp [Ictx.cvt_wider s ty src wider]
  refine ⟨s', next, ⟨_, _, only, .of_frags rest rfl rfl rfl, (congrArg (fun u : State => { u with free := s.free }) rest :),
    c.wroteV_cvtThread s, fun i inside => ?_, .inl ?_⟩⟩
  · rw [Ictx.lane1_cvtReg s pos inside, Ictx.cvtOut, dest, if_pos ⟨Nat.zero_le i, by rwa [Nat.zero_add, lanes]⟩, Nat.sub_zero,
      Ictx.cvt_wider s ty src wider, start]
    exact wrapLane_mod ..
  · rw [Ictx.cvtThread, sat, Ictx.cvtInv_eq_false s ty src wider.ne]
    rfl

theorem vcvt_narrower (narrower : c.width < c.cvtSrc) (part : field c.w 2 0 < c.cvtSrc / c.width) :
    ∃ s' th' x, exec (.vcvt t) s = .next s' ∧ OnlyThreadOf s s' t th' ∧ SameBytes s s' ∧ WroteV c.th th' (wD c.w) x ∧
      (∀ i, i < 1024 / c.width →
        (i < field c.w 2 0 * (1024 / c.cvtSrc) ∨ (field c.w 2 0 + 1) * (1024 / c.cvtSrc) ≤ i) →
        lane1 c.width x i = lane1 c.width (c.th.rv (wD c.w)) i) ∧
      (∀ i, i < 1024 / c.cvtSrc →
        lane1 c.width x (field c.w 2 0 * (1024 / c.cvtSrc) + i) =
          ofSigned c.width (clampI (intMin (wTy c.w)) (intMax (wTy c.w)) (laneInt (wC c.w) (lane1 c.cvtSrc c.va i)))) ∧
      (th'.flags = if ∃ i, i < 1024 / c.cvtSrc ∧ (laneInt (wC c.w) (lane1 c.cvtSrc c.va i) < intMin (wTy c.w) ∨
          intMax (wTy c.w) < laneInt (wC c.w) (lane1 c.cvtSrc c.va i))
        then c.th.flags ||| 2#64 else c.th.flags) := by
  have most : Nat.max c.cvtSrc c.width = c.cvtSrc := Nat.max_eq_left narrower.le
  have lanes : c.cvtLanes = 1024 / c.cvtSrc := congrArg (1024 / ·) most
  have start : c.cvtFrom = 0 := if_neg (Nat.not_lt_of_lt narrower)
  have dest : c.cvtTo = field c.w 2 0 * (1024 / c.cvtSrc) := (if_pos narrower).trans (by rw [lanes])
  have pos := (int_laneType ty).pos
  have fits : field c.w 2 0 * (1024 / c.cvtSrc) + 1024 / c.cvtSrc ≤ 1024 / c.width :=
    part_fits (int_laneType ty).width (int_laneType src).width part
  have result : ∀ i, c.cvt s i = satInt (wTy c.w) (laneInt (wC c.w) (lane1 c.cvtSrc c.va i)) := fun i => by
    rw [Ictx.cvt_narrower s ty src narrower, start, Nat.zero_add]
  obtain ⟨s', next, only, rest⟩ := vcvt_next h uses d a ty src mk
    (by rwa [most, show Nat.min c.cvtSrc c.width = _ from Nat.min_eq_right narrower.le]) (by rw [start, lanes, Nat.zero_add])
  refine ⟨s', _, _, next, only, .of_frags rest rfl rfl rfl, c.wroteV_cvtThread s, fun i inside outside => ?_, fun i low => ?_, ?_⟩
  · rw [Nat.add_mul, Nat.one_mul] at outside
    rw [Ictx.lane1_cvtReg s pos inside, Ictx.cvtOut, dest, lanes, if_neg (by omega)]
    exact Nat.mod_eq_of_lt (lane1_lt pos ..)
  · rw [Ictx.lane1_cvtReg s pos (lt_of_lt_of_le (Nat.add_lt_add_left low _) fits), Ictx.cvtOut, dest, lanes,
      if_pos ⟨Nat.le_add_right .., Nat.add_lt_add_left low _⟩, Nat.add_sub_cancel_left, result]
    exact wrapLane_mod ..
  · have sat : c.cvtSat s = true ↔ ∃ i, i < 1024 / c.cvtSrc ∧ (laneInt (wC c.w) (lane1 c.cvtSrc c.va i) < intMin (wTy c.w) ∨
        intMax (wTy c.w) < laneInt (wC c.w) (lane1 c.cvtSrc c.va i)) := by
      simp [Ictx.cvtSat, lanes, result, satInt]
    rw [Ictx.cvtThread, Ictx.cvtInv_eq_false s ty src narrower.ne']
    by_cases saturates : c.cvtSat s = true
    · rw [if_pos (sat.1 saturates), saturates]
      rfl
    · rw [if_neg (mt sat.2 saturates), Bool.eq_false_iff.2 saturates]
      rfl

end

/-! ## `vred` (R359) -/

/-- A sum cut to a width at each step is the sum cut once. -/
theorem foldl_active_mod (m : Nat) (p : Nat → Bool) (f : Nat → Nat) (l : List Nat) {a b : Nat} (same : a % m = b % m) :
    ((l.filter p).map f).foldl (fun a b => (a + b) % m) a % m = l.foldl (fun n i => n + if p i then f i else 0) b % m := by
  induction l generalizing a b with
  | nil => exact same
  | cons i r ih =>
    rw [List.filter_cons]
    cases h : p i with
    | true => exact ih (by simp only [h, if_true, Nat.mod_mod, Nat.add_mod a, same, ← Nat.add_mod])
    | false => exact ih (by simpa [h] using same)

/-- The reduction of a vector's active lanes. -/
def Ictx.reduced (c : Ictx) (free : Nat) : Nat :=
  reduceLanes (wTy c.w) (field c.w 1 0) free (((List.range (1024 / c.width)).filter c.active).map (lane1 c.width c.va))

theorem vred_next {s : State} {t : Tid} {c : Ictx} (h : At s t 0x53 c)
    (uses : onlyUses c.w (usesTy ||| usesMk ||| usesD ||| usesA ||| usesSub 1 0) = true) (d : wD c.w ≤ 31) (a : wA c.w ≤ 31)
    (ty : 2 ≤ wTy c.w ∧ wTy c.w ≤ 9) (op : field c.w 1 0 ≤ 2) :
    ∃ s', exec (.vred t) s = .next s' ∧ OnlyThreadOf s s' t (c.vecThread (ofLanes c.width [c.reduced s.free]) false) ∧
      { s' with frags := s.frags } = s.drew 256 := by
  have known : field c.w 1 0 ≠ 3 := by omega
  rw [exec_vred]
  refine runInsn_vec h ?_ 256 ?_
  · simpa [(int_laneType ty).tyLane, vDA, d, a, known] using uses
  · have lanes : ((lanesOf c.width c.va).zipIdx.filter fun p => c.active p.2).map (·.1) =
        ((List.range (1024 / c.width)).filter c.active).map (lane1 c.width c.va) := by
      rw [lanesOf, zipIdx_map_range, List.filter_map, List.map_map]
      rfl
    have one : BitVec.ofNat 1024 (c.reduced s.free % 2 ^ c.width) = ofLanes c.width [c.reduced s.free] := by simp [ofLanes, packLanes]
    dsimp only
    rw [lanes, int_not_float ty, ← one]
    rfl

section
variable {c : Ictx} (ty : 2 ≤ wTy c.w ∧ wTy c.w ≤ 9)
include ty

/-- Without an active lane the reduction gives its neutral value. -/
theorem Ictx.reduced_none (free : Nat) (op : field c.w 1 0 ≤ 2) (idle : ∀ i, i < 1024 / c.width → c.active i = false) :
    c.reduced free % 2 ^ c.width =
      if field c.w 1 0 = 0 then 0 else ofSigned c.width (if field c.w 1 0 = 1 then intMax (wTy c.w) else intMin (wTy c.w)) := by
  have none : (List.range (1024 / c.width)).filter c.active = [] :=
    List.filter_eq_nil_iff.2 fun i mem => by simp [idle i (List.mem_range.1 mem)]
  rw [Ictx.reduced, none, reduceLanes, int_not_float ty]
  obtain zero | one | two : field c.w 1 0 = 0 ∨ field c.w 1 0 = 1 ∨ field c.w 1 0 = 2 := by omega
  · rw [zero]
    exact Nat.zero_mod _
  · rw [one]
    exact wrapLane_mod ..
  · rw [two]
    exact wrapLane_mod ..

/-- The sum of the active lanes. -/
theorem Ictx.reduced_sum (free : Nat) (add : field c.w 1 0 = 0) :
    c.reduced free % 2 ^ c.width = sumBy (fun i => if c.active i then lane1 c.width c.va i else 0) (List.range (1024 / c.width)) % 2 ^ c.width := by
  rw [Ictx.reduced, reduceLanes, int_not_float ty, add]
  exact foldl_active_mod _ _ _ _ rfl

end

/-- Settles O11: two conversions, and a reduction with and without active lanes. -/
theorem vectorConvertAndReduce : Obligations.VectorConvertAndReduce := by
  unfold Obligations.VectorConvertAndReduce
  intro s t c d a low high
  have ty : 2 ≤ wTy c.w ∧ wTy c.w ≤ 9 := ⟨low, high⟩
  have pos := (int_laneType ty).pos
  refine ⟨fun h uses least most mk => ⟨fun wider part => vcvt_wider h uses d a ty ⟨least, most⟩ mk wider part,
    fun narrower part => vcvt_narrower h uses d a ty ⟨least, most⟩ mk narrower part⟩, fun h uses op => ?_⟩
  obtain ⟨s', next, only, rest⟩ := vred_next h uses d a ty op
  have first : 0 < 1024 / tyWidth (wTy c.w) := Nat.div_pos (by
    have := (int_laneType ty).width
    simp only [List.mem_cons, List.not_mem_nil, or_false] at this
    omega) pos
  have lane0 : lane1 c.width (ofLanes c.width [c.reduced s.free]) 0 = c.reduced s.free % 2 ^ c.width := lane1_ofLanes pos first _
  refine ⟨s', _, _, next, only, .of_frags rest rfl rfl rfl, rfl, c.wroteV_vecThread _ _, fun i nonzero inside => ?_, fun idle => ?_,
    fun add => ?_⟩
  · obtain ⟨k, rfl⟩ := Nat.exists_eq_succ_of_ne_zero nonzero.ne'
    exact (lane1_ofLanes pos inside _).trans (Nat.zero_mod _)
  · exact lane0.trans (Ictx.reduced_none ty _ op idle)
  · exact lane0.trans (Ictx.reduced_sum ty _ add)

end Sys2Proof.Machine

/-! Bytes that an instruction reads as elements, and lists laid out as rows: facts for O13, O14 and O17. -/
namespace Sys2Proof.Machine

theorem cisKey_add (l a n : Nat) : cisKey l (a + n) = cisKey l a + n := (Nat.add_assoc ..).symm

/-- A number within bytes that were read is the number read at its place. -/
theorem leAt_rdN (m : Mem) (a : Nat) {o n k : Nat} (inside : o + n ≤ k) : leAt (m.rdN a k) o n = leNat (m.rdN (a + o) n) := by
  obtain ⟨rest, rfl⟩ := Nat.exists_eq_add_of_le inside
  rw [leAt, Nat.add_assoc, Mem.rdN_add, Mem.rdN_add, List.drop_left' (Mem.rdN_length ..), List.take_left' (Mem.rdN_length ..)]

/-- A part of what was written, read back. -/
theorem rdN_wrN_part (m : Mem) (a : Nat) (bs : List Byte) {o n : Nat} (inside : o + n ≤ bs.length) :
    (m.wrN a bs).rdN (a + o) n = (bs.drop o).take n := by
  refine List.ext_getElem (by rw [Mem.rdN_length, List.length_take, List.length_drop]; omega) fun i low _ => ?_
  rw [Mem.rdN_length] at low
  simp only [Mem.rdN_eq_map, List.getElem_map, List.getElem_range, List.getElem_take, List.getElem_drop, Nat.add_assoc]
  exact Mem.rd_wrN_at m a bs (by omega)

/-- `m` rows of `n` elements, one after the other. -/
theorem flatMap_rows {α : Type} (m n : Nat) (f : Nat → Nat → α) :
    ((List.range m).flatMap fun i => (List.range n).map (f i)) = (List.range (m * n)).map fun k => f (k / n) (k % n) := by
  induction m with
  | zero => simp
  | succ m ih =>
    rw [List.range_succ, List.flatMap_append, ih, Nat.succ_mul, List.range_add, List.map_append, List.map_map, List.flatMap_singleton]
    refine congrArg (_ ++ ·) (List.map_congr_left fun j mem => ?_)
    have low : j < n := List.mem_range.1 mem
    rw [Function.comp, Nat.mul_comm, Nat.mul_add_div (Nat.zero_lt_of_lt low), Nat.div_eq_of_lt low, Nat.add_zero, Nat.mul_add_mod,
      Nat.mod_eq_of_lt low]

/-- A table that lists the elements of a range which are not zero gives each element. -/
theorem getD_table {α : Type} {n : Nat} (q : Nat → Bool) (f : Nat → α) (zero : α) (unlisted : ∀ i, q i = false → f i = zero) {i : Nat}
    (inside : i < n) : Map.getD (((List.range n).filter q).map fun i => (i, f i)) i zero = f i := by
  have found : ((List.range n).filter q).find? (· == i) = if q i then some i else none := by
    rw [List.find?_filter]
    split
    · rename_i listed
      exact List.find?_range_eq_some.2 ⟨by simp [listed], List.mem_range.2 inside, fun j less => by simp [less.ne]⟩
    · rename_i absent
      exact List.find?_eq_none.2 fun j _ both => absent (by simp at both; exact both.2 ▸ both.1)
  simp only [Map.getD, Map.get?, List.find?_map, Function.comp_def, found]
  split
  · rfl
  · rename_i absent
    exact (unlisted i (Bool.eq_false_iff.2 absent)).symm

end Sys2Proof.Machine

/-! O13: tile instructions (R365, R367). -/
namespace Sys2Proof.Machine

theorem tileElem_of_member {s : State} {t : Tid} {m : Member} (member : s.member? t.frag t.mem = some m) (n i : Nat) :
    tileElem s t n i = Map.getD (Map.getD m.tiles n ⟨false, []⟩).elems i 0 := by
  simp [tileElem, member]

section
variable {s : State} {t : Tid} {opc : Nat} {c : Ictx} {legal : Nat → Bool}

/-- On a claimed tile with no tensor instruction outstanding, a tile instruction has its effect. -/
theorem tileOp_ready (h : At s t opc c) (word : legal c.w = true) {num : Nat → Nat} (claimed : num c.w < c.frag.tiles)
    (idle : s.tileBusy c (num c.w) = false) (f : Ictx → State → Nat → Eff) :
    tileOp opc legal num f t s = runInsn opc legal (fun c s => f c s (num c.w)) t s := by
  rw [tileOp, runInsn_legal h word, runInsn_legal h word]
  simp [Nat.not_le.2 claimed, idle]

/-- With one outstanding, it waits. -/
theorem tileOp_waits (h : At s t opc c) (word : legal c.w = true) {num : Nat → Nat} (claimed : num c.w < c.frag.tiles)
    (busy : s.tileBusy c (num c.w) = true) (f : Ictx → State → Nat → Eff) :
    ∃ s', tileOp opc legal num f t s = .next s' ∧ OnlyThread s s' t { c.th with st := .wait } := by
  refine ⟨_, (runInsn_legal h word).trans ?_, onlyThread_updThread s t (fun th => { th with st := .wait }) c.th (insn_thread h.1)⟩
  simp [Nat.not_le.2 claimed, busy, applyEff, h.tid]

/-- An instruction that puts a tile. -/
theorem runInsn_putTile (h : At s t opc c) (word : legal c.w = true) {eff : Ictx → State → Eff} {n : Nat} {x : Tile}
    (effect : eff c s = .done (c.putTile s n x)) :
    ∃ s', runInsn opc legal eff t s = .next s' ∧ { s' with frags := s.frags } = s ∧ s'.thread? t = some c.th.retired ∧
      (∀ i, tileElem s' t n i = Map.getD x.elems i 0) ∧
      (s'.member? t.frag t.mem).map (fun m => (Map.getD m.tiles n ⟨false, []⟩).isInt) = some x.isInt := by
  have member := h.member?_updated (s1 := s) rfl (fun m => { m with tiles := Map.put m.tiles n x }) Thread.retired
  obtain ⟨_, _, _, _, _, _, thread, _⟩ := insn_some h.1
  refine ⟨_, runInsn_done h word effect, rfl, ?_, fun i => ?_, ?_⟩
  all_goals rw [Ictx.putTile, h.tid]
  · simp [State.thread?, member, thread]
  · rw [tileElem_of_member member, Map.getD_put_self]
  · simp [member]

end

/-- An instruction that writes bytes of its fragment's cistern area. -/
theorem runInsn_cisWr {s : State} {t : Tid} {opc off : Nat} {c : Ictx} {legal : Nat → Bool} {eff : Ictx → State → Eff} {bs : List Byte}
    (h : At s t opc c) (word : legal c.w = true) (effect : eff c s = .done (c.cisWr s off bs)) :
    ∃ s', runInsn opc legal eff t s = .next s' ∧ OnlyThreadOf s s' t c.th.retired ∧ { s' with frags := s.frags, cis := s.cis } = s ∧
      s'.cis = s.cis.wrN (cisKey c.mem.cluster (c.mem.base + off)) bs := by
  obtain ⟨s', next, only, rest⟩ := runInsn_retires (s1 := c.cisWr s off bs) h word rfl effect
  exact ⟨s', next, only, (congrArg (fun u : State => { u with cis := s.cis }) rest :), (congrArg State.cis rest :)⟩

/-- The tile that `tld` reads: 4 bytes for each element (R365). -/
def Ictx.tileRead (c : Ictx) (s : State) : Tile :=
  ⟨wTy c.w == 4, ((List.range 4096).map fun i => (i, BitVec.ofNat 32 (leAt (c.cisRd s c.ga.toNat 16384) (4 * i) 4))).filter fun p => p.2 != 0⟩

theorem Ictx.tileRead_elem (c : Ictx) (s : State) {i : Nat} (inside : i < 4096) :
    Map.getD (c.tileRead s).elems i 0 = BitVec.ofNat 32 (leNat (c.cisRd s (c.ga.toNat + 4 * i) 4)) := by
  have place : leAt (c.cisRd s c.ga.toNat 16384) (4 * i) 4 = leNat (c.cisRd s (c.ga.toNat + 4 * i) 4) := by
    rw [Ictx.cisRd, leAt_rdN _ _ (by omega), ← cisKey_add, Nat.add_assoc]
    rfl
  rw [Ictx.tileRead, List.filter_map, ← place]
  dsimp only
  refine getD_table _ _ 0 (fun k zero => ?_) inside
  simpa using zero

/-- The bytes that `tst` writes (R365). -/
def Ictx.tileBytes (c : Ictx) (n : Nat) : List Byte := (List.range 4096).flatMap fun i => toLe 4 (Map.getD (c.tile n).elems i (0 : F32)).toNat

theorem Ictx.tileBytes_length (c : Ictx) (n : Nat) : (c.tileBytes n).length = 16384 := by
  simp [Ictx.tileBytes, toLe_eq_map_range, flatMap_rows]

theorem Ictx.leAt_tileBytes (c : Ictx) (n : Nat) {i : Nat} (inside : i < 4096) :
    leAt (c.tileBytes n) (4 * i) 4 = (Map.getD (c.tile n).elems i (0 : F32)).toNat := by
  have four : ((c.tileBytes n).drop (4 * i)).take 4 = toLe 4 (Map.getD (c.tile n).elems i (0 : F32)).toNat := by
    simp only [Ictx.tileBytes, toLe_eq_map_range, flatMap_rows]
    refine List.ext_getElem (by simp; omega) fun k low _ => ?_
    have small : k < 4 := by simp at low; omega
    simp [Nat.mul_add_div, Nat.div_eq_of_lt small, Nat.mod_eq_of_lt small]
  rw [leAt, four, leNat_toLe]
  exact Nat.mod_eq_of_lt (BitVec.isLt _)

section
variable {s : State} {t : Tid} {c : Ictx}

theorem tld_next (h : At s t 0x61 c) (word : ((wTy c.w == 4 || wTy c.w == 14) && onlyUses c.w (usesTy ||| usesD ||| usesA)) = true)
    (claimed : wD c.w < c.frag.tiles) (idle : s.tileBusy c (wD c.w) = false) (inside : c.ga.toNat + 16384 ≤ c.frag.cis * 65536) :
    ∃ s', exec (.tld t) s = .next s' ∧ { s' with frags := s.frags } = s ∧ s'.thread? t = some c.th.retired ∧
      (∀ i, tileElem s' t (wD c.w) i = Map.getD (c.tileRead s).elems i 0) ∧
      (s'.member? t.frag t.mem).map (fun m => (Map.getD m.tiles (wD c.w) ⟨false, []⟩).isInt) = some (wTy c.w == 4) := by
  have area : c.inArea c.ga.toNat 16384 = true := decide_eq_true inside
  rw [exec_tld, execTld, tileOp_ready h ?_ claimed idle]
  · exact runInsn_putTile h word (if_neg (by rw [area]; decide))
  · exact word

theorem tst_next (h : At s t 0x62 c) (word : onlyUses c.w (usesA ||| usesB) = true) (claimed : wA c.w < c.frag.tiles)
    (idle : s.tileBusy c (wA c.w) = false) (inside : c.gb.toNat + 16384 ≤ c.frag.cis * 65536) :
    ∃ s', exec (.tst t) s = .next s' ∧ OnlyThreadOf s s' t c.th.retired ∧ { s' with frags := s.frags, cis := s.cis } = s ∧
      s'.cis = s.cis.wrN (cisKey c.mem.cluster (c.mem.base + c.gb.toNat)) (c.tileBytes (wA c.w)) := by
  have area : c.inArea c.gb.toNat 16384 = true := decide_eq_true inside
  rw [exec_tst, execTst, tileOp_ready h ?_ claimed idle]
  · exact runInsn_cisWr h word (if_neg (by rw [area]; decide))
  · exact word

theorem tmov_next (h : At s t 0x64 c) (word : (decide (wD c.w ≤ 31) && onlyUses c.w (usesD ||| usesA ||| usesB ||| usesSub 0 0)) = true)
    (claimed : wA c.w < c.frag.tiles) (idle : s.tileBusy c (wA c.w) = false) :
    ∃ s' th', exec (.tmov t) s = .next s' ∧ OnlyThread s s' t th' ∧ th'.flags = c.th.flags ∧
      WroteV c.th th' (wD c.w) (ofLanes 32 ((List.range 32).map fun i =>
        (Map.getD (c.tile (wA c.w)).elems (64 * (c.gb.toNat % 64) + 32 * field c.w 0 0 + i) (0 : F32)).toNat)) := by
  rw [exec_tmov, execTmov, tileOp_ready h ?_ claimed idle]
  · exact runInsn_putV h word rfl
  · exact word

end

/-- Settles O13: each instruction on an idle tile, and all four on one that is busy. -/
theorem tileInstructions : Obligations.TileInstructions := by
  unfold Obligations.TileInstructions
  intro s t c _ _
  have accumulator : ∀ {u : Nat}, onlyUses c.w u = true → (wTy c.w = 4 ∨ wTy c.w = 14) →
      ((wTy c.w == 4 || wTy c.w == 14) && onlyUses c.w u) = true := fun uses ty => by simp [uses, ty]
  refine ⟨fun h uses ty claimed idle => ?_, fun h uses ty claimed idle inside => ?_, fun h uses claimed idle inside _ => ?_,
    fun h uses d claimed idle => ?_, fun i n which claimed busy => ?_⟩
  · rw [exec_tzero, execTzero, tileOp_ready h ?_ claimed idle]
    · exact runInsn_putTile (x := ⟨wTy c.w == 4, []⟩) h (accumulator uses ty) rfl
    · exact accumulator uses ty
  · obtain ⟨s', next, rest, thread, elems, int⟩ := tld_next h (accumulator uses ty) claimed idle inside
    exact ⟨s', next, rest, thread, fun i inside => (elems i).trans (c.tileRead_elem s inside), int⟩
  · obtain ⟨s', next, only, rest, cis⟩ := tst_next h uses claimed idle inside
    refine ⟨s', next, rest, only, fun i low => ?_, fun a outside => ?_⟩
    · rw [tileElem_of_member h.member, Ictx.cisRd, ← Nat.add_assoc c.mem.base, cisKey_add, cis]
      refine (congrArg leNat (rdN_wrN_part _ _ _ ?_)).trans (c.leAt_tileBytes _ low)
      rw [c.tileBytes_length]
      omega
    · rw [cis, Mem.rd_wrN_out _ _ _ _ (by rwa [c.tileBytes_length])]
  · obtain ⟨s', th', next, only, flags, wrote⟩ := tmov_next h (by simp [d, uses]) claimed idle
    refine ⟨s', th', _, next, only, flags, wrote, fun i low => ?_⟩
    rw [lane1_ofLanes_range (by decide) low, if_pos low, Nat.mod_eq_of_lt (BitVec.isLt _), tileElem_of_member h.member]
    rfl
  · obtain ⟨h, uses, ty, rfl, rfl⟩ | ⟨h, uses, ty, rfl, rfl⟩ | ⟨h, uses, rfl, rfl⟩ | ⟨h, uses, d, rfl, rfl⟩ := which
    · rw [exec_tzero]
      exact tileOp_waits h (legal := fun w => (wTy w == 4 || wTy w == 14) && onlyUses w _) (accumulator uses ty) claimed busy _
    · rw [exec_tld]
      exact tileOp_waits h (legal := fun w => (wTy w == 4 || wTy w == 14) && onlyUses w _) (accumulator uses ty) claimed busy _
    · rw [exec_tst]
      exact tileOp_waits h (legal := fun w => onlyUses w _) uses claimed busy _
    · rw [exec_tmov]
      refine tileOp_waits h ?_ claimed busy _
      simp [d, uses]

end Sys2Proof.Machine

/-! O14: acceptance of `tmma` (R362, R363, R366). -/
namespace Sys2Proof.Machine

/-- A descriptor without a reserved value names a type pair of R118. -/
theorem pairOk_of_tdescBad {b : List Byte} {ty : Nat} (good : tdescBad b ty = none) : pairOk ty (tdesc b).aty = true := by
  simp only [tdescBad, ite_eq_iff, reduceCtorEq, and_false, false_or, and_true, not_or, Bool.not_eq_true', Bool.not_eq_false] at good
  obtain ⟨-, -, ⟨-, -, pair, -⟩, -⟩ := good
  exact pair

theorem type_of_pairOk {ty aty : Nat} (pair : pairOk ty aty = true) : 1 ≤ ty ∧ ty ≤ 14 := by
  unfold pairOk at pair
  simp only [List.contains_eq_mem, decide_eq_true_eq, List.mem_cons, Prod.mk.injEq, List.not_mem_nil, or_false] at pair
  omega

/-- The operation that an accepted `tmma` gives to the tensor unit. -/
def Ictx.tensorOp (c : Ictx) (s : State) : TensorOp :=
  { frag := c.t.frag, mem := c.t.mem, thread := c.t.idx, tile := wD c.w, ty := wTy c.w, desc := c.cisRd s c.ga.toNat 64 }

theorem tmma_next {s : State} {t : Tid} {c : Ictx} {d : TDesc} (h : At s t 0x60 c)
    (uses : onlyUses c.w (usesTy ||| usesD ||| usesA) = true) (claimed : wD c.w < c.frag.tiles)
    (inside : c.ga.toNat + 64 ≤ c.frag.cis * 65536) (desc : d = tdesc (c.cisRd s c.ga.toNat 64))
    (good : tdescBad (c.cisRd s c.ga.toNat 64) (wTy c.w) = none)
    (kind : d.acc = true → s.tileInt c (wD c.w) = (decide (wTy c.w ≤ 2) && !d.scaled))
    (ranges : (d.ranges (wTy c.w)).all (fun r => c.inArea r.1 r.2) = true)
    (zero : d.scaled = true → (scalesAt (c.cisRd s) d.ascale (scaleCount d.agran d.k)).all (zpOk d.aty) = true ∧
      (scalesAt (c.cisRd s) d.wscale (scaleCount d.wgran d.k)).all (zpOk (wTy c.w)) = true) :
    ∃ s', exec (.tmma t) s = .next s' ∧ OnlyThreadOf s s' t c.th.retired ∧
      { s' with frags := s.frags } = s.updCluster c.mem.cluster fun k => { k with tensor := k.tensor ++ [c.tensorOp s] } := by
  subst desc
  have area : c.inArea c.ga.toNat 64 = true := decide_eq_true inside
  have sameKind : ((tdesc (c.cisRd s c.ga.toNat 64)).acc &&
      s.tileInt c (wD c.w) != (decide (wTy c.w ≤ 2) && !(tdesc (c.cisRd s c.ga.toNat 64)).scaled)) = false := by
    cases acc : (tdesc (c.cisRd s c.ga.toNat 64)).acc
    · rfl
    · simp [kind acc]
  rw [exec_tmma]
  refine runInsn_retires h ?_ rfl ?_
  · have type := type_of_pairOk (pairOk_of_tdescBad good)
    simpa [type] using uses
  · dsimp only
    rw [if_neg (Nat.not_le.2 claimed), area, if_neg (by decide), good, ranges, sameKind]
    cases scaled : (tdesc (c.cisRd s c.ga.toNat 64)).scaled
    · rfl
    · simp only [zero scaled]
      rfl

end Sys2Proof.Machine

/-! O14: a dense int8 multiplication in the tensor unit (R118, R120, R364). -/
namespace Sys2Proof.Machine

theorem foldl_add_eq_add_sum (l : List Int) (v : Int) : l.foldl (fun x y => x + y) v = l.sum + v := by
  induction l generalizing v with
  | nil => simp
  | cons x r ih => rw [List.foldl_cons, ih, List.sum_cons]; omega

theorem toSigned_toNat (x : F32) : toSigned 32 x.toNat = x.toInt := by
  rw [toSigned_eq_toInt (by decide), BitVec.ofNat_toNat, BitVec.setWidth_eq]

/-- Element `k` of a dense row of int8 operands at `off`. -/
def State.tensorByte (s : State) (m : Member) (off k : Nat) : Int := toSigned 8 (leNat (s.cis.rdN (cisKey m.cluster (m.base + off + k)) 1))

/-- The exact dot product of activation row `i` and weight row `j` (R120). -/
def State.tensorDot (s : State) (m : Member) (d : TDesc) (i j : Nat) : Int :=
  ((List.range d.k).map fun k => s.tensorByte m (d.act + i * d.astride) k * s.tensorByte m (d.wgt + j * d.wstride) k).sum

/-- What the tile holds already, for an operation that accumulates. -/
@[reducible] def oldElem (m : Member) (o : TensorOp) (n : Nat) : Nat :=
  if (tdesc o.desc).acc then (Map.getD (Map.getD m.tiles o.tile ⟨true, []⟩).elems n (0 : F32)).toNat else 0

def State.tensorCell (s : State) (m : Member) (o : TensorOp) (i j : Nat) : Cell :=
  clampI32 (s.tensorDot m (tdesc o.desc) i j + toSigned 32 (oldElem m o (64 * i + j)))

/-- One element of the result, as the unit computes it. -/
theorem tmmaCell_dense {d : TDesc} (aty : d.aty = 2) (scaled : d.scaled = false) (k i j old : Nat) (f g : Nat → Nat) (sa sw : List Nat) :
    tmmaCell d 2 k i j old ((List.range d.k).map f) ((List.range d.k).map fun k => some (g k)) sa sw =
      clampI32 (((List.range d.k).map fun k => toSigned 8 (f k) * toSigned 8 (g k)).sum + toSigned 32 old) := by
  have int : laneInt 2 = toSigned 8 := rfl
  rw [tmmaCell, if_pos (by decide), scaled, if_neg (by decide), aty, int, cellInt, foldl_add_eq_add_sum, List.map_map, List.map_map,
    zip_map_range, List.map_map]
  rfl

/-- An int8 element of a row that the unit has read. -/
theorem rowElem_rdN (mem : Mem) (a : Nat) {n k : Nat} (inside : k < n) : rowElem 2 (mem.rdN a n) k = leNat (mem.rdN (a + k) 1) := by
  have byte : rowElem 2 (mem.rdN a n) k = leAt (mem.rdN a n) (k * 1) 1 := rfl
  rw [byte, Nat.mul_one, leAt_rdN _ _ (Nat.succ_le_of_lt inside)]

theorem ceilDiv_bytes (n : Nat) : ceilDiv (n * 8) 8 = n := by
  unfold ceilDiv
  omega

/-- One element of the result, of the rows that the unit has read. -/
theorem tmmaCell_rows (s : State) (m : Member) {o : TensorOp} (aty : (tdesc o.desc).aty = 2) (scaled : (tdesc o.desc).scaled = false)
    (k i j : Nat) :
    tmmaCell (tdesc o.desc) 2 k i j (oldElem m o (64 * i + j))
      ((List.range (tdesc o.desc).k).map (rowElem 2 (s.cis.rdN
        (cisKey m.cluster (m.base + ((tdesc o.desc).act + i * (tdesc o.desc).astride))) (ceilDiv ((tdesc o.desc).k * tyWidth 2) 8))))
      ((List.range (tdesc o.desc).k).map fun k => some (rowElem 2 (s.cis.rdN
        (cisKey m.cluster (m.base + ((tdesc o.desc).wgt + j * (tdesc o.desc).wstride))) (ceilDiv ((tdesc o.desc).k * tyWidth 2) 8)) k))
      [] [] = s.tensorCell m o i j := by
  have bytes : ceilDiv ((tdesc o.desc).k * tyWidth 2) 8 = (tdesc o.desc).k := ceilDiv_bytes _
  rw [tmmaCell_dense aty scaled, bytes, State.tensorCell, State.tensorDot]
  refine congrArg (fun l : List Int => clampI32 (l.sum + _)) (List.map_congr_left fun k low => ?_)
  rw [rowElem_rdN _ _ (List.mem_range.1 low), rowElem_rdN _ _ (List.mem_range.1 low), ← cisKey_add, ← cisKey_add]
  rfl

/-- The new elements of the tile. -/
def State.tensorElems (s : State) (m : Member) (o : TensorOp) : Map F32 :=
  ((List.range 4096).filter fun n => (s.tensorCell m o (n / 64) (n % 64)).val != 0).map fun n =>
    (n, BitVec.ofNat 32 (s.tensorCell m o (n / 64) (n % 64)).val)

def State.tensorSat (s : State) (m : Member) (o : TensorOp) : Bool := (List.range 4096).any fun n => (s.tensorCell m o (n / 64) (n % 64)).sat

/-- The machine once the unit has written the tile. -/
def State.tensorPut (s : State) (m : Member) (o : TensorOp) : State :=
  (s.drew (4096 * 65536)).updMember ⟨o.frag, o.mem, o.thread⟩ fun x => { x with tiles := Map.put x.tiles o.tile ⟨true, s.tensorElems m o⟩ }

theorem State.runTensor_dense (s : State) (m : Member) {o : TensorOp} (ty : o.ty = 2) (aty : (tdesc o.desc).aty = 2)
    (scaled : (tdesc o.desc).scaled = false) (sparse : (tdesc o.desc).sparse = false) :
    s.runTensor m o = if s.tensorSat m o then
        (s.tensorPut m o).updThread ⟨o.frag, o.mem, o.thread⟩ fun th => { th with flags := setFlagBit th.flags flagSat }
      else s.tensorPut m o := by
  have none : ((List.range 64).any fun _ => false) = false := by simp
  unfold State.runTensor
  simp only [ty, aty, scaled, sparse, denseRow, TDesc.wk, badPositions, Nat.le_refl, decide_true, Bool.not_false, Bool.and_self,
    Bool.false_eq_true, if_false, Bool.false_and, none, zipIdx_map_range, List.map_map, Function.comp_def, tmmaCell_rows s m aty scaled,
    flatMap_rows, List.filter_map, List.any_map]
  rfl

theorem State.runTensor_frame (s : State) (m : Member) {o : TensorOp} (ty : o.ty = 2) (aty : (tdesc o.desc).aty = 2)
    (scaled : (tdesc o.desc).scaled = false) (sparse : (tdesc o.desc).sparse = false) :
    { s.runTensor m o with frags := s.frags } = s.drew (4096 * 65536) := by
  rw [s.runTensor_dense m ty aty scaled sparse]
  split
  · rfl
  · rfl

theorem tileElem_updThread (s : State) (t u : Tid) (g : Thread → Thread) (n i : Nat) : tileElem (s.updThread u g) t n i = tileElem s t n i := by
  unfold tileElem
  rw [State.updThread, member?_updMember]
  split
  · cases s.member? t.frag t.mem with
    | none => rfl
    | some m => rfl
  · rfl

/-- The tile once the unit has written it (R364). -/
theorem State.tileElem_runTensor {s : State} {m : Member} {o : TensorOp} (member : s.member? o.frag o.mem = some m) (ty : o.ty = 2)
    (aty : (tdesc o.desc).aty = 2) (scaled : (tdesc o.desc).scaled = false) (sparse : (tdesc o.desc).sparse = false) {i j : Nat}
    (row : i < 64) (column : j < 64) :
    tileElem (s.runTensor m o) ⟨o.frag, o.mem, o.thread⟩ o.tile (64 * i + j) = BitVec.ofNat 32 (s.tensorCell m o i j).val := by
  have put : tileElem (s.tensorPut m o) ⟨o.frag, o.mem, o.thread⟩ o.tile (64 * i + j) = BitVec.ofNat 32 (s.tensorCell m o i j).val := by
    have written : (s.tensorPut m o).member? o.frag o.mem =
        some { m with tiles := Map.put m.tiles o.tile ⟨true, s.tensorElems m o⟩ } := by
      rw [State.tensorPut, member?_updMember, if_pos ⟨rfl, rfl⟩]
      exact congrArg (Option.map _) member
    rw [tileElem_of_member written, Map.getD_put_self]
    rw [State.tensorElems]
    dsimp only
    refine (getD_table _ _ 0 (fun n zero => ?_) (by omega)).trans ?_
    · simp only [bne_eq_false_iff_eq] at zero
      rw [zero]
      rfl
    · rw [show (64 * i + j) / 64 = i by omega, show (64 * i + j) % 64 = j by omega]
  rw [s.runTensor_dense m ty aty scaled sparse]
  split
  · exact (tileElem_updThread ..).trans put
  · exact put

/-- The machine with the oldest operation of a cluster taken from its queue. -/
def State.tensorTaken (s : State) (l : Nat) (rest : List TensorOp) : State := s.updCluster l fun k => { k with tensor := rest }

/-- The oldest operation of a cluster leaves the queue and runs on its member (R364, R366). -/
theorem tmmaExecution_next {s : State} {l : Nat} {o : TensorOp} {rest : List TensorOp} {f : Frag} {m : Member}
    (queue : (s.cluster l).tensor = o :: rest) (active : s.active = true) (live : s.tripped = false) (found : s.frag? o.frag = some f)
    (running : f.phase = .running) (member : f.members[o.mem]? = some m) (here : m.cluster = l) :
    exec (.tmmaExecution l) s = .next ((s.tensorTaken l rest).runTensor m o) := by
  have same : (s.updCluster l fun k => { k with tensor := rest }).frag? o.frag = some f := found
  rw [exec_tmmaExecution, execTmmaExecution, queue]
  simp [onlyIf, active, live, same, running, member, here, State.tensorTaken]

/-- Settles O14: acceptance appends the operation, and its execution writes each element. -/
theorem tensorMultiply : Obligations.TensorMultiply := by
  unfold Obligations.TensorMultiply
  refine ⟨fun s t c b d h uses claimed inside bytes desc good kind ranges zero => ?_,
    fun s l o rest f m d queue active live found running member here desc ty aty scaled sparse => ?_⟩
  · subst bytes
    obtain ⟨s', next, only, frame⟩ := tmma_next h uses claimed inside desc good kind ranges zero
    have clusters : s'.clusters = (s.updCluster c.mem.cluster fun k => { k with tensor := k.tensor ++ [c.tensorOp s] }).clusters :=
      (congrArg State.clusters frame :)
    refine ⟨s', c.tensorOp s, next, ?_, congrArg Tid.frag h.tid, congrArg Tid.mem h.tid, rfl, rfl, rfl, .of_frags frame rfl rfl rfl, only.self⟩
    rw [State.cluster_congr clusters, State.cluster_updCluster_self]
  · subst desc here
    have frame := (s.tensorTaken m.cluster rest).runTensor_frame m ty aty scaled sparse
    have clusters : ((s.tensorTaken m.cluster rest).runTensor m o).clusters = (s.tensorTaken m.cluster rest).clusters :=
      (congrArg State.clusters frame :)
    have held : (s.tensorTaken m.cluster rest).member? o.frag o.mem = some m := by
      have same : (s.tensorTaken m.cluster rest).frag? o.frag = some f := found
      rw [State.member?, same]
      exact member
    refine ⟨_, tmmaExecution_next queue active live found running member rfl, ?_, .of_frags (s := s) frame rfl rfl rfl, fun i j row column => ?_⟩
    · rw [State.cluster_congr clusters, State.tensorTaken, State.cluster_updCluster_self]
    · have old : toSigned 32 (oldElem m o (64 * i + j)) = if (tdesc o.desc).acc = true then
          (Map.getD (Map.getD m.tiles o.tile ⟨true, []⟩).elems (64 * i + j) (0 : F32)).toInt else 0 := by
        unfold oldElem
        split
        · exact toSigned_toNat _
        · rfl
      rw [State.tileElem_runTensor held ty aty scaled sparse row column, State.tensorCell, clampI32, ofNat_ofSigned, old]
      rfl

end Sys2Proof.Machine

/-! O17: `lscan` over entries of the cistern with u8 tables (R368, R369). -/
namespace Sys2Proof.Machine

/-- SLOT and sum of the record that a scan writes for entry `i`. -/
def scanRecord (d : ScanDesc) (table : List Byte) (entry : Nat → List Byte) (i : Nat) : Nat × Nat :=
  ((d.slot0 + i) % 2 ^ 32, sumU8 d.sub table (entry i))

section
variable {d : ScanDesc} {entry : Nat → List Byte} {drop : Nat → Bool} {table : List Byte} {terms : List Nat}

/-- One entry of the loop: it is dropped, or it ends a full buffer, or its record is added. -/
theorem scanLoop_succ (dst : d.dst = false) (src : d.src = false) (fp16 : d.fp16 = false) (whole : ∀ i, (entry i).length = d.ebytes)
    (all : ∀ i, drop i = false) (ended : Bool) (free fuel : Nat) (st : ScanSt) :
    scanLoop d entry drop table terms ended free (fuel + 1) st =
      if scanKeeps d table terms (entry st.i) then
        if st.count = d.outMax then ({ st with elems := [], part := entry st.i }, .finished)
        else scanLoop d entry drop table terms ended free fuel
          { st with i := st.i + 1, elems := [], part := [], count := st.count + 1, recs := st.recs ++ [scanRecord d table entry st.i] }
      else scanLoop d entry drop table terms ended free fuel { st with i := st.i + 1, elems := [], part := [] } := by
  rw [scanLoop]
  simp only [dst, src, fp16, whole, all, Bool.false_eq_true, if_false, Nat.lt_irrefl, Bool.not_false, Bool.true_and, Bool.not_eq_true',
    okey, ktU32, if_true]
  rw [scanKeeps]
  cases passes terms d.any (entryAttr (entry st.i) d.sub d.attrb) && decide (sumU8 d.sub table (entry st.i) ≤ d.thresh)
  · rfl
  · rfl

/-- While OUT holds them, the loop adds one record for each entry that it keeps. -/
theorem scanLoop_records (dst : d.dst = false) (src : d.src = false) (fp16 : d.fp16 = false) (whole : ∀ i, (entry i).length = d.ebytes)
    (all : ∀ i, drop i = false) (ended : Bool) (free fuel : Nat) (st : ScanSt)
    (room : st.count + ((List.range' st.i fuel).filter fun i => scanKeeps d table terms (entry i)).length ≤ d.outMax) :
    ∃ els part, scanLoop d entry drop table terms ended free fuel st =
      ({ st with
          i := st.i + fuel
          count := st.count + ((List.range' st.i fuel).filter fun i => scanKeeps d table terms (entry i)).length
          part := part
          elems := els
          recs := st.recs ++ ((List.range' st.i fuel).filter fun i => scanKeeps d table terms (entry i)).map (scanRecord d table entry) },
        .finished) := by
  induction fuel generalizing st with
  | zero => exact ⟨st.elems, st.part, by simp [scanLoop]⟩
  | succ fuel ih =>
    rw [scanLoop_succ dst src fp16 whole all]
    rw [List.range'_succ, List.filter_cons] at room ⊢
    cases keep : scanKeeps d table terms (entry st.i) with
    | true =>
      rw [keep, if_pos rfl, List.length_cons] at room
      obtain ⟨els, part, rest⟩ := ih { st with i := st.i + 1, elems := [], part := [], count := st.count + 1,
                                               recs := st.recs ++ [scanRecord d table entry st.i] } (by dsimp only; omega)
      refine ⟨els, part, ?_⟩
      rw [if_pos rfl, if_neg (by omega), rest]
      simp [Nat.add_assoc, Nat.add_comm 1]
    | false =>
      rw [keep, if_neg (by decide)] at room
      obtain ⟨els, part, rest⟩ := ih { st with i := st.i + 1, elems := [], part := [] } room
      refine ⟨els, part, ?_⟩
      rw [if_neg (by decide), rest]
      simp [Nat.add_assoc, Nat.add_comm 1]

end

/-! ## The instruction -/

/-- The lookup table, the filter terms and the entries of a scan (R368). -/
@[reducible] def Ictx.scanTable (c : Ictx) (s : State) (d : ScanDesc) : List Byte := c.cisRd s d.tbl d.tableBytes
@[reducible] def Ictx.scanTerms (c : Ictx) (s : State) (d : ScanDesc) : List Nat :=
  (List.range d.fterms).map fun i => leNat (c.cisRd s (d.tbl + d.tableBytes + 8 * i) 8)
@[reducible] def Ictx.scanEntry (c : Ictx) (s : State) (d : ScanDesc) (i : Nat) : List Byte := c.cisRd s (d.inp + i * d.ebytes) d.ebytes

/-- The entries that a scan keeps. -/
def Ictx.scanKept (c : Ictx) (s : State) (d : ScanDesc) : List Nat :=
  (List.range d.n).filter fun i => scanKeeps d (c.scanTable s d) (c.scanTerms s d) (c.scanEntry s d i)

/-- The machine with the records of a scan and its counts written. -/
def Ictx.scanned (c : Ictx) (s : State) (d : ScanDesc) : State :=
  c.cisWr (c.cisWr s d.out (((c.scanKept s d).map (scanRecord d (c.scanTable s d) (c.scanEntry s d))).flatMap fun p => toLe 4 p.1 ++ toLe 4 p.2))
    (c.ga.toNat + 0x24) (toLe 4 (c.scanKept s d).length ++ toLe 4 d.n)

/-- Bytes past the end have no bit set. -/
theorem bit_leAt_nil (o n i : Nat) : bit (leAt [] o n) i = false := by simp [bit, leAt, leNat, field]

/-- The loop over the entries of the cistern, from the first one, with no drop bitmap. -/
theorem Ictx.scanLoop_cistern (c : Ictx) (s : State) {d : ScanDesc} (dst : d.dst = false) (src : d.src = false) (fp16 : d.fp16 = false)
    (room : (c.scanKept s d).length ≤ d.outMax) (ended : Bool) (elems : List Elem) :
    ∃ els part, scanLoop d (c.scanEntry s d) (fun i => bit (leAt [] (i / 8) 1) (i % 8)) (c.scanTable s d) (c.scanTerms s d) ended s.free d.n
        { i := 0, count := 0, part := [], elems := elems, ctx := none, recs := [], inner := false } =
      ({ i := d.n, count := (c.scanKept s d).length, part := part, elems := els, ctx := none
         recs := (c.scanKept s d).map (scanRecord d (c.scanTable s d) (c.scanEntry s d)), inner := false }, .finished) := by
  have loop := scanLoop_records (entry := c.scanEntry s d) (table := c.scanTable s d) (terms := c.scanTerms s d) dst src fp16 (fun i => Mem.rdN_length _ _ _)
    (fun i => bit_leAt_nil (i / 8) 1 (i % 8)) ended s.free d.n
    { i := 0, count := 0, part := [], elems := elems, ctx := none, recs := [], inner := false }
  simp only [← List.range_eq_range', Nat.zero_add, List.nil_append] at loop
  exact loop room

theorem lscan_next {s : State} {t : Tid} {c : Ictx} {d : ScanDesc} (h : At s t 0x68 c) (ty : wTy c.w = 1)
    (uses : onlyUses c.w (usesTy ||| usesA) = true) (inside : c.ga.toNat + 64 ≤ c.frag.cis * 65536)
    (desc : d = scanDesc (c.cisRd s c.ga.toNat 64)) (good : scanBad (c.cisRd s c.ga.toNat 64) = none) (dst : d.dst = false)
    (src : d.src = false) (fp16 : d.fp16 = false) (aux : d.aux = 0xFFFFFFFF) (first : c.th.scanAt = none)
    (entries : d.ebytes = entryBytes d.sub d.attrb) (codes : d.sub % 8 = 0) (aligned : d.tbl % 64 = 0)
    (ranges : d.ranges.all (fun r => c.inArea r.1 r.2) = true) (legal : (c.scanTerms s d).all (termOk d.attrb) = true)
    (room : (c.scanKept s d).length ≤ d.outMax) :
    ∃ s', exec (.lscan t) s = .next s' ∧ OnlyThreadOf s s' t { c.th with scanAt := none }.retired ∧
      { s' with frags := s.frags } = c.scanned s d := by
  have area : c.inArea c.ga.toNat 64 = true := decide_eq_true inside
  have units : c.scanUnits s d = none := by simp [Ictx.scanUnits, dst, src]
  have within : d.ranges.find? (fun r => !c.inArea r.1 r.2) = none :=
    List.find?_eq_none.2 fun r mem => by simpa using List.all_eq_true.1 ranges r mem
  have fits : ¬(d.ebytes ≠ entryBytes d.sub d.attrb ∨ d.sub % 8 ≠ 0 ∨ d.tbl % 64 ≠ 0 ∨ (!(c.scanTerms s d).all (termOk d.attrb)) = true) := by
    rw [legal]
    simp [entries, codes, aligned]
  rw [exec_lscan]
  refine runInsn_updates h ?_ (fun th => { th with scanAt := none }) (s1 := c.scanned s d) rfl ?_
  · simp [ty, uses]
  · dsimp only
    rw [area, if_neg (by decide), good, ← desc, Option.map_none]
    dsimp only
    rw [units]
    dsimp only
    rw [within]
    dsimp only
    rw [first, if_neg fits, aux, if_pos rfl]
    generalize c.port d.inp = port
    obtain ⟨els, part, loop⟩ := c.scanLoop_cistern s dst src fp16 room (port.any Port.atEnd) ((port.map (·.elems)).getD [])
    simp only [Option.getD_none, Nat.sub_zero, dst, src, fp16, Bool.false_eq_true, if_false, loop]
    cases port with
    | none => rfl
    | some p => rfl

/-- Settles O17: the loop, and what the instruction writes after it. -/
theorem lookupScan : Obligations.LookupScan := by
  unfold Obligations.LookupScan
  intro s t c b d kept h ty uses inside bytes desc good dst src fp16 aux first entries codes aligned ranges terms keeps room
  subst bytes keeps
  have legal : (c.scanTerms s d).all (termOk d.attrb) = true := by
    simpa [Ictx.scanTerms] using terms
  obtain ⟨s', next, only, rest⟩ := lscan_next h ty uses inside desc good dst src fp16 aux first entries codes aligned ranges legal room
  have same : { c.th with scanAt := none } = c.th := by rw [← first]
  rw [same] at only
  refine ⟨s', next, only, (congrArg State.dev rest :), (congrArg State.out rest :), (congrArg State.regs rest :), ?_⟩
  have cis : s'.cis = (c.scanned s d).cis := (congrArg State.cis rest :)
  rw [cis, Ictx.scanned, List.flatMap_map]
  rfl

end Sys2Proof.Machine
